-- ==== Sys2Proof/Word.lean ====
section
/-! DEFINITION. The word types of the Damrak MD-4860 and their plainest arithmetic. -/

namespace Sys2Proof

/-- A byte of memory (R65: all multi-byte data is little-endian). -/
abbrev Byte := BitVec 8
/-- A 32-bit lane, syllable or engine format register. -/
abbrev W32 := BitVec 32
/-- A 64-bit scalar register or address (R9). -/
abbrev W64 := BitVec 64
/-- A 1,024-bit vector register (R9). -/
abbrev V1024 := BitVec 1024
/-- A 512-bit record: a stream descriptor (R241), a header (R26), a packet (R286). -/
abbrev W512 := BitVec 512

end Sys2Proof
end

