-- ==== Sys2Proof/Syntax.lean ====
section
/-! DEFINITION. The rows of spec/opcode_table.json as one inductive: 212 syllables, whose fields are those of the encoding
(12_encoding.md), and 91 steps of the device's other agents, whose arguments say which core, command, queue or packet moves. -/

namespace Sys2Proof

/-- The cache or TLB a line or entry stands in (R273): of a core, a slice of a die, or a die's TLB. -/
inductive CacheUnit where
  | l1 (core : Nat)
  | slice (die index : Nat)
  | icache (core : Nat)
  | tlb (core : Nat)
  | dieTlb (die : Nat)
  deriving DecidableEq, Repr

/-- Where a storage error lies (R269 to R273): the storage a row of R273 names. -/
inductive ErrSite where
  /-- a cache line, slice line, instruction-cache line or TLB entry, by the address it holds; `dirty` says that its data lives nowhere else (R270) -/
  | cacheLine (unit : CacheUnit) (addr : Nat) (dirty : Bool)
  /-- a byte of HBM at a physical address -/
  | hbm (addr : Nat)
  /-- a 16 KiB local-store granule of a core: physical granule number 0 to 127 -/
  | localStore (core granule : Nat)
  /-- half of a core's matrix array -/
  | matrixHalf (core : Nat)
  /-- a special-function table bank of a core -/
  | sfBank (core : Nat)
  /-- a register or queue entry of a context (R270, R271): 0 to 31 scalar, 100 to 131 vector, 200 to 207 mask, 300 to 311 steer, 400 to 415
  stream; 500 + k, 520 + k, 540 + k cell k, 0 to 15, of `lqs`, `lq`, `sq`; 560 the deferral queue; 600 to 607 `lb`, 620 to 623 `xf` of the
  core, 630 to 633 `pj`, 640 `sg`; 700 + n special register n; 800 the `nest` levels -/
  | register (core ctx reg : Nat)
  /-- an accumulator of a core -/
  | accumulator (core acc : Nat)
  /-- what a core's engine queue or engine holds of command `cmd` -/
  | command (core cmd : Nat)
  /-- a tag of the team at base `team` of a core -/
  | tag (core team tag : Nat)
  /-- an entry of a core's channel table (R357) -/
  | channel (core chan : Nat)
  /-- a payload buffer, 0 or 1, of a mesh grant at its receiving core (R352), by launch and grant -/
  | meshBuffer (launch grant cell : Nat)
  /-- a barrier of the team at base `team` of a core (R32) -/
  | barrier (core team bar : Nat)
  /-- any other unit of a core -/
  | coreUnit (core : Nat)
  deriving DecidableEq, Repr

/-- One row of the opcode table. A syllable's `B` bit is no field: it frames bundles (R156, R157). Immediate fields that may
receive lent bits stand at their lent width, as the value reads (R162): sign- or zero-extended where no header lends. -/
inductive Instr where
  /-- `ADD` (R183): Writes d with a + b, wrapping modulo 2^64. -/
  | add (d : BitVec 5) (a : BitVec 5) (c : BitVec 5)
  /-- `SUB` (R183): Writes d with a − b, wrapping. -/
  | sub (d : BitVec 5) (a : BitVec 5) (c : BitVec 5)
  /-- `MUL` (R183): Writes d with the low 64 bits of a × b. -/
  | mul (d : BitVec 5) (a : BitVec 5) (c : BitVec 5)
  /-- `MULH` (R183): Writes d with the high 64 bits of the signed 128-bit product. -/
  | mulh (d : BitVec 5) (a : BitVec 5) (c : BitVec 5)
  /-- `MULHZ` (R183): Writes d with the high 64 bits of the unsigned 128-bit product. -/
  | mulhz (d : BitVec 5) (a : BitVec 5) (c : BitVec 5)
  /-- `DIV` (R184): Signed division rounding toward zero, with defined results for zero and overflow. -/
  | div (d : BitVec 5) (a : BitVec 5) (c : BitVec 5)
  /-- `DIVZ` (R184): Unsigned division, all ones for a zero divisor. -/
  | divz (d : BitVec 5) (a : BitVec 5) (c : BitVec 5)
  /-- `REM` (R184): Signed remainder taking the sign of the dividend. -/
  | rem (d : BitVec 5) (a : BitVec 5) (c : BitVec 5)
  /-- `REMZ` (R184): Unsigned remainder, the dividend for a zero divisor. -/
  | remz (d : BitVec 5) (a : BitVec 5) (c : BitVec 5)
  /-- `AND` (R183): Bitwise AND of a and b. -/
  | and (d : BitVec 5) (a : BitVec 5) (c : BitVec 5)
  /-- `OR` (R183): Bitwise OR of a and b. -/
  | or (d : BitVec 5) (a : BitVec 5) (c : BitVec 5)
  /-- `XOR` (R183): Bitwise XOR of a and b. -/
  | xor (d : BitVec 5) (a : BitVec 5) (c : BitVec 5)
  /-- `ANDN` (R183): Writes a AND NOT b. -/
  | andn (d : BitVec 5) (a : BitVec 5) (c : BitVec 5)
  /-- `SHL` (R183): Shifts a left by b[5:0]. -/
  | shl (d : BitVec 5) (a : BitVec 5) (c : BitVec 5)
  /-- `SHR` (R183): Shifts a right logically by b[5:0]. -/
  | shr (d : BitVec 5) (a : BitVec 5) (c : BitVec 5)
  /-- `SRA` (R183): Shifts a right arithmetically by b[5:0]. -/
  | sra (d : BitVec 5) (a : BitVec 5) (c : BitVec 5)
  /-- `MIN` (R183): Signed minimum of a and b. -/
  | min (d : BitVec 5) (a : BitVec 5) (c : BitVec 5)
  /-- `MAX` (R183): Signed maximum of a and b. -/
  | max (d : BitVec 5) (a : BitVec 5) (c : BitVec 5)
  /-- `MINZ` (R183): Unsigned minimum of a and b. -/
  | minz (d : BitVec 5) (a : BitVec 5) (c : BitVec 5)
  /-- `MAXZ` (R183): Unsigned maximum of a and b. -/
  | maxz (d : BitVec 5) (a : BitVec 5) (c : BitVec 5)
  /-- `CLZ` (R183): Counts leading zero bits of a. -/
  | clz (d : BitVec 5) (a : BitVec 5)
  /-- `CTZ` (R183): Counts trailing zero bits of a. -/
  | ctz (d : BitVec 5) (a : BitVec 5)
  /-- `POPC` (R183): Counts the one bits of a. -/
  | popc (d : BitVec 5) (a : BitVec 5)
  /-- `SEL` (R186): Writes a or b according to a steer register's condition half. -/
  | sel (d : BitVec 5) (a : BitVec 5) (c : BitVec 5) (k : BitVec 5)
  /-- `LEA` (R186): Writes a + (b << k). -/
  | lea (d : BitVec 5) (a : BitVec 5) (c : BitVec 5) (h : BitVec 5)
  /-- `BFX` (R185): Extracts a bit field of a and sign-extends it. -/
  | bfx (d : BitVec 5) (a : BitVec 5) (c : BitVec 5)
  /-- `BFXZ` (R185): Extracts a bit field of a and zero-extends it. -/
  | bfxz (d : BitVec 5) (a : BitVec 5) (c : BitVec 5)
  /-- `BINS` (R185): Inserts the low bits of a into a field of d. -/
  | bins (d : BitVec 5) (a : BitVec 5) (c : BitVec 5)
  /-- `ADDS` (R183): Signed addition saturated to 64 bits. -/
  | adds (d : BitVec 5) (a : BitVec 5) (c : BitVec 5)
  /-- `SUBS` (R183): Signed subtraction saturated to 64 bits. -/
  | subs (d : BitVec 5) (a : BitVec 5) (c : BitVec 5)
  /-- `CMPEQ` (R189): Writes a steer condition half with a = b. -/
  | cmpeq (k : BitVec 5) (a : BitVec 5) (c : BitVec 5)
  /-- `CMPNE` (R189): Writes a steer condition half with a ≠ b. -/
  | cmpne (k : BitVec 5) (a : BitVec 5) (c : BitVec 5)
  /-- `CMPLT` (R189): Writes a steer condition half with signed a < b. -/
  | cmplt (k : BitVec 5) (a : BitVec 5) (c : BitVec 5)
  /-- `CMPLE` (R189): Writes a steer condition half with signed a ≤ b. -/
  | cmple (k : BitVec 5) (a : BitVec 5) (c : BitVec 5)
  /-- `CMPLTZ` (R189): Writes a steer condition half with unsigned a < b. -/
  | cmpltz (k : BitVec 5) (a : BitVec 5) (c : BitVec 5)
  /-- `CMPLEZ` (R189): Writes a steer condition half with unsigned a ≤ b. -/
  | cmplez (k : BitVec 5) (a : BitVec 5) (c : BitVec 5)
  /-- `CMPBIT` (R189): Writes a steer condition half with bit b[5:0] of a. -/
  | cmpbit (k : BitVec 5) (a : BitVec 5) (c : BitVec 5)
  /-- `CMPEQI` (R189): Immediate form of the equality compare. -/
  | cmpeqi (k : BitVec 5) (a : BitVec 5) (i : BitVec 19)
  /-- `CMPNEI` (R189): Immediate form of the inequality compare. -/
  | cmpnei (k : BitVec 5) (a : BitVec 5) (i : BitVec 19)
  /-- `CMPLTI` (R189): Immediate form of the signed less-than compare. -/
  | cmplti (k : BitVec 5) (a : BitVec 5) (i : BitVec 19)
  /-- `CMPLEI` (R189): Immediate form of the signed less-or-equal compare. -/
  | cmplei (k : BitVec 5) (a : BitVec 5) (i : BitVec 19)
  /-- `CMPLTZI` (R189): Immediate form of the unsigned less-than compare. -/
  | cmpltzi (k : BitVec 5) (a : BitVec 5) (i : BitVec 19)
  /-- `CMPLEZI` (R189): Immediate form of the unsigned less-or-equal compare. -/
  | cmplezi (k : BitVec 5) (a : BitVec 5) (i : BitVec 19)
  /-- `ADDI` (R187): Adds a sign-extended immediate to a. -/
  | addi (d : BitVec 5) (a : BitVec 5) (i : BitVec 19)
  /-- `ANDI` (R187): Bitwise AND with an immediate. -/
  | andi (d : BitVec 5) (a : BitVec 5) (i : BitVec 19)
  /-- `ORI` (R187): Bitwise OR with an immediate. -/
  | ori (d : BitVec 5) (a : BitVec 5) (i : BitVec 19)
  /-- `XORI` (R187): Bitwise XOR with an immediate. -/
  | xori (d : BitVec 5) (a : BitVec 5) (i : BitVec 19)
  /-- `SHLI` (R187): Shifts left by an immediate amount 0–63. -/
  | shli (d : BitVec 5) (a : BitVec 5) (i : BitVec 19)
  /-- `SHRI` (R187): Shifts right logically by an immediate amount. -/
  | shri (d : BitVec 5) (a : BitVec 5) (i : BitVec 19)
  /-- `SRAI` (R187): Shifts right arithmetically by an immediate amount. -/
  | srai (d : BitVec 5) (a : BitVec 5) (i : BitVec 19)
  /-- `MULI` (R187): Multiplies a by an immediate, low 64 bits. -/
  | muli (d : BitVec 5) (a : BitVec 5) (i : BitVec 19)
  /-- `MINI` (R187): Signed minimum of a and an immediate. -/
  | mini (d : BitVec 5) (a : BitVec 5) (i : BitVec 19)
  /-- `MAXI` (R187): Signed maximum of a and an immediate. -/
  | maxi (d : BitVec 5) (a : BitVec 5) (i : BitVec 19)
  /-- `MOVI` (R188): Writes a sign-extended 15- or 24-bit immediate. -/
  | movi (d : BitVec 5) (i : BitVec 24)
  /-- `MOVUP` (R188): Places an immediate above bit 23 of d, keeping d[23:0]. -/
  | movup (d : BitVec 5) (i : BitVec 24)
  /-- `MFS` (R200): Reads a special register into a scalar register. -/
  | mfs (d : BitVec 5) (i : BitVec 24)
  /-- `MTS` (R200): Writes a writable special register from a scalar register. -/
  | mts (s : BitVec 5) (i : BitVec 24)
  /-- `NOP` (R196): Does nothing. -/
  | nop
  /-- `PREP` (R190): Writes the target half of a steer register from a relative offset. -/
  | prep (k : BitVec 4) (i : BitVec 27)
  /-- `BR` (R191): Branches to the steer target when its condition is 1. -/
  | br (k : BitVec 4)
  /-- `BRN` (R191): Branches to the steer target when its condition is 0. -/
  | brn (k : BitVec 4)
  /-- `JMP` (R191): Jumps by a relative offset. -/
  | jmp (i : BitVec 27)
  /-- `CALL` (R191): Writes the return address to s30 and jumps. -/
  | call (i : BitVec 27)
  /-- `RET` (R191): Jumps to the address in s30. -/
  | ret
  /-- `PREPX` (R190): Writes the target half of a steer register from a scalar register. -/
  | prepx (k : BitVec 4) (s : BitVec 5)
  /-- `NEST` (R192): Activates a temporal loop level over a body with a trip count and drain depth. -/
  | nest (l : BitVec 3) (r : BitVec 1) (s : BitVec 5) (e : BitVec 22)
  /-- `LROT` (R194): Rotates the bases and stage predicates and closes a pass in an end bundle. -/
  | lrot
  /-- `LBRK` (R195): Makes the innermost active loop level inactive and leaves it. -/
  | lbrk
  /-- `EXIT` (R30): Drains the context's outstanding work and stops it for good. -/
  | exit
  /-- `YIELD` (R196): Ends the context's turn of issue. -/
  | yield
  /-- `WFE` (R34): Consumes the event latch or parks until it is set. -/
  | wfe
  /-- `SEV` (R34): Sends an event to the contexts of the selected cores of the die. -/
  | sev (s : BitVec 5)
  /-- `TRAP` (R197): Performs its bundle and enters the trap handler with cause TRAP. -/
  | trap (i : BitVec 27)
  /-- `RTE` (R198): Leaves the trap handler, returning to tpc with an engine-fault choice. -/
  | rte (s : BitVec 5)
  /-- `BRK` (R197): Performs its bundle and enters the trap handler with cause BRK. -/
  | brk (i : BitVec 27)
  /-- `BAR` (R32): Arrives at a barrier and waits for the phase to complete. -/
  | bar (b : BitVec 4)
  /-- `BARV` (R32): Arrives at a barrier without waiting. -/
  | barv (b : BitVec 4)
  /-- `BUDGET` (R199): Writes the budget hint special register. -/
  | budget (i : BitVec 27)
  /-- `VADD` (R207): Lane-wise addition under the predicate mask. -/
  | vadd (t : BitVec 3) (w : BitVec 2) (d : BitVec 5) (a : BitVec 5) (c : BitVec 5) (m : BitVec 3)
  /-- `VSUB` (R207): Lane-wise subtraction. -/
  | vsub (t : BitVec 3) (w : BitVec 2) (d : BitVec 5) (a : BitVec 5) (c : BitVec 5) (m : BitVec 3)
  /-- `VMUL` (R207): Lane-wise multiplication. -/
  | vmul (t : BitVec 3) (w : BitVec 2) (d : BitVec 5) (a : BitVec 5) (c : BitVec 5) (m : BitVec 3)
  /-- `VFMA` (R207): Lane-wise fused multiply-add into d with one rounding. -/
  | vfma (t : BitVec 3) (w : BitVec 2) (d : BitVec 5) (a : BitVec 5) (c : BitVec 5) (m : BitVec 3)
  /-- `VMIN` (R207): Lane-wise minimum. -/
  | vmin (t : BitVec 3) (w : BitVec 2) (d : BitVec 5) (a : BitVec 5) (c : BitVec 5) (m : BitVec 3)
  /-- `VMAX` (R207): Lane-wise maximum. -/
  | vmax (t : BitVec 3) (w : BitVec 2) (d : BitVec 5) (a : BitVec 5) (c : BitVec 5) (m : BitVec 3)
  /-- `VADDS` (R207): Lane-wise saturating integer addition. -/
  | vadds (t : BitVec 3) (w : BitVec 2) (d : BitVec 5) (a : BitVec 5) (c : BitVec 5) (m : BitVec 3)
  /-- `VSUBS` (R207): Lane-wise saturating integer subtraction. -/
  | vsubs (t : BitVec 3) (w : BitVec 2) (d : BitVec 5) (a : BitVec 5) (c : BitVec 5) (m : BitVec 3)
  /-- `VCMPEQ` (R208): Lane-wise equality compare into a mask. -/
  | vcmpeq (t : BitVec 3) (w : BitVec 2) (d : BitVec 3) (a : BitVec 5) (c : BitVec 5) (m : BitVec 3)
  /-- `VCMPLT` (R208): Lane-wise less-than compare into a mask. -/
  | vcmplt (t : BitVec 3) (w : BitVec 2) (d : BitVec 3) (a : BitVec 5) (c : BitVec 5) (m : BitVec 3)
  /-- `VCMPLE` (R208): Lane-wise less-or-equal compare into a mask. -/
  | vcmple (t : BitVec 3) (w : BitVec 2) (d : BitVec 3) (a : BitVec 5) (c : BitVec 5) (m : BitVec 3)
  /-- `VCVT` (R209): Converts lanes between a source and a destination type. -/
  | vcvt (t : BitVec 3) (w : BitVec 2) (d : BitVec 5) (a : BitVec 5) (c : BitVec 5) (m : BitVec 3)
  /-- `VSEL` (R210): Selects each 16-bit position from a or b by a mask. -/
  | vsel (w : BitVec 2) (d : BitVec 5) (a : BitVec 5) (c : BitVec 5) (k : BitVec 3)
  /-- `VAND` (R211): Bitwise AND of vectors. -/
  | vand (w : BitVec 2) (d : BitVec 5) (a : BitVec 5) (c : BitVec 5) (m : BitVec 3)
  /-- `VOR` (R211): Bitwise OR of vectors. -/
  | vor (w : BitVec 2) (d : BitVec 5) (a : BitVec 5) (c : BitVec 5) (m : BitVec 3)
  /-- `VXOR` (R211): Bitwise XOR of vectors. -/
  | vxor (w : BitVec 2) (d : BitVec 5) (a : BitVec 5) (c : BitVec 5) (m : BitVec 3)
  /-- `VANDN` (R211): Bitwise a AND NOT b of vectors. -/
  | vandn (w : BitVec 2) (d : BitVec 5) (a : BitVec 5) (c : BitVec 5) (m : BitVec 3)
  /-- `VSHL` (R211): Shifts 32-bit lanes left. -/
  | vshl (w : BitVec 2) (d : BitVec 5) (a : BitVec 5) (c : BitVec 5) (m : BitVec 3)
  /-- `VSHR` (R211): Shifts 32-bit lanes right logically. -/
  | vshr (w : BitVec 2) (d : BitVec 5) (a : BitVec 5) (c : BitVec 5) (m : BitVec 3)
  /-- `VSRA` (R211): Shifts 32-bit lanes right arithmetically. -/
  | vsra (w : BitVec 2) (d : BitVec 5) (a : BitVec 5) (c : BitVec 5) (m : BitVec 3)
  /-- `VROT` (R211): Rotates 32-bit lanes left. -/
  | vrot (w : BitVec 2) (d : BitVec 5) (a : BitVec 5) (c : BitVec 5) (m : BitVec 3)
  /-- `VRED` (R212): Reduces lanes by a fixed tree into lane 0. -/
  | vred (t : BitVec 3) (w : BitVec 2) (d : BitVec 5) (a : BitVec 5) (c : BitVec 5) (m : BitVec 3)
  /-- `VMOV` (R214): Copies 16-bit positions under the mask. -/
  | vmov (w : BitVec 2) (d : BitVec 5) (a : BitVec 5) (m : BitVec 3)
  /-- `VBCAST` (R214): Broadcasts a scalar bit pattern to every lane. -/
  | vbcast (w : BitVec 2) (d : BitVec 5) (a : BitVec 5) (c : BitVec 5) (m : BitVec 3)
  /-- `VPERM` (R214): Permutes 32-bit lanes by an index vector. -/
  | vperm (w : BitVec 2) (d : BitVec 5) (a : BitVec 5) (c : BitVec 5) (m : BitVec 3)
  /-- `VIDX` (R214): Writes each 32-bit lane with its index. -/
  | vidx (w : BitVec 2) (d : BitVec 5) (m : BitVec 3)
  /-- `VSCAN` (R213): Computes an inclusive add scan over lanes. -/
  | vscan (w : BitVec 2) (d : BitVec 5) (a : BitVec 5) (c : BitVec 5) (m : BitVec 3)
  /-- `VEXT` (R214): Extracts a 32-bit lane into a scalar register. -/
  | vext (w : BitVec 2) (d : BitVec 5) (a : BitVec 5) (c : BitVec 5) (m : BitVec 3)
  /-- `VINS` (R214): Inserts a scalar into a 32-bit lane. -/
  | vins (w : BitVec 2) (d : BitVec 5) (a : BitVec 5) (c : BitVec 5) (m : BitVec 3)
  /-- `VTEST` (R214): Writes a steer condition with the OR of two masks ANDed. -/
  | vtest (w : BitVec 2) (d : BitVec 5) (a : BitVec 3) (m : BitVec 3)
  /-- `EXP2` (R215): Special function 2^x per lane. -/
  | exp2 (w : BitVec 2) (t : BitVec 2) (d : BitVec 5) (a : BitVec 5) (m : BitVec 3)
  /-- `EXP` (R215): Special function e^x per lane. -/
  | exp (w : BitVec 2) (t : BitVec 2) (d : BitVec 5) (a : BitVec 5) (m : BitVec 3)
  /-- `LOG2` (R215): Special function log2 x per lane. -/
  | log2 (w : BitVec 2) (t : BitVec 2) (d : BitVec 5) (a : BitVec 5) (m : BitVec 3)
  /-- `LN` (R215): Special function natural logarithm per lane. -/
  | ln (w : BitVec 2) (t : BitVec 2) (d : BitVec 5) (a : BitVec 5) (m : BitVec 3)
  /-- `RCP` (R215): Special function reciprocal per lane. -/
  | rcp (w : BitVec 2) (t : BitVec 2) (d : BitVec 5) (a : BitVec 5) (m : BitVec 3)
  /-- `RSQRT` (R215): Special function reciprocal square root per lane. -/
  | rsqrt (w : BitVec 2) (t : BitVec 2) (d : BitVec 5) (a : BitVec 5) (m : BitVec 3)
  /-- `SQRT` (R215): Special function square root per lane. -/
  | sqrt (w : BitVec 2) (t : BitVec 2) (d : BitVec 5) (a : BitVec 5) (m : BitVec 3)
  /-- `SIN` (R215): Special function sine per lane. -/
  | sin (w : BitVec 2) (t : BitVec 2) (d : BitVec 5) (a : BitVec 5) (m : BitVec 3)
  /-- `COS` (R215): Special function cosine per lane. -/
  | cos (w : BitVec 2) (t : BitVec 2) (d : BitVec 5) (a : BitVec 5) (m : BitVec 3)
  /-- `TANH` (R215): Special function hyperbolic tangent per lane. -/
  | tanh (w : BitVec 2) (t : BitVec 2) (d : BitVec 5) (a : BitVec 5) (m : BitVec 3)
  /-- `SIGM` (R215): Special function logistic sigmoid per lane. -/
  | sigm (w : BitVec 2) (t : BitVec 2) (d : BitVec 5) (a : BitVec 5) (m : BitVec 3)
  /-- `GELU` (R215): Special function GELU per lane. -/
  | gelu (w : BitVec 2) (t : BitVec 2) (d : BitVec 5) (a : BitVec 5) (m : BitVec 3)
  /-- `SILU` (R215): Special function SiLU per lane. -/
  | silu (w : BitVec 2) (t : BitVec 2) (d : BitVec 5) (a : BitVec 5) (m : BitVec 3)
  /-- `ERF` (R215): Special function error function per lane. -/
  | erf (w : BitVec 2) (t : BitVec 2) (d : BitVec 5) (a : BitVec 5) (m : BitVec 3)
  /-- `UNPK` (R218): Widens one piece of narrow floats into lanes. -/
  | unpk (d : BitVec 5) (a : BitVec 5) (p : BitVec 3) (x : BitVec 2) (i : BitVec 6)
  /-- `UNPKS` (R218): Decodes one piece of q4 blocks with their scales into lanes. -/
  | unpks (d : BitVec 5) (a : BitVec 5) (p : BitVec 3) (x : BitVec 2) (i : BitVec 2)
  /-- `UNPKI` (R218): Widens one piece of narrow integers into lanes. -/
  | unpki (d : BitVec 5) (a : BitVec 5) (p : BitVec 3) (x : BitVec 2) (i : BitVec 4)
  /-- `PACK` (R219): Rounds lanes into one piece of a narrow float format. -/
  | pack (d : BitVec 5) (a : BitVec 5) (p : BitVec 3) (x : BitVec 2) (i : BitVec 6)
  /-- `PACKS` (R219): Encodes lanes into q4 blocks with scale bytes. -/
  | packs (d : BitVec 5) (a : BitVec 5) (p : BitVec 3) (x : BitVec 2) (i : BitVec 2) (j : BitVec 2)
  /-- `PKMAX` (R219): Writes only the q4 scale bytes for blocks of lanes. -/
  | pkmax (d : BitVec 5) (a : BitVec 5) (p : BitVec 3) (x : BitVec 2) (i : BitVec 2) (j : BitVec 2)
  /-- `PACKI` (R219): Rounds and saturates lanes into one piece of narrow integers. -/
  | packi (d : BitVec 5) (a : BitVec 5) (p : BitVec 3) (x : BitVec 2) (i : BitVec 4)
  /-- `LD8S` (R224): Loads a sign-extended byte into lqs. -/
  | ld8s (b : BitVec 5) (i : BitVec 19)
  /-- `LD8Z` (R224): Loads a zero-extended byte into lqs. -/
  | ld8z (b : BitVec 5) (i : BitVec 19)
  /-- `LD16S` (R224): Loads a sign-extended halfword into lqs. -/
  | ld16s (b : BitVec 5) (i : BitVec 19)
  /-- `LD16Z` (R224): Loads a zero-extended halfword into lqs. -/
  | ld16z (b : BitVec 5) (i : BitVec 19)
  /-- `LD32S` (R224): Loads a sign-extended word into lqs. -/
  | ld32s (b : BitVec 5) (i : BitVec 19)
  /-- `LD32Z` (R224): Loads a zero-extended word into lqs. -/
  | ld32z (b : BitVec 5) (i : BitVec 19)
  /-- `LD64` (R224): Loads a doubleword into lqs. -/
  | ld64 (b : BitVec 5) (i : BitVec 19)
  /-- `ST8` (R224): Stores a byte, written through to the shared level. -/
  | st8 (s : BitVec 5) (b : BitVec 5) (i : BitVec 19)
  /-- `ST16` (R224): Stores a halfword. -/
  | st16 (s : BitVec 5) (b : BitVec 5) (i : BitVec 19)
  /-- `ST32` (R224): Stores a word. -/
  | st32 (s : BitVec 5) (b : BitVec 5) (i : BitVec 19)
  /-- `ST64` (R224): Stores a doubleword. -/
  | st64 (s : BitVec 5) (b : BitVec 5) (i : BitVec 19)
  /-- `VLD` (R225): Loads contiguous 32-byte chunks into an lq entry. -/
  | vld (w : BitVec 2) (b : BitVec 5) (x : BitVec 5) (m : BitVec 3)
  /-- `VST` (R225): Stores the oldest reserved sq entry to contiguous chunks. -/
  | vst (w : BitVec 2) (b : BitVec 5) (x : BitVec 5) (m : BitVec 3)
  /-- `VLDS` (R225): Loads strided 32-byte chunks into an lq entry. -/
  | vlds (w : BitVec 2) (b : BitVec 5) (x : BitVec 5) (m : BitVec 3)
  /-- `VSTS` (R225): Stores an sq entry to strided chunks. -/
  | vsts (w : BitVec 2) (b : BitVec 5) (x : BitVec 5) (m : BitVec 3)
  /-- `VGATH` (R226): Gathers bounded 32-bit words into an lq entry. -/
  | vgath (w : BitVec 2) (b : BitVec 5) (x : BitVec 5) (m : BitVec 3)
  /-- `VSCAT` (R226): Scatters an sq entry's lanes to bounded addresses. -/
  | vscat (w : BitVec 2) (b : BitVec 5) (x : BitVec 5) (m : BitVec 3)
  /-- `LLD` (R227): Loads stream elements from the local store into a vector register. -/
  | lld (w : BitVec 2) (d : BitVec 5) (b : BitVec 4) (x : BitVec 5) (m : BitVec 3)
  /-- `LST` (R227): Stores vector elements to the local store through a stream. -/
  | lst (w : BitVec 2) (d : BitVec 5) (b : BitVec 4) (x : BitVec 5) (m : BitVec 3)
  /-- `LDBLK` (R228): Binds a tag and starts filling a load-block of L1 lines. -/
  | ldblk (t : BitVec 6) (b : BitVec 5) (n : BitVec 7)
  /-- `EVBLK` (R228): Returns a live load-block's lines to ordinary replacement. -/
  | evblk (t : BitVec 6)
  /-- `GJOIN` (R230): Enrols the context in an Equinox group. -/
  | gjoin (g : BitVec 4)
  /-- `GLEAVE` (R230): Removes the context from an Equinox group. -/
  | gleave (g : BitVec 4)
  /-- `GLD` (R231): Asks for a group load of the next sequence number under a tag. -/
  | gld (g : BitVec 4) (d : BitVec 4) (s : BitVec 4) (t : BitVec 6)
  /-- `PFETCH` (R229): Hints an L1 fill of a line; never faults. -/
  | pfetch (p : BitVec 5) (b : BitVec 5) (i : BitVec 19)
  /-- `AADD` (R232): Atomic add at the home slice, returning the old value. -/
  | aadd (e : BitVec 1) (b : BitVec 5) (v : BitVec 5) (p : BitVec 5)
  /-- `AMIN` (R232): Atomic signed minimum. -/
  | amin (e : BitVec 1) (b : BitVec 5) (v : BitVec 5) (p : BitVec 5)
  /-- `AMAX` (R232): Atomic signed maximum. -/
  | amax (e : BitVec 1) (b : BitVec 5) (v : BitVec 5) (p : BitVec 5)
  /-- `AAND` (R232): Atomic AND. -/
  | aand (e : BitVec 1) (b : BitVec 5) (v : BitVec 5) (p : BitVec 5)
  /-- `AOR` (R232): Atomic OR. -/
  | aor (e : BitVec 1) (b : BitVec 5) (v : BitVec 5) (p : BitVec 5)
  /-- `AXOR` (R232): Atomic XOR. -/
  | axor (e : BitVec 1) (b : BitVec 5) (v : BitVec 5) (p : BitVec 5)
  /-- `AXCHG` (R232): Atomic exchange. -/
  | axchg (e : BitVec 1) (b : BitVec 5) (v : BitVec 5) (p : BitVec 5)
  /-- `ACAS` (R232): Atomic 64-bit compare-and-swap. -/
  | acas (e : BitVec 5) (b : BitVec 5) (v : BitVec 5) (p : BitVec 5)
  /-- `RADD` (R233): Integer reduction add at the home slice, no result. -/
  | radd (e : BitVec 1) (b : BitVec 5) (v : BitVec 5) (p : BitVec 5)
  /-- `RADDF` (R233): f32 reduction add at the home slice. -/
  | raddf (b : BitVec 5) (v : BitVec 5) (p : BitVec 5)
  /-- `RMAX` (R233): Signed reduction maximum. -/
  | rmax (e : BitVec 1) (b : BitVec 5) (v : BitVec 5) (p : BitVec 5)
  /-- `RMIN` (R233): Signed reduction minimum. -/
  | rmin (e : BitVec 1) (b : BitVec 5) (v : BitVec 5) (p : BitVec 5)
  /-- `VRADD` (R233): Adds 32 f32 lanes of a vector into memory words. -/
  | vradd (b : BitVec 5) (v : BitVec 5) (p : BitVec 5)
  /-- `QINIT` (R234): Creates, resets or destroys a slice queue. -/
  | qinit (b : BitVec 5) (v : BitVec 5)
  /-- `QENQ` (R234): Appends an entry to a slice queue. -/
  | qenq (b : BitVec 5) (v : BitVec 5)
  /-- `QDEQ` (R234): Removes an entry from a slice queue without waiting. -/
  | qdeq (b : BitVec 5)
  /-- `QDEQW` (R235): Removes an entry from a slice queue, parking while it is empty. -/
  | qdeqw (b : BitVec 5)
  /-- `QLEN` (R234): Returns the entry count of a slice queue. -/
  | qlen (b : BitVec 5)
  /-- `DFR` (R236): Appends enabled lanes to the deferral queue. -/
  | dfr (w : BitVec 2) (v : BitVec 5) (m : BitVec 3)
  /-- `DFPOP` (R236): Removes elements from the deferral queue into lanes. -/
  | dfpop (w : BitVec 2) (v : BitVec 5) (m : BitVec 3)
  /-- `DFCNT` (R236): Pushes the deferral queue's element count to lqs. -/
  | dfcnt
  /-- `FENCE` (R237): Performs a fence event of the policy's ordering and scope. -/
  | fence (p : BitVec 5)
  /-- `WAITV` (R238): Waits until a memory word meets a condition. -/
  | waitv (c : BitVec 3) (b : BitVec 5) (v : BitVec 5) (p : BitVec 5)
  /-- `WAITF_IMM` (R239): Waits on a tag's frontier reaching an immediate count. -/
  | waitfImm (t : BitVec 6) (n : BitVec 22)
  /-- `WAITF_REG` (R239): Waits on a tag's frontier reaching a register count. -/
  | waitfReg (t : BitVec 6) (s : BitVec 5)
  /-- `TANY` (R239): Waits until any tag of a mask is settled. -/
  | tany (s : BitVec 5)
  /-- `TALL` (R239): Waits until every tag of a mask is settled. -/
  | tall (s : BitVec 5)
  /-- `TFFR` (R239): Returns the lowest settled tag of a mask without waiting. -/
  | tffr (s : BitVec 5)
  /-- `TCLR` (R114): Releases a settled tag binding. -/
  | tclr (t : BitVec 6)
  /-- `FGET` (R113): Pushes a tag's status word to lqs. -/
  | fget (t : BitVec 6)
  /-- `FPUB` (R116): Publishes a software producer's frontier. -/
  | fpub (t : BitVec 6) (s : BitVec 5)
  /-- `FBIND` (R116): Binds a tag as a software producer over a stream. -/
  | fbind (t : BitVec 6) (a : BitVec 4)
  /-- `MSEND` (R367): Sends a 1,024-bit payload on a static-mesh grant. -/
  | msend (v : BitVec 5) (p : BitVec 6)
  /-- `MRECV` (R367): Takes the oldest payload of a static-mesh grant into a register. -/
  | mrecv (v : BitVec 5) (p : BitVec 6)
  /-- `CPY` (R249): Queues a tile copy that binds a destination tag. -/
  | cpy (d : BitVec 4) (s : BitVec 4) (t : BitVec 6) (f : BitVec 7)
  /-- `CPYT` (R249): Queues a transposing tile copy. -/
  | cpyt (d : BitVec 4) (s : BitVec 4) (t : BitVec 6) (f : BitVec 7)
  /-- `CPYG` (R249): Queues a gather of listed tiles into consecutive tiles. -/
  | cpyg (d : BitVec 4) (s : BitVec 4) (t : BitVec 6) (f : BitVec 7)
  /-- `CPYS` (R249): Queues a scatter of consecutive tiles to listed tiles. -/
  | cpys (d : BitVec 4) (s : BitVec 4) (t : BitVec 6) (f : BitVec 7)
  /-- `CFILL` (R254): Queues a fill of a destination stream with a scalar value. -/
  | cfill (d : BitVec 4) (v : BitVec 4) (t : BitVec 6) (f : BitVec 7)
  /-- `MZERO` (R336): Queues zeroing of an accumulator. -/
  | mzero (c : BitVec 2)
  /-- `MMA` (R329): Queues a dense matrix product into an accumulator. -/
  | mma (c : BitVec 2) (a : BitVec 4) (b : BitVec 4) (z : BitVec 1)
  /-- `MMASP` (R329): Queues a 2:4 sparse matrix product into an accumulator. -/
  | mmasp (c : BitVec 2) (a : BitVec 4) (b : BitVec 4) (m : BitVec 4) (z : BitVec 1)
  /-- `DRAIN` (R337): Queues a drain of an accumulator through the projection engine. -/
  | drain (c : BitVec 2) (d : BitVec 4) (t : BitVec 6) (p : BitVec 2) (s : BitVec 3) (f : BitVec 4)
  /-- `PADJ` (R342): Queues the adjoint of a projection over a gradient. -/
  | padj (d : BitVec 4) (g : BitVec 4) (r : BitVec 4) (t : BitVec 6) (p : BitVec 2)
  /-- `HIST` (R344): Queues an exponent histogram of a stream into a record. -/
  | hist (s : BitVec 4) (r : BitVec 5) (b : BitVec 5)
  /-- `CHSEND` (R369): Queues one channel transfer of a stream. -/
  | chsend (c : BitVec 8) (s : BitVec 4)
  /-- `CHRECV` (R369): Queues a receive of one channel transfer under a tag. -/
  | chrecv (c : BitVec 8) (s : BitVec 4) (t : BitVec 6)
  /-- `CHRED` (R359): Queues a receive that combines a transfer into global memory. -/
  | chred (c : BitVec 8) (s : BitVec 4) (t : BitVec 6) (o : BitVec 3)
  /-- `COLL` (R370): Posts a whole collective over a ring of channels. -/
  | coll (r : BitVec 5) (s : BitVec 4) (d : BitVec 4) (t : BitVec 6)
  /-- `MCST` (R371): Queues a multicast of a stream to a destination set. -/
  | mcst (s : BitVec 4) (r : BitVec 5)
  /-- `RDLD` (R371): Queues a switch-side reducing load from several chips. -/
  | rdld (d : BitVec 4) (r : BitVec 5) (t : BitVec 6)
  /-- `JCARD` (R346): Reads an attention job card and starts it on the sequencer. -/
  | jcard (c : BitVec 2) (r : BitVec 5)
  /-- `SETXF` (R248): Writes an engine format register. -/
  | setxf (x : BitVec 2) (s : BitVec 5)
  /-- `SLD` (R247): Loads a 64-byte stream descriptor from memory. -/
  | sld (a : BitVec 4) (r : BitVec 5)
  /-- `SSET` (R245): Writes one field of a stream descriptor or context base. -/
  | sset (a : BitVec 4) (c : BitVec 5) (v : BitVec 5)
  /-- `SGET` (R246): Pushes one field of a stream descriptor to lqs. -/
  | sget (a : BitVec 4) (c : BitVec 5)
  /-- `CHSET` (R368): Loads the core's channel table from memory. -/
  | chset (r : BitVec 5)
  /-- `CHGET` (R368): Pushes a channel entry's four dwords to lqs. -/
  | chget (c : BitVec 8)
  /-- `BLOCKED_BUNDLE_ISSUE` (R11), an event: A blocked bundle is re-examined and issues whole once its condition clears. -/
  | blockedBundleIssue (c : Nat)
  /-- `ISSUE_TURN_LIMIT` (R11), an event: A context that has issued 4,096 consecutive cycles while another could issue yields its turn. -/
  | issueTurnLimit (c : Nat)
  /-- `RESULT_LANDING` (R13), an event: An exposed result lands in its context's register bank by its latency bound. -/
  | resultLanding (c : Nat) (x : Nat)
  /-- `LOAD_DATA_RETURN` (R15), an event: A load's data fills its reserved lq or lqs entry. -/
  | loadDataReturn (c : Nat) (x : Nat) (k : Nat) (lvl : Nat)
  /-- `SQ_ENTRY_FILL` (R16), an event: A result bound for v31 fills its reserved sq entry and a waiting store proceeds. -/
  | sqEntryFill (c : Nat) (x : Nat)
  /-- `STORE_PERFORM` (R77), an event: A written-through store is performed at its slice. -/
  | storePerform (c : Nat) (x : Nat) (k : Nat)
  /-- `SLD_DATA_RETURN` (R247), an event: A pending descriptor load completes into its stream register. -/
  | sldDataReturn (c : Nat) (x : Nat) (a : Nat)
  /-- `ENGINE_COMMAND_START` (R17), an event: An engine starts the next command of its queue when a slot is free. -/
  | engineCommandStart (c : Nat) (e : Nat)
  /-- `POWER_PERMIT_GRANT` (R308), an event: The die's power governor grants a waiting command its permit. -/
  | powerPermitGrant (d : Nat)
  /-- `COPY_PIECE_WRITE` (R110), an event: The copy engine completes a piece of a producer's destination. -/
  | copyPieceWrite (c : Nat) (k : Nat)
  /-- `MMA_COMPLETE` (R329), an event: A matrix product finishes and writes its accumulator, clearing the busy bit. -/
  | mmaComplete (c : Nat) (k : Nat)
  /-- `MZERO_COMPLETE` (R336), an event: An accumulator zeroing completes. -/
  | mzeroComplete (c : Nat) (k : Nat)
  /-- `DRAIN_ROW` (R310), an event: The projection engine projects one accumulator row and writes it. -/
  | drainRow (c : Nat) (k : Nat)
  /-- `REDUCE_CONTRIBUTION` (R339), an event: A reduce-drain contribution is performed or buffered at its home slice. -/
  | reduceContribution (c : Nat) (k : Nat)
  /-- `PADJ_ROW` (R323), an event: The projection engine computes one adjoint row. -/
  | padjRow (c : Nat) (k : Nat)
  /-- `HIST_UPDATE` (R344), an event: A histogram counter is incremented at its home slice. -/
  | histUpdate (c : Nat) (k : Nat)
  /-- `ENGINE_COMMAND_COMPLETION` (R17), an event: An engine command completes, removing its chase edges and freeing its busy bit. -/
  | engineCommandCompletion (c : Nat) (k : Nat)
  /-- `BLOCK_FILL_COMPLETE` (R73), an event: A load-block's lines are all present and its tag becomes READY. -/
  | blockFillComplete (c : Nat) (k : Nat)
  /-- `SLICE_ATOMIC` (R78), an event: A slice performs an atomic on a location and returns the old value. -/
  | sliceAtomic (c : Nat) (x : Nat) (k : Nat)
  /-- `SLICE_REDUCTION` (R78), an event: A slice performs a reduction on a location. -/
  | sliceReduction (c : Nat) (x : Nat) (k : Nat)
  /-- `SLICE_QUEUE_OP` (R234), an event: The home slice performs a queue operation and answers to lqs. -/
  | sliceQueueOp (c : Nat) (x : Nat) (k : Nat)
  /-- `GROUP_REQUEST_ARRIVE` (R95), an event: A gld request reaches its home slice's hold entry. -/
  | groupRequestArrive (c : Nat) (k : Nat)
  /-- `GROUP_HOLD_TIMEOUT` (R95), an event: A pending hold entry's timer expires and it is released timed out. -/
  | groupHoldTimeout (l : Nat) (g : Nat) (n : Nat)
  /-- `GROUP_FILL_LAND` (R96), an event: A group fill lands in a member's window and publishes its tag. -/
  | groupFillLand (c : Nat) (k : Nat)
  /-- `SEV_ARRIVAL` (R34), an event: A sev reaches a selected context and sets its event latch. -/
  | sevArrival (c : Nat) (x : Nat)
  /-- `EXIT_DRAIN_COMPLETE` (R30), an event: An exiting context's commands and stores have drained and it stops for good. -/
  | exitDrainComplete (c : Nat) (x : Nat)
  /-- `TEAM_EXIT` (R31), an event: A team's resources are released after its last context exits and its commands drain. -/
  | teamExit (c : Nat) (b : Nat)
  /-- `ENGINE_HALT` (R126), an event: A producer meets a fault, halts, and its tag becomes HALTED. -/
  | engineHalt (c : Nat) (k : Nat)
  /-- `CHASE_ABORT` (R129), an event: An engine chaser needs an element beyond an aborted tag's frontier and ends. -/
  | chaseAbort (c : Nat) (k : Nat)
  /-- `ASYNC_TRAP_DELIVERY` (R127), an event: A due asynchronous trap is taken at the context's next bundle boundary. -/
  | asyncTrapDelivery (c : Nat) (x : Nat)
  /-- `FIRMWARE_FAULT_SERVICE` (R267), an event: Firmware-first service handles a V = 0 walk and resumes or passes it to the handler. -/
  | firmwareFaultService (c : Nat) (x : Nat) (mapped : Bool)
  /-- `CORRECTED_ERROR` (R269), an event: A SECDED or ECC error is corrected and logged. -/
  | correctedError (where_ : ErrSite)
  /-- `UNCORRECTABLE_ERROR` (R270), an event: An uncorrectable error is retried once, then retired and delivered as MCHK if lasting. -/
  | uncorrectableError (where_ : ErrSite) (lasting : Bool)
  /-- `CARD_WATCHDOG_EXPIRY` (R276), an event: A job card exceeds its limit, is ended and re-queued, and WATCHDOG is raised. -/
  | cardWatchdogExpiry (c : Nat) (k : Nat) (opened : Bool)
  /-- `CARD_REPLAY_START` (R382), an event: A re-queued card starts on another core of the same launch. -/
  | cardReplayStart (c : Nat) (k : Nat)
  /-- `CARD_COMPLETE` (R379), an event: A job card's final tile-atomic store is performed and the command completes. -/
  | cardComplete (c : Nat) (k : Nat)
  /-- `UNIT_TIME_LIMIT_EXPIRY` (R277), an event: A unit's time limit expires; its commands abort and each context takes WATCHDOG. -/
  | unitTimeLimitExpiry (c : Nat) (b : Nat)
  /-- `NOTIFY` (R284), an event: A host write of a queue's notify register announces packets or faults the queue. -/
  | notify (q : Nat) (v : W64)
  /-- `TRIGGER` (R296), an event: A host write of the trigger register starts a patched run of the queue's graph. -/
  | trigger (q : Nat) (v : W64)
  /-- `STATUS_CLEAR` (R283), an event: A host write of a queue's status clears its fault reason. -/
  | statusClear (q : Nat)
  /-- `HOST_REGISTER_WRITE` (R281), an event: A host write of a queue register without behaviour of its own, such as ring base or ring control. -/
  | hostRegisterWrite (q : Nat) (off : Nat) (v : W64)
  /-- `MAPPER_BIND` (R285), an event: The mapper binds an eligible queue to a free active slot. -/
  | mapperBind (q : Nat)
  /-- `SLOT_RELINQUISH` (R285), an event: A bound queue gives up its slot after 2^24 management cycles. -/
  | slotRelinquish (q : Nat)
  /-- `LAUNCH` (R288), an event: A LAUNCH packet is taken, checked and its units made ready for dispatch. -/
  | launch (q : Nat)
  /-- `GRAPH` (R294), an event: A GRAPH packet installs a task-graph image. -/
  | graph (q : Nat)
  /-- `WAITV_PACKET` (R293), an event: A WAITV packet waits for a memory word to meet its condition. -/
  | waitvPacket (q : Nat)
  /-- `WAITV_PACKET_POLL` (R293), an event: A WAITV packet rereads its word at least once per microsecond. -/
  | waitvPacketPoll (q : Nat)
  /-- `SIGNAL` (R293), an event: A SIGNAL packet writes its value as a system-scope release after earlier packets complete. -/
  | signal (q : Nat)
  /-- `BARRIER` (R293), an event: A BARRIER packet completes once the named queues reach their positions. -/
  | barrier (q : Nat)
  /-- `CHECKPOINT` (R278), an event: A FIRMWARE checkpoint packet quiesces the module and streams memory to the safe tier. -/
  | checkpoint (q : Nat)
  /-- `CHECKPOINT_DRAIN_LIMIT` (R278), an event: The checkpoint's drain limit expires with a launch running and it ends FAILED. -/
  | checkpointDrainLimit
  /-- `CHECKPOINT_COMPLETE` (R279), an event: The checkpoint stream finishes and its completion is written. -/
  | checkpointComplete
  /-- `SAFE_TIER_LOSS` (R279), an event: The safe tier stops answering and the checkpoint ends FAILED. -/
  | safeTierLoss
  /-- `RESTORE` (R280), an event: A FIRMWARE restore packet reloads verified chunks, queues and graphs. -/
  | restore (q : Nat)
  /-- `SCALE` (R293), an event: A FIRMWARE scale packet computes σ from a histogram record and writes it. -/
  | scale (q : Nat)
  /-- `GRAPH_NODE_START` (R295), an event: A graph run starts a node once its predecessors have completed. -/
  | graphNodeStart (q : Nat) (n : Nat)
  /-- `LAUNCH_COMPLETE` (R291), an event: A launch's units and commands have finished and its completion record is written. -/
  | launchComplete (l : Nat)
  /-- `DISPATCH_UNIT` (R297), an event: A die's dispatcher places a waiting or pre-empted unit on a core. -/
  | dispatchUnit (l : Nat) (u : Nat) (c : Nat) (b : Nat)
  /-- `PRELOAD` (R298), an event: A core preloads the next unit's code and local-store image. -/
  | preload (l : Nat) (u : Nat) (c : Nat)
  /-- `PREEMPT_REQUEST` (R300), an event: A resident team is asked to stop for priority, budget or resumption. -/
  | preemptRequest (c : Nat) (b : Nat)
  /-- `BUDGET_OVERRUN` (R300), an event: A unit's budget expires while another launch waits. -/
  | budgetOverrun (c : Nat) (b : Nat)
  /-- `BUDGET_HINT_EXPIRY` (R300), an event: A deferred pre-emption request is made when the budget hint or 65,536 cycles run out. -/
  | budgetHintExpiry (c : Nat) (b : Nat)
  /-- `TEAM_SAVE` (R302), an event: A halted team's state is saved to the save area. -/
  | teamSave (c : Nat) (b : Nat)
  /-- `TEAM_RESTORE` (R302), an event: A saved team is restored onto a core and resumes. -/
  | teamRestore (l : Nat) (u : Nat) (c : Nat) (b : Nat)
  /-- `MODULE_RESET` (R398), an event: Module reset starts the ROM's network boot. -/
  | moduleReset
  /-- `BOOT_LINK_TIMEOUT` (R398), an event: Port 0 has no link within 2 s and boot moves to port 1. -/
  | bootLinkTimeout
  /-- `INVALIDATE` (R403), an event: A host write of the invalidate register queues a TLB invalidation request. -/
  | invalidate (v : W64)
  /-- `TLB_INVALIDATION` (R268), an event: Firmware removes matching TLB entries, waits, and writes the completion word. -/
  | tlbInvalidation
  /-- `POWER_STATUS` (R409), an event: Telemetry command 0x01 returns power, temperatures, clocks and K. -/
  | powerStatus
  /-- `ERROR_LOG_READ` (R409), an event: Telemetry command 0x02 returns error log entries. -/
  | errorLogRead (n : Nat)
  /-- `PORT_STATES` (R409), an event: Telemetry command 0x03 returns TW and Ethernet port states. -/
  | portStates
  /-- `ATTESTATION_REPORT` (R405), an event: Telemetry command 0x04 signs a report over a nonce with the next LMS leaf. -/
  | attestationReport (nonce : (BitVec 256))
  /-- `BOOT_STATUS_QUERY` (R409), an event: Telemetry command 0x05 returns boot status and firmware version. -/
  | bootStatusQuery
  /-- `GOVERNOR_ADJUST` (R408), an event: A die power governor lowers or raises the clock and permit count. -/
  | governorAdjust (d : Nat) (clk : Nat) (n : Nat)
  /-- `THERMAL_STOP` (R408), an event: A junction reaches 115 °C and every launch is stopped FAILED. -/
  | thermalStop (d : Nat)
  /-- `MESH_SLOT_DEPART` (R352), an event: A payload leaves its source at its grant's slot of the revolution. -/
  | meshSlotDepart (l : Nat) (n : Nat)
  /-- `MESH_PAYLOAD_ARRIVE` (R350), an event: A static-mesh payload reaches its destination buffer. -/
  | meshPayloadArrive (l : Nat) (n : Nat)
  /-- `PORT_DOWN` (R355), an event: A TW port whose retries keep failing for 1 ms is taken down. -/
  | portDown (p : Nat)
  /-- `MODULE_POWER_LOSS` (R355), an event: A module loses power and stops at once. -/
  | modulePowerLoss
  /-- `TRANSFER_ARRIVE` (R358), an event: A channel transfer arrives at the peer's buffer slot. -/
  | transferArrive (h : Nat) (data : (List Byte))
  /-- `SLOT_CREDIT_RETURN` (R358), an event: A freed receive slot's credit reaches the sender, letting a waiting send proceed. -/
  | slotCreditReturn (h : Nat)
  /-- `RING_STEP` (R374), an event: A collective ring step's receives complete and its next sends start. -/
  | ringStep (c : Nat) (k : Nat)
  /-- `STACK_QUEUE_STEP` (R361), an event: A stack queue performs a receive, reduce or relay step. -/
  | stackQueueStep (c : Nat) (k : Nat)
  /-- `REDUCING_LOAD_REPLY` (R364), an event: The switch returns the combination of an rdld into its destination. -/
  | reducingLoadReply (c : Nat) (k : Nat) (data : (List Byte))
  /-- `CHANNEL_TIMEOUT` (R365), an event: A channel step's timer expires, the round aborts and CHTIMEOUT is raised. -/
  | channelTimeout (h : Nat)
  /-- `UNKNOWN_PACKET_KIND` (R286), an event: The mapper takes a packet whose kind is none of the six, and the queue becomes FAULTED with reason 2 and its read index stays there. -/
  | unknownPacketKind (q : Nat)
  /-- `RING_READ_FAILED` (R284), an event: The mapper's 64-byte read of a packet fails in host translation, PCIe or with MCHK, and the queue becomes FAULTED with reason 1. -/
  | ringReadFailed (q : Nat)
  /-- `RESTORE_COMPLETE` (R280), an event: The restore finishes writing the verified chunks, reloads queues and graphs, writes its completion and resumes dispatch. -/
  | restoreComplete
  /-- `INVALIDATE_STATUS` (R401), an event: A host read of the invalidate status register, whose dropped bit reports drops since the last read and so resets on reading. -/
  | invalidateStatus
  /-- `ACKNOWLEDGEMENT` (R365), an event: A peer's acknowledgement of a channel transfer arrives, restarting the waiting step's timer and completing the step. -/
  | acknowledgement (h : Nat)
  /-- `FAILED_BEAT` (R355), an event: The TW link layer finds a beat that fails its check and repeats it. -/
  | failedBeat (p : Nat)
  deriving DecidableEq, Repr

/-- What a fetch packet holds at a position: a bundle, as its syllables that are no headers with their packet positions (a
syllable that names no instruction is `inr`, ILLSYL, with what its opcode would name, which counts for R164), or something that is
no bundle (ILLBUNDLE, at the syllable of that packet position), with its syllables as they read. -/
inductive Fetched where
  | malformed (pos : Nat) (l : List (Nat × (Instr ⊕ Option Instr)))
  | bundle (syls : List (Nat × (Instr ⊕ Option Instr)))
  deriving DecidableEq, Repr

/-- An encoded syllable: the nine bits a header of its bundle must lend it, if it needs them (R162), and its word with B = 0. -/
structure Encoded where
  lend : Option Nat
  word : Nat
  deriving DecidableEq, Repr

end Sys2Proof
end

