-- ==== Sys2Proof/WellFormed.lean ====
section
/-! DEFINITION. Which syllables the spec gives a meaning: every field inside the limits of R167, R168, R173 to R180 and R217.
A syllable outside them raises ILLSYL (R181). Events carry no encoding and are always well formed. -/

namespace Sys2Proof

/-- The special registers `mts` may write (R201): seqlen, evt, mpol, tcause, tpc, trec, lfsr, budget. -/
def writableSpr (n : Nat) : Bool :=
  n == 12 || n == 14 || n == 15 || n == 16 || n == 17 || n == 18 || n == 20 || n == 23

/-- The constraints of R167 to R180 and R217 on the fields of a syllable; breaking one raises ILLSYL. -/
def Instr.wf : Instr → Bool
  | .add d _ _ => decide (d ≠ 31)
  | .sub d _ _ => decide (d ≠ 31)
  | .mul d _ _ => decide (d ≠ 31)
  | .mulh d _ _ => decide (d ≠ 31)
  | .mulhz d _ _ => decide (d ≠ 31)
  | .div d _ _ => decide (d ≠ 31)
  | .divz d _ _ => decide (d ≠ 31)
  | .rem d _ _ => decide (d ≠ 31)
  | .remz d _ _ => decide (d ≠ 31)
  | .and d _ _ => decide (d ≠ 31)
  | .or d _ _ => decide (d ≠ 31)
  | .xor d _ _ => decide (d ≠ 31)
  | .andn d _ _ => decide (d ≠ 31)
  | .shl d _ _ => decide (d ≠ 31)
  | .shr d _ _ => decide (d ≠ 31)
  | .sra d _ _ => decide (d ≠ 31)
  | .min d _ _ => decide (d ≠ 31)
  | .max d _ _ => decide (d ≠ 31)
  | .minz d _ _ => decide (d ≠ 31)
  | .maxz d _ _ => decide (d ≠ 31)
  | .clz d _ => decide (d ≠ 31)
  | .ctz d _ => decide (d ≠ 31)
  | .popc d _ => decide (d ≠ 31)
  | .sel d _ _ k => decide (d ≠ 31 ∧ k ≤ 11)
  | .lea d _ _ _ => decide (d ≠ 31)
  | .bfx d _ _ => decide (d ≠ 31)
  | .bfxz d _ _ => decide (d ≠ 31)
  | .bins d _ _ => decide (d ≠ 31)
  | .adds d _ _ => decide (d ≠ 31)
  | .subs d _ _ => decide (d ≠ 31)
  | .cmpeq k _ _ => decide (k ≤ 11)
  | .cmpne k _ _ => decide (k ≤ 11)
  | .cmplt k _ _ => decide (k ≤ 11)
  | .cmple k _ _ => decide (k ≤ 11)
  | .cmpltz k _ _ => decide (k ≤ 11)
  | .cmplez k _ _ => decide (k ≤ 11)
  | .cmpbit k _ _ => decide (k ≤ 11)
  | .cmpeqi k _ _ => decide (k ≤ 11)
  | .cmpnei k _ _ => decide (k ≤ 11)
  | .cmplti k _ _ => decide (k ≤ 11)
  | .cmplei k _ _ => decide (k ≤ 11)
  | .cmpltzi k _ _ => decide (k ≤ 11)
  | .cmplezi k _ _ => decide (k ≤ 11)
  | .addi d _ _ => decide (d ≠ 31)
  | .andi d _ _ => decide (d ≠ 31)
  | .ori d _ _ => decide (d ≠ 31)
  | .xori d _ _ => decide (d ≠ 31)
  | .shli d _ i => decide (d ≠ 31 ∧ i ≤ 63)
  | .shri d _ i => decide (d ≠ 31 ∧ i ≤ 63)
  | .srai d _ i => decide (d ≠ 31 ∧ i ≤ 63)
  | .muli d _ _ => decide (d ≠ 31)
  | .mini d _ _ => decide (d ≠ 31)
  | .maxi d _ _ => decide (d ≠ 31)
  | .movi d _ => decide (d ≠ 31)
  | .movup d _ => decide (d ≠ 31)
  | .mfs d i => decide (d ≠ 31 ∧ i ≤ 24)
  | .mts _ i => decide (writableSpr i.toNat)
  | .nop => true
  | .prep k _ => decide (k ≤ 11)
  | .br k => decide (k ≤ 11)
  | .brn k => decide (k ≤ 11)
  | .jmp _ => true
  | .call _ => true
  | .ret => true
  | .prepx k _ => decide (k ≤ 11)
  | .nest l _ _ _ => decide (l ≤ 5)
  | .lrot => true
  | .lbrk => true
  | .exit => true
  | .yield => true
  | .wfe => true
  | .sev _ => true
  | .trap _ => true
  | .rte _ => true
  | .brk _ => true
  | .bar _ => true
  | .barv _ => true
  | .budget _ => true
  | .vadd t w _ _ _ _ => decide (w ≠ 3 ∧ t ≤ 6)
  | .vsub t w _ _ _ _ => decide (w ≠ 3 ∧ t ≤ 6)
  | .vmul t w _ _ _ _ => decide (w ≠ 3 ∧ t ≤ 6)
  | .vfma t w _ _ _ _ => decide (w ≠ 3 ∧ t ≤ 6)
  | .vmin t w _ _ _ _ => decide (w ≠ 3 ∧ t ≤ 6)
  | .vmax t w _ _ _ _ => decide (w ≠ 3 ∧ t ≤ 6)
  | .vadds t w _ _ _ _ => decide (w ≠ 3 ∧ 3 ≤ t ∧ t ≤ 6)
  | .vsubs t w _ _ _ _ => decide (w ≠ 3 ∧ 3 ≤ t ∧ t ≤ 6)
  | .vcmpeq t w _ _ _ _ => decide (w ≠ 3 ∧ t ≤ 6)
  | .vcmplt t w _ _ _ _ => decide (w ≠ 3 ∧ t ≤ 6)
  | .vcmple t w _ _ _ _ => decide (w ≠ 3 ∧ t ≤ 6)
  | .vcvt t w _ _ c _ => decide (w ≠ 3 ∧ t ≤ 6 ∧ c ≤ 6 ∧ c.toNat ≠ t.toNat ∧ (t ≤ 2 ∨ c ≤ 2))
  | .vsel w _ _ _ _ => decide (w ≠ 3)
  | .vand w _ _ _ _ => decide (w ≠ 3)
  | .vor w _ _ _ _ => decide (w ≠ 3)
  | .vxor w _ _ _ _ => decide (w ≠ 3)
  | .vandn w _ _ _ _ => decide (w ≠ 3)
  | .vshl w _ _ _ _ => decide (w ≠ 3)
  | .vshr w _ _ _ _ => decide (w ≠ 3)
  | .vsra w _ _ _ _ => decide (w ≠ 3)
  | .vrot w _ _ _ _ => decide (w ≠ 3)
  | .vred t w _ _ c _ => decide (w ≠ 3 ∧ t ≤ 6 ∧ c ≤ 2)
  | .vmov w _ _ _ => decide (w ≠ 3)
  | .vbcast w _ _ c _ => decide (w ≠ 3 ∧ c ≤ 6)
  | .vperm w _ _ _ _ => decide (w ≠ 3)
  | .vidx w _ _ => decide (w ≠ 3)
  | .vscan w _ _ c _ => decide (w ≠ 3 ∧ c ≤ 6)
  | .vext w d _ c _ => decide (w ≠ 3 ∧ d ≠ 31 ∧ 32 * c.toNat < 256 * 2 ^ w.toNat)
  | .vins w _ _ c _ => decide (w ≠ 3 ∧ 32 * c.toNat < 256 * 2 ^ w.toNat)
  | .vtest w d _ _ => decide (w ≠ 3 ∧ d ≤ 11)
  | .exp2 w t _ _ _ => decide (w ≠ 3 ∧ t ≠ 3)
  | .exp w t _ _ _ => decide (w ≠ 3 ∧ t ≠ 3)
  | .log2 w t _ _ _ => decide (w ≠ 3 ∧ t ≠ 3)
  | .ln w t _ _ _ => decide (w ≠ 3 ∧ t ≠ 3)
  | .rcp w t _ _ _ => decide (w ≠ 3 ∧ t ≠ 3)
  | .rsqrt w t _ _ _ => decide (w ≠ 3 ∧ t ≠ 3)
  | .sqrt w t _ _ _ => decide (w ≠ 3 ∧ t ≠ 3)
  | .sin w t _ _ _ => decide (w ≠ 3 ∧ t ≠ 3)
  | .cos w t _ _ _ => decide (w ≠ 3 ∧ t ≠ 3)
  | .tanh w t _ _ _ => decide (w ≠ 3 ∧ t ≠ 3)
  | .sigm w t _ _ _ => decide (w ≠ 3 ∧ t ≠ 3)
  | .gelu w t _ _ _ => decide (w ≠ 3 ∧ t ≠ 3)
  | .silu w t _ _ _ => decide (w ≠ 3 ∧ t ≠ 3)
  | .erf w t _ _ _ => decide (w ≠ 3 ∧ t ≠ 3)
  | .unpk _ _ _ _ i => decide (i.toNat / 16 ≤ 2 ∧ 3 ≤ i.toNat % 16 ∧ i.toNat % 16 ≤ 6)
  | .unpks _ a _ _ i => decide (i ≤ 2 ∧ a ≤ 29)
  | .unpki _ _ _ _ i => decide (3 ≤ i ∧ i ≤ 6)
  | .pack _ _ _ _ i => decide (i.toNat / 16 ≤ 2 ∧ 3 ≤ i.toNat % 16 ∧ i.toNat % 16 ≤ 6)
  | .packs d _ _ _ i _ => decide (i ≤ 2 ∧ d ≤ 29)
  | .pkmax _ _ _ _ i _ => decide (i ≤ 2)
  | .packi _ _ _ _ i => decide (i ≤ 6)
  | .ld8s _ _ => true
  | .ld8z _ _ => true
  | .ld16s _ _ => true
  | .ld16z _ _ => true
  | .ld32s _ _ => true
  | .ld32z _ _ => true
  | .ld64 _ _ => true
  | .st8 _ _ _ => true
  | .st16 _ _ _ => true
  | .st32 _ _ _ => true
  | .st64 _ _ _ => true
  | .vld w _ x _ => decide (w ≠ 3 ∧ x ≠ 31)
  | .vst w _ x _ => decide (w ≠ 3 ∧ x ≠ 31)
  | .vlds w b x _ => decide (w ≠ 3 ∧ x ≠ 31 ∧ b ≤ 29)
  | .vsts w b x _ => decide (w ≠ 3 ∧ x ≠ 31 ∧ b ≤ 29)
  | .vgath w b _ _ => decide (w ≠ 3 ∧ b ≤ 29)
  | .vscat w b _ _ => decide (w ≠ 3 ∧ b ≤ 29)
  | .lld w _ _ _ _ => decide (w ≠ 3)
  | .lst w _ _ _ _ => decide (w ≠ 3)
  | .ldblk _ _ _ => true
  | .evblk _ => true
  | .gjoin _ => true
  | .gleave _ => true
  | .gld _ _ _ _ => true
  | .pfetch p _ _ => decide (p ≠ 31)
  | .aadd _ _ _ p => decide (p ≠ 31)
  | .amin _ _ _ p => decide (p ≠ 31)
  | .amax _ _ _ p => decide (p ≠ 31)
  | .aand _ _ _ p => decide (p ≠ 31)
  | .aor _ _ _ p => decide (p ≠ 31)
  | .axor _ _ _ p => decide (p ≠ 31)
  | .axchg _ _ _ p => decide (p ≠ 31)
  | .acas _ _ _ p => decide (p ≠ 31)
  | .radd _ _ _ p => decide (p ≠ 31)
  | .raddf _ _ p => decide (p ≠ 31)
  | .rmax _ _ _ p => decide (p ≠ 31)
  | .rmin _ _ _ p => decide (p ≠ 31)
  | .vradd _ _ p => decide (p ≠ 31)
  | .qinit _ _ => true
  | .qenq _ _ => true
  | .qdeq _ => true
  | .qdeqw _ => true
  | .qlen _ => true
  | .dfr w _ _ => decide (w ≠ 3)
  | .dfpop w _ _ => decide (w ≠ 3)
  | .dfcnt => true
  | .fence p => decide (p ≠ 31)
  | .waitv c _ _ p => decide (p ≠ 31 ∧ c ≤ 3)
  | .waitfImm _ _ => true
  | .waitfReg _ _ => true
  | .tany _ => true
  | .tall _ => true
  | .tffr _ => true
  | .tclr _ => true
  | .fget _ => true
  | .fpub _ _ => true
  | .fbind _ _ => true
  | .msend _ _ => true
  | .mrecv _ _ => true
  | .cpy _ _ _ _ => true
  | .cpyt _ _ _ _ => true
  | .cpyg _ _ _ _ => true
  | .cpys _ _ _ _ => true
  | .cfill _ _ _ _ => true
  | .mzero _ => true
  | .mma _ _ _ _ => true
  | .mmasp _ _ _ _ _ => true
  | .drain _ _ _ _ _ _ => true
  | .padj _ _ _ _ _ => true
  | .hist _ _ _ => true
  | .chsend _ _ => true
  | .chrecv _ _ _ => true
  | .chred _ _ _ o => decide (o ≤ 2)
  | .coll _ _ _ _ => true
  | .mcst _ _ => true
  | .rdld _ _ _ => true
  | .jcard _ _ => true
  | .setxf _ _ => true
  | .sld _ _ => true
  | .sset a c _ => decide ((c = 30 → a ≤ 7) ∧ (c = 31 → a = 0))
  | .sget a c => decide ((c = 30 → a ≤ 7) ∧ (c = 31 → a = 0))
  | .chset _ => true
  | .chget _ => true
  | .blockedBundleIssue _ => true
  | .issueTurnLimit _ => true
  | .resultLanding _ _ => true
  | .loadDataReturn _ _ _ _ => true
  | .sqEntryFill _ _ => true
  | .storePerform _ _ _ => true
  | .sldDataReturn _ _ _ => true
  | .engineCommandStart _ _ => true
  | .powerPermitGrant _ => true
  | .copyPieceWrite _ _ => true
  | .mmaComplete _ _ => true
  | .mzeroComplete _ _ => true
  | .drainRow _ _ => true
  | .reduceContribution _ _ => true
  | .padjRow _ _ => true
  | .histUpdate _ _ => true
  | .engineCommandCompletion _ _ => true
  | .blockFillComplete _ _ => true
  | .sliceAtomic _ _ _ => true
  | .sliceReduction _ _ _ => true
  | .sliceQueueOp _ _ _ => true
  | .groupRequestArrive _ _ => true
  | .groupHoldTimeout _ _ _ => true
  | .groupFillLand _ _ => true
  | .sevArrival _ _ => true
  | .exitDrainComplete _ _ => true
  | .teamExit _ _ => true
  | .engineHalt _ _ => true
  | .chaseAbort _ _ => true
  | .asyncTrapDelivery _ _ => true
  | .firmwareFaultService _ _ _ => true
  | .correctedError _ => true
  | .uncorrectableError _ _ => true
  | .cardWatchdogExpiry _ _ _ => true
  | .cardReplayStart _ _ => true
  | .cardComplete _ _ => true
  | .unitTimeLimitExpiry _ _ => true
  | .notify _ _ => true
  | .trigger _ _ => true
  | .statusClear _ => true
  | .hostRegisterWrite _ _ _ => true
  | .mapperBind _ => true
  | .slotRelinquish _ => true
  | .launch _ => true
  | .graph _ => true
  | .waitvPacket _ => true
  | .waitvPacketPoll _ => true
  | .signal _ => true
  | .barrier _ => true
  | .checkpoint _ => true
  | .checkpointDrainLimit => true
  | .checkpointComplete => true
  | .safeTierLoss => true
  | .restore _ => true
  | .scale _ => true
  | .graphNodeStart _ _ => true
  | .launchComplete _ => true
  | .dispatchUnit _ _ _ _ => true
  | .preload _ _ _ => true
  | .preemptRequest _ _ => true
  | .budgetOverrun _ _ => true
  | .budgetHintExpiry _ _ => true
  | .teamSave _ _ => true
  | .teamRestore _ _ _ _ => true
  | .moduleReset => true
  | .bootLinkTimeout => true
  | .invalidate _ => true
  | .tlbInvalidation => true
  | .powerStatus => true
  | .errorLogRead _ => true
  | .portStates => true
  | .attestationReport _ => true
  | .bootStatusQuery => true
  | .governorAdjust _ _ _ => true
  | .thermalStop _ => true
  | .meshSlotDepart _ _ => true
  | .meshPayloadArrive _ _ => true
  | .portDown _ => true
  | .modulePowerLoss => true
  | .transferArrive _ _ => true
  | .slotCreditReturn _ => true
  | .ringStep _ _ => true
  | .stackQueueStep _ _ => true
  | .reducingLoadReply _ _ _ => true
  | .channelTimeout _ => true
  | .unknownPacketKind _ => true
  | .ringReadFailed _ => true
  | .restoreComplete => true
  | .invalidateStatus => true
  | .acknowledgement _ => true
  | .failedBeat _ => true

end Sys2Proof
end

