-- ==== Sys2Proof/Decode.lean ====
section
/-! DEFINITION. The encoding (12_encoding.md): from a syllable's bits to its instruction, from a fetch packet to a bundle
(R156 to R163), and the encoder back. Every function is total; a pattern that names no instruction decodes to `none` (ILLSYL),
a packet or bundle that breaks R157, R158, R161 or R163 to `malformed` (ILLBUNDLE). -/

namespace Sys2Proof

/-- The `n` bits of `w` from bit `lo` up. -/
abbrev bf (n w lo : Nat) : BitVec n := BitVec.ofNat n (w / 2 ^ lo)

/-- A signed receiving field of `own` bits (R162): the nine lent bits `l` stand above it; with no header it is sign-extended. -/
def lentS (own n : Nat) (l : Option Nat) (v : Nat) : BitVec n :=
  match l with
  | some h => BitVec.ofNat n (h * 2 ^ own + v % 2 ^ own)
  | none => (BitVec.ofNat own v).signExtend n

/-- An unsigned receiving field (R162): with no header it is zero-extended. -/
def lentU (own n : Nat) (l : Option Nat) (v : Nat) : BitVec n :=
  match l with
  | some h => BitVec.ofNat n (h * 2 ^ own + v % 2 ^ own)
  | none => BitVec.ofNat n (v % 2 ^ own)

/-! In what follows `z` is false when an instruction is read; true reads what the opcode names whatever the constrained bits
(R181) hold, which R164 still counts. -/

/-- The S class (R172, R173). -/
def decodeS (z : Bool) (l : Option Nat) (w : Nat) : Option Instr :=
  match w / 2 ^ 20 % 128 with
  | 0x0 => if z ∨ w / 2 ^ 0 % 2 ^ 5 = 0 then some (.add (bf 5 w 15) (bf 5 w 10) (bf 5 w 5)) else none
  | 0x1 => if z ∨ w / 2 ^ 0 % 2 ^ 5 = 0 then some (.sub (bf 5 w 15) (bf 5 w 10) (bf 5 w 5)) else none
  | 0x2 => if z ∨ w / 2 ^ 0 % 2 ^ 5 = 0 then some (.mul (bf 5 w 15) (bf 5 w 10) (bf 5 w 5)) else none
  | 0x3 => if z ∨ w / 2 ^ 0 % 2 ^ 5 = 0 then some (.mulh (bf 5 w 15) (bf 5 w 10) (bf 5 w 5)) else none
  | 0x4 => if z ∨ w / 2 ^ 0 % 2 ^ 5 = 0 then some (.mulhz (bf 5 w 15) (bf 5 w 10) (bf 5 w 5)) else none
  | 0x5 => if z ∨ w / 2 ^ 0 % 2 ^ 5 = 0 then some (.div (bf 5 w 15) (bf 5 w 10) (bf 5 w 5)) else none
  | 0x6 => if z ∨ w / 2 ^ 0 % 2 ^ 5 = 0 then some (.divz (bf 5 w 15) (bf 5 w 10) (bf 5 w 5)) else none
  | 0x7 => if z ∨ w / 2 ^ 0 % 2 ^ 5 = 0 then some (.rem (bf 5 w 15) (bf 5 w 10) (bf 5 w 5)) else none
  | 0x8 => if z ∨ w / 2 ^ 0 % 2 ^ 5 = 0 then some (.remz (bf 5 w 15) (bf 5 w 10) (bf 5 w 5)) else none
  | 0x9 => if z ∨ w / 2 ^ 0 % 2 ^ 5 = 0 then some (.and (bf 5 w 15) (bf 5 w 10) (bf 5 w 5)) else none
  | 0xa => if z ∨ w / 2 ^ 0 % 2 ^ 5 = 0 then some (.or (bf 5 w 15) (bf 5 w 10) (bf 5 w 5)) else none
  | 0xb => if z ∨ w / 2 ^ 0 % 2 ^ 5 = 0 then some (.xor (bf 5 w 15) (bf 5 w 10) (bf 5 w 5)) else none
  | 0xc => if z ∨ w / 2 ^ 0 % 2 ^ 5 = 0 then some (.andn (bf 5 w 15) (bf 5 w 10) (bf 5 w 5)) else none
  | 0xd => if z ∨ w / 2 ^ 0 % 2 ^ 5 = 0 then some (.shl (bf 5 w 15) (bf 5 w 10) (bf 5 w 5)) else none
  | 0xe => if z ∨ w / 2 ^ 0 % 2 ^ 5 = 0 then some (.shr (bf 5 w 15) (bf 5 w 10) (bf 5 w 5)) else none
  | 0xf => if z ∨ w / 2 ^ 0 % 2 ^ 5 = 0 then some (.sra (bf 5 w 15) (bf 5 w 10) (bf 5 w 5)) else none
  | 0x10 => if z ∨ w / 2 ^ 0 % 2 ^ 5 = 0 then some (.min (bf 5 w 15) (bf 5 w 10) (bf 5 w 5)) else none
  | 0x11 => if z ∨ w / 2 ^ 0 % 2 ^ 5 = 0 then some (.max (bf 5 w 15) (bf 5 w 10) (bf 5 w 5)) else none
  | 0x12 => if z ∨ w / 2 ^ 0 % 2 ^ 5 = 0 then some (.minz (bf 5 w 15) (bf 5 w 10) (bf 5 w 5)) else none
  | 0x13 => if z ∨ w / 2 ^ 0 % 2 ^ 5 = 0 then some (.maxz (bf 5 w 15) (bf 5 w 10) (bf 5 w 5)) else none
  | 0x14 => if z ∨ w / 2 ^ 0 % 2 ^ 10 = 0 then some (.clz (bf 5 w 15) (bf 5 w 10)) else none
  | 0x15 => if z ∨ w / 2 ^ 0 % 2 ^ 10 = 0 then some (.ctz (bf 5 w 15) (bf 5 w 10)) else none
  | 0x16 => if z ∨ w / 2 ^ 0 % 2 ^ 10 = 0 then some (.popc (bf 5 w 15) (bf 5 w 10)) else none
  | 0x17 => some (.sel (bf 5 w 15) (bf 5 w 10) (bf 5 w 5) (bf 5 w 0))
  | 0x18 => some (.lea (bf 5 w 15) (bf 5 w 10) (bf 5 w 5) (bf 5 w 0))
  | 0x19 => if z ∨ w / 2 ^ 0 % 2 ^ 5 = 0 then some (.bfx (bf 5 w 15) (bf 5 w 10) (bf 5 w 5)) else none
  | 0x1a => if z ∨ w / 2 ^ 0 % 2 ^ 5 = 0 then some (.bfxz (bf 5 w 15) (bf 5 w 10) (bf 5 w 5)) else none
  | 0x1b => if z ∨ w / 2 ^ 0 % 2 ^ 5 = 0 then some (.bins (bf 5 w 15) (bf 5 w 10) (bf 5 w 5)) else none
  | 0x1c => if z ∨ w / 2 ^ 0 % 2 ^ 5 = 0 then some (.adds (bf 5 w 15) (bf 5 w 10) (bf 5 w 5)) else none
  | 0x1d => if z ∨ w / 2 ^ 0 % 2 ^ 5 = 0 then some (.subs (bf 5 w 15) (bf 5 w 10) (bf 5 w 5)) else none
  | 0x20 => if z ∨ w / 2 ^ 0 % 2 ^ 5 = 0 then some (.cmpeq (bf 5 w 15) (bf 5 w 10) (bf 5 w 5)) else none
  | 0x21 => if z ∨ w / 2 ^ 0 % 2 ^ 5 = 0 then some (.cmpne (bf 5 w 15) (bf 5 w 10) (bf 5 w 5)) else none
  | 0x22 => if z ∨ w / 2 ^ 0 % 2 ^ 5 = 0 then some (.cmplt (bf 5 w 15) (bf 5 w 10) (bf 5 w 5)) else none
  | 0x23 => if z ∨ w / 2 ^ 0 % 2 ^ 5 = 0 then some (.cmple (bf 5 w 15) (bf 5 w 10) (bf 5 w 5)) else none
  | 0x24 => if z ∨ w / 2 ^ 0 % 2 ^ 5 = 0 then some (.cmpltz (bf 5 w 15) (bf 5 w 10) (bf 5 w 5)) else none
  | 0x25 => if z ∨ w / 2 ^ 0 % 2 ^ 5 = 0 then some (.cmplez (bf 5 w 15) (bf 5 w 10) (bf 5 w 5)) else none
  | 0x26 => if z ∨ w / 2 ^ 0 % 2 ^ 5 = 0 then some (.cmpbit (bf 5 w 15) (bf 5 w 10) (bf 5 w 5)) else none
  | 0x28 => some (.cmpeqi (bf 5 w 15) (bf 5 w 10) (lentS 10 19 l (w / 2 ^ 0)))
  | 0x29 => some (.cmpnei (bf 5 w 15) (bf 5 w 10) (lentS 10 19 l (w / 2 ^ 0)))
  | 0x2a => some (.cmplti (bf 5 w 15) (bf 5 w 10) (lentS 10 19 l (w / 2 ^ 0)))
  | 0x2b => some (.cmplei (bf 5 w 15) (bf 5 w 10) (lentS 10 19 l (w / 2 ^ 0)))
  | 0x2c => some (.cmpltzi (bf 5 w 15) (bf 5 w 10) (lentS 10 19 l (w / 2 ^ 0)))
  | 0x2d => some (.cmplezi (bf 5 w 15) (bf 5 w 10) (lentS 10 19 l (w / 2 ^ 0)))
  | 0x40 => some (.addi (bf 5 w 15) (bf 5 w 10) (lentS 10 19 l (w / 2 ^ 0)))
  | 0x41 => some (.andi (bf 5 w 15) (bf 5 w 10) (lentS 10 19 l (w / 2 ^ 0)))
  | 0x42 => some (.ori (bf 5 w 15) (bf 5 w 10) (lentS 10 19 l (w / 2 ^ 0)))
  | 0x43 => some (.xori (bf 5 w 15) (bf 5 w 10) (lentS 10 19 l (w / 2 ^ 0)))
  | 0x44 => some (.shli (bf 5 w 15) (bf 5 w 10) (lentS 10 19 l (w / 2 ^ 0)))
  | 0x45 => some (.shri (bf 5 w 15) (bf 5 w 10) (lentS 10 19 l (w / 2 ^ 0)))
  | 0x46 => some (.srai (bf 5 w 15) (bf 5 w 10) (lentS 10 19 l (w / 2 ^ 0)))
  | 0x47 => some (.muli (bf 5 w 15) (bf 5 w 10) (lentS 10 19 l (w / 2 ^ 0)))
  | 0x48 => some (.mini (bf 5 w 15) (bf 5 w 10) (lentS 10 19 l (w / 2 ^ 0)))
  | 0x49 => some (.maxi (bf 5 w 15) (bf 5 w 10) (lentS 10 19 l (w / 2 ^ 0)))
  | 0x60 => some (.movi (bf 5 w 15) (lentS 15 24 l (w / 2 ^ 0)))
  | 0x61 => some (.movup (bf 5 w 15) (lentS 15 24 l (w / 2 ^ 0)))
  | 0x62 => some (.mfs (bf 5 w 15) (lentU 15 24 l (w / 2 ^ 0)))
  | 0x63 => some (.mts (bf 5 w 15) (lentU 15 24 l (w / 2 ^ 0)))
  | _ => none

/-- The C class (R174). -/
def decodeC (z : Bool) (l : Option Nat) (w : Nat) : Option Instr :=
  match w / 2 ^ 22 % 32 with
  | 0 => if z ∨ w / 2 ^ 0 % 2 ^ 22 = 0 then some (.nop) else none
  | 1 => some (.prep (bf 4 w 18) (lentS 18 27 l (w / 2 ^ 0)))
  | 2 => if z ∨ w / 2 ^ 0 % 2 ^ 18 = 0 then some (.br (bf 4 w 18)) else none
  | 3 => if z ∨ w / 2 ^ 0 % 2 ^ 18 = 0 then some (.brn (bf 4 w 18)) else none
  | 4 => if z ∨ w / 2 ^ 18 % 2 ^ 4 = 0 then some (.jmp (lentS 18 27 l (w / 2 ^ 0))) else none
  | 5 => if z ∨ w / 2 ^ 18 % 2 ^ 4 = 0 then some (.call (lentS 18 27 l (w / 2 ^ 0))) else none
  | 6 => if z ∨ w / 2 ^ 0 % 2 ^ 22 = 0 then some (.ret) else none
  | 7 => if z ∨ w / 2 ^ 0 % 2 ^ 13 = 0 then some (.prepx (bf 4 w 18) (bf 5 w 13)) else none
  | 8 => some (.nest (bf 3 w 19) (bf 1 w 18) (bf 5 w 13) (lentU 13 22 l (w / 2 ^ 0)))
  | 9 => if z ∨ w / 2 ^ 0 % 2 ^ 22 = 0 then some (.lrot) else none
  | 10 => if z ∨ w / 2 ^ 0 % 2 ^ 22 = 0 then some (.lbrk) else none
  | 11 => if z ∨ w / 2 ^ 0 % 2 ^ 22 = 0 then some (.exit) else none
  | 12 => if z ∨ w / 2 ^ 0 % 2 ^ 22 = 0 then some (.yield) else none
  | 13 => if z ∨ w / 2 ^ 0 % 2 ^ 22 = 0 then some (.wfe) else none
  | 14 => if z ∨ w / 2 ^ 0 % 2 ^ 17 = 0 then some (.sev (bf 5 w 17)) else none
  | 15 => if z ∨ w / 2 ^ 18 % 2 ^ 4 = 0 then some (.trap (lentU 18 27 l (w / 2 ^ 0))) else none
  | 16 => if z ∨ w / 2 ^ 0 % 2 ^ 17 = 0 then some (.rte (bf 5 w 17)) else none
  | 17 => if z ∨ w / 2 ^ 18 % 2 ^ 4 = 0 then some (.brk (lentU 18 27 l (w / 2 ^ 0))) else none
  | 18 => if z ∨ w / 2 ^ 0 % 2 ^ 18 = 0 then some (.bar (bf 4 w 18)) else none
  | 19 => if z ∨ w / 2 ^ 0 % 2 ^ 18 = 0 then some (.barv (bf 4 w 18)) else none
  | 20 => if z ∨ w / 2 ^ 18 % 2 ^ 4 = 0 then some (.budget (lentU 18 27 l (w / 2 ^ 0))) else none
  | _ => none

/-- The V class (R175): family, then type. A compare whose d names no mask (R167) writes nothing that could be named. -/
def decodeV (z : Bool) (w : Nat) : Option Instr :=
  match w / 2 ^ 23 % 16, w / 2 ^ 20 % 8 with
  | 0, _ => some (.vadd (bf 3 w 20) (bf 2 w 18) (bf 5 w 13) (bf 5 w 8) (bf 5 w 3) (bf 3 w 0))
  | 1, _ => some (.vsub (bf 3 w 20) (bf 2 w 18) (bf 5 w 13) (bf 5 w 8) (bf 5 w 3) (bf 3 w 0))
  | 2, _ => some (.vmul (bf 3 w 20) (bf 2 w 18) (bf 5 w 13) (bf 5 w 8) (bf 5 w 3) (bf 3 w 0))
  | 3, _ => some (.vfma (bf 3 w 20) (bf 2 w 18) (bf 5 w 13) (bf 5 w 8) (bf 5 w 3) (bf 3 w 0))
  | 4, _ => some (.vmin (bf 3 w 20) (bf 2 w 18) (bf 5 w 13) (bf 5 w 8) (bf 5 w 3) (bf 3 w 0))
  | 5, _ => some (.vmax (bf 3 w 20) (bf 2 w 18) (bf 5 w 13) (bf 5 w 8) (bf 5 w 3) (bf 3 w 0))
  | 6, _ => some (.vadds (bf 3 w 20) (bf 2 w 18) (bf 5 w 13) (bf 5 w 8) (bf 5 w 3) (bf 3 w 0))
  | 7, _ => some (.vsubs (bf 3 w 20) (bf 2 w 18) (bf 5 w 13) (bf 5 w 8) (bf 5 w 3) (bf 3 w 0))
  | 8, _ => if w / 2 ^ 16 % 2 ^ 2 = 0 then some (.vcmpeq (bf 3 w 20) (bf 2 w 18) (bf 3 w 13) (bf 5 w 8) (bf 5 w 3) (bf 3 w 0)) else none
  | 9, _ => if w / 2 ^ 16 % 2 ^ 2 = 0 then some (.vcmplt (bf 3 w 20) (bf 2 w 18) (bf 3 w 13) (bf 5 w 8) (bf 5 w 3) (bf 3 w 0)) else none
  | 10, _ => if w / 2 ^ 16 % 2 ^ 2 = 0 then some (.vcmple (bf 3 w 20) (bf 2 w 18) (bf 3 w 13) (bf 5 w 8) (bf 5 w 3) (bf 3 w 0)) else none
  | 11, _ => some (.vcvt (bf 3 w 20) (bf 2 w 18) (bf 5 w 13) (bf 5 w 8) (bf 5 w 3) (bf 3 w 0))
  | 12, 7 => some (.vsel (bf 2 w 18) (bf 5 w 13) (bf 5 w 8) (bf 5 w 3) (bf 3 w 0))
  | 13, 0 => some (.vand (bf 2 w 18) (bf 5 w 13) (bf 5 w 8) (bf 5 w 3) (bf 3 w 0))
  | 13, 1 => some (.vor (bf 2 w 18) (bf 5 w 13) (bf 5 w 8) (bf 5 w 3) (bf 3 w 0))
  | 13, 2 => some (.vxor (bf 2 w 18) (bf 5 w 13) (bf 5 w 8) (bf 5 w 3) (bf 3 w 0))
  | 13, 3 => some (.vandn (bf 2 w 18) (bf 5 w 13) (bf 5 w 8) (bf 5 w 3) (bf 3 w 0))
  | 13, 4 => some (.vshl (bf 2 w 18) (bf 5 w 13) (bf 5 w 8) (bf 5 w 3) (bf 3 w 0))
  | 13, 5 => some (.vshr (bf 2 w 18) (bf 5 w 13) (bf 5 w 8) (bf 5 w 3) (bf 3 w 0))
  | 13, 6 => some (.vsra (bf 2 w 18) (bf 5 w 13) (bf 5 w 8) (bf 5 w 3) (bf 3 w 0))
  | 13, 7 => some (.vrot (bf 2 w 18) (bf 5 w 13) (bf 5 w 8) (bf 5 w 3) (bf 3 w 0))
  | 14, _ => some (.vred (bf 3 w 20) (bf 2 w 18) (bf 5 w 13) (bf 5 w 8) (bf 5 w 3) (bf 3 w 0))
  | 15, 0 => if z ∨ w / 2 ^ 3 % 2 ^ 5 = 0 then some (.vmov (bf 2 w 18) (bf 5 w 13) (bf 5 w 8) (bf 3 w 0)) else none
  | 15, 1 => some (.vbcast (bf 2 w 18) (bf 5 w 13) (bf 5 w 8) (bf 5 w 3) (bf 3 w 0))
  | 15, 2 => some (.vperm (bf 2 w 18) (bf 5 w 13) (bf 5 w 8) (bf 5 w 3) (bf 3 w 0))
  | 15, 3 => if z ∨ w / 2 ^ 3 % 2 ^ 10 = 0 then some (.vidx (bf 2 w 18) (bf 5 w 13) (bf 3 w 0)) else none
  | 15, 4 => some (.vscan (bf 2 w 18) (bf 5 w 13) (bf 5 w 8) (bf 5 w 3) (bf 3 w 0))
  | 15, 5 => some (.vext (bf 2 w 18) (bf 5 w 13) (bf 5 w 8) (bf 5 w 3) (bf 3 w 0))
  | 15, 6 => some (.vins (bf 2 w 18) (bf 5 w 13) (bf 5 w 8) (bf 5 w 3) (bf 3 w 0))
  | 15, 7 => if z ∨ (w / 2 ^ 11 % 2 ^ 2 = 0 ∧ w / 2 ^ 3 % 2 ^ 5 = 0) then some (.vtest (bf 2 w 18) (bf 5 w 13) (bf 3 w 8) (bf 3 w 0)) else none
  | _, _ => none

/-- The F class (R176). -/
def decodeF (z : Bool) (w : Nat) : Option Instr :=
  match w / 2 ^ 22 % 32 with
  | 0 => if z ∨ w / 2 ^ 0 % 2 ^ 5 = 0 then some (.exp2 (bf 2 w 20) (bf 2 w 18) (bf 5 w 13) (bf 5 w 8) (bf 3 w 5)) else none
  | 1 => if z ∨ w / 2 ^ 0 % 2 ^ 5 = 0 then some (.exp (bf 2 w 20) (bf 2 w 18) (bf 5 w 13) (bf 5 w 8) (bf 3 w 5)) else none
  | 2 => if z ∨ w / 2 ^ 0 % 2 ^ 5 = 0 then some (.log2 (bf 2 w 20) (bf 2 w 18) (bf 5 w 13) (bf 5 w 8) (bf 3 w 5)) else none
  | 3 => if z ∨ w / 2 ^ 0 % 2 ^ 5 = 0 then some (.ln (bf 2 w 20) (bf 2 w 18) (bf 5 w 13) (bf 5 w 8) (bf 3 w 5)) else none
  | 4 => if z ∨ w / 2 ^ 0 % 2 ^ 5 = 0 then some (.rcp (bf 2 w 20) (bf 2 w 18) (bf 5 w 13) (bf 5 w 8) (bf 3 w 5)) else none
  | 5 => if z ∨ w / 2 ^ 0 % 2 ^ 5 = 0 then some (.rsqrt (bf 2 w 20) (bf 2 w 18) (bf 5 w 13) (bf 5 w 8) (bf 3 w 5)) else none
  | 6 => if z ∨ w / 2 ^ 0 % 2 ^ 5 = 0 then some (.sqrt (bf 2 w 20) (bf 2 w 18) (bf 5 w 13) (bf 5 w 8) (bf 3 w 5)) else none
  | 7 => if z ∨ w / 2 ^ 0 % 2 ^ 5 = 0 then some (.sin (bf 2 w 20) (bf 2 w 18) (bf 5 w 13) (bf 5 w 8) (bf 3 w 5)) else none
  | 8 => if z ∨ w / 2 ^ 0 % 2 ^ 5 = 0 then some (.cos (bf 2 w 20) (bf 2 w 18) (bf 5 w 13) (bf 5 w 8) (bf 3 w 5)) else none
  | 9 => if z ∨ w / 2 ^ 0 % 2 ^ 5 = 0 then some (.tanh (bf 2 w 20) (bf 2 w 18) (bf 5 w 13) (bf 5 w 8) (bf 3 w 5)) else none
  | 10 => if z ∨ w / 2 ^ 0 % 2 ^ 5 = 0 then some (.sigm (bf 2 w 20) (bf 2 w 18) (bf 5 w 13) (bf 5 w 8) (bf 3 w 5)) else none
  | 11 => if z ∨ w / 2 ^ 0 % 2 ^ 5 = 0 then some (.gelu (bf 2 w 20) (bf 2 w 18) (bf 5 w 13) (bf 5 w 8) (bf 3 w 5)) else none
  | 12 => if z ∨ w / 2 ^ 0 % 2 ^ 5 = 0 then some (.silu (bf 2 w 20) (bf 2 w 18) (bf 5 w 13) (bf 5 w 8) (bf 3 w 5)) else none
  | 13 => if z ∨ w / 2 ^ 0 % 2 ^ 5 = 0 then some (.erf (bf 2 w 20) (bf 2 w 18) (bf 5 w 13) (bf 5 w 8) (bf 3 w 5)) else none
  | _ => none

/-- The U class (R176, R217); lent bits must be 0. -/
def decodeU (z : Bool) (w : Nat) : Option Instr :=
  match w / 2 ^ 22 % 32 with
  | 0 => if z ∨ w / 2 ^ 6 % 2 ^ 1 = 0 then some (.unpk (bf 5 w 17) (bf 5 w 12) (bf 3 w 9) (bf 2 w 7) (bf 6 w 0)) else none
  | 1 => if z ∨ (w / 2 ^ 6 % 2 ^ 1 = 0 ∧ w / 2 ^ 0 % 2 ^ 4 = 0) then some (.unpks (bf 5 w 17) (bf 5 w 12) (bf 3 w 9) (bf 2 w 7) (bf 2 w 4)) else none
  | 2 => if z ∨ w / 2 ^ 4 % 2 ^ 3 = 0 then some (.unpki (bf 5 w 17) (bf 5 w 12) (bf 3 w 9) (bf 2 w 7) (bf 4 w 0)) else none
  | _ => none

/-- The K class (R176, R217); lent bits must be 0. -/
def decodeK (z : Bool) (w : Nat) : Option Instr :=
  match w / 2 ^ 22 % 32 with
  | 0 => if z ∨ w / 2 ^ 6 % 2 ^ 1 = 0 then some (.pack (bf 5 w 17) (bf 5 w 12) (bf 3 w 9) (bf 2 w 7) (bf 6 w 0)) else none
  | 1 => if z ∨ (w / 2 ^ 6 % 2 ^ 1 = 0 ∧ w / 2 ^ 2 % 2 ^ 2 = 0) then some (.packs (bf 5 w 17) (bf 5 w 12) (bf 3 w 9) (bf 2 w 7) (bf 2 w 4) (bf 2 w 0)) else none
  | 2 => if z ∨ (w / 2 ^ 6 % 2 ^ 1 = 0 ∧ w / 2 ^ 2 % 2 ^ 2 = 0) then some (.pkmax (bf 5 w 17) (bf 5 w 12) (bf 3 w 9) (bf 2 w 7) (bf 2 w 4) (bf 2 w 0)) else none
  | 3 => if z ∨ w / 2 ^ 4 % 2 ^ 3 = 0 then some (.packi (bf 5 w 17) (bf 5 w 12) (bf 3 w 9) (bf 2 w 7) (bf 4 w 0)) else none
  | _ => none

/-- The M class (R177, R178). -/
def decodeM (z : Bool) (l : Option Nat) (w : Nat) : Option Instr :=
  match w / 2 ^ 20 % 128 with
  | 0x0 => if z ∨ w / 2 ^ 15 % 2 ^ 5 = 31 then some (.ld8s (bf 5 w 10) (lentS 10 19 l (w / 2 ^ 0))) else none
  | 0x1 => if z ∨ w / 2 ^ 15 % 2 ^ 5 = 31 then some (.ld8z (bf 5 w 10) (lentS 10 19 l (w / 2 ^ 0))) else none
  | 0x2 => if z ∨ w / 2 ^ 15 % 2 ^ 5 = 31 then some (.ld16s (bf 5 w 10) (lentS 10 19 l (w / 2 ^ 0))) else none
  | 0x3 => if z ∨ w / 2 ^ 15 % 2 ^ 5 = 31 then some (.ld16z (bf 5 w 10) (lentS 10 19 l (w / 2 ^ 0))) else none
  | 0x4 => if z ∨ w / 2 ^ 15 % 2 ^ 5 = 31 then some (.ld32s (bf 5 w 10) (lentS 10 19 l (w / 2 ^ 0))) else none
  | 0x5 => if z ∨ w / 2 ^ 15 % 2 ^ 5 = 31 then some (.ld32z (bf 5 w 10) (lentS 10 19 l (w / 2 ^ 0))) else none
  | 0x6 => if z ∨ w / 2 ^ 15 % 2 ^ 5 = 31 then some (.ld64 (bf 5 w 10) (lentS 10 19 l (w / 2 ^ 0))) else none
  | 0x8 => some (.st8 (bf 5 w 15) (bf 5 w 10) (lentS 10 19 l (w / 2 ^ 0)))
  | 0x9 => some (.st16 (bf 5 w 15) (bf 5 w 10) (lentS 10 19 l (w / 2 ^ 0)))
  | 0xa => some (.st32 (bf 5 w 15) (bf 5 w 10) (lentS 10 19 l (w / 2 ^ 0)))
  | 0xb => some (.st64 (bf 5 w 15) (bf 5 w 10) (lentS 10 19 l (w / 2 ^ 0)))
  | 0x10 => if z ∨ w / 2 ^ 13 % 2 ^ 5 = 31 then some (.vld (bf 2 w 18) (bf 5 w 8) (bf 5 w 3) (bf 3 w 0)) else none
  | 0x11 => if z ∨ w / 2 ^ 13 % 2 ^ 5 = 31 then some (.vst (bf 2 w 18) (bf 5 w 8) (bf 5 w 3) (bf 3 w 0)) else none
  | 0x12 => if z ∨ w / 2 ^ 13 % 2 ^ 5 = 31 then some (.vlds (bf 2 w 18) (bf 5 w 8) (bf 5 w 3) (bf 3 w 0)) else none
  | 0x13 => if z ∨ w / 2 ^ 13 % 2 ^ 5 = 31 then some (.vsts (bf 2 w 18) (bf 5 w 8) (bf 5 w 3) (bf 3 w 0)) else none
  | 0x14 => if z ∨ w / 2 ^ 13 % 2 ^ 5 = 31 then some (.vgath (bf 2 w 18) (bf 5 w 8) (bf 5 w 3) (bf 3 w 0)) else none
  | 0x15 => if z ∨ w / 2 ^ 13 % 2 ^ 5 = 31 then some (.vscat (bf 2 w 18) (bf 5 w 8) (bf 5 w 3) (bf 3 w 0)) else none
  | 0x16 => if z ∨ w / 2 ^ 12 % 2 ^ 1 = 0 then some (.lld (bf 2 w 18) (bf 5 w 13) (bf 4 w 8) (bf 5 w 3) (bf 3 w 0)) else none
  | 0x17 => if z ∨ w / 2 ^ 12 % 2 ^ 1 = 0 then some (.lst (bf 2 w 18) (bf 5 w 13) (bf 4 w 8) (bf 5 w 3) (bf 3 w 0)) else none
  | 0x20 => if z ∨ w / 2 ^ 0 % 2 ^ 2 = 0 then some (.ldblk (bf 6 w 14) (bf 5 w 9) (bf 7 w 2)) else none
  | 0x21 => if z ∨ w / 2 ^ 0 % 2 ^ 14 = 0 then some (.evblk (bf 6 w 14)) else none
  | 0x22 => if z ∨ w / 2 ^ 0 % 2 ^ 16 = 0 then some (.gjoin (bf 4 w 16)) else none
  | 0x23 => if z ∨ w / 2 ^ 0 % 2 ^ 16 = 0 then some (.gleave (bf 4 w 16)) else none
  | 0x24 => if z ∨ w / 2 ^ 0 % 2 ^ 2 = 0 then some (.gld (bf 4 w 16) (bf 4 w 12) (bf 4 w 8) (bf 6 w 2)) else none
  | 0x25 => some (.pfetch (bf 5 w 15) (bf 5 w 10) (lentS 10 19 l (w / 2 ^ 0)))
  | 0x30 => if z ∨ w / 2 ^ 16 % 2 ^ 4 = 0 then some (.aadd (bf 1 w 15) (bf 5 w 10) (bf 5 w 5) (bf 5 w 0)) else none
  | 0x31 => if z ∨ w / 2 ^ 16 % 2 ^ 4 = 0 then some (.amin (bf 1 w 15) (bf 5 w 10) (bf 5 w 5) (bf 5 w 0)) else none
  | 0x32 => if z ∨ w / 2 ^ 16 % 2 ^ 4 = 0 then some (.amax (bf 1 w 15) (bf 5 w 10) (bf 5 w 5) (bf 5 w 0)) else none
  | 0x33 => if z ∨ w / 2 ^ 16 % 2 ^ 4 = 0 then some (.aand (bf 1 w 15) (bf 5 w 10) (bf 5 w 5) (bf 5 w 0)) else none
  | 0x34 => if z ∨ w / 2 ^ 16 % 2 ^ 4 = 0 then some (.aor (bf 1 w 15) (bf 5 w 10) (bf 5 w 5) (bf 5 w 0)) else none
  | 0x35 => if z ∨ w / 2 ^ 16 % 2 ^ 4 = 0 then some (.axor (bf 1 w 15) (bf 5 w 10) (bf 5 w 5) (bf 5 w 0)) else none
  | 0x36 => if z ∨ w / 2 ^ 16 % 2 ^ 4 = 0 then some (.axchg (bf 1 w 15) (bf 5 w 10) (bf 5 w 5) (bf 5 w 0)) else none
  | 0x37 => some (.acas (bf 5 w 15) (bf 5 w 10) (bf 5 w 5) (bf 5 w 0))
  | 0x38 => if z ∨ w / 2 ^ 16 % 2 ^ 4 = 0 then some (.radd (bf 1 w 15) (bf 5 w 10) (bf 5 w 5) (bf 5 w 0)) else none
  | 0x39 => if z ∨ w / 2 ^ 15 % 2 ^ 5 = 0 then some (.raddf (bf 5 w 10) (bf 5 w 5) (bf 5 w 0)) else none
  | 0x3a => if z ∨ w / 2 ^ 16 % 2 ^ 4 = 0 then some (.rmax (bf 1 w 15) (bf 5 w 10) (bf 5 w 5) (bf 5 w 0)) else none
  | 0x3b => if z ∨ w / 2 ^ 16 % 2 ^ 4 = 0 then some (.rmin (bf 1 w 15) (bf 5 w 10) (bf 5 w 5) (bf 5 w 0)) else none
  | 0x3c => if z ∨ w / 2 ^ 15 % 2 ^ 5 = 0 then some (.vradd (bf 5 w 10) (bf 5 w 5) (bf 5 w 0)) else none
  | 0x40 => if z ∨ (w / 2 ^ 15 % 2 ^ 5 = 0 ∧ w / 2 ^ 0 % 2 ^ 5 = 0) then some (.qinit (bf 5 w 10) (bf 5 w 5)) else none
  | 0x41 => if z ∨ (w / 2 ^ 15 % 2 ^ 5 = 0 ∧ w / 2 ^ 0 % 2 ^ 5 = 0) then some (.qenq (bf 5 w 10) (bf 5 w 5)) else none
  | 0x42 => if z ∨ (w / 2 ^ 15 % 2 ^ 5 = 0 ∧ w / 2 ^ 0 % 2 ^ 10 = 0) then some (.qdeq (bf 5 w 10)) else none
  | 0x43 => if z ∨ (w / 2 ^ 15 % 2 ^ 5 = 0 ∧ w / 2 ^ 0 % 2 ^ 10 = 0) then some (.qdeqw (bf 5 w 10)) else none
  | 0x44 => if z ∨ (w / 2 ^ 15 % 2 ^ 5 = 0 ∧ w / 2 ^ 0 % 2 ^ 10 = 0) then some (.qlen (bf 5 w 10)) else none
  | 0x48 => if z ∨ w / 2 ^ 3 % 2 ^ 10 = 0 then some (.dfr (bf 2 w 18) (bf 5 w 13) (bf 3 w 0)) else none
  | 0x49 => if z ∨ w / 2 ^ 3 % 2 ^ 10 = 0 then some (.dfpop (bf 2 w 18) (bf 5 w 13) (bf 3 w 0)) else none
  | 0x4a => if z ∨ w / 2 ^ 0 % 2 ^ 20 = 0 then some (.dfcnt) else none
  | 0x50 => if z ∨ w / 2 ^ 5 % 2 ^ 15 = 0 then some (.fence (bf 5 w 0)) else none
  | 0x51 => if z ∨ w / 2 ^ 15 % 2 ^ 2 = 0 then some (.waitv (bf 3 w 17) (bf 5 w 10) (bf 5 w 5) (bf 5 w 0)) else none
  | 0x52 => if w / 2 ^ 13 % 2 ^ 1 = 0 then some (.waitfImm (bf 6 w 14) (lentU 13 22 l (w / 2 ^ 0))) else if z ∨ w / 2 ^ 0 % 2 ^ 8 = 0 then some (.waitfReg (bf 6 w 14) (bf 5 w 8)) else none
  | 0x53 => if z ∨ (w / 2 ^ 15 % 2 ^ 5 = 0 ∧ w / 2 ^ 0 % 2 ^ 10 = 0) then some (.tany (bf 5 w 10)) else none
  | 0x54 => if z ∨ (w / 2 ^ 15 % 2 ^ 5 = 0 ∧ w / 2 ^ 0 % 2 ^ 10 = 0) then some (.tall (bf 5 w 10)) else none
  | 0x55 => if z ∨ (w / 2 ^ 15 % 2 ^ 5 = 0 ∧ w / 2 ^ 0 % 2 ^ 10 = 0) then some (.tffr (bf 5 w 10)) else none
  | 0x56 => if z ∨ w / 2 ^ 0 % 2 ^ 14 = 0 then some (.tclr (bf 6 w 14)) else none
  | 0x57 => if z ∨ w / 2 ^ 0 % 2 ^ 14 = 0 then some (.fget (bf 6 w 14)) else none
  | 0x58 => if z ∨ w / 2 ^ 0 % 2 ^ 9 = 0 then some (.fpub (bf 6 w 14) (bf 5 w 9)) else none
  | 0x59 => if z ∨ w / 2 ^ 0 % 2 ^ 10 = 0 then some (.fbind (bf 6 w 14) (bf 4 w 10)) else none
  | 0x60 => if z ∨ (w / 2 ^ 18 % 2 ^ 2 = 0 ∧ w / 2 ^ 0 % 2 ^ 7 = 0) then some (.msend (bf 5 w 13) (bf 6 w 7)) else none
  | 0x61 => if z ∨ (w / 2 ^ 18 % 2 ^ 2 = 0 ∧ w / 2 ^ 0 % 2 ^ 7 = 0) then some (.mrecv (bf 5 w 13) (bf 6 w 7)) else none
  | _ => none

/-- The E class (R179, R180). -/
def decodeE (z : Bool) (w : Nat) : Option Instr :=
  match w / 2 ^ 21 % 64 with
  | 0x0 => some (.cpy (bf 4 w 17) (bf 4 w 13) (bf 6 w 7) (bf 7 w 0))
  | 0x1 => some (.cpyt (bf 4 w 17) (bf 4 w 13) (bf 6 w 7) (bf 7 w 0))
  | 0x2 => some (.cpyg (bf 4 w 17) (bf 4 w 13) (bf 6 w 7) (bf 7 w 0))
  | 0x3 => some (.cpys (bf 4 w 17) (bf 4 w 13) (bf 6 w 7) (bf 7 w 0))
  | 0x4 => some (.cfill (bf 4 w 17) (bf 4 w 13) (bf 6 w 7) (bf 7 w 0))
  | 0x5 => if z ∨ w / 2 ^ 0 % 2 ^ 19 = 0 then some (.mzero (bf 2 w 19)) else none
  | 0x6 => if z ∨ w / 2 ^ 1 % 2 ^ 10 = 0 then some (.mma (bf 2 w 19) (bf 4 w 15) (bf 4 w 11) (bf 1 w 0)) else none
  | 0x7 => if z ∨ w / 2 ^ 1 % 2 ^ 6 = 0 then some (.mmasp (bf 2 w 19) (bf 4 w 15) (bf 4 w 11) (bf 4 w 7) (bf 1 w 0)) else none
  | 0x8 => some (.drain (bf 2 w 19) (bf 4 w 15) (bf 6 w 9) (bf 2 w 7) (bf 3 w 4) (bf 4 w 0))
  | 0x9 => if z ∨ w / 2 ^ 0 % 2 ^ 1 = 0 then some (.padj (bf 4 w 17) (bf 4 w 13) (bf 4 w 9) (bf 6 w 3) (bf 2 w 1)) else none
  | 0xa => if z ∨ w / 2 ^ 0 % 2 ^ 7 = 0 then some (.hist (bf 4 w 17) (bf 5 w 12) (bf 5 w 7)) else none
  | 0xb => if z ∨ w / 2 ^ 0 % 2 ^ 9 = 0 then some (.chsend (bf 8 w 13) (bf 4 w 9)) else none
  | 0xc => if z ∨ w / 2 ^ 0 % 2 ^ 3 = 0 then some (.chrecv (bf 8 w 13) (bf 4 w 9) (bf 6 w 3)) else none
  | 0xd => some (.chred (bf 8 w 13) (bf 4 w 9) (bf 6 w 3) (bf 3 w 0))
  | 0xe => if z ∨ w / 2 ^ 0 % 2 ^ 2 = 0 then some (.coll (bf 5 w 16) (bf 4 w 12) (bf 4 w 8) (bf 6 w 2)) else none
  | 0xf => if z ∨ w / 2 ^ 0 % 2 ^ 12 = 0 then some (.mcst (bf 4 w 17) (bf 5 w 12)) else none
  | 0x10 => if z ∨ w / 2 ^ 0 % 2 ^ 6 = 0 then some (.rdld (bf 4 w 17) (bf 5 w 12) (bf 6 w 6)) else none
  | 0x11 => if z ∨ w / 2 ^ 0 % 2 ^ 14 = 0 then some (.jcard (bf 2 w 19) (bf 5 w 14)) else none
  | 0x12 => if z ∨ w / 2 ^ 0 % 2 ^ 14 = 0 then some (.setxf (bf 2 w 19) (bf 5 w 14)) else none
  | 0x13 => if z ∨ w / 2 ^ 0 % 2 ^ 12 = 0 then some (.sld (bf 4 w 17) (bf 5 w 12)) else none
  | 0x14 => if z ∨ w / 2 ^ 0 % 2 ^ 7 = 0 then some (.sset (bf 4 w 17) (bf 5 w 12) (bf 5 w 7)) else none
  | 0x15 => if z ∨ w / 2 ^ 0 % 2 ^ 12 = 0 then some (.sget (bf 4 w 17) (bf 5 w 12)) else none
  | 0x16 => if z ∨ w / 2 ^ 0 % 2 ^ 16 = 0 then some (.chset (bf 5 w 16)) else none
  | 0x17 => if z ∨ w / 2 ^ 0 % 2 ^ 13 = 0 then some (.chget (bf 8 w 13)) else none
  | _ => none

/-- The nine lent bits of a U or K syllable must be 0 (R217: bits [15:7] of a lent immediate). -/
def lentZero (l : Option Nat) : Bool := l.getD 0 == 0

/-- The instruction a syllable's layout names, before the limits of `Instr.wf`. Bit 31 (B) is not read. -/
def decodeRaw (z : Bool) (l : Option Nat) (w : Nat) : Option Instr :=
  match w / 2 ^ 27 % 16 with
  | 1 => decodeS z l w
  | 2 => decodeV z w
  | 3 => decodeF z w
  | 4 => decodeM z l w
  | 5 => if z ∨ lentZero l then decodeU z w else none
  | 6 => if z ∨ lentZero l then decodeK z w else none
  | 7 => decodeC z l w
  | 8 => decodeE z w
  | _ => none

/-- The instruction of a syllable `w` under the lent bits `l` (R162), or `none`: ILLSYL (R181). -/
def decodeSyl (l : Option Nat) (w : Nat) : Option Instr :=
  match decodeRaw false l w with
  | some i => if i.wf then some i else none
  | none => none

/-- The syllable's class, bits [30:27] (R156). -/
def sylClass (w : Nat) : Nat := w / 2 ^ 27 % 16

/-- The B bit (R156). -/
def startsBundle (w : Nat) : Bool := w / 2 ^ 31 % 2 == 1

/-- The pad syllable (R158). -/
def isPad (w : Nat) : Bool := w == 0x7FFFFFFF

/-- Whether a syllable holds a receiving field (the table of R162). -/
def receives (w : Nat) : Bool :=
  match sylClass w with
  | 1 => let o := w / 2 ^ 20 % 128
    (0x28 ≤ o && o ≤ 0x2D) || (0x40 ≤ o && o ≤ 0x49) || (0x60 ≤ o && o ≤ 0x63)
  | 4 => let o := w / 2 ^ 20 % 128
    o ≤ 0x06 || (0x08 ≤ o && o ≤ 0x0B) || o == 0x25 || (o == 0x52 && w / 2 ^ 13 % 2 == 0)
  | 5 => w / 2 ^ 22 % 32 ≤ 2
  | 6 => w / 2 ^ 22 % 32 ≤ 3
  | 7 => let o := w / 2 ^ 22 % 32
    o == 1 || o == 4 || o == 5 || o == 8 || o == 15 || o == 17 || o == 20
  | _ => false

/-- How many syllables of a class one bundle may hold (R156); headers and reserved classes have no count of their own. -/
def classLimit (c : Nat) : Nat :=
  match c with
  | 1 => 2
  | 2 => 3
  | 4 => 2
  | _ => 1

/-- The width a V syllable names, for the lane budget of R163. -/
def vWidthOf (w : Nat) : Nat :=
  if sylClass w == 2 && w / 2 ^ 18 % 4 < 3 then 256 * 2 ^ (w / 2 ^ 18 % 4) else 0

/-- A packet is malformed when a pad is followed by a syllable that is none, or syllable 0 has B = 0; a packet of pads alone
raises ILLBUNDLE as well (R158). -/
def packetOk (pk : List Nat) : Bool :=
  (match pk with | w :: _ => startsBundle w | [] => false) &&
  (pk.dropWhile (fun w => !isPad w)).all isPad

/-- The syllables of the bundle that opens at the head of `ws`, which begin at packet position `p` (R157). -/
def bundleBody : Nat → List Nat → List (Nat × Nat)
  | _, [] => []
  | p, w :: ws => if startsBundle w || isPad w then [] else (p, w) :: bundleBody (p + 1) ws

/-- The syllables, with their packet positions, of the bundle at position `p` of the packet (R157). -/
def bundleAt (pk : List Nat) (p : Nat) : List (Nat × Nat) :=
  match pk.drop p with
  | [] => []
  | w :: ws => (p, w) :: bundleBody (p + 1) ws

/-- The lend field of the bundle's header over packet position `p` (R161, R162), when one stands at the quad's start. -/
def lendOf (b : List (Nat × Nat)) (p : Nat) : Option Nat :=
  match b.find? (fun x => x.1 == p / 4 * 4 && sylClass x.2 == 0) with
  | some h => some (h.2 / 2 ^ (9 * (3 - p % 4)) % 2 ^ 9)
  | none => none

/-- A header at packet position `p` of bundle `b` that breaks R161: it does not stand first in its quad, or lends to a syllable that
takes nothing. -/
def headerBad (b : List (Nat × Nat)) (p w : Nat) : Bool :=
  p % 4 != 0 || [1, 2, 3].any (fun j =>
    w / 2 ^ (9 * (3 - j)) % 2 ^ 9 != 0 &&
    !(match b.find? (fun y => y.1 == p + j) with | some y => receives y.2 | none => false))

/-- The rules of R157 and R163 on one bundle as a whole. -/
def bundleOk (b : List (Nat × Nat)) : Bool :=
  (match b with | (_, w) :: _ => startsBundle w | [] => false) &&
  b.length ≤ 12 &&
  b.any (fun x => 1 ≤ sylClass x.2 && sylClass x.2 ≤ 8) &&
  [1, 2, 3, 4, 5, 6, 7, 8].all (fun c => (b.filter (fun x => sylClass x.2 == c)).length ≤ classLimit c) &&
  (b.map (fun x => vWidthOf x.2)).sum ≤ 2048

/-- A syllable under its lent bits: its instruction, or what its opcode names. -/
def readSyl (l : Option Nat) (w : Nat) : Instr ⊕ Option Instr :=
  match decodeSyl l w with
  | some i => .inl i
  | none => .inr (decodeRaw true l w)

/-- The bundle at position `p` of a packet of 16 syllables: ILLBUNDLE, or its syllables that are no headers, each decoded under
its lent bits. -/
def fetchBundle (pk : List Nat) (p : Nat) : Fetched :=
  let b := bundleAt pk p
  let l := (b.filter (fun x => sylClass x.2 != 0)).map (fun x => (x.1, readSyl (lendOf b x.1) x.2))
  if packetOk pk && bundleOk b then
    match b.find? (fun x => sylClass x.2 == 0 && headerBad b x.1 x.2) with
    | some x => .malformed x.1 l
    | none => .bundle l
  else .malformed p l

/-- The position after `p` of the next syllable of the packet with B = 1 (R159); `none`: the next bundle opens the next packet. -/
def nextStart (pk : List Nat) (p : Nat) : Option Nat :=
  ((List.range 16).find? (fun j => p < j && startsBundle (pk.getD j 0)))

/-- The nine bits a header lends so that a signed value of `own + 9` bits reads whole; `none` when the field alone does (R162). -/
def lendForS {n : Nat} (own : Nat) (i : BitVec n) : Option Nat :=
  if (i.setWidth own).signExtend n = i then none else some (i.toNat / 2 ^ own)

/-- As `lendForS`, for an unsigned field. -/
def lendForU {n : Nat} (own : Nat) (i : BitVec n) : Option Nat :=
  if i.toNat < 2 ^ own then none else some (i.toNat / 2 ^ own)

/-- A field value `v` put at bit `k`. -/
abbrev up (v k : Nat) : Nat := v * 2 ^ k

/-- The low `own` bits of a receiving field: those its syllable itself holds. -/
abbrev lowBits (own v : Nat) : Nat := v % 2 ^ own

/-- The encoding of a syllable: its word with B = 0, and the lent bits it needs, if any. Events have none. -/
def encode : Instr → Option Encoded
  | .add d a c => some ⟨none, 0x8000000 + up d.toNat 15 + up a.toNat 10 + up c.toNat 5⟩
  | .sub d a c => some ⟨none, 0x8100000 + up d.toNat 15 + up a.toNat 10 + up c.toNat 5⟩
  | .mul d a c => some ⟨none, 0x8200000 + up d.toNat 15 + up a.toNat 10 + up c.toNat 5⟩
  | .mulh d a c => some ⟨none, 0x8300000 + up d.toNat 15 + up a.toNat 10 + up c.toNat 5⟩
  | .mulhz d a c => some ⟨none, 0x8400000 + up d.toNat 15 + up a.toNat 10 + up c.toNat 5⟩
  | .div d a c => some ⟨none, 0x8500000 + up d.toNat 15 + up a.toNat 10 + up c.toNat 5⟩
  | .divz d a c => some ⟨none, 0x8600000 + up d.toNat 15 + up a.toNat 10 + up c.toNat 5⟩
  | .rem d a c => some ⟨none, 0x8700000 + up d.toNat 15 + up a.toNat 10 + up c.toNat 5⟩
  | .remz d a c => some ⟨none, 0x8800000 + up d.toNat 15 + up a.toNat 10 + up c.toNat 5⟩
  | .and d a c => some ⟨none, 0x8900000 + up d.toNat 15 + up a.toNat 10 + up c.toNat 5⟩
  | .or d a c => some ⟨none, 0x8a00000 + up d.toNat 15 + up a.toNat 10 + up c.toNat 5⟩
  | .xor d a c => some ⟨none, 0x8b00000 + up d.toNat 15 + up a.toNat 10 + up c.toNat 5⟩
  | .andn d a c => some ⟨none, 0x8c00000 + up d.toNat 15 + up a.toNat 10 + up c.toNat 5⟩
  | .shl d a c => some ⟨none, 0x8d00000 + up d.toNat 15 + up a.toNat 10 + up c.toNat 5⟩
  | .shr d a c => some ⟨none, 0x8e00000 + up d.toNat 15 + up a.toNat 10 + up c.toNat 5⟩
  | .sra d a c => some ⟨none, 0x8f00000 + up d.toNat 15 + up a.toNat 10 + up c.toNat 5⟩
  | .min d a c => some ⟨none, 0x9000000 + up d.toNat 15 + up a.toNat 10 + up c.toNat 5⟩
  | .max d a c => some ⟨none, 0x9100000 + up d.toNat 15 + up a.toNat 10 + up c.toNat 5⟩
  | .minz d a c => some ⟨none, 0x9200000 + up d.toNat 15 + up a.toNat 10 + up c.toNat 5⟩
  | .maxz d a c => some ⟨none, 0x9300000 + up d.toNat 15 + up a.toNat 10 + up c.toNat 5⟩
  | .clz d a => some ⟨none, 0x9400000 + up d.toNat 15 + up a.toNat 10⟩
  | .ctz d a => some ⟨none, 0x9500000 + up d.toNat 15 + up a.toNat 10⟩
  | .popc d a => some ⟨none, 0x9600000 + up d.toNat 15 + up a.toNat 10⟩
  | .sel d a c k => some ⟨none, 0x9700000 + up d.toNat 15 + up a.toNat 10 + up c.toNat 5 + up k.toNat 0⟩
  | .lea d a c h => some ⟨none, 0x9800000 + up d.toNat 15 + up a.toNat 10 + up c.toNat 5 + up h.toNat 0⟩
  | .bfx d a c => some ⟨none, 0x9900000 + up d.toNat 15 + up a.toNat 10 + up c.toNat 5⟩
  | .bfxz d a c => some ⟨none, 0x9a00000 + up d.toNat 15 + up a.toNat 10 + up c.toNat 5⟩
  | .bins d a c => some ⟨none, 0x9b00000 + up d.toNat 15 + up a.toNat 10 + up c.toNat 5⟩
  | .adds d a c => some ⟨none, 0x9c00000 + up d.toNat 15 + up a.toNat 10 + up c.toNat 5⟩
  | .subs d a c => some ⟨none, 0x9d00000 + up d.toNat 15 + up a.toNat 10 + up c.toNat 5⟩
  | .cmpeq k a c => some ⟨none, 0xa000000 + up k.toNat 15 + up a.toNat 10 + up c.toNat 5⟩
  | .cmpne k a c => some ⟨none, 0xa100000 + up k.toNat 15 + up a.toNat 10 + up c.toNat 5⟩
  | .cmplt k a c => some ⟨none, 0xa200000 + up k.toNat 15 + up a.toNat 10 + up c.toNat 5⟩
  | .cmple k a c => some ⟨none, 0xa300000 + up k.toNat 15 + up a.toNat 10 + up c.toNat 5⟩
  | .cmpltz k a c => some ⟨none, 0xa400000 + up k.toNat 15 + up a.toNat 10 + up c.toNat 5⟩
  | .cmplez k a c => some ⟨none, 0xa500000 + up k.toNat 15 + up a.toNat 10 + up c.toNat 5⟩
  | .cmpbit k a c => some ⟨none, 0xa600000 + up k.toNat 15 + up a.toNat 10 + up c.toNat 5⟩
  | .cmpeqi k a i => some ⟨(lendForS 10 i), 0xa800000 + up k.toNat 15 + up a.toNat 10 + lowBits 10 i.toNat⟩
  | .cmpnei k a i => some ⟨(lendForS 10 i), 0xa900000 + up k.toNat 15 + up a.toNat 10 + lowBits 10 i.toNat⟩
  | .cmplti k a i => some ⟨(lendForS 10 i), 0xaa00000 + up k.toNat 15 + up a.toNat 10 + lowBits 10 i.toNat⟩
  | .cmplei k a i => some ⟨(lendForS 10 i), 0xab00000 + up k.toNat 15 + up a.toNat 10 + lowBits 10 i.toNat⟩
  | .cmpltzi k a i => some ⟨(lendForS 10 i), 0xac00000 + up k.toNat 15 + up a.toNat 10 + lowBits 10 i.toNat⟩
  | .cmplezi k a i => some ⟨(lendForS 10 i), 0xad00000 + up k.toNat 15 + up a.toNat 10 + lowBits 10 i.toNat⟩
  | .addi d a i => some ⟨(lendForS 10 i), 0xc000000 + up d.toNat 15 + up a.toNat 10 + lowBits 10 i.toNat⟩
  | .andi d a i => some ⟨(lendForS 10 i), 0xc100000 + up d.toNat 15 + up a.toNat 10 + lowBits 10 i.toNat⟩
  | .ori d a i => some ⟨(lendForS 10 i), 0xc200000 + up d.toNat 15 + up a.toNat 10 + lowBits 10 i.toNat⟩
  | .xori d a i => some ⟨(lendForS 10 i), 0xc300000 + up d.toNat 15 + up a.toNat 10 + lowBits 10 i.toNat⟩
  | .shli d a i => some ⟨(lendForS 10 i), 0xc400000 + up d.toNat 15 + up a.toNat 10 + lowBits 10 i.toNat⟩
  | .shri d a i => some ⟨(lendForS 10 i), 0xc500000 + up d.toNat 15 + up a.toNat 10 + lowBits 10 i.toNat⟩
  | .srai d a i => some ⟨(lendForS 10 i), 0xc600000 + up d.toNat 15 + up a.toNat 10 + lowBits 10 i.toNat⟩
  | .muli d a i => some ⟨(lendForS 10 i), 0xc700000 + up d.toNat 15 + up a.toNat 10 + lowBits 10 i.toNat⟩
  | .mini d a i => some ⟨(lendForS 10 i), 0xc800000 + up d.toNat 15 + up a.toNat 10 + lowBits 10 i.toNat⟩
  | .maxi d a i => some ⟨(lendForS 10 i), 0xc900000 + up d.toNat 15 + up a.toNat 10 + lowBits 10 i.toNat⟩
  | .movi d i => some ⟨(lendForS 15 i), 0xe000000 + up d.toNat 15 + lowBits 15 i.toNat⟩
  | .movup d i => some ⟨(lendForS 15 i), 0xe100000 + up d.toNat 15 + lowBits 15 i.toNat⟩
  | .mfs d i => some ⟨(lendForU 15 i), 0xe200000 + up d.toNat 15 + lowBits 15 i.toNat⟩
  | .mts s i => some ⟨(lendForU 15 i), 0xe300000 + up s.toNat 15 + lowBits 15 i.toNat⟩
  | .nop => some ⟨none, 0x38000000⟩
  | .prep k i => some ⟨(lendForS 18 i), 0x38400000 + up k.toNat 18 + lowBits 18 i.toNat⟩
  | .br k => some ⟨none, 0x38800000 + up k.toNat 18⟩
  | .brn k => some ⟨none, 0x38c00000 + up k.toNat 18⟩
  | .jmp i => some ⟨(lendForS 18 i), 0x39000000 + lowBits 18 i.toNat⟩
  | .call i => some ⟨(lendForS 18 i), 0x39400000 + lowBits 18 i.toNat⟩
  | .ret => some ⟨none, 0x39800000⟩
  | .prepx k s => some ⟨none, 0x39c00000 + up k.toNat 18 + up s.toNat 13⟩
  | .nest l r s e => some ⟨(lendForU 13 e), 0x3a000000 + up l.toNat 19 + up r.toNat 18 + up s.toNat 13 + lowBits 13 e.toNat⟩
  | .lrot => some ⟨none, 0x3a400000⟩
  | .lbrk => some ⟨none, 0x3a800000⟩
  | .exit => some ⟨none, 0x3ac00000⟩
  | .yield => some ⟨none, 0x3b000000⟩
  | .wfe => some ⟨none, 0x3b400000⟩
  | .sev s => some ⟨none, 0x3b800000 + up s.toNat 17⟩
  | .trap i => some ⟨(lendForU 18 i), 0x3bc00000 + lowBits 18 i.toNat⟩
  | .rte s => some ⟨none, 0x3c000000 + up s.toNat 17⟩
  | .brk i => some ⟨(lendForU 18 i), 0x3c400000 + lowBits 18 i.toNat⟩
  | .bar b => some ⟨none, 0x3c800000 + up b.toNat 18⟩
  | .barv b => some ⟨none, 0x3cc00000 + up b.toNat 18⟩
  | .budget i => some ⟨(lendForU 18 i), 0x3d000000 + lowBits 18 i.toNat⟩
  | .vadd t w d a c m => some ⟨none, 0x10000000 + up t.toNat 20 + up w.toNat 18 + up d.toNat 13 + up a.toNat 8 + up c.toNat 3 + up m.toNat 0⟩
  | .vsub t w d a c m => some ⟨none, 0x10800000 + up t.toNat 20 + up w.toNat 18 + up d.toNat 13 + up a.toNat 8 + up c.toNat 3 + up m.toNat 0⟩
  | .vmul t w d a c m => some ⟨none, 0x11000000 + up t.toNat 20 + up w.toNat 18 + up d.toNat 13 + up a.toNat 8 + up c.toNat 3 + up m.toNat 0⟩
  | .vfma t w d a c m => some ⟨none, 0x11800000 + up t.toNat 20 + up w.toNat 18 + up d.toNat 13 + up a.toNat 8 + up c.toNat 3 + up m.toNat 0⟩
  | .vmin t w d a c m => some ⟨none, 0x12000000 + up t.toNat 20 + up w.toNat 18 + up d.toNat 13 + up a.toNat 8 + up c.toNat 3 + up m.toNat 0⟩
  | .vmax t w d a c m => some ⟨none, 0x12800000 + up t.toNat 20 + up w.toNat 18 + up d.toNat 13 + up a.toNat 8 + up c.toNat 3 + up m.toNat 0⟩
  | .vadds t w d a c m => some ⟨none, 0x13000000 + up t.toNat 20 + up w.toNat 18 + up d.toNat 13 + up a.toNat 8 + up c.toNat 3 + up m.toNat 0⟩
  | .vsubs t w d a c m => some ⟨none, 0x13800000 + up t.toNat 20 + up w.toNat 18 + up d.toNat 13 + up a.toNat 8 + up c.toNat 3 + up m.toNat 0⟩
  | .vcmpeq t w d a c m => some ⟨none, 0x14000000 + up t.toNat 20 + up w.toNat 18 + up d.toNat 13 + up a.toNat 8 + up c.toNat 3 + up m.toNat 0⟩
  | .vcmplt t w d a c m => some ⟨none, 0x14800000 + up t.toNat 20 + up w.toNat 18 + up d.toNat 13 + up a.toNat 8 + up c.toNat 3 + up m.toNat 0⟩
  | .vcmple t w d a c m => some ⟨none, 0x15000000 + up t.toNat 20 + up w.toNat 18 + up d.toNat 13 + up a.toNat 8 + up c.toNat 3 + up m.toNat 0⟩
  | .vcvt t w d a c m => some ⟨none, 0x15800000 + up t.toNat 20 + up w.toNat 18 + up d.toNat 13 + up a.toNat 8 + up c.toNat 3 + up m.toNat 0⟩
  | .vsel w d a c k => some ⟨none, 0x16700000 + up w.toNat 18 + up d.toNat 13 + up a.toNat 8 + up c.toNat 3 + up k.toNat 0⟩
  | .vand w d a c m => some ⟨none, 0x16800000 + up w.toNat 18 + up d.toNat 13 + up a.toNat 8 + up c.toNat 3 + up m.toNat 0⟩
  | .vor w d a c m => some ⟨none, 0x16900000 + up w.toNat 18 + up d.toNat 13 + up a.toNat 8 + up c.toNat 3 + up m.toNat 0⟩
  | .vxor w d a c m => some ⟨none, 0x16a00000 + up w.toNat 18 + up d.toNat 13 + up a.toNat 8 + up c.toNat 3 + up m.toNat 0⟩
  | .vandn w d a c m => some ⟨none, 0x16b00000 + up w.toNat 18 + up d.toNat 13 + up a.toNat 8 + up c.toNat 3 + up m.toNat 0⟩
  | .vshl w d a c m => some ⟨none, 0x16c00000 + up w.toNat 18 + up d.toNat 13 + up a.toNat 8 + up c.toNat 3 + up m.toNat 0⟩
  | .vshr w d a c m => some ⟨none, 0x16d00000 + up w.toNat 18 + up d.toNat 13 + up a.toNat 8 + up c.toNat 3 + up m.toNat 0⟩
  | .vsra w d a c m => some ⟨none, 0x16e00000 + up w.toNat 18 + up d.toNat 13 + up a.toNat 8 + up c.toNat 3 + up m.toNat 0⟩
  | .vrot w d a c m => some ⟨none, 0x16f00000 + up w.toNat 18 + up d.toNat 13 + up a.toNat 8 + up c.toNat 3 + up m.toNat 0⟩
  | .vred t w d a c m => some ⟨none, 0x17000000 + up t.toNat 20 + up w.toNat 18 + up d.toNat 13 + up a.toNat 8 + up c.toNat 3 + up m.toNat 0⟩
  | .vmov w d a m => some ⟨none, 0x17800000 + up w.toNat 18 + up d.toNat 13 + up a.toNat 8 + up m.toNat 0⟩
  | .vbcast w d a c m => some ⟨none, 0x17900000 + up w.toNat 18 + up d.toNat 13 + up a.toNat 8 + up c.toNat 3 + up m.toNat 0⟩
  | .vperm w d a c m => some ⟨none, 0x17a00000 + up w.toNat 18 + up d.toNat 13 + up a.toNat 8 + up c.toNat 3 + up m.toNat 0⟩
  | .vidx w d m => some ⟨none, 0x17b00000 + up w.toNat 18 + up d.toNat 13 + up m.toNat 0⟩
  | .vscan w d a c m => some ⟨none, 0x17c00000 + up w.toNat 18 + up d.toNat 13 + up a.toNat 8 + up c.toNat 3 + up m.toNat 0⟩
  | .vext w d a c m => some ⟨none, 0x17d00000 + up w.toNat 18 + up d.toNat 13 + up a.toNat 8 + up c.toNat 3 + up m.toNat 0⟩
  | .vins w d a c m => some ⟨none, 0x17e00000 + up w.toNat 18 + up d.toNat 13 + up a.toNat 8 + up c.toNat 3 + up m.toNat 0⟩
  | .vtest w d a m => some ⟨none, 0x17f00000 + up w.toNat 18 + up d.toNat 13 + up a.toNat 8 + up m.toNat 0⟩
  | .exp2 w t d a m => some ⟨none, 0x18000000 + up w.toNat 20 + up t.toNat 18 + up d.toNat 13 + up a.toNat 8 + up m.toNat 5⟩
  | .exp w t d a m => some ⟨none, 0x18400000 + up w.toNat 20 + up t.toNat 18 + up d.toNat 13 + up a.toNat 8 + up m.toNat 5⟩
  | .log2 w t d a m => some ⟨none, 0x18800000 + up w.toNat 20 + up t.toNat 18 + up d.toNat 13 + up a.toNat 8 + up m.toNat 5⟩
  | .ln w t d a m => some ⟨none, 0x18c00000 + up w.toNat 20 + up t.toNat 18 + up d.toNat 13 + up a.toNat 8 + up m.toNat 5⟩
  | .rcp w t d a m => some ⟨none, 0x19000000 + up w.toNat 20 + up t.toNat 18 + up d.toNat 13 + up a.toNat 8 + up m.toNat 5⟩
  | .rsqrt w t d a m => some ⟨none, 0x19400000 + up w.toNat 20 + up t.toNat 18 + up d.toNat 13 + up a.toNat 8 + up m.toNat 5⟩
  | .sqrt w t d a m => some ⟨none, 0x19800000 + up w.toNat 20 + up t.toNat 18 + up d.toNat 13 + up a.toNat 8 + up m.toNat 5⟩
  | .sin w t d a m => some ⟨none, 0x19c00000 + up w.toNat 20 + up t.toNat 18 + up d.toNat 13 + up a.toNat 8 + up m.toNat 5⟩
  | .cos w t d a m => some ⟨none, 0x1a000000 + up w.toNat 20 + up t.toNat 18 + up d.toNat 13 + up a.toNat 8 + up m.toNat 5⟩
  | .tanh w t d a m => some ⟨none, 0x1a400000 + up w.toNat 20 + up t.toNat 18 + up d.toNat 13 + up a.toNat 8 + up m.toNat 5⟩
  | .sigm w t d a m => some ⟨none, 0x1a800000 + up w.toNat 20 + up t.toNat 18 + up d.toNat 13 + up a.toNat 8 + up m.toNat 5⟩
  | .gelu w t d a m => some ⟨none, 0x1ac00000 + up w.toNat 20 + up t.toNat 18 + up d.toNat 13 + up a.toNat 8 + up m.toNat 5⟩
  | .silu w t d a m => some ⟨none, 0x1b000000 + up w.toNat 20 + up t.toNat 18 + up d.toNat 13 + up a.toNat 8 + up m.toNat 5⟩
  | .erf w t d a m => some ⟨none, 0x1b400000 + up w.toNat 20 + up t.toNat 18 + up d.toNat 13 + up a.toNat 8 + up m.toNat 5⟩
  | .unpk d a p x i => some ⟨none, 0x28000000 + up d.toNat 17 + up a.toNat 12 + up p.toNat 9 + up x.toNat 7 + up i.toNat 0⟩
  | .unpks d a p x i => some ⟨none, 0x28400000 + up d.toNat 17 + up a.toNat 12 + up p.toNat 9 + up x.toNat 7 + up i.toNat 4⟩
  | .unpki d a p x i => some ⟨none, 0x28800000 + up d.toNat 17 + up a.toNat 12 + up p.toNat 9 + up x.toNat 7 + up i.toNat 0⟩
  | .pack d a p x i => some ⟨none, 0x30000000 + up d.toNat 17 + up a.toNat 12 + up p.toNat 9 + up x.toNat 7 + up i.toNat 0⟩
  | .packs d a p x i j => some ⟨none, 0x30400000 + up d.toNat 17 + up a.toNat 12 + up p.toNat 9 + up x.toNat 7 + up i.toNat 4 + up j.toNat 0⟩
  | .pkmax d a p x i j => some ⟨none, 0x30800000 + up d.toNat 17 + up a.toNat 12 + up p.toNat 9 + up x.toNat 7 + up i.toNat 4 + up j.toNat 0⟩
  | .packi d a p x i => some ⟨none, 0x30c00000 + up d.toNat 17 + up a.toNat 12 + up p.toNat 9 + up x.toNat 7 + up i.toNat 0⟩
  | .ld8s b i => some ⟨(lendForS 10 i), 0x200f8000 + up b.toNat 10 + lowBits 10 i.toNat⟩
  | .ld8z b i => some ⟨(lendForS 10 i), 0x201f8000 + up b.toNat 10 + lowBits 10 i.toNat⟩
  | .ld16s b i => some ⟨(lendForS 10 i), 0x202f8000 + up b.toNat 10 + lowBits 10 i.toNat⟩
  | .ld16z b i => some ⟨(lendForS 10 i), 0x203f8000 + up b.toNat 10 + lowBits 10 i.toNat⟩
  | .ld32s b i => some ⟨(lendForS 10 i), 0x204f8000 + up b.toNat 10 + lowBits 10 i.toNat⟩
  | .ld32z b i => some ⟨(lendForS 10 i), 0x205f8000 + up b.toNat 10 + lowBits 10 i.toNat⟩
  | .ld64 b i => some ⟨(lendForS 10 i), 0x206f8000 + up b.toNat 10 + lowBits 10 i.toNat⟩
  | .st8 s b i => some ⟨(lendForS 10 i), 0x20800000 + up s.toNat 15 + up b.toNat 10 + lowBits 10 i.toNat⟩
  | .st16 s b i => some ⟨(lendForS 10 i), 0x20900000 + up s.toNat 15 + up b.toNat 10 + lowBits 10 i.toNat⟩
  | .st32 s b i => some ⟨(lendForS 10 i), 0x20a00000 + up s.toNat 15 + up b.toNat 10 + lowBits 10 i.toNat⟩
  | .st64 s b i => some ⟨(lendForS 10 i), 0x20b00000 + up s.toNat 15 + up b.toNat 10 + lowBits 10 i.toNat⟩
  | .vld w b x m => some ⟨none, 0x2103e000 + up w.toNat 18 + up b.toNat 8 + up x.toNat 3 + up m.toNat 0⟩
  | .vst w b x m => some ⟨none, 0x2113e000 + up w.toNat 18 + up b.toNat 8 + up x.toNat 3 + up m.toNat 0⟩
  | .vlds w b x m => some ⟨none, 0x2123e000 + up w.toNat 18 + up b.toNat 8 + up x.toNat 3 + up m.toNat 0⟩
  | .vsts w b x m => some ⟨none, 0x2133e000 + up w.toNat 18 + up b.toNat 8 + up x.toNat 3 + up m.toNat 0⟩
  | .vgath w b x m => some ⟨none, 0x2143e000 + up w.toNat 18 + up b.toNat 8 + up x.toNat 3 + up m.toNat 0⟩
  | .vscat w b x m => some ⟨none, 0x2153e000 + up w.toNat 18 + up b.toNat 8 + up x.toNat 3 + up m.toNat 0⟩
  | .lld w d b x m => some ⟨none, 0x21600000 + up w.toNat 18 + up d.toNat 13 + up b.toNat 8 + up x.toNat 3 + up m.toNat 0⟩
  | .lst w d b x m => some ⟨none, 0x21700000 + up w.toNat 18 + up d.toNat 13 + up b.toNat 8 + up x.toNat 3 + up m.toNat 0⟩
  | .ldblk t b n => some ⟨none, 0x22000000 + up t.toNat 14 + up b.toNat 9 + up n.toNat 2⟩
  | .evblk t => some ⟨none, 0x22100000 + up t.toNat 14⟩
  | .gjoin g => some ⟨none, 0x22200000 + up g.toNat 16⟩
  | .gleave g => some ⟨none, 0x22300000 + up g.toNat 16⟩
  | .gld g d s t => some ⟨none, 0x22400000 + up g.toNat 16 + up d.toNat 12 + up s.toNat 8 + up t.toNat 2⟩
  | .pfetch p b i => some ⟨(lendForS 10 i), 0x22500000 + up p.toNat 15 + up b.toNat 10 + lowBits 10 i.toNat⟩
  | .aadd e b v p => some ⟨none, 0x23000000 + up e.toNat 15 + up b.toNat 10 + up v.toNat 5 + up p.toNat 0⟩
  | .amin e b v p => some ⟨none, 0x23100000 + up e.toNat 15 + up b.toNat 10 + up v.toNat 5 + up p.toNat 0⟩
  | .amax e b v p => some ⟨none, 0x23200000 + up e.toNat 15 + up b.toNat 10 + up v.toNat 5 + up p.toNat 0⟩
  | .aand e b v p => some ⟨none, 0x23300000 + up e.toNat 15 + up b.toNat 10 + up v.toNat 5 + up p.toNat 0⟩
  | .aor e b v p => some ⟨none, 0x23400000 + up e.toNat 15 + up b.toNat 10 + up v.toNat 5 + up p.toNat 0⟩
  | .axor e b v p => some ⟨none, 0x23500000 + up e.toNat 15 + up b.toNat 10 + up v.toNat 5 + up p.toNat 0⟩
  | .axchg e b v p => some ⟨none, 0x23600000 + up e.toNat 15 + up b.toNat 10 + up v.toNat 5 + up p.toNat 0⟩
  | .acas e b v p => some ⟨none, 0x23700000 + up e.toNat 15 + up b.toNat 10 + up v.toNat 5 + up p.toNat 0⟩
  | .radd e b v p => some ⟨none, 0x23800000 + up e.toNat 15 + up b.toNat 10 + up v.toNat 5 + up p.toNat 0⟩
  | .raddf b v p => some ⟨none, 0x23900000 + up b.toNat 10 + up v.toNat 5 + up p.toNat 0⟩
  | .rmax e b v p => some ⟨none, 0x23a00000 + up e.toNat 15 + up b.toNat 10 + up v.toNat 5 + up p.toNat 0⟩
  | .rmin e b v p => some ⟨none, 0x23b00000 + up e.toNat 15 + up b.toNat 10 + up v.toNat 5 + up p.toNat 0⟩
  | .vradd b v p => some ⟨none, 0x23c00000 + up b.toNat 10 + up v.toNat 5 + up p.toNat 0⟩
  | .qinit b v => some ⟨none, 0x24000000 + up b.toNat 10 + up v.toNat 5⟩
  | .qenq b v => some ⟨none, 0x24100000 + up b.toNat 10 + up v.toNat 5⟩
  | .qdeq b => some ⟨none, 0x24200000 + up b.toNat 10⟩
  | .qdeqw b => some ⟨none, 0x24300000 + up b.toNat 10⟩
  | .qlen b => some ⟨none, 0x24400000 + up b.toNat 10⟩
  | .dfr w v m => some ⟨none, 0x24800000 + up w.toNat 18 + up v.toNat 13 + up m.toNat 0⟩
  | .dfpop w v m => some ⟨none, 0x24900000 + up w.toNat 18 + up v.toNat 13 + up m.toNat 0⟩
  | .dfcnt => some ⟨none, 0x24a00000⟩
  | .fence p => some ⟨none, 0x25000000 + up p.toNat 0⟩
  | .waitv c b v p => some ⟨none, 0x25100000 + up c.toNat 17 + up b.toNat 10 + up v.toNat 5 + up p.toNat 0⟩
  | .waitfImm t n => some ⟨(lendForU 13 n), 0x25200000 + up t.toNat 14 + lowBits 13 n.toNat⟩
  | .waitfReg t s => some ⟨none, 0x25202000 + up t.toNat 14 + up s.toNat 8⟩
  | .tany s => some ⟨none, 0x25300000 + up s.toNat 10⟩
  | .tall s => some ⟨none, 0x25400000 + up s.toNat 10⟩
  | .tffr s => some ⟨none, 0x25500000 + up s.toNat 10⟩
  | .tclr t => some ⟨none, 0x25600000 + up t.toNat 14⟩
  | .fget t => some ⟨none, 0x25700000 + up t.toNat 14⟩
  | .fpub t s => some ⟨none, 0x25800000 + up t.toNat 14 + up s.toNat 9⟩
  | .fbind t a => some ⟨none, 0x25900000 + up t.toNat 14 + up a.toNat 10⟩
  | .msend v p => some ⟨none, 0x26000000 + up v.toNat 13 + up p.toNat 7⟩
  | .mrecv v p => some ⟨none, 0x26100000 + up v.toNat 13 + up p.toNat 7⟩
  | .cpy d s t f => some ⟨none, 0x40000000 + up d.toNat 17 + up s.toNat 13 + up t.toNat 7 + up f.toNat 0⟩
  | .cpyt d s t f => some ⟨none, 0x40200000 + up d.toNat 17 + up s.toNat 13 + up t.toNat 7 + up f.toNat 0⟩
  | .cpyg d s t f => some ⟨none, 0x40400000 + up d.toNat 17 + up s.toNat 13 + up t.toNat 7 + up f.toNat 0⟩
  | .cpys d s t f => some ⟨none, 0x40600000 + up d.toNat 17 + up s.toNat 13 + up t.toNat 7 + up f.toNat 0⟩
  | .cfill d v t f => some ⟨none, 0x40800000 + up d.toNat 17 + up v.toNat 13 + up t.toNat 7 + up f.toNat 0⟩
  | .mzero c => some ⟨none, 0x40a00000 + up c.toNat 19⟩
  | .mma c a b z => some ⟨none, 0x40c00000 + up c.toNat 19 + up a.toNat 15 + up b.toNat 11 + up z.toNat 0⟩
  | .mmasp c a b m z => some ⟨none, 0x40e00000 + up c.toNat 19 + up a.toNat 15 + up b.toNat 11 + up m.toNat 7 + up z.toNat 0⟩
  | .drain c d t p s f => some ⟨none, 0x41000000 + up c.toNat 19 + up d.toNat 15 + up t.toNat 9 + up p.toNat 7 + up s.toNat 4 + up f.toNat 0⟩
  | .padj d g r t p => some ⟨none, 0x41200000 + up d.toNat 17 + up g.toNat 13 + up r.toNat 9 + up t.toNat 3 + up p.toNat 1⟩
  | .hist s r b => some ⟨none, 0x41400000 + up s.toNat 17 + up r.toNat 12 + up b.toNat 7⟩
  | .chsend c s => some ⟨none, 0x41600000 + up c.toNat 13 + up s.toNat 9⟩
  | .chrecv c s t => some ⟨none, 0x41800000 + up c.toNat 13 + up s.toNat 9 + up t.toNat 3⟩
  | .chred c s t o => some ⟨none, 0x41a00000 + up c.toNat 13 + up s.toNat 9 + up t.toNat 3 + up o.toNat 0⟩
  | .coll r s d t => some ⟨none, 0x41c00000 + up r.toNat 16 + up s.toNat 12 + up d.toNat 8 + up t.toNat 2⟩
  | .mcst s r => some ⟨none, 0x41e00000 + up s.toNat 17 + up r.toNat 12⟩
  | .rdld d r t => some ⟨none, 0x42000000 + up d.toNat 17 + up r.toNat 12 + up t.toNat 6⟩
  | .jcard c r => some ⟨none, 0x42200000 + up c.toNat 19 + up r.toNat 14⟩
  | .setxf x s => some ⟨none, 0x42400000 + up x.toNat 19 + up s.toNat 14⟩
  | .sld a r => some ⟨none, 0x42600000 + up a.toNat 17 + up r.toNat 12⟩
  | .sset a c v => some ⟨none, 0x42800000 + up a.toNat 17 + up c.toNat 12 + up v.toNat 7⟩
  | .sget a c => some ⟨none, 0x42a00000 + up a.toNat 17 + up c.toNat 12⟩
  | .chset r => some ⟨none, 0x42c00000 + up r.toNat 16⟩
  | .chget c => some ⟨none, 0x42e00000 + up c.toNat 13⟩
  | .blockedBundleIssue _ => none
  | .issueTurnLimit _ => none
  | .resultLanding _ _ => none
  | .loadDataReturn _ _ _ _ => none
  | .sqEntryFill _ _ => none
  | .storePerform _ _ _ => none
  | .sldDataReturn _ _ _ => none
  | .engineCommandStart _ _ => none
  | .powerPermitGrant _ => none
  | .copyPieceWrite _ _ => none
  | .mmaComplete _ _ => none
  | .mzeroComplete _ _ => none
  | .drainRow _ _ => none
  | .reduceContribution _ _ => none
  | .padjRow _ _ => none
  | .histUpdate _ _ => none
  | .engineCommandCompletion _ _ => none
  | .blockFillComplete _ _ => none
  | .sliceAtomic _ _ _ => none
  | .sliceReduction _ _ _ => none
  | .sliceQueueOp _ _ _ => none
  | .groupRequestArrive _ _ => none
  | .groupHoldTimeout _ _ _ => none
  | .groupFillLand _ _ => none
  | .sevArrival _ _ => none
  | .exitDrainComplete _ _ => none
  | .teamExit _ _ => none
  | .engineHalt _ _ => none
  | .chaseAbort _ _ => none
  | .asyncTrapDelivery _ _ => none
  | .firmwareFaultService _ _ _ => none
  | .correctedError _ => none
  | .uncorrectableError _ _ => none
  | .cardWatchdogExpiry _ _ _ => none
  | .cardReplayStart _ _ => none
  | .cardComplete _ _ => none
  | .unitTimeLimitExpiry _ _ => none
  | .notify _ _ => none
  | .trigger _ _ => none
  | .statusClear _ => none
  | .hostRegisterWrite _ _ _ => none
  | .mapperBind _ => none
  | .slotRelinquish _ => none
  | .launch _ => none
  | .graph _ => none
  | .waitvPacket _ => none
  | .waitvPacketPoll _ => none
  | .signal _ => none
  | .barrier _ => none
  | .checkpoint _ => none
  | .checkpointDrainLimit => none
  | .checkpointComplete => none
  | .safeTierLoss => none
  | .restore _ => none
  | .scale _ => none
  | .graphNodeStart _ _ => none
  | .launchComplete _ => none
  | .dispatchUnit _ _ _ _ => none
  | .preload _ _ _ => none
  | .preemptRequest _ _ => none
  | .budgetOverrun _ _ => none
  | .budgetHintExpiry _ _ => none
  | .teamSave _ _ => none
  | .teamRestore _ _ _ _ => none
  | .moduleReset => none
  | .bootLinkTimeout => none
  | .invalidate _ => none
  | .tlbInvalidation => none
  | .powerStatus => none
  | .errorLogRead _ => none
  | .portStates => none
  | .attestationReport _ => none
  | .bootStatusQuery => none
  | .governorAdjust _ _ _ => none
  | .thermalStop _ => none
  | .meshSlotDepart _ _ => none
  | .meshPayloadArrive _ _ => none
  | .portDown _ => none
  | .modulePowerLoss => none
  | .transferArrive _ _ => none
  | .slotCreditReturn _ => none
  | .ringStep _ _ => none
  | .stackQueueStep _ _ => none
  | .reducingLoadReply _ _ _ => none
  | .channelTimeout _ => none
  | .unknownPacketKind _ => none
  | .ringReadFailed _ => none
  | .restoreComplete => none
  | .invalidateStatus => none
  | .acknowledgement _ => none
  | .failedBeat _ => none

/-- The instruction the decoder reads from a word given with the table's bit numbering. A syllable is one word of 32 bits; its
B bit frames bundles and names no operand; no header lends to it. -/
def decodeTableWord (nbits w : Nat) : Option Instr :=
  if nbits = 32 then decodeSyl none (w % 2 ^ 32) else none

end Sys2Proof
end

