-- ==== Sys2Proof/Config.lean ====
section
/-! DEFINITION. What the spec leaves to the implementation or to chance: free values, opaque, so that nothing can be proved of
them; and the numbers the spec fixes for the module. -/

namespace Sys2Proof.Config

/-- The bits an exposed result shows before it has landed (R169), an ended product leaves (R129, R335), and every other value the
spec calls unspecified: by the state's counter of free values and a key that tells the values of one step apart (log entry 3). -/
opaque freeBits : Nat → Nat → V1024

/-- A choice the spec leaves open between two outcomes (old or new bytes of changed code, R75; old or new value inside a window,
R47, R245; a copy kept or evicted, R72, R77; the bytes a torn access sees, R133): log entry 3. -/
opaque choice : Nat → Nat → Bool

/-- How far the reference timebase runs on between two steps, beyond one cycle (R201; log entry 5). -/
opaque ticks : Nat → Nat

/-- Which of the two bracketing f32 values an f32 special function returns (R60): by function and argument, the same on every core
(R378; log entry 6). -/
opaque sfUp : Nat → W32 → Bool

/-- Which of the two bracketing values a bf16 or f16 special function returns in degraded mode (R62; log entry 6). -/
opaque sfUpNarrow : Nat → Nat → BitVec 16 → Bool

/-- Sensor readings of telemetry command 0x01 (R409): power and temperatures (log entry 7). -/
opaque sensor : Nat → W64

/-- The module's fabric chip id (R355), set from outside; its serial, firmware version, fused minimum version (R399, R405). -/
opaque chipId : BitVec 14
opaque serial : W64
opaque minVersion : W32

/-- Whether an Ethernet port has its link, by port and boot attempt, and the boot file a fetch brings, by attempt; `none`: DHCPv6 or
TFTP fails at the stage named; a server that declines the blksize option (R398; log entry 8). -/
opaque linkUp : Nat → Nat → Bool
opaque bootFile : Nat → Nat → Option (List Byte)
opaque bootStage : Nat → Nat → Nat
opaque tftpDeclines : Nat → Nat → Bool

/-- The Milnel root key hash in fuses (R400) and the module's own LMS signing function, by leaf and message (R404). -/
opaque rootKeyHash : BitVec 256
opaque lmsSign : Nat → List Byte → List Byte

/-- The byte the safe tier gives back for one it was sent (R280): by the state's counter of free values, address and byte sent. -/
opaque tierBack : Nat → Nat → Byte → Byte

/-- How many bytes a safe-tier descriptor has, and the tier one names (R278, R292; log entry 102). -/
opaque tierBytes : Nat
opaque tierName : List Byte → Nat

/-- How many stages a boot has gone through when the host next looks (R398; log entry 19). -/
opaque bootPace : Nat → Nat

/-- Whether a Thawasil switch stands next to the members of an `rdld` (R364). -/
opaque hasSwitch : Nat → Bool

/-- The lines of an L1, the sectors of an instruction cache, the lines of a slice, and the bytes of the management complex's SRAM (R1). -/
def l1Lines : Nat := 3072
def icacheSectors : Nat := 4096
def sliceLines : Nat := 32768
def sramBytes : Nat := 67108864

/-- Device memory ends below this address (R76): 12 stacks of 80 GiB. -/
def deviceTop : Nat := 0xF000000000
/-- Bytes of one HBM stack (R76). -/
def stackBytes : Nat := 0x1400000000
/-- The save area of pre-emption (R302): device memory from here up. -/
def saveBase : Nat := 0xEF80000000
/-- Bit 47 of a physical address names host memory (R76). -/
def hostBit : Nat := 0x800000000000

end Sys2Proof.Config
end

