-- ==== Sys2Proof/Machine/State.lean ====
section
/-! DEFINITION. The state of the module: everything the spec gives it, as plain data, and the state after module reset.
Sparse tables are lists of key and value, keys strictly rising; an unlisted key holds the entry's reset value. -/

namespace Sys2Proof.Machine

/-- A sparse table: keys strictly rising. -/
abbrev Table (α : Type) := List (Nat × α)

/-- A byte memory in canonical form: addresses strictly rising, no entry 0 (an unlisted byte reads 0: log entry 1). -/
abbrev Memory := List Host.Cell

/-- Why the machine stops. -/
inductive Fault where
  /-- Raised by `step` and by every meaning but `moduleReset` once the module has lost power (R355: it stops at once, and
  everything it held on chip is lost). Safe: nothing runs on. -/
  | poweredOff
  deriving DecidableEq, Repr

/-- What the model refuses. -/
inductive Refusal where
  /-- Raised by an arm of `exec` whose instruction has no meaning yet; its argument is the table's mnemonic. Safe. -/
  | notModelled (mnemonic : String)
  deriving DecidableEq, Repr

/-! ### A context (R9) -/

/-- A steer register (R190): its condition half, and its target half with the misaligned and far flags. -/
structure Steer where
  cond : Bool
  tgt : BitVec 32
  mis : Bool
  far : Bool
  deriving DecidableEq, Repr

/-- An active `nest` level (R192, R193): level number, reverse bit, trip count c, passes P = c + e, pass number p, the first
bundle of its body, its end bundle and the bundle after that. -/
structure Nest where
  level : Nat
  rev : Bool
  trips : Nat
  passes : Nat
  pass : Nat
  body : Nat
  last : Nat
  after : Nat
  deriving DecidableEq, Repr

/-- Where an exposed result lands (R169). -/
inductive Dest where
  | s (n : Nat)
  | v (n : Nat)
  | m (n : Nat)
  | cond (k : Nat)
  deriving DecidableEq, Repr

/-- An exposed result in flight: the bits it writes, their values, and the first cycle at which it can be read (R169, R170). -/
structure Landing where
  dest : Dest
  mask : V1024
  val : V1024
  due : Nat
  deriving DecidableEq, Repr

/-- A reserved entry of `lq` (1,024 bits) or `lqs` (its low 64 bits) (R14, R15): how many parts of its data are still to come; the first of its bytes
that is lost, with its virtual and physical address (R265, R271); and the cell of the port it stands in (log entry 125). -/
structure PortEntry where
  id : Nat
  val : V1024
  left : Nat
  lost : Option (Nat × Nat × Nat)
  cell : Nat := 0
  deriving DecidableEq, Repr

/-- A reserved `sq` entry (R16): the bytes its result fills (R205), whether the result has landed, whether a lasting error has destroyed it
(R270), and its cell (log entry 125). -/
structure SqEntry where
  id : Nat
  val : V1024
  bytes : BitVec 128
  filled : Bool
  lost : Bool
  cell : Nat := 0
  deriving DecidableEq, Repr

/-- The function of an atomic (R232). -/
inductive AtomOp where
  | add | min | max | and | or | xor | xchg | cas
  deriving DecidableEq, Repr

/-- The function of a reduction (R233). -/
inductive RedOp where
  | add | addf | max | min
  deriving DecidableEq, Repr

/-- A slice-queue operation (R234). -/
inductive QueueOp where
  | init | enq | deq | deqw | len
  deriving DecidableEq, Repr

/-- What an outstanding global access of a context does when it is performed (R134). -/
inductive OpKind where
  /-- delivers its bytes to entry `entry` of `lq` or `lqs`, sign-extended from `sext` bits where it names some -/
  | load (toLq : Bool) (entry : Nat) (sext : Option Nat)
  /-- fills stream register `a` (R247) -/
  | sld (a : Nat)
  /-- writes its bytes; `sq` names the `sq` entry whose result must land first (R16) -/
  | store (sq : Option Nat)
  | atomic (f : AtomOp) (size : Nat) (v e : W64) (entry : Nat)
  | reduce (f : RedOp) (size : Nat) (v : W64)
  | queue (f : QueueOp) (v : W64) (entry : Nat)
  | fence
  /-- an `lst` (R227): the bit address, width and value of each element it writes to the window -/
  | lst (elems : List (Nat × Nat × Nat))
  /-- a pub of `fpub` (R116, R134): tag, binding, frontier -/
  | pub (tag gen : Nat) (n : Nat)
  /-- an arrive of `barv` (R134) at the barrier with this key -/
  | arrive (key : Nat)
  deriving DecidableEq, Repr

/-- An access issued and not yet performed, in program order (R133 to R138). A load's `bytes` pair each physical address with
the byte of the entry it fills; a store's `writes` pair each physical address with its byte. `part`: what has happened of it already (R133): of a load,
the bytes it has read, by their place in the entry; of a store, those it has written, which `writes` holds no longer. -/
structure MemOp where
  id : Nat
  kind : OpKind
  bytes : List (Nat × Nat)
  writes : List (Nat × Byte)
  ord : Nat
  scope : Nat
  bundle : Nat
  /-- the virtual address of its first byte; no access crosses a 64 KiB page (R66) -/
  va : Nat
  part : List (Nat × Byte) := []
  deriving DecidableEq, Repr

/-- A trap that has become due (R127, R263): its cause, its 64-byte record (R265), the halted command whose choice `rte` carries
(R128), and whether it is a unit watchdog (R277). -/
structure Trap where
  cause : Nat
  record : W512
  cmd : Option Nat
  unitWd : Bool
  /-- a walk that failed on V = 0, which the firmware is asked about before the trap is delivered (R267) -/
  ask : Bool
  deriving DecidableEq, Repr

/-- A fault as a check finds it: the step of R166 it is taken at, its cause (R260) and the fields of its record (R265). `vzero`: a
walk that failed on an entry with V = 0 (R267). -/
structure Flt where
  step : Nat
  cause : Nat
  addr : Nat := 0
  layout : Nat := 0
  coord : List Int := []
  cursor : Nat := 0
  detail : Nat := 0
  tag : Nat := 0
  kind : Nat := 0
  producer : Nat := 0
  syl : Nat := 0
  pa : Nat := 0
  vzero : Bool := false
  /-- a MISMATCH tag whose trap moves it to ABORTED (R97, R114) -/
  mismatch : Option Nat := none
  /-- the register, granule, accumulator, command or tag whose data an MCHK finds lost (R274) -/
  unit : Option ErrSite := none
  deriving DecidableEq, Repr

/-- What a context is doing. -/
inductive CtxStatus where
  /-- not resident -/
  | free
  /-- issues bundles, or is parked in `qdeqw` (`Ctx.parks`) -/
  | ready
  /-- in the drain of `exit` (R30); its `exit` bundle is at `pc` -/
  | exiting
  /-- has executed `exit` (R31) -/
  | exited
  /-- waits for the firmware's fault service (R267): the trap to take if it declines; with `ask`, a trap whose record it asks for a place for -/
  | service (t : Trap)
  /-- stopped by a nested fault (R263) -/
  | dead
  deriving DecidableEq, Repr

/-- An `sset` issued and inside its window of R245: the stream (or `lb`, `sg` register) number, the field code of R244, the value
and the cycle of issue. -/
structure PendingSet where
  reg : Nat
  code : Nat
  val : W64
  at_ : Nat
  deriving DecidableEq, Repr

/-- The handler a context is in (R263): what it returns from. -/
structure Handler where
  cause : Nat
  cmd : Option Nat
  unitWd : Bool
  /-- the withdrawn `qdeqw`s that are sent again when `rte` returns to them (R262): queue, and the pc after the bundle -/
  resend : List (Nat × Nat)
  deriving DecidableEq, Repr

/-- A hardware context (R9). -/
structure Ctx where
  status : CtxStatus
  /-- address of the next bundle -/
  pc : Nat
  s : Vector W64 32
  v : Vector V1024 32
  m : Vector W64 8
  st : Vector Steer 12
  a : Vector W512 16
  lb : Vector W64 8
  sg : BitVec 4
  pj : Vector (BitVec 256) 4
  sets : List PendingSet
  /-- streams whose `sld` met lost data (R247): stream, virtual and physical address of the first byte lost (R265) -/
  lostA : Table (Nat × Nat)
  /-- `lq`, `lqs`, `sq` (R14), oldest first -/
  lq : List PortEntry
  lqs : List PortEntry
  sq : List SqEntry
  /-- the deferral queue (R236): its entries, oldest first -/
  dfq : List (List W32)
  /-- special registers 4 and 11 to 23 (R201) -/
  unit : Nat
  launch : W64
  seqlen : W64
  evt : Bool
  mpol : W64
  tcause : W64
  tpc : W64
  trec : W64
  lfsr : W32
  epoch : W64
  budget : BitVec 27
  /-- active `nest` levels, innermost first -/
  nest : List Nest
  handler : Option Handler
  pending : List Trap
  /-- groups the context is enrolled in, each with its sequence counter (R94) -/
  groups : Table Nat
  flight : List Landing
  ops : List MemOp
  /-- the barrier phases this context has arrived in with a `bar` and waits for (R32): barrier key, bundle, phase -/
  arrived : List (Nat × Nat × Nat)
  /-- the `qdeqw`s it is parked in (R235): queue, and the first of the two reserved entries -/
  parks : List (Nat × Nat)
  /-- `qdeqw`s to send again before the next bundle (R235): their queues -/
  resend : List Nat
  /-- has returned from a unit watchdog, whose `rte` acts as `exit` (R277) -/
  condemned : Bool
  /-- counter of port entries and accesses, for their names -/
  seq : Nat
  /-- steers whose target half a `prep` or `prepx` wrote, with the bundles since (R171): steer, by `prepx`, distance -/
  preps : List (Nat × Bool × Nat)
  /-- registers whose data a lasting error has destroyed (R271, R272), numbered as in `ErrSite.register`, and those of them whose cells are
  this core's, so that no later write mends them (R273) -/
  lostRegs : List Nat
  deadRegs : List Nat
  deriving DecidableEq, Repr

/-! ### Streams, tags, engines (R10) -/

/-- The effective geometry of a stream at issue (R242), with everything a command copies (R248): the descriptor, base, pitch,
origins, the layout record and its address, the `xf` value and the chase attachment (tag, binding number). -/
structure Geo where
  desc : W512
  space : Nat
  fmt : Nat
  trav : Nat
  xf : W32
  base : Int
  pitch : Int
  d0 : Nat
  d1 : Nat
  clamp : Bool
  org : List Int
  layout : Option (Nat × W512)
  sbase : Nat
  sstride : Int
  chase : Option (Nat × Nat)
  deriving DecidableEq, Repr

/-- The geometry a producer's tag holds for its chasers (R108, R118): space, format, element width in bits, the bit position of its first
element, pitch, inner shape, line count, lines of one tile and traversal. -/
structure TagGeo where
  space : Nat
  fmt : Nat
  w : Nat
  base : Int
  pitch : Int
  d0 : Nat
  lines : Nat
  d1 : Nat
  trav : Nat
  /-- each q4 block of 8 elements is followed by its scale byte (R87) -/
  inl : Bool
  deriving DecidableEq, Repr

/-- The states of a tag (R112). -/
inductive TagState where
  | free | bound | halted | ready | aborted | mismatch | releasing
  deriving DecidableEq, Repr

/-- A tag of a team (R112, R113): `gen` counts its bindings, so that a chase stays with the binding it attached to (R120). -/
structure Tag where
  state : TagState
  producer : Nat
  f : Nat
  n : Nat
  geo : Option TagGeo
  skipped : Bool
  gstat : Nat
  cascade : Bool
  gen : Nat
  binder : Nat
  group : Nat
  deriving DecidableEq, Repr

/-- The engine commands (R14). -/
inductive CmdKind where
  | cpy | cpyt | cpyg | cpys | cfill | hist | mzero | mma | mmasp | drain | padj | jcard
  | chsend | chrecv | chred | coll | mcst | rdld
  /-- a group load's request (R231), which takes no queue entry -/
  | gld
  /-- a load-block fill (R228), which takes no queue entry -/
  | ldblk
  deriving DecidableEq, Repr

/-- Where a command stands (R17, R126, R256). -/
inductive CmdState where
  | queued
  /-- waits for a power permit (R308) -/
  | permit
  | running
  | halted
  /-- every piece is done; only its completion is left -/
  | finished
  /-- a job card ended by its watchdog, waiting for another core (R382) -/
  | requeued
  deriving DecidableEq, Repr

/-- The fault a halted command met (R126): cause, address, coordinates, cursor, detail, physical address. -/
structure Halt where
  cause : Nat
  addr : Nat
  layout : Nat
  coord : List Int
  cursor : Nat
  detail : Nat
  pa : Nat
  /-- index at which the halted piece begins -/
  piece : Nat
  deriving DecidableEq, Repr

/-- An engine command, with the copies it took at issue (R248). -/
structure Cmd where
  id : Nat
  kind : CmdKind
  ctx : Nat
  team : Nat
  bundle : Nat
  pos : Nat
  /-- accesses of its context with a lower name precede it in program order (R147) -/
  mark : Nat
  dst : Option Geo
  src : Option Geo
  src2 : Option Geo
  src3 : Option Geo
  flags : Nat
  /-- its destination tag and the binding's number -/
  tag : Option (Nat × Nat)
  acc : Option Nat
  pj : BitVec 256
  pset : Nat
  /-- a fill value, contributor count, base exponent or release scope, as its kind says -/
  val : W64
  /-- address of its list, record or card -/
  list : Nat
  n : Nat
  chan : Nat
  /-- the record read at issue: a job card, a `coll`, `mcst` or `rdld` record -/
  desc : List Byte
  st : CmdState
  /-- pieces, rows, chunks or elements done -/
  prog : Nat
  sum : Nat
  /-- the `lqs` entry it fills at completion -/
  entry : Option Nat
  halt : Option Halt
  /-- indices at which the pieces to skip begin (R128) -/
  skip : List Nat
  /-- the value written to open a tile-atomic store (R149) -/
  opened : Option W64
  /-- the version word a tile-atomic read began from (R150) -/
  readVer : Option W64
  replays : Nat
  /-- holds a power permit (R308) -/
  granted : Bool
  /-- transfers of a send, or of a ring step, waiting for acknowledgement: channel, id -/
  sent : List (Nat × Nat)
  /-- partial values of a product, by element; the row values of a `padj`, row × d0 + column (R323) -/
  part : Table W32
  /-- a list entry read (R253); the bytes received in the step of a collective under way; the data of an `rdld` -/
  buf : List Byte
  /-- the bytes a collective sends in its step, and the chunks of its destination that are complete (R374); of a reduce-drain in the midst of a
  piece, the places of the piece's contributions (physical address + 1, or 0 for none) -/
  carry : List Byte
  chunks : List Nat
  /-- chunks of its step still to be written (R374): chunk, elements of it written, its bytes; and what its next step sends, once known -/
  puts : List (Nat × Nat × List Byte)
  next : Option (List Byte)
  /-- a lasting error has destroyed what its queue or engine holds of it (R270, R271) -/
  lost : Bool
  deriving DecidableEq, Repr

/-- An accumulator (R70, R328): its kind (true: s32), the command that keeps it busy (R125) and its elements, row × 128 + column;
an unlisted element is +0. -/
structure Acc where
  isInt : Bool
  busy : Option Nat
  cells : Table W32
  deriving DecidableEq, Repr

/-- A barrier (R32): its phase, who has arrived in it, who of them with a `bar` behind other syllables of its bundle, and who did so in the
phase before: those syllables are performed before anyone else leaves that phase (R137). `owed`: 0 until the bundle has issued, then
one more than the name that follows its accesses'. -/
structure Barrier where
  phase : Nat
  arrived : List Nat
  owing : List Nat
  owed : Table Nat
  deriving DecidableEq, Repr

/-- A live load-block (R73): the tag and the binding it is under, its virtual address, and its lines, by PA / 128 (a line that did not
translate, by 2^60 + VA / 128). -/
structure Block where
  tag : Nat
  gen : Nat
  va : Nat
  lines : List Nat
  deriving DecidableEq, Repr

/-- A team resident on a core (R22), named by its first context: its launch, unit, size, window place and bytes, tags,
live load-blocks, the pair it shares barriers with (R33), and the pre-emption asked of it (R300). -/
structure Team where
  launch : Nat
  unit : Nat
  size : Nat
  /-- physical offset of its window in each bank group, in 4 KiB units (R24) -/
  place : Nat
  win : Memory
  tags : Table Tag
  blocks : List Block
  /-- names the barrier numbering of the team; the two teams of a pair share theirs (R33) -/
  barKey : Nat
  /-- asked to stop (R301) -/
  stopping : Bool
  /-- a request deferred by a budget hint (R300) -/
  deferred : Bool
  /-- core clock at its dispatch or resumption -/
  since : Nat
  /-- data that was lost when the team was saved (R271): 16 KiB granules of its window by number, and accumulators -/
  lostWin : List Nat
  lostAccs : List Nat
  /-- tags and barriers a lasting error has destroyed (R270) -/
  lostTags : List Nat
  lostBars : List Nat
  deriving DecidableEq, Repr

/-- A channel table entry as the core's image gives it, 256 bits (R357). -/
abbrev ChanEntry := BitVec 256

/-- A cached translation (R104): table root, virtual page address, page bytes, physical page address, W, X. -/
structure TlbEntry where
  root : Nat
  va : Nat
  size : Nat
  pa : Nat
  w : Bool
  x : Bool
  deriving DecidableEq, Repr

/-- What the tables under a root held when they came into force (R104): at a launch's taking, at an invalidation, or when a walk first used an
entry made valid since. `mem` governs the entries whose lowest index bit is `top` or below and that map an address from `lo` up to `hi`. -/
structure Kept where
  lo : Nat
  hi : Nat
  top : Nat
  mem : Memory
  deriving DecidableEq, Repr

/-- A `sev` on its way to a context (R34): the context, the core that issued it, and the last cycle of the window on that core's clock and
on the clock of the core it goes to. -/
structure Sev where
  ctx : Nat
  issuer : Nat
  until_ : Nat
  due : Nat
  deriving DecidableEq, Repr

/-- A job card that waits in a core's matrix queue, or runs there, for another core (R382): the core that issued it, its command, the first
command behind it in the queue, and whether it runs. -/
structure Guest where
  core : Nat
  cmd : Nat
  before : Nat
  running : Bool
  deriving DecidableEq, Repr

/-- A core (R8, R10). -/
structure Core where
  /-- cycles the core has counted: issues, bubbles and idle cycles (R169, R171) -/
  clock : Nat
  /-- the context that issued last, and how many consecutive issue cycles it has issued while another context was able to (R11 g) -/
  cur : Nat
  run : Nat
  /-- the place in the order of R12 that this cycle's search for a context has reached, and whether the order begins after `cur`: it has blocked,
  yielded, or come to the end of its turn (R11) -/
  idle : Nat
  spent : Bool
  ctxs : Vector Ctx 4
  xf : Vector W32 4
  /-- `setxf` writes inside their window (R47): register, value, cycle of issue -/
  xfSets : List (Nat × W32 × Nat)
  accs : Vector Acc 4
  /-- the team that holds the accumulators (R71) -/
  accOwner : Option Nat
  teams : Table Team
  /-- barriers, by team key × 16 + number -/
  barriers : Table Barrier
  /-- engine commands not yet complete, in issue order -/
  cmds : List Cmd
  cmdSeq : Nat
  /-- job cards replayed here (R382) -/
  guests : List Guest
  /-- the channel table (R357) and the address of its image -/
  chans : Table ChanEntry
  chanImage : Option Nat
  /-- virtual address translation of the image's page is taken at each write; the launch that loaded it -/
  chanRoot : Nat
  /-- L1 copies of bytes (R72) -/
  l1 : Memory
  /-- L1 sectors present, by PA / 32 -/
  l1Sectors : List Nat
  /-- instruction-cache copies (R75): sector PA / 32, its bytes -/
  icache : Table (List Byte)
  tlb : List TlbEntry
  /-- launches whose contexts have exited here since the core's last kernel boundary with them (R151) -/
  ran : List Nat
  /-- lines written since the last release at die or wider scope (R153), the last published signature (R155), and how many of
  its die's signatures its last acquire has seen (R154) -/
  written : List Nat
  sig : W512
  sigSeen : Nat
  /-- `sev`s on their way to contexts of the core (R34) -/
  sevs : List Sev
  /-- retired units (R273): special-function bank, half the matrix array, local-store granules, the core itself; of the granules, those whose
  data is lost (R270) -/
  sfDegraded : Bool
  halfRate : Bool
  granules : List Nat
  deadGranules : List Nat
  retired : Bool
  /-- a unit whose loss retires the core at the next kernel boundary -/
  retiring : Bool
  /-- accumulators a lasting error has destroyed (R271) -/
  lostAccs : List Nat
  /-- entries of the channel table whose data is lost (R271), and those whose cells are broken (R273); broken barriers, base × 16 + number -/
  lostChans : List Nat
  deadChans : List Nat
  deadBars : List Nat
  /-- the unit preloaded (R298): launch, unit -/
  preload : Option (Nat × Nat)
  deriving DecidableEq, Repr

/-! ### Dies, slices, memory -/

/-- A slice queue (R81): capacity, entries oldest first, the entries its ring has held since its creation as (place, value), oldest first, how many
entries have been put in the ring since its last `qinit`, and parked waiters as (core, context, first of their two entries). -/
structure SliceQueue where
  cap : Nat
  items : List W64
  past : List (Nat × W64)
  next : Nat
  waiters : List (Nat × Nat × Nat)
  deriving DecidableEq, Repr

/-- A deterministic reduction buffer (R340): its location's physical address, contributor count, integer or f32, and the
contributions as (core, context, order of issue, value). `rels`: the releasing commands whose last contribution it holds, as (core, command,
scope) (R146). `who`: the commands whose contributions it holds, as (core, command, virtual
address of the location). -/
structure DetBuf where
  pa : Nat
  count : Nat
  isInt : Bool
  got : List (Nat × Nat × Nat × W32)
  rels : List (Nat × Nat × Nat)
  who : List (Nat × Nat × Nat)
  deriving DecidableEq, Repr

/-- A compute die: copies its slices hold of lines homed elsewhere (R77), which of those bytes are dirty, the published
signatures (R153), the governor's clock in 10 MHz, permit count and waiting commands (R308). -/
structure Die where
  copies : Memory
  present : List Nat
  dirty : List Nat
  sigs : List W512
  clk : Nat
  permits : Nat
  /-- commands waiting for a permit, in order of request, and holding one: (core, command) -/
  waiting : List (Nat × Nat)
  holding : List (Nat × Nat)
  deriving DecidableEq, Repr

/-! ### Launches, groups, mesh -/

/-- A request of a group load (R95): the member, its command, and whether nothing more is owed to it. -/
structure GroupAsk where
  core : Nat
  ctx : Nat
  cmd : Nat
  served : Bool
  deriving DecidableEq, Repr

/-- A hold entry (R95). -/
structure Hold where
  seq : Nat
  released : Bool
  timedOut : Bool
  mismatch : Bool
  src : Geo
  /-- the first request's destination, which later ones may differ from in base only (R97) -/
  dst : Geo
  asks : List GroupAsk
  /-- the elements read at release, in the destination's traversal, which all members share: code and scale byte × 2^32 -/
  data : List Nat
  /-- halted on a fault of its source (R98) -/
  halted : Bool
  deriving DecidableEq, Repr

/-- A group of a launch on a die (R93): limits from its table word (R390), members, highest number asked plus one, holds. -/
structure Group where
  members : Nat
  hold : Nat
  joined : List (Nat × Nat)
  next : Nat
  holds : List Hold
  deriving DecidableEq, Repr

/-- A mesh grant of the slot table (R350) with its payload buffers (R352): its 64-bit word, sent, travelling and received; how many payloads have come,
which take the receiver's two buffers in turn, and the buffers a lasting error has destroyed (R271). -/
structure Grant where
  word : W64
  sendBuf : List V1024
  moving : List V1024
  recvBuf : List V1024
  came : Nat := 0
  dead : List Nat := []
  deriving DecidableEq, Repr

/-- Where a unit of a launch stands. -/
inductive UnitState where
  | waiting
  | resident (core base : Nat)
  | saved (core : Nat)
  | done
  | abandoned
  deriving DecidableEq, Repr

/-- A unit that has left `waiting` once: its rerun count (R306), the die that ran it last, and whether its time limit has expired in
its present run (R277). -/
structure UnitRec where
  state : UnitState
  reruns : Nat
  die : Nat
  expired : Bool
  expiredAt : Nat := 0
  preempted : Bool := false
  /-- pre-empted at its budget (R300): it gives way to the units of other launches that wait on its die, until one of them has its turn (R299, R305) -/
  gaveWay : Bool := false
  deriving DecidableEq, Repr

/-- A team saved by pre-emption (R302, R303). -/
structure SavedTeam where
  launch : Nat
  unit : Nat
  die : Nat
  /-- its first context -/
  base : Nat
  team : Team
  ctxs : List Ctx
  cmds : List Cmd
  accs : Option (Vector Acc 4)
  barriers : Table Barrier
  xf : Vector W32 4
  chans : Table ChanEntry
  chanImage : Option Nat
  chanRoot : Nat
  lostChans : List Nat
  deriving DecidableEq, Repr

/-- A launch taken and not yet complete (R288, R290). -/
structure Launch where
  epoch : W64
  queue : Nat
  /-- its packet's index in the queue, or its node of a graph run -/
  packet : Nat
  node : Option Nat
  hdrVa : Nat
  hdr : W512
  groupWords : List W32
  params : W64
  recBase : Nat
  root : Nat
  completion : Nat
  seed : W32
  dieMask : BitVec 4
  firmware : Bool
  unitLimit : Nat
  budget : Nat
  rerunLimit : Nat
  interrupt : Bool
  image : Memory
  grants : List Grant
  units : Table UnitRec
  /-- groups, by die × 16 + number -/
  groups : Table Group
  /-- status, cause and tpc to report, once decided (R291) -/
  status : Nat
  cause : Nat
  tpc : W64
  /-- ended (R307): no further unit is dispatched -/
  ended : Bool
  deriving DecidableEq, Repr

/-! ### Host queues, fabric, platform -/

/-- A task graph installed for a queue (R294): its nodes (LAUNCH packets), edges, and completion record address. -/
structure Graph where
  nodes : List W512
  edges : List (Nat × Nat)
  completion : Nat
  bytes : Nat
  deriving DecidableEq, Repr

/-- How a node of a graph run ended: what its completion record carries (R291, R295). -/
structure NodeEnd where
  status : Nat
  cause : Nat
  tpc : W64
  deriving DecidableEq, Repr

/-- A run of a graph (R295): its trigger word, whether its patches have been applied, nodes started, and statuses of the nodes that
have completed. -/
structure GraphRun where
  trigger : W64
  begun : Bool
  started : List Nat
  done : Table NodeEnd
  deriving DecidableEq, Repr

/-- A host queue (R281 to R283): its registers, the slot it holds and since when, packets taken and not complete, a packet
that stops the taking of later ones (R287), its graph and runs, and how often its interrupt was raised. -/
structure HostQueue where
  notify : Nat
  ringBase : W64
  control : W64
  readIndex : Nat
  reason : Nat
  slot : Option Nat
  open_ : List Nat
  /-- a waiting WAITV, BARRIER or FIRMWARE packet (R287): its index and its 64 bytes -/
  waiting : Option (Nat × W512)
  /-- SIGNAL packets taken that still wait for earlier packets (R293): index, packet -/
  signals : List (Nat × W512)
  graph : Option Graph
  /-- graphs to be installed once the runs of the installed one have completed (R294): index and packet that asked, graph -/
  nextGraphs : List (Nat × W512 × Graph)
  runs : List GraphRun
  interrupts : Nat
  deriving DecidableEq, Repr

/-- The live state of a channel number of the module (R357): the launch, core and entry it belongs to, its transfer ids (last
posted, last acknowledged, last whose slot the peer has freed), arrivals not yet consumed (id, bytes), the id of the last whole arrival, and the bytes
of the next transfer that have landed. -/
structure Channel where
  core : Nat
  entry : ChanEntry
  imageVa : Nat
  root : Nat
  posted : Nat
  acked : Nat
  freed : Nat
  arrived : List (Nat × List Byte)
  came : Nat
  landing : List Byte
  state : Nat
  /-- of an ABORTED channel: the channel whose timer expired × 2^24 + the silent peer's chip id (R365, R366) -/
  silent : Nat
  deriving DecidableEq, Repr

/-- A transfer that has left for a peer (R358): this module's channel, the peer's chip and channel, id and bytes. -/
structure Transfer where
  chan : Nat
  chip : Nat
  peer : Nat
  id : Nat
  data : List Byte
  deriving DecidableEq, Repr

/-- An entry of the firmware's error log (R274): what happened (0 corrected, 1 transient, 2 retirement, 3 MCHK), where, `cycle`. -/
structure LogEntry where
  kind : Nat
  site : ErrSite
  cycle : W64
  deriving DecidableEq, Repr

/-- A checkpoint or restore under way (R278, R280): the queue and packet that asked, 0 draining, 1 streaming, and restore or not. -/
structure Checkpoint where
  queue : Nat
  packet : Nat
  desc : W512
  restore : Bool
  stage : Nat
  deriving DecidableEq, Repr

/-- A reply of the telemetry service (R409), as 64-bit words. -/
structure Reply where
  command : Nat
  words : List W64
  deriving DecidableEq, Repr

/-- A report for a nonce (R405): the firmware image's digest and security version, the retired units of each kind of R273 (lines, pages,
granules, half arrays, function banks, cores), and the leaf it is signed with; `none` where the key is exhausted (R404). -/
structure Report where
  nonce : BitVec 256
  digest : BitVec 256
  version : W32
  retired : List Nat
  leaf : Option Nat
  signature : List Byte
  deriving DecidableEq, Repr

/-- The image on a safe tier (R279): device memory in 2 MiB chunks, and the manifest: the epoch counter, queue positions (write and read index),
graphs, the SHA-256 digest of each chunk, and the 64 KiB pages that are lost. -/
structure SafeImage where
  mem : Memory
  epoch : Nat
  queues : Table (Nat × Nat)
  graphs : Table Graph
  digests : List (BitVec 256)
  lost : List Nat
  deriving DecidableEq, Repr

/-- A TLB invalidation whose entries have been removed (R268): the request's record, and what was under way through them: accesses (core,
context, name), and commands in the midst of a piece (core, name, frontier). -/
structure InvalCut where
  record : Nat
  ops : List (Nat × Nat × Nat)
  cmds : List (Nat × Nat × Nat)
  deriving DecidableEq, Repr

/-- A management core (R1): its RV64GC registers. -/
structure MgmtCore where
  pc : W64
  x : Vector W64 32
  f : Vector W64 32
  fcsr : W32
  deriving DecidableEq, Repr

/-- A transfer that a remote host and the host have agreed on over a scale-out queue pair (R406): into device memory, or out of it; where, the
bytes that come in or how many go out, and where its completion goes and what it writes there. -/
structure Rdma where
  into : Bool
  pa : Nat
  data : List Byte
  size : Nat
  completion : Nat
  word : W64
  deriving DecidableEq, Repr

/-- The management complex and the module's edge (R398 to R410). -/
structure Platform where
  /-- the management cores and their SRAM (R1) -/
  mgmt : Vector MgmtCore 8
  sram : Memory
  /-- boot status register (R401): stage -/
  boot : Nat
  bootPort : Nat
  bootRetries : Nat
  /-- security version and digest of the image that runs (R399, R405) -/
  version : W32
  digest : BitVec 256
  /-- pending invalidation requests, oldest first, and the dropped bit (R401) -/
  inval : List W64
  dropped : Bool
  /-- the oldest request, once its entries have been removed (R268) -/
  cut : Option InvalCut
  log : List LogEntry
  corrected : Nat
  /-- next LMS leaf (R404) -/
  leaf : Nat
  /-- requests for a report whose leaf counter is durable and that are not yet signed, oldest first: the nonce, and the leaf, if one is left (R404) -/
  signing : List (BitVec 256 × Option Nat)
  replies : List Reply
  reports : List Report
  /-- scale-out queue pairs (R406): what each has still to do, in order; and what each has sent to its remote host -/
  pairs : Table (List Rdma)
  remote : Table (List (List Byte))
  /-- TW ports taken down (R355), and beats repeated on each port -/
  portsDown : List Nat
  repeats : Table Nat
  ckpt : Option Checkpoint
  /-- images by safe tier (R278), and the chunks the completion of the last restore lists as left zero (R280) -/
  safe : Table SafeImage
  zeroed : List Nat
  /-- 64 KiB pages retired by a lasting error (R273), and physical bytes whose data is lost -/
  retiredPages : List Nat
  /-- cache and TLB lines retired -/
  retiredLines : Nat
  lost : List Nat
  /-- times of transient errors per location (R270): the location, `cycle` -/
  transients : List (ErrSite × Nat)
  thermal : List Nat
  deriving DecidableEq, Repr

/-- The module. -/
structure State where
  powered : Bool
  /-- what moves next: rows of the table that are no syllables; when empty, the contexts issue in turn (log entry 2) -/
  agenda : List Instr
  /-- the core whose turn it is, and how many turns in a row have blocked -/
  turn : Nat
  stall : Nat
  /-- how many events the module's own arbiter has picked (log entry 2) -/
  beat : Nat
  /-- counter that names the next free values (log entry 3) -/
  free : Nat
  /-- counter that names the barrier numberings of teams (R25, R33) -/
  barKeys : Nat
  /-- the reference timebase (R201) -/
  cycle : W64
  mem : Memory
  cores : Table Core
  dies : Vector Die 4
  /-- the TLBs of each die (R104) -/
  tlbs : Table (List TlbEntry)
  /-- what the tables in force hold, by their root, newest first (R104) -/
  tables : Table (List Kept)
  launches : Table Launch
  /-- next value of the launch counter (R290) -/
  epochs : Nat
  saved : List SavedTeam
  sliceQueues : Table SliceQueue
  det : List DetBuf
  queues : Table HostQueue
  /-- the last queue bound at each priority (R285) -/
  lastBound : Vector Nat 4
  channels : Table Channel
  outbox : List Transfer
  /-- stack-queue entries in use per HBM stack (R361): (core, command) -/
  stackQ : Table (List (Nat × Nat))
  platform : Platform
  deriving DecidableEq, Repr

/-! ### Values when nothing has run -/

def Steer.zero : Steer := { cond := false, tgt := 0, mis := false, far := false }

/-- A context's registers when its unit starts (R22); fields a launch gives are set at dispatch (R290). -/
def Ctx.fresh : Ctx :=
  { status := .free, pc := 0, s := Vector.replicate 32 0, v := Vector.replicate 32 0, m := Vector.replicate 8 0,
    st := Vector.replicate 12 Steer.zero, a := Vector.replicate 16 0, lb := Vector.replicate 8 0, sg := 0,
    pj := Vector.replicate 4 0, sets := [], lostA := [], lq := [], lqs := [], sq := [], dfq := [], unit := 0, launch := 0, seqlen := 0,
    evt := false, mpol := 0, tcause := 0, tpc := 0, trec := 0, lfsr := 0, epoch := 0, budget := 0, nest := [], handler := none,
    pending := [], groups := [], flight := [], ops := [], arrived := [], parks := [], resend := [], condemned := false, seq := 0, preps := [],
    lostRegs := [], deadRegs := [] }

/-- +0 everywhere, kind F, not busy (R71). -/
def Acc.zero : Acc := { isInt := false, busy := none, cells := [] }

/-- A FREE tag that has had `gen` bindings. -/
def Tag.freeOf (gen : Nat) : Tag :=
  { state := .free, producer := 0, f := 0, n := 0, geo := none, skipped := false, gstat := 0, cascade := false, gen := gen,
    binder := 0, group := 0 }

/-- A core with no resident team (R47, R303). -/
def Core.fresh : Core :=
  { clock := 0, cur := 0, run := 0, idle := 0, spent := false, ctxs := Vector.replicate 4 Ctx.fresh, xf := Vector.replicate 4 0, xfSets := [],
    accs := Vector.replicate 4 Acc.zero, accOwner := none, teams := [], barriers := [], cmds := [], cmdSeq := 0, guests := [], chans := [],
    chanImage := none, chanRoot := 0, l1 := [], l1Sectors := [], icache := [], tlb := [], ran := [], written := [], sig := 0, sigSeen := 0,
    sevs := [], sfDegraded := false, halfRate := false, granules := [], deadGranules := [], retired := false, retiring := false, lostAccs := [],
    lostChans := [], deadChans := [], deadBars := [], preload := none }

/-- A die with no copies, at the nominal clock (R202), with the greatest permit count (R308; log entry 4). -/
def Die.fresh : Die :=
  { copies := [], present := [], dirty := [], sigs := [], clk := 200, permits := 32, waiting := [], holding := [] }

/-- A host queue at reset (R281 to R283). -/
def HostQueue.reset : HostQueue :=
  { notify := 0, ringBase := 0, control := 0, readIndex := 0, reason := 0, slot := none, open_ := [], waiting := none, signals := [],
    graph := none, nextGraphs := [], runs := [], interrupts := 0 }

/-- The management complex at reset: boot status 0 (R401), nothing pending; its cores' registers and its SRAM 0 (log entry 103). -/
def Platform.reset : Platform :=
  { mgmt := Vector.replicate 8 { pc := 0, x := Vector.replicate 32 0, f := Vector.replicate 32 0, fcsr := 0 }, sram := [], boot := 0, bootPort := 0, bootRetries := 0, version := 0, digest := 0, inval := [], dropped := false, cut := none, log := [], corrected := 0, leaf := 0, signing := [],
    replies := [], reports := [], pairs := [], remote := [], portsDown := [], repeats := [], ckpt := none, safe := [], zeroed := [], retiredPages := [], retiredLines := 0, lost := [],
    transients := [], thermal := [] }

/-- The module right after reset: no team resident, every host queue at its reset values (R281 to R283), the launch counter 1
(R290), `cycle` 0 (R201), no memory byte listed. -/
def State.reset : State :=
  { powered := true, agenda := [], turn := 0, stall := 0, beat := 0, free := 0, barKeys := 0, cycle := 0, mem := [], cores := [],
    dies := Vector.replicate 4 Die.fresh, tlbs := [], tables := [], launches := [], epochs := 1, saved := [], sliceQueues := [], det := [], queues := [],
    lastBound := Vector.replicate 4 0, channels := [], outbox := [], stackQ := [], platform := Platform.reset }

end Sys2Proof.Machine
end

