-- ==== Sys2Proof/Machine/Basic.lean ====
section
/-! DEFINITION. The plainest operations: sparse tables, bytes and bit fields, and the one way to a core, context, team or launch. -/

namespace Sys2Proof.Machine

/-! ### Sparse tables -/

/-- The entry at key `k`. -/
def tget {α : Type} : Table α → Nat → Option α
  | [], _ => none
  | (j, w) :: t, k => if k = j then some w else tget t k

/-- The table with `v` at key `k`. -/
def tput {α : Type} : Table α → Nat → α → Table α
  | [], k, v => [(k, v)]
  | (j, w) :: t, k, v => if k < j then (k, v) :: (j, w) :: t else if k = j then (k, v) :: t else (j, w) :: tput t k v

/-- The table without key `k`. -/
def tdel {α : Type} : Table α → Nat → Table α
  | [], _ => []
  | (j, w) :: t, k => if k = j then t else (j, w) :: tdel t k

/-! ### Byte memories -/

/-- The byte at `a`; an unlisted byte reads 0 (log entry 1). -/
def mget (m : Memory) (a : Nat) : Byte := (tget m a).getD 0

/-- `m` with byte `b` at `a`, in canonical form. -/
def mput (m : Memory) (a : Nat) (b : Byte) : Memory := if b = 0 then tdel m a else tput m a b

/-- The `n` bytes from `a` up. -/
def mread (m : Memory) (a n : Nat) : List Byte := (List.range n).map (fun i => mget m (a + i))

/-- `m` with `bs` from `a` up. -/
def mwrite (m : Memory) (a : Nat) : List Byte → Memory
  | [] => m
  | b :: bs => mwrite (mput m a b) (a + 1) bs

/-- The bytes of `m` with every address of `ks` removed. -/
def mdrop (m : Memory) (p : Nat → Bool) : Memory := m.filter (fun x => !p x.1)

/-- Addresses strictly rise from above `lo`, and no listed byte is 0. -/
def memFrom : Nat → Memory → Bool
  | _, [] => true
  | lo, (a, b) :: m => decide (lo ≤ a) && b != 0 && memFrom (a + 1) m

/-- The canonical form: equal memories are equal lists. -/
def Memory.wf (m : Memory) : Bool := memFrom 0 m

/-! ### Bytes and fields -/

/-- The little-endian number of some bytes (R65). -/
def leNat : List Byte → Nat
  | [] => 0
  | b :: bs => b.toNat + 256 * leNat bs

/-- The `n` little-endian bytes of a number (R65). -/
def leBytes : Nat → Nat → List Byte
  | 0, _ => []
  | n + 1, v => BitVec.ofNat 8 v :: leBytes n (v / 256)

/-- Bits `[lo + n - 1 : lo]` of a number. -/
def bits (v lo n : Nat) : Nat := v / 2 ^ lo % 2 ^ n

/-- A field of `n` bits read as two's complement. -/
def sbits (v lo n : Nat) : Int :=
  let u := bits v lo n
  if u < 2 ^ (n - 1) then u else (u : Int) - 2 ^ n

/-- `v` with bits `[lo + n - 1 : lo]` replaced by `x`. -/
def putBits (v lo n x : Nat) : Nat := v - bits v lo n * 2 ^ lo + x % 2 ^ n * 2 ^ lo

/-- `x` as a 64-bit signed number, reduced. -/
def ofInt (n : Nat) (x : Int) : BitVec n := BitVec.ofInt n x

/-- A vector entry, with the value of an index beyond it. -/
def vget {α : Type} {n : Nat} (v : Vector α n) (i : Nat) (d : α) : α := (v[i]?).getD d

/-- A vector with entry `i` replaced; an index beyond it changes nothing. -/
def vset {α : Type} {n : Nat} (v : Vector α n) (i : Nat) (x : α) : Vector α n := v.setIfInBounds i x

/-! ### Cores, contexts, teams, launches -/

/-- Core `c`; one never used is as at reset. -/
def State.core (s : State) (c : Nat) : Core := (tget s.cores c).getD Core.fresh

def State.putCore (s : State) (c : Nat) (k : Core) : State := { s with cores := tput s.cores c k }

/-- Context `x` of a core. -/
def Core.ctx (k : Core) (x : Nat) : Ctx := vget k.ctxs x Ctx.fresh

def Core.putCtx (k : Core) (x : Nat) (v : Ctx) : Core := { k with ctxs := vset k.ctxs x v }

def State.ctx (s : State) (c x : Nat) : Ctx := (s.core c).ctx x

def State.putCtx (s : State) (c x : Nat) (v : Ctx) : State := s.putCore c ((s.core c).putCtx x v)

/-- `f` applied to core `c`. -/
def State.modCore (s : State) (c : Nat) (f : Core → Core) : State := s.putCore c (f (s.core c))

/-- `f` applied to context `x` of core `c`. -/
def State.modCtx (s : State) (c x : Nat) (f : Ctx → Ctx) : State := s.putCtx c x (f (s.ctx c x))

/-- A die. -/
def State.die (s : State) (d : Nat) : Die := vget s.dies d Die.fresh

def State.putDie (s : State) (d : Nat) (v : Die) : State := { s with dies := vset s.dies d v }

/-- The die of a core, and its mesh position (R6). -/
def dieOf (c : Nat) : Nat := c / 64
def meshPos (c : Nat) : Nat := c % 64

/-- The resident team that context `x` belongs to, with its first context (R22). -/
def Core.teamOf (k : Core) (x : Nat) : Option (Nat × Team) :=
  k.teams.find? (fun t => t.1 ≤ x && x < t.1 + t.2.size)

def Core.putTeam (k : Core) (b : Nat) (t : Team) : Core := { k with teams := tput k.teams b t }

/-- Launch `l`, by its epoch. -/
def State.launchOf (s : State) (l : Nat) : Option Launch := tget s.launches l

def State.putLaunch (s : State) (l : Nat) (v : Launch) : State := { s with launches := tput s.launches l v }

def State.modLaunch (s : State) (l : Nat) (f : Launch → Launch) : State :=
  match s.launchOf l with
  | some v => s.putLaunch l (f v)
  | none => s

/-- The launch that context `x` of core `c` runs, with its number. -/
def State.launchAt (s : State) (c x : Nat) : Option (Nat × Launch) :=
  match (s.core c).teamOf x with
  | some (_, t) => (s.launchOf t.launch).map (fun l => (t.launch, l))
  | none => none

/-- The level-0 table a context's translations start from (R290); 0 when it runs no launch. -/
def State.rootAt (s : State) (c x : Nat) : Nat :=
  match s.launchAt c x with
  | some (_, l) => l.root
  | none => 0

/-! ### The kernel header (R26) -/

/-- Bits `[lo + n - 1 : lo]` of a 512-bit record. -/
def hbits (h : W512) (lo n : Nat) : Nat := bits h.toNat lo n

def hdrEntry (h : W512) : Nat := hbits h 460 52
def hdrTrap (h : W512) : Nat := hbits h 396 52
def hdrSlots (h : W512) : Nat := hbits h 332 52
def hdrImage (h : W512) : Nat := hbits h 268 52
def hdrExtent (h : W512) (j : Nat) : Nat := hbits h (64 + 32 * j) 32
def hdrClass (h : W512) : Nat := hbits h 62 2
def hdrPrio (h : W512) : Nat := hbits h 60 2
def hdrDepth (h : W512) : Nat := hbits h 57 3
/-- 0 absent, 1 temporal, 2 core-spatial, 3 die-spatial -/
def hdrKind (h : W512) (j : Nat) : Nat := hbits h (45 + 2 * j) 2
def hdrTeam (h : W512) : Nat := hbits h 43 2 + 1
def hdrScalars (h : W512) : Nat := hbits h 38 5
def hdrVectors (h : W512) : Nat := hbits h 33 5
def hdrTags (h : W512) : Nat := hbits h 26 7
def hdrStreams (h : W512) : Nat := hbits h 21 5
def hdrBarriers (h : W512) : Nat := hbits h 16 5
def hdrGroups (h : W512) : Nat := hbits h 11 5
/-- W, in bytes (R24) -/
def hdrWindow (h : W512) : Nat := hbits h 3 8 * 16384
def hdrPaired (h : W512) : Bool := hbits h 2 1 == 1

/-- The header a context runs under; all zero when it runs none. -/
def State.hdrAt (s : State) (c x : Nat) : W512 :=
  match s.launchAt c x with
  | some (_, l) => l.hdr
  | none => 0

/-- Whether an offset lies in a window of `w` bytes (R24). -/
def inWindow (w o : Nat) : Bool := decide (o < 0x200000) && decide (o % 0x80000 < w / 4)

end Sys2Proof.Machine
end

