-- ==== Sys2Proof/Machine/Mem.lean ====
section
/-! DEFINITION. Global memory: physical addresses and homes (R76, R77), the L1 and slice copies a party may still read
(R72, R77), signatures (R153 to R155), address translation (R101 to R104), and instruction fetch (R75). -/

namespace Sys2Proof.Machine

/-! ### Physical addresses -/

/-- Host memory (R76). -/
def isHost (pa : Nat) : Bool := decide (Config.hostBit ≤ pa)

/-- The home die of a physical address (R76); die 0 for host memory. -/
def homeDie (pa : Nat) : Nat := if isHost pa then 0 else pa / Config.stackBytes / 3

/-- The HBM stack of a device address (R76). -/
def stackOf (pa : Nat) : Nat := pa / Config.stackBytes

/-- The slice index of an address on its die (R76). -/
def sliceOf (pa : Nat) : Nat := pa / 4096 % 2 ^ 36 % 48

def lineOf (pa : Nat) : Nat := pa / 128
def sectorOf (pa : Nat) : Nat := pa / 32

/-- `n` consecutive addresses. -/
def span (a n : Nat) : List Nat := (List.range n).map (fun i => a + i)

/-- `x` added to a sorted list of distinct numbers. -/
def insertNat (x : Nat) : List Nat → List Nat
  | [] => [x]
  | y :: ys => if x < y then x :: y :: ys else if x = y then y :: ys else y :: insertNat x ys

/-! ### The slices of a die (R77) -/

/-- A byte as the slices of die `d` hold it: their copy of a line homed elsewhere, or home memory. -/
def State.dieRead (s : State) (d pa : Nat) : Byte :=
  let k := s.die d
  if homeDie pa = d then mget s.mem pa
  else if k.present.contains (lineOf pa) then mget k.copies pa else mget s.mem pa

/-- The slices of die `d` write back their dirty bytes among those `p` picks. -/
def State.dieFlush (s : State) (d : Nat) (p : Nat → Bool) : State :=
  let k := s.die d
  let out := k.dirty.filter p
  let s := { s with mem := out.foldl (fun m a => mput m a (mget k.copies a)) s.mem }
  s.putDie d { k with dirty := k.dirty.filter (fun a => !p a) }

/-- The slices of die `d` write back and drop the lines `p` picks. -/
def State.dieEvict (s : State) (d : Nat) (p : Nat → Bool) : State :=
  let s := s.dieFlush d (fun a => p (lineOf a))
  let k := s.die d
  s.putDie d { k with copies := mdrop k.copies (fun a => p (lineOf a)), present := k.present.filter (fun l => !p l) }

/-- A full slice (R1) gives up a line, any one, for that of `pa`. -/
def State.dieRoom (s : State) (d pa : Nat) : State :=
  let ls := (s.die d).present
  if ls.length < Config.sliceLines then s
  else
    let vs := ls.filter (fun l => sliceOf (l * 128) == sliceOf pa)
    if vs.length < Config.sliceLines then s
    else match vs[(Config.freeBits s.free pa).toNat % vs.length]? with
      | some v => s.dieEvict d (fun l => l == v)
      | none => s

/-- The slices of die `d` fetch a line homed elsewhere that they do not hold. -/
def State.dieFill (s : State) (d pa : Nat) : State :=
  if homeDie pa = d || (s.die d).present.contains (lineOf pa) then s
  else
    let s := s.dieRoom d pa
    let k := s.die d
    let a := lineOf pa * 128
    s.putDie d { k with copies := mwrite k.copies a (mread s.mem a 128), present := insertNat (lineOf pa) k.present }

/-- A byte written at the slices of die `d`: at home, or into their copy, which is then dirty. -/
def State.dieWrite (s : State) (d pa : Nat) (b : Byte) : State :=
  if homeDie pa = d then { s with mem := mput s.mem pa b }
  else
    let s := s.dieFill d pa
    let k := s.die d
    s.putDie d { k with copies := mput k.copies pa b, dirty := insertNat pa k.dirty }

/-- The slice queues whose state or ring holds a physical byte (R81). -/
def State.queuesAt (s : State) (pa : Nat) : Table SliceQueue :=
  s.sliceQueues.filter (fun q => q.1 ≤ pa && pa < q.1 + 64 + 8 * q.2.cap)

/-- The place in a queue's ring of its live entry `i`, the oldest 0, and the address of a place (R81). DESIGN CHOICE: entries take the places in
turn, the first after `qinit` place 0 (log entry 13). -/
def SliceQueue.placeOf (v : SliceQueue) (i : Nat) : Nat := (v.next - v.items.length + i) % v.cap
def ringAddr (q place : Nat) : Nat := q + 64 + 8 * place

/-- An entry joins a queue. -/
def SliceQueue.put (v : SliceQueue) (w : W64) : SliceQueue :=
  { v with items := v.items ++ [w], past := v.past ++ [(v.next % v.cap, w)], next := v.next + 1 }

/-- What byte `pa` of the ring of the queue at `q` held once the first `n` of the entries it has held had come, over memory's own `b` (R81). -/
def SliceQueue.held (v : SliceQueue) (q pa n : Nat) (b : Byte) : Byte :=
  match (v.past.take n).reverse.find? (fun e => ringAddr q e.1 == pa / 8 * 8) with
  | some e => BitVec.ofNat 8 (bits e.2.toNat (8 * (pa % 8)) 8)
  | none => b

/-- A byte as an ordinary read returns it: those of a sector of a slice queue's ring are what they held at some instant since the queue's creation,
and one of its state, whose layout the spec does not give, a free one (R81; log entry 13). DESIGN CHOICE: where a queue has been destroyed, its bytes
read as memory held them before (log entry 13). -/
def State.seen (s : State) (pa : Nat) (b : Byte) : Byte :=
  match s.queuesAt pa with
  | [] => b
  | qs =>
    if qs.any (fun q => decide (pa < q.1 + 64)) then (Config.freeBits s.free pa).setWidth 8
    else qs.foldl (fun b q => q.2.held q.1 pa ((Config.freeBits s.free (2 ^ 60 + sectorOf pa)).toNat % (q.2.past.length + 1)) b) b

/-! ### The L1 of a core (R72) -/

/-- The lines of the live load-blocks of a core (R73), which are never victims. -/
def Core.blockLines (k : Core) : List Nat :=
  k.teams.foldl (fun acc t => t.2.blocks.foldl (fun acc b => acc ++ b.lines.filter (fun l => decide (l < 2 ^ 41))) acc) []

/-- The L1 of core `c` drops the sectors `p` picks. -/
def Core.l1Drop (k : Core) (p : Nat → Bool) : Core :=
  { k with l1 := mdrop k.l1 (fun a => p (sectorOf a)), l1Sectors := k.l1Sectors.filter (fun x => !p x) }

/-- A full L1 (R1) gives up a line, any one but those of live load-blocks, for that of `pa`. -/
def Core.l1Room (k : Core) (free pa : Nat) : Core :=
  if k.l1Sectors.length < Config.l1Lines then k
  else
    let ls := k.l1Sectors.foldl (fun l x => insertNat (x / 4) l) []
    if ls.contains (lineOf pa) || decide (ls.length < Config.l1Lines) then k
    else
      let vs := ls.filter (fun l => !k.blockLines.contains l)
      match vs[(Config.freeBits free pa).toNat % vs.length]? with
      | some v => k.l1Drop (fun x => x / 4 == v)
      | none => k

/-- The L1 of core `c` fills the sector of `pa` from its die's slices. -/
def State.l1Fill (s : State) (c pa : Nat) : State :=
  if (s.core c).l1Sectors.contains (sectorOf pa) then s
  else
    let d := dieOf c
    let s := s.dieFill d pa
    let a := sectorOf pa * 32
    let bs := (span a 32).map (s.dieRead d)
    s.modCore c (fun k =>
      let k := k.l1Room s.free pa
      { k with l1 := mwrite k.l1 a bs, l1Sectors := insertNat (sectorOf pa) k.l1Sectors })

/-- A byte as a context of core `c` may read it: its L1 copy if one is present, else the slices of its die. -/
def State.l1Read (s : State) (c pa : Nat) : Byte :=
  let k := s.core c
  s.seen pa (if k.l1Sectors.contains (sectorOf pa) then mget k.l1 pa else s.dieRead (dieOf c) pa)

/-- The core's own store updates a sector that is present (R72). -/
def Core.l1Update (k : Core) (pa : Nat) (b : Byte) : Core :=
  if k.l1Sectors.contains (sectorOf pa) then { k with l1 := mput k.l1 pa b } else k

/-! ### Slice queues (R81) -/

/-- A queue whose live entries are unspecified (R81). -/
def SliceQueue.clobber (v : SliceQueue) (free q : Nat) : SliceQueue :=
  let new : List W64 := (List.range v.items.length).map (fun i => (Config.freeBits free (q + i)).setWidth 64)
  { v with items := new, past := v.past ++ ((List.range v.items.length).map v.placeOf).zip new }

/-- An ordinary store to a queue's bytes leaves each live entry unspecified (R81). -/
def State.queueClobber (s : State) (pa : Nat) : State :=
  match s.queuesAt pa with
  | [] => s
  | qs => { s with
      sliceQueues := qs.foldl (fun t q => tput t q.1 (q.2.clobber s.free q.1)) s.sliceQueues
      free := s.free + 1 }

/-! ### Writes and reads of a core's parties -/

/-- A write by a party of core `c`, performed at the slices of its die (R77); its line joins the next signature (R153). -/
def State.coreWrite (s : State) (c pa : Nat) (b : Byte) : State :=
  ((s.dieWrite (dieOf c) pa b).queueClobber pa).modCore c
    (fun k => { k.l1Update pa b with written := insertNat (lineOf pa) k.written })

def State.coreWrites (s : State) (c : Nat) (ws : List (Nat × Byte)) : State :=
  ws.foldl (fun s w => s.coreWrite c w.1 w.2) s

/-- A write performed at the home slice (R77), as device-scope releases and RMWs are: the die's copy is written back and dropped
first, so that the home slice sees the die's earlier writes to the line. -/
def State.homeWrite (s : State) (c pa : Nat) (b : Byte) : State :=
  let s := s.dieEvict (dieOf c) (fun l => l == lineOf pa)
  ({ s with mem := mput s.mem pa b }.queueClobber pa).modCore c
    (fun k => { k.l1Update pa b with written := insertNat (lineOf pa) k.written })

/-- An engine's plain read of a byte at the slices of its die. Where the die holds a copy that differs from home, the copy may
have been evicted before (R72, R77; log entry 9). -/
def State.engRead (s : State) (c pa : Nat) : Byte :=
  let a := s.dieRead (dieOf c) pa
  let b := mget s.mem pa
  s.seen pa (if a = b || (s.die (dieOf c)).dirty.contains pa then a else if Config.choice s.free (lineOf pa) then a else b)

/-! ### Signatures (R153 to R155) -/

/-- The bit of a line under one multiplier. -/
def sigBit (line mult : Nat) : Nat := line * mult % 2 ^ 64 / 2 ^ 55

def sigMults : List Nat := [0x9E3779B97F4A7C15, 0xB492C6E13D5807A3, 0x6A1FD2C58B34E0F7, 0xD3C85A29F17E4B61]

/-- The signature of some lines. -/
def signature (lines : List Nat) : W512 :=
  lines.foldl (fun g l => sigMults.foldl (fun g k => g ||| (1#512 <<< sigBit l k)) g) 0

/-- All four bits of a line are set. -/
def sigHas (g : W512) (line : Nat) : Bool := sigMults.all (fun k => g.getLsbD (sigBit line k))

/-- A release at die scope or wider by core `c` (R153): at device and system scope its die's dirty lines are written through to their
home slices; its signature is published to its die, or to all four. -/
def State.publish (s : State) (c scope : Nat) : State :=
  let d := dieOf c
  let s := if 2 ≤ scope then s.dieFlush d (fun _ => true) else s
  let g := signature (s.core c).written
  let s := s.modCore c (fun k => { k with written := [], sig := g })
  if 2 ≤ scope then { s with dies := s.dies.map (fun k => { k with sigs := k.sigs ++ [g] }) }
  else s.putDie d { s.die d with sigs := (s.die d).sigs ++ [g] }

/-- The L1 of core `c` fills lines `ls`. -/
def State.fillLines (s : State) (c : Nat) (ls : List Nat) : State :=
  ls.foldl (fun s l => (span (l * 4) 4).foldl (fun s x => s.l1Fill c (x * 32)) s) s

/-- The die's copy of line `l` is out of date: a byte not written there since differs from its home's. -/
def State.copyStale (s : State) (d l : Nat) : Bool :=
  let k := s.die d
  (span (l * 128) 128).any (fun a => mget k.copies a != mget s.mem a && !k.dirty.contains a)

/-- The L1 copy of sector `x` is out of date with the slices of its die. -/
def State.sectorStale (s : State) (c x : Nat) : Bool :=
  (span (x * 32) 32).any (fun a => mget (s.core c).l1 a != s.dieRead (dieOf c) a)

/-- An acquire at die scope or wider by core `c` (R154); block lines it drops are fetched again (R73). Copies that are out of date are
dropped whatever the signatures hold, as R138 to R150 need (R155). -/
def State.acquire (s : State) (c scope : Nat) : State :=
  let d := dieOf c
  let k := s.core c
  let g := ((s.die d).sigs.drop k.sigSeen).foldl (fun a b => a ||| b) 0
  let hit := fun l => sigHas g l || (scope == 3 && isHost (l * 128))
  let away := if 2 ≤ scope then (s.die d).present.filter (fun l => homeDie (l * 128) != d && (hit l || s.copyStale d l)) else []
  let s := s.dieEvict d (fun l => away.contains l)
  let gone := k.l1Sectors.filter (fun x => hit (x / 4) || s.sectorStale c x)
  let s := s.modCore c (fun k => { k.l1Drop (fun x => gone.contains x) with sigSeen := (s.die d).sigs.length })
  s.fillLines c (k.blockLines.filter (fun l => gone.any (fun x => x / 4 == l)))

/-- What core `c` holds of the line of `pa` goes, once its context has read it at the coherence point of a scope (R138, R238). -/
def State.reread (s : State) (c scope pa : Nat) : State :=
  let l := lineOf pa
  let d := dieOf c
  let s := if 2 ≤ scope ∧ homeDie pa ≠ d then s.dieEvict d (fun x => x == l) else s
  let s := s.modCore c (fun k => k.l1Drop (fun x => x / 4 == l))
  s.fillLines c ((s.core c).blockLines.filter (fun x => x == l))

/-- `sig` (R155): the XOR of the eight words of the last published signature. -/
def sigFold (g : W512) : W64 :=
  (List.range 8).foldl (fun a i => a ^^^ (g >>> (64 * i)).setWidth 64) 0

/-- A kernel boundary after launch `l` (R151): every die's dirty lines are written back, every L1, instruction cache and published
signature discarded; lines of live load-blocks are fetched again (R73). The releases of the launch's contexts begin a new set of written
lines on the cores that ran them. -/
def State.boundary (s : State) (l : Nat) : State :=
  let s := [0, 1, 2, 3].foldl (fun (s : State) d => s.dieEvict d (fun _ => true)) s
  let s : State := { s with
    cores := s.cores.map (fun e => (e.1, { e.2.l1Drop (fun _ => true) with
      icache := [], sig := 0, sigSeen := 0, written := if e.2.ran.contains l then [] else e.2.written, ran := e.2.ran.filter (fun j => j != l) }))
    dies := s.dies.map (fun k => { k with sigs := [] }) }
  s.cores.foldl (fun (s : State) (e : Nat × Core) => s.fillLines e.1 e.2.blockLines) s

/-! ### Lost data (R271 to R273) -/

/-- A physical byte whose data a lasting error has destroyed, or that lies in a retired page (R271 to R273). -/
def State.isLost (s : State) (pa : Nat) : Bool :=
  s.platform.lost.contains pa || s.platform.retiredPages.contains (pa / 65536)

/-- Names no byte: where a register's or a queue entry's data is lost, in place of a physical address. -/
def noByte : Nat := 2 ^ 48

/-- What was retired for a lost byte (R266): a unit, where it is no byte of memory; its line, where a dirty line's data was lost; else its page. -/
def State.lossOf (s : State) (pa : Nat) : Nat := if noByte ≤ pa then 3 else if s.platform.retiredPages.contains (pa / 65536) then 2 else 1

/-! ### Translation (R101 to R104) -/

/-- What an access does at its page (R102). -/
inductive Access where
  | read | write | fetch
  deriving DecidableEq, Repr

/-- A walk's result: the page (its bytes, its physical address, W, X), or the failure: an entry with V = 0, another, or an entry whose
data is lost. -/
inductive Walk where
  | page (size pa : Nat) (w x : Bool)
  | invalid
  | bad
  | lost (pa : Nat)
  deriving DecidableEq, Repr

/-- A translation's result (R103, R76): a physical address, XLATE (whether because of V = 0, R267), PROT, or MCHK of a table entry whose
data is lost (R4, R272). -/
inductive Xlat where
  | ok (pa : Nat)
  | xlate (vzero : Bool)
  | prot
  | mchk (pa : Nat)
  deriving DecidableEq, Repr

/-- The levels below a table: lowest index bit, index width, and whether a leaf may and must stand there. -/
def walkLevels : List (Nat × Nat × Bool × Bool) :=
  [(38, 14, false, false), (29, 9, true, false), (21, 8, true, false), (16, 5, true, true)]

/-- An entry in force (R104), and the tables it was found in: a valid one that the kept tables `h` of the root hold, whatever memory holds now, in
those that the entry above it was found in, or newer ones that govern it; else what memory holds (`now`), and then all entries below it are memory's. -/
def entryInForce (h : List Kept) (now : Nat → Nat) (va sh : Nat) (age : Option Nat) (a : Nat) : Nat × Option Nat :=
  let r := va / 2 ^ sh * 2 ^ sh
  match age.bind (fun n =>
    let i := min n (h.findIdx (fun k => decide (sh ≤ k.top ∧ k.lo < r + 2 ^ sh ∧ r < k.hi)))
    h[i]?.map (fun k => (leNat (mread k.mem a 8), some i))) with
  | some e => if bits e.1 0 1 = 1 then e else (now a, none)
  | none => (now a, none)

/-- The walk from table `t` on (R101, R102): `rd` reads an entry of 64 bits, `lost` finds a lost byte of it. -/
def walkFrom (rd : Nat → Option Nat → Nat → Nat × Option Nat) (lost : Nat → Option Nat) (va : Nat) :
    List (Nat × Nat × Bool × Bool) → Option Nat → Nat → Walk
  | [], _, _ => .bad
  | (sh, ib, mayLeaf, mustLeaf) :: rest, age, t =>
    let at_ := t + 8 * bits va sh ib
    let r := rd sh age at_
    let e := r.1
    let addr := bits e 8 40 * 256
    if (lost at_).isSome then .lost ((lost at_).getD 0)
    else if bits e 0 1 = 0 then .invalid
    else if bits e 48 16 ≠ 0 || bits e 4 4 ≠ 0 then .bad
    else if bits e 1 1 = 1 then
      if mayLeaf && addr % 2 ^ sh == 0 then .page (2 ^ sh) addr (bits e 2 1 == 1) (bits e 3 1 == 1) else .bad
    else if mustLeaf then .bad
    else
      match rest with
      | [] => .bad
      | (_, ib', _, _) :: _ => if addr % 2 ^ (ib' + 3) = 0 then walkFrom rd lost va rest r.2 addr else .bad

/-- The level at which a walk comes upon a valid entry that no kept table holds. -/
def walkNew (rd : Nat → Option Nat → Nat → Nat × Option Nat) (va : Nat) : List (Nat × Nat × Bool × Bool) → Option Nat → Nat → Option Nat
  | [], _, _ => none
  | (sh, ib, _, _) :: rest, age, t =>
    let r := rd sh age (t + 8 * bits va sh ib)
    if bits r.1 0 1 = 0 then none
    else if age.isSome && r.2.isNone then some sh
    else if bits r.1 1 1 = 1 then none
    else walkNew rd va rest r.2 (bits r.1 8 40 * 256)

/-- The byte last written to a table: what some die's slices hold dirty, else memory's (R104: an entry made valid is seen by the next walk). -/
def State.tableRead (s : State) (pa : Nat) : Byte :=
  match ([0, 1, 2, 3]).find? (fun d => (s.die d).dirty.contains pa) with
  | some d => mget (s.die d).copies pa
  | none => mget s.mem pa

/-- Memory as `tableRead` gives its bytes. -/
def State.tableMem (s : State) : Memory :=
  ([3, 2, 1, 0]).foldl (fun (m : Memory) d => (s.die d).dirty.foldl (fun m a => mput m a (mget (s.die d).copies a)) m) s.mem

/-- The tables kept for a root. -/
def State.kept (s : State) (root : Nat) : List Kept := (tget s.tables root).getD []

/-- An entry under a root as a walk reads it (R104). -/
def State.entry (s : State) (root va sh : Nat) (age : Option Nat) (a : Nat) : Nat × Option Nat :=
  entryInForce (s.kept root) (fun a => leNat ((span a 8).map s.tableRead)) va sh age a

/-- A table walk. -/
def State.walk (s : State) (root va : Nat) : Walk :=
  walkFrom (s.entry root va) (fun a => (span a 8).find? s.isLost) va walkLevels (some (s.kept root).length) root

/-- The tables under a root, as they are now, come into force for the entries of level `top` and below in a range (R104); a root without kept tables
has none. -/
def State.keepTables (s : State) (root lo hi top : Nat) : State :=
  match tget s.tables root with
  | some h => { s with tables := tput s.tables root ({ lo := lo, hi := hi, top := top, mem := s.tableMem } :: h) }
  | none => s

/-- The tables of a launch's root come into force as it is taken, unless they are (R104). -/
def State.openRoot (s : State) (root : Nat) : State :=
  match tget s.tables root with
  | some _ => s
  | none => { s with tables := tput s.tables root [{ lo := 0, hi := 2 ^ 52, top := 38, mem := s.tableMem }] }

/-- A walk that has used an entry made valid since brings it and what lies below it into force. -/
def State.noteWalk (s : State) (root va : Nat) : State :=
  match walkNew (s.entry root va) va walkLevels (some (s.kept root).length) root with
  | some sh => s.keepTables root (va / 2 ^ sh * 2 ^ sh) (va / 2 ^ sh * 2 ^ sh + 2 ^ sh) sh
  | none => s

/-- The cached translation of `va` under `root`, if any. -/
def tlbFind (t : List TlbEntry) (root va : Nat) : Option TlbEntry :=
  t.find? (fun e => e.root == root && e.va ≤ va && decide (va < e.va + e.size))

def TlbEntry.walk (e : TlbEntry) : Walk := .page e.size e.pa e.w e.x

/-- The TLBs of die `d`. -/
def State.dieTlb (s : State) (d : Nat) : List TlbEntry := (tget s.tlbs d).getD []

/-- The cached translation core `c` finds: its own, its die's, or another die's. -/
def State.cachedXlat (s : State) (c root va : Nat) : Option TlbEntry :=
  match tlbFind (s.core c).tlb root va with
  | some e => some e
  | none => (dieOf c :: [0, 1, 2, 3]).findSome? (fun d => tlbFind (s.dieTlb d) root va)

/-- The translation a core uses: one the TLBs of the module hold, else the walk's. Either stays in force until its invalidation, whatever memory
says by now (R104; log entry 83). -/
def State.walkOf (s : State) (c root va : Nat) : Walk :=
  match s.cachedXlat c root va with
  | some e => e.walk
  | none => s.walk root va

/-- A page's permission and place checks (R76, R102, R103, R302). DESIGN CHOICE: a leaf without the permission raises PROT also where the address lies
outside device and host memory, which alone is XLATE (log entry 111). -/
def pageCheck (va : Nat) (acc : Access) : Walk → Xlat
  | .invalid => .xlate true
  | .bad => .xlate false
  | .lost q => .mchk q
  | .page size pa w x =>
    let p := pa + va % size
    if (acc == .write && !w) || (acc == .fetch && !x) then .prot
    else if isHost p then .ok p
    else if Config.deviceTop ≤ p then .xlate false
    else if Config.saveBase ≤ p then .prot
    else .ok p

/-- The translation of a 64-bit virtual address under `root` (R66, R76, R101 to R103). -/
def State.xlat (s : State) (c root va : Nat) (acc : Access) : Xlat :=
  if 2 ^ 52 ≤ va then .xlate false else pageCheck va acc (s.walkOf c root va)

/-- The translation of `va` joins the TLBs of the core and its die (R104: a TLB never holds an invalid entry). -/
def State.noteTlb (s : State) (c root va : Nat) : State :=
  match s.walkOf c root va with
  | .page size pa w x =>
    let s := s.noteWalk root va
    let e : TlbEntry := { root := root, va := va / size * size, size := size, pa := pa, w := w, x := x }
    { s with
      tlbs := if (tlbFind (s.dieTlb (dieOf c)) e.root e.va).isSome then s.tlbs else tput s.tlbs (dieOf c) (e :: s.dieTlb (dieOf c))
      cores := tput s.cores c { s.core c with tlb := if (tlbFind (s.core c).tlb e.root e.va).isSome then (s.core c).tlb else e :: (s.core c).tlb } }
  | _ => s

/-- The translation of `va` joins the TLBs of the core and its die, where they do not hold it. -/
def State.notePage (s : State) (c root va : Nat) : State :=
  if (tlbFind (s.core c).tlb root va).isSome && (tlbFind (s.dieTlb (dieOf c)) root va).isSome then s else s.noteTlb c root va

/-- The translations of the pages of `n` bytes from `va` on join the TLBs. -/
def State.noteSpan (s : State) (c root va n : Nat) : State :=
  let s := s.notePage c root va
  if va / 65536 = (va + n - 1) / 65536 then s else s.notePage c root (va + n - 1)

/-- The physical addresses of `n` bytes from `va` up, each page translated once, or the first failure and its address (R66, R103). -/
def State.xlatSpan (s : State) (c root va n : Nat) (acc : Access) : Except (Nat × Xlat) (List Nat) :=
  let first := s.xlat c root va acc
  let room := 65536 - va % 65536
  match first with
  | .ok pa =>
    if n ≤ room then .ok (span pa n)
    else match s.xlat c root (va + room) acc with
      | .ok pb => .ok (span pa room ++ span pb (n - room))
      | x => .error (va + room, x)
  | x => .error (va, x)

/-! ### Instruction fetch (R75, R158) -/

/-- A 32-byte sector as core `c` fetches it: its instruction cache's copy, or memory as its die holds it now; where the two differ,
either (R75). -/
def State.fetchSector (s : State) (c pa : Nat) : List Byte :=
  let now := (span pa 32).map (s.dieRead (dieOf c))
  match tget (s.core c).icache (sectorOf pa) with
  | some old => if old = now then now else if Config.choice s.free (sectorOf pa) then old else now
  | none => now

/-- The four-byte words of a list of bytes. -/
def wordsOf : List Byte → List Nat
  | a :: b :: c :: d :: t => leNat [a, b, c, d] :: wordsOf t
  | _ => []

/-- A fetch packet (R158): its physical address and its 16 syllables, or the translation's failure. -/
def State.fetchPacket (s : State) (c root va : Nat) : Except Xlat (Nat × List Nat) :=
  match s.xlat c root (va / 64 * 64) .fetch with
  | .ok pa => .ok (pa, wordsOf (s.fetchSector c pa ++ s.fetchSector c (pa + 32)))
  | x => .error x

/-- A full instruction cache (R1) gives up sectors, any ones, for the two of a packet. -/
def icacheRoom (t : Table (List Byte)) (free pa : Nat) : Table (List Byte) :=
  if t.length + 2 ≤ Config.icacheSectors then t
  else
    let r := (Config.freeBits free pa).toNat
    (t.eraseIdx (r % (Config.icacheSectors - 1))).eraseIdx (r / Config.icacheSectors % (Config.icacheSectors - 2))

/-- The sectors of a fetched packet join the instruction cache. -/
def State.noteFetch (s : State) (c pa : Nat) : State :=
  s.modCore c (fun k => { k with
    icache := tput (tput (icacheRoom k.icache s.free pa) (sectorOf pa) (s.fetchSector c pa)) (sectorOf (pa + 32)) (s.fetchSector c (pa + 32)) })

end Sys2Proof.Machine
end

