-- ==== Sys2Proof/Machine/Window.lean ====
section
/-! DEFINITION. Elements packed in bytes (R37), and local-store windows (R24, R67). -/

namespace Sys2Proof.Machine

/-! ### Elements packed in bytes -/

/-- `w` bits from bit address `a` of a space read by `rd` (R37). -/
def bitsAt (rd : Nat → Byte) (a w : Nat) : Nat := bits (leNat ((span (a / 8) ((a % 8 + w + 7) / 8)).map rd)) (a % 8) w

/-- The bytes that hold `w` bits from bit address `a`, with those bits replaced by `v`. -/
def putBitsAt (rd : Nat → Byte) (a w v : Nat) : List (Nat × Byte) :=
  let n := (a % 8 + w + 7) / 8
  (span (a / 8) n).zip (leBytes n (putBits (leNat ((span (a / 8) n).map rd)) (a % 8) w v))

/-- A window with some bytes written. -/
def winWrites (m : Memory) (ws : List (Nat × Byte)) : Memory := ws.foldl (fun m w => mput m w.1 w.2) m

/-- The window of the team at base `b`. -/
def Core.window (k : Core) (b : Nat) : Memory := match tget k.teams b with | some t => t.win | none => []

def State.putWindow (s : State) (c b : Nat) (m : Memory) : State :=
  s.modCore c (fun k => match tget k.teams b with
    | some t => k.putTeam b { t with win := m }
    | none => k)

/-- The physical 16 KiB granule of a window offset (R24, R273). -/
def granuleOf (place o : Nat) : Nat := o / 0x80000 * 32 + (place * 4096 + o % 0x80000) / 16384

/-- The physical granule of the first byte of a window, among the offsets `os`, that lies in a granule whose data is lost (R270, R273) or was lost when
its team was saved (R271). -/
def Core.lostGranule (k : Core) (b : Nat) (os : List Nat) : Option Nat :=
  match tget k.teams b with
  | some t => (os.find? (fun o => k.deadGranules.contains (granuleOf t.place o) || t.lostWin.contains (o / 16384))).map (granuleOf t.place)
  | none => none

end Sys2Proof.Machine
end

