-- ==== Sys2Proof/Machine/Tags.lean ====
section
/-! DEFINITION. Tags and their bindings (R112 to R116), the chase graph (R123, R124), accumulators' busy bits (R125), the engine
queues (R14), and how a command ends (R114, R128, R129). -/

namespace Sys2Proof.Machine

/-! ### Tags -/

/-- Tag `n` of a team (R112). -/
def Team.tag (t : Team) (n : Nat) : Tag := (tget t.tags n).getD (Tag.freeOf 0)

/-- `f` applied to tag `n` of the team at base `b`. -/
def Core.modTag (k : Core) (b n : Nat) (f : Tag → Tag) : Core :=
  match tget k.teams b with
  | some t => k.putTeam b { t with tags := tput t.tags n (f (t.tag n)) }
  | none => k

/-- `f` applied to tag `n` of the team at base `b` of core `c`. -/
def State.modTag (s : State) (c b n : Nat) (f : Tag → Tag) : State := s.modCore c (fun k => k.modTag b n f)

/-- Tag `n` of the team at base `b`; a FREE tag when there is no team. -/
def Core.tagAt (k : Core) (b n : Nat) : Tag :=
  match tget k.teams b with
  | some t => t.tag n
  | none => Tag.freeOf 0

/-- The tag bound by a producer (R108, R114): BOUND at 0, or READY when its extent is 0. -/
def Tag.bind (t : Tag) (producer n : Nat) (geo : Option TagGeo) (binder group : Nat) : Tag :=
  { state := if n = 0 then .ready else .bound, producer := producer, f := 0, n := n, geo := geo, skipped := false, gstat := 0,
    cascade := false, gen := t.gen + 1, binder := binder, group := group }

/-- The binding a chase of tag `n` attaches to (R120): the current one, or the next when the tag is FREE or RELEASING. -/
def Tag.attach (t : Tag) (n : Nat) : Nat × Nat :=
  match t.state with
  | .free => (n, t.gen + 1)
  | .releasing => (n, t.gen + 1)
  | _ => (n, t.gen)

/-- The frontier raised to `f` (R110): READY when it reaches the extent. Only a BOUND tag's frontier rises. -/
def Tag.advance (t : Tag) (f : Nat) : Tag :=
  if t.state = .bound ∧ t.f ≤ f then { t with f := min f t.n, state := if t.n ≤ f then .ready else .bound } else t

/-- A pub of binding `gen` at frontier `f` (R116). -/
def Tag.published (t : Tag) (gen f : Nat) : Tag := if t.gen = gen then t.advance f else t

/-- The core as context `x` of the team at base `b` reads its tags: its own pubs that are not yet performed are seen (R116). -/
def Core.withPubs (k : Core) (b x : Nat) : Core :=
  (k.ctx x).ops.foldl (fun k o => match o.kind with | .pub n gen f => k.modTag b n (fun t => t.published gen f) | _ => k) k

/-- The code of a state in a tag's status word (R113). -/
def TagState.code : TagState → Nat
  | .free => 0 | .bound => 1 | .halted => 2 | .ready => 3 | .aborted => 4 | .mismatch => 5 | .releasing => 6

/-- The status word `fget` delivers (R113). -/
def Tag.word (t : Tag) : W64 :=
  if t.state = .free then 0
  else BitVec.ofNat 64 (t.state.code * 2 ^ 61 + t.producer * 2 ^ 57 + (if t.skipped then 2 ^ 56 else 0) + t.gstat * 2 ^ 54 +
    (if t.cascade then 2 ^ 53 else 0) + t.f)

/-- `fready` of a team (R115): bit t is 1 exactly when tag t, below the declared count, is READY. -/
def Team.fready (t : Team) (count : Nat) : W64 :=
  BitVec.ofNat 64 (t.tags.foldl (fun a e => if e.2.state = .ready && e.1 < count then a + 2 ^ e.1 else a) 0)

/-- READY or ABORTED (R122). -/
def Tag.settled (t : Tag) : Bool := t.state == .ready || t.state == .aborted

/-! ### The chase graph (R123, R124) -/

/-- A vertex: accumulator `n` as (0, n, 0), binding `gen` of tag `n` of the team at base `b` as (b + 1, n, gen). -/
abbrev Vertex := Nat × Nat × Nat

/-- The bindings a command chases: those of its source streams; for `padj` its destination is read too (R342). -/
def Cmd.chases (k : Cmd) : List (Nat × Nat) :=
  ([k.src, k.src2, k.src3] ++ (if k.kind = .padj then [k.dst] else [])).filterMap (fun g => g.bind (fun g => g.chase))

/-- Where a command's edges start: the bindings it chases; for a `drain`, its accumulator. -/
def Cmd.edgeFrom (k : Cmd) : List Vertex :=
  (k.chases.map (fun t => (k.team + 1, t.1, t.2))) ++
    (if k.kind = .drain then (match k.acc with | some a => [(0, a, 0)] | none => []) else [])

/-- Where a command's edges end: its destination tag, and the accumulator it writes. -/
def Cmd.edgeTo (k : Cmd) : List Vertex :=
  (match k.tag with | some t => [(k.team + 1, t.1, t.2)] | none => []) ++
    (match k.acc with | some a => if k.kind = .drain then [] else [(0, a, 0)] | none => [])

/-- The edges of the commands of a core (R123). -/
def Core.edges (k : Core) : List (Vertex × Vertex) :=
  k.cmds.foldl (fun acc m => acc ++ m.edgeFrom.foldl (fun acc a => acc ++ m.edgeTo.map (fun b => (a, b))) []) []

/-- The vertices reached from `vs` within `fuel` edges. -/
def reach (es : List (Vertex × Vertex)) : Nat → List Vertex → List Vertex
  | 0, vs => vs
  | n + 1, vs => reach es n (vs ++ (es.filter (fun e => vs.contains e.1 && !vs.contains e.2)).map (fun e => e.2))

/-- A command whose edges would close a cycle (R124); `self`: its own self-edges are exempt (an identity copy). -/
def Core.closesCycle (k : Core) (m : Cmd) (self : Bool) : Bool :=
  let from_ := if self then m.edgeFrom.filter (fun v => !m.edgeTo.contains v) else m.edgeFrom
  let es := k.edges
  let got := reach es (es.length + 1) m.edgeTo
  from_.any (fun v => got.contains v)

/-! ### Engine queues (R14) -/

/-- The engine queues: 0 copy, 1 matrix, 2 collective; load-blocks and group loads take none. -/
def CmdKind.queue : CmdKind → Option Nat
  | .cpy | .cpyt | .cpyg | .cpys | .cfill | .hist => some 0
  | .mzero | .mma | .mmasp | .drain | .padj | .jcard => some 1
  | .chsend | .chrecv | .chred | .coll | .mcst | .rdld => some 2
  | .gld | .ldblk => none

def queueDepth (q : Nat) : Nat := if q = 0 then 16 else 8

/-- Issued and not started: it takes room in its queue (R14). -/
def Cmd.waiting (k : Cmd) : Bool := k.st == .queued || k.st == .permit

/-- The commands that take room in queue `q`. -/
def Core.inQueue (k : Core) (q : Nat) : Nat :=
  (k.cmds.filter (fun m => m.kind.queue == some q && m.waiting)).length + (if q = 1 then (k.guests.filter (fun g => !g.running)).length else 0)

def Core.cmd (k : Core) (id : Nat) : Option Cmd := k.cmds.find? (fun m => m.id == id)

def Core.putCmd (k : Core) (m : Cmd) : Core := { k with cmds := k.cmds.map (fun n => if n.id = m.id then m else n) }

/-- The RELEASING tags of a team that no command names any longer become FREE (R114); a finished command has drained. -/
def Core.freeTags (k : Core) (b : Nat) : Core :=
  match tget k.teams b with
  | some t =>
    let named := fun (n g : Nat) => k.cmds.any (fun m => m.team == b && m.st != CmdState.finished && (m.tag == some (n, g) || m.chases.contains (n, g)))
    k.putTeam b { t with tags := t.tags.map (fun e =>
      if e.2.state = .releasing && !named e.1 e.2.gen then (e.1, Tag.freeOf e.2.gen) else e) }
  | none => k

/-- A command as it now is; one that has finished names no tag any longer. -/
def State.putCmd (s : State) (c : Nat) (m : Cmd) : State :=
  s.modCore c (fun k => if m.st = CmdState.finished then (k.putCmd m).freeTags m.team else k.putCmd m)

/-- A command with nothing set but its name and place. -/
def Cmd.blank (id : Nat) (kind : CmdKind) (ctx team bundle pos mark : Nat) : Cmd :=
  { id := id, kind := kind, ctx := ctx, team := team, bundle := bundle, pos := pos, mark := mark, dst := none, src := none,
    src2 := none, src3 := none, flags := 0, tag := none, acc := none, pj := 0, pset := 0, val := 0, list := 0, n := 0, chan := 0,
    desc := [], st := .queued, prog := 0, sum := 0, entry := none, halt := none, skip := [], opened := none, readVer := none, replays := 0,
    granted := false, sent := [], part := [], buf := [], carry := [], chunks := [], puts := [], next := none, lost := false }

/-! ### Port entries (R15) -/

/-- Part of the data of entry `id` arrives: `mask` says which of its bits. -/
def PortEntry.fill (e : PortEntry) (mask val : V1024) : PortEntry :=
  { e with val := (e.val &&& ~~~mask) ||| (val &&& mask), left := e.left - 1 }

def Ctx.fillLqs (x : Ctx) (id : Nat) (v : W64) : Ctx :=
  { x with lqs := x.lqs.map (fun e => if e.id = id then e.fill (BitVec.allOnes 1024) (v.setWidth 1024) else e) }

def Ctx.fillLq (x : Ctx) (id : Nat) (mask val : V1024) : Ctx :=
  { x with lq := x.lq.map (fun e => if e.id = id then e.fill mask val else e) }

/-- Byte `place` of an entry is lost, at the addresses `va` and `pa`: the entry names the first of its bytes that is (R265). -/
def PortEntry.lose (e : PortEntry) (place va pa : Nat) : PortEntry :=
  { e with
    left := e.left - 1
    lost := match e.lost with
      | some q => some (if q.1 ≤ place then q else (place, va, pa))
      | none => some (place, va, pa) }

/-- The data of entry `id` is lost (R271): the pop takes MCHK, its fault address the byte of the access at `va` that failed at `pa`, the byte `place`
of the entry. -/
def Ctx.loseEntry (x : Ctx) (id place va pa : Nat) : Ctx :=
  let gone := fun (e : PortEntry) => if e.id = id then e.lose place (va / 65536 * 65536 + pa % 65536) pa else e
  { x with lqs := x.lqs.map gone, lq := x.lq.map gone }

/-! ### Saved teams (R302) -/

/-- The name under which the parts of a saved team stand in place of its core: in groups, permits, stack queues and channels. -/
def savedCore (launch unit : Nat) : Nat := 256 + launch * 2 ^ 33 + unit

/-- `f` applied to the saved team that stands under the name `c`, and to its command `id`. -/
def State.modSaved (s : State) (c id : Nat) (f : SavedTeam → Cmd → SavedTeam) : State :=
  { s with saved := s.saved.map (fun v =>
      if savedCore v.launch v.unit = c then (match v.cmds.find? (fun m => m.id == id) with | some m => f v m | none => v) else v) }

/-- The command of a saved team ends, its tag, if still BOUND or HALTED, in state `st`. -/
def SavedTeam.endCmd (st : TagState) (v : SavedTeam) (m : Cmd) : SavedTeam :=
  let t := v.team
  { v with
    cmds := v.cmds.filter (fun n => n.id != m.id)
    team := match m.tag with
      | some (n, g) => (let q := t.tag n
          if q.gen = g ∧ (q.state = TagState.bound ∨ q.state = TagState.halted) then { t with tags := tput t.tags n { q with state := st } } else t)
      | none => t }

/-! ### How a command ends -/

/-- Every element of an accumulator unspecified, kind F (R129, R335). -/
def Acc.unspecified (a : Acc) (free : Nat) : Acc :=
  { a with isInt := false, cells := (List.range 16384).map (fun i => (i, (Config.freeBits free i).setWidth 32)) }

/-- Command `id` of core `c`, a card, leaves the queue or engine of the core that replays it (R382). -/
def State.dropGuest (s : State) (c id : Nat) : State :=
  { s with cores := s.cores.map (fun e => (e.1, { e.2 with guests := e.2.guests.filter (fun g => !(g.core == c && g.cmd == id)) })) }

/-- The command leaves the core: its edges, its busy bit (R125), its permit (R308); tags it alone named become FREE. -/
def State.dropCmd (s : State) (c : Nat) (m : Cmd) : State :=
  let d := dieOf c
  let k := s.die d
  let s := s.putDie d { k with waiting := k.waiting.filter (fun w => w != (c, m.id)), holding := k.holding.filter (fun w => w != (c, m.id)) }
  let s := { s with stackQ := s.stackQ.map (fun (q : Nat × List (Nat × Nat)) => (q.1, q.2.filter (fun w => w != (c, m.id)))) }
  (s.dropGuest c m.id).modCore c (fun k =>
    ({ k with
      cmds := k.cmds.filter (fun n => n.id != m.id)
      accs := k.accs.map (fun (a : Acc) => if a.busy = some m.id then { a with busy := none } else a) }).freeTags m.team)

/-- The version word of a tile-atomic store: its address in the destination's layout record (R86), or in the job card (R376). -/
def Cmd.versionWord (m : Cmd) : Nat :=
  if m.kind = .jcard then bits (leNat m.desc) 140 52
  else match m.dst with
    | some g => (match g.layout with | some (_, r) => hbits r 460 52 | none => 0)
    | none => 0

/-- A store of eight bytes at the home slice; dropped where its address no longer translates, or a byte of it is lost (R272). -/
def State.write64 (s : State) (c root va : Nat) (v : Nat) : State :=
  match s.xlatSpan c root va 8 .write with
  | .ok pas => if pas.any s.isLost then s else (pas.zip (leBytes 8 v)).foldl (fun s w => s.homeWrite c w.1 w.2) s
  | .error _ => s

/-! ### The fault record (R265) and the traps due (R263) -/

/-- Coordinate `j` of a record. -/
def Flt.coordAt (f : Flt) (j : Nat) : Int := (f.coord[j]?).getD 0

/-- The 64-byte record of a fault at `bundle`, due when `cycle` stood at `cyc` (R265). -/
def Flt.record (f : Flt) (bundle : Nat) (cyc : W64) : W512 :=
  BitVec.ofNat 512 (
    bundle % 2 ^ 52 * 2 ^ 460 + f.addr % 2 ^ 52 * 2 ^ 396 + f.layout % 2 ^ 52 * 2 ^ 332 +
    (ofInt 32 (f.coordAt 0)).toNat * 2 ^ 288 + (ofInt 32 (f.coordAt 1)).toNat * 2 ^ 256 +
    (ofInt 8 (f.coordAt 5)).toNat * 2 ^ 248 + (ofInt 8 (f.coordAt 4)).toNat * 2 ^ 240 +
    (ofInt 8 (f.coordAt 3)).toNat * 2 ^ 232 + (ofInt 8 (f.coordAt 2)).toNat * 2 ^ 224 +
    f.cursor % 2 ^ 32 * 2 ^ 192 + f.detail % 2 ^ 32 * 2 ^ 160 + f.cause % 2 ^ 8 * 2 ^ 152 + f.tag % 64 * 2 ^ 146 +
    f.kind % 4 * 2 ^ 144 + f.producer % 16 * 2 ^ 140 + f.syl % 16 * 2 ^ 136 + cyc.toNat * 2 ^ 64 + f.pa % 2 ^ 48)

/-- The slice line that held byte `pa` when its data was lost, as the log names it, that of the latest entry (R274). -/
def lineSite (log : List LogEntry) (pa : Nat) : ErrSite :=
  (log.reverse.findSome? (fun e => match e.site with
    | .cacheLine u a true => if a / 128 = pa / 128 then some (.cacheLine u pa true) else none
    | _ => none)).getD (.cacheLine (.slice (homeDie pa) (sliceOf pa)) pa true)

/-- The place an MCHK names (R274): the register, granule, accumulator, command, tag or table entry it found lost, else a line or a page by its
address, else a unit of the core. -/
def Flt.site (f : Flt) (c : Nat) (log : List LogEntry) : ErrSite :=
  f.unit.getD (if f.detail = 3 then .coreUnit c else if f.detail = 1 then lineSite log f.pa else .hbm f.pa)

/-- An MCHK joins the error log (R274). -/
def State.logFault (s : State) (c : Nat) (f : Flt) : State :=
  if f.cause = 0x0E then
    { s with platform := { s.platform with
        log := s.platform.log ++ [{ kind := 3, site := f.site c s.platform.log, cycle := s.cycle }] } }
  else s

/-- A trap joins those due in its place (R263): in the order in which they became due, those of one cycle in increasing code order. -/
def dueInOrder (t : Trap) : List Trap → List Trap
  | [] => [t]
  | u :: us => if hbits u.record 64 64 = hbits t.record 64 64 ∧ t.cause < u.cause then t :: u :: us else u :: dueInOrder t us

/-- An asynchronous trap becomes due for a context (R127, R263): it is held, in order, until the context's next bundle boundary. -/
def State.postTrap (s : State) (c x : Nat) (t : Trap) : State :=
  s.modCtx c x (fun v => { v with pending := dueInOrder t v.pending })

/-- A trap that becomes due for a context outside any bundle: its cause, the bundle its record names and what else the record
holds (R263, R265); an MCHK is logged (R274). -/
def State.post (s : State) (c x cause bundle : Nat) (f : Flt) (cmd : Option Nat) (unitWd ask : Bool) : State :=
  (s.logFault c f).postTrap c x { cause := cause, record := f.record bundle s.cycle, cmd := cmd, unitWd := unitWd, ask := ask }

/-- The position of a command's syllable in its bundle. -/
def Cmd.syl (m : Cmd) : Nat := m.pos - m.bundle / 4 % 16

/-- The MCHK of byte `p`, at address `va`, that a command's access finds lost where there is nothing to halt (R271, R272). -/
def State.cmdLoss (s : State) (m : Cmd) (va p : Nat) : Flt :=
  { step := 0, cause := 0x0E, addr := va, pa := p, detail := s.lossOf p, kind := 3, syl := m.syl }

/-- That MCHK becomes due for the context of command `id` of core `c`, or of the saved team of that name; a command that has gone has none. -/
def State.postLoss (s : State) (c id va p : Nat) : State :=
  match (s.core c).cmd id with
  | some m => s.post c m.ctx 0x0E m.bundle (s.cmdLoss m va p) none false false
  | none =>
    (s.logFault c { step := 0, cause := 0x0E, pa := p, detail := s.lossOf p }).modSaved c id (fun v m =>
      let t : Trap := { cause := 0x0E, record := (s.cmdLoss m va p).record m.bundle s.cycle, cmd := none, unitWd := false, ask := false }
      { v with ctxs := (v.ctxs.zip (List.range v.ctxs.length)).map (fun e => if v.base + e.2 = m.ctx then { e.1 with pending := dueInOrder t e.1.pending } else e.1) })

/-- The version word of a command's open store is lost: MCHK for its context (R272). -/
def State.breakLost (s : State) (c : Nat) (m : Cmd) (root : Nat) : State :=
  match m.opened, s.xlatSpan c root m.versionWord 8 .write with
  | some _, .ok pas => (match pas.find? s.isLost with | some p => s.postLoss c m.id (m.versionWord + pas.idxOf p) p | none => s)
  | _, _ => s

/-- A tile-atomic store ended between its two writes of the version word leaves it marked broken (R149). -/
def State.breakVersion (s : State) (c : Nat) (m : Cmd) (root : Nat) : State :=
  match m.opened with
  | some v => s.write64 c root m.versionWord (putBits v.toNat 63 1 1)
  | none => s

/-- The root of the team a command belongs to. -/
def State.cmdRoot (s : State) (c : Nat) (m : Cmd) : Nat :=
  match tget (s.core c).teams m.team with
  | some t => (match s.launchOf t.launch with | some l => l.root | none => 0)
  | none => 0

/-- A command is ended short of its end (R128 abort, R129): its tag becomes ABORTED (`cascade`: because it chased an aborted
tag), an entry of `lqs` it owes is filled with bit 63 set (R322, R345), the accumulator of a product or card is left unspecified
(R129, R335), an open tile-atomic store is marked broken (R149). -/
def State.abortCmd (s : State) (c : Nat) (m : Cmd) (cascade : Bool) : State :=
  let root := s.cmdRoot c m
  let s := (s.breakLost c m root).breakVersion c m root
  let s := match m.tag with
    | some (n, g) => s.modTag c m.team n (fun (t : Tag) =>
        if t.gen = g ∧ (t.state = TagState.bound ∨ t.state = TagState.halted) then { t with state := .aborted, cascade := cascade } else t)
    | none => s
  let s := match m.entry with
    | some e => s.modCtx c m.ctx (fun x => x.fillLqs e (BitVec.ofNat 64 (2 ^ 63 + m.sum)))
    | none => s
  let s := match m.kind, m.acc with
    | .mma, some a | .mmasp, some a | .jcard, some a =>
      { s.modCore c (fun k => { k with accs := vset k.accs a ((vget k.accs a Acc.zero).unspecified s.free) }) with free := s.free + 1 }
    | _, _ => s
  s.dropCmd c m

end Sys2Proof.Machine
end

