-- ==== Sys2Proof/Machine/Ops.lean ====
section
/-! DEFINITION. The named operations over a context: registers with results in flight (R13, R168, R169), queue ports (R14 to
R16), outstanding accesses, taking a trap (R260 to R263), returning from one (R264), and ending a launch (R307). -/

namespace Sys2Proof.Machine

/-! ### Registers -/

/-- A key that tells registers apart, for the free bits of a step. -/
def Dest.key : Dest → Nat
  | .s n => n
  | .v n => 100 + n
  | .m n => 200 + n
  | .cond k => 300 + k

/-- `new` in the bits of `mask`, `old` elsewhere. -/
def merge {n : Nat} (mask old new : BitVec n) : BitVec n := (old &&& ~~~mask) ||| (new &&& mask)

/-- What a register shows while results are in flight (R169): unspecified bits where a write has not landed. -/
def Ctx.overlay (x : Ctx) (free : Nat) (d : Dest) (v : V1024) : V1024 :=
  x.flight.foldl (fun a l => if l.dest = d then merge l.mask a (Config.freeBits free d.key) else a) v

/-- Scalar register `n` as a register: `s0` reads 0 (R168). -/
def Ctx.readS (x : Ctx) (free n : Nat) : W64 :=
  if n = 0 then 0 else (x.overlay free (.s n) ((vget x.s n 0).setWidth 1024)).setWidth 64

/-- Vector register `n` as a register. -/
def Ctx.readV (x : Ctx) (free n : Nat) : V1024 := x.overlay free (.v n) (vget x.v n 0)

/-- Mask `n`: `m0` reads all ones (R168). -/
def Ctx.readM (x : Ctx) (free n : Nat) : W64 :=
  if n = 0 then BitVec.allOnes 64 else (x.overlay free (.m n) ((vget x.m n 0).setWidth 1024)).setWidth 64

/-- The condition half of steer `k`. -/
def Ctx.readCond (x : Ctx) (free k : Nat) : Bool :=
  (x.overlay free (.cond k) (if (vget x.st k Steer.zero).cond then 1 else 0)).getLsbD 0

/-- The registers whose data is lost once register `k` has been written whole: cells that are not broken hold the new data (R271, R273). -/
def Ctx.mended (x : Ctx) (k : Nat) : List Nat := x.lostRegs.filter (fun j => j != k || x.deadRegs.contains j)

/-- A landed result enters its register. -/
def Ctx.commit (x : Ctx) (l : Landing) : Ctx :=
  match l.dest with
  | .s n => { x with
      s := vset x.s n (merge (l.mask.setWidth 64) (vget x.s n 0) (l.val.setWidth 64)), lostRegs := x.mended n }
  | .v n => { x with
      v := vset x.v n (merge l.mask (vget x.v n 0) l.val), lostRegs := if l.mask = BitVec.allOnes 1024 then x.mended (100 + n) else x.lostRegs }
  | .m n => { x with
      m := vset x.m n (merge (l.mask.setWidth 64) (vget x.m n 0) (l.val.setWidth 64))
      lostRegs := if l.mask.setWidth 64 = BitVec.allOnes 64 then x.mended (200 + n) else x.lostRegs }
  | .cond k =>
    let q := vget x.st k Steer.zero
    { x with st := vset x.st k { q with cond := if l.mask.getLsbD 0 then l.val.getLsbD 0 else q.cond } }

/-- The results whose bound has passed at cycle `now` land (R169). -/
def Ctx.land (x : Ctx) (now : Nat) : Ctx :=
  (x.flight.filter (fun l => decide (l.due ≤ now))).foldl Ctx.commit
    { x with flight := x.flight.filter (fun l => !decide (l.due ≤ now)) }

/-- Every result in flight lands, and every reserved `sq` entry whose result was in flight is filled (R13, R220, R261). -/
def Ctx.landAll (x : Ctx) : Ctx :=
  let x := x.flight.foldl Ctx.commit { x with flight := [] }
  { x with
    sq := x.sq.map (fun e => { e with filled := true })
    ops := x.ops.map (fun o => match o.kind with | .store _ => { o with kind := .store none } | _ => o) }

/-- The bits a later write takes over leave earlier results in flight to the same register (R169: an earlier-issued write never
overwrites a later-issued one). -/
def Ctx.overtake (x : Ctx) (d : Dest) (mask : V1024) : Ctx :=
  let cut := x.flight.map (fun l => if l.dest = d then { l with mask := l.mask &&& ~~~mask } else l)
  { x with flight := cut.filter (fun l => l.mask != 0) }

/-- A result written with a latency bound (R170): at bound 1 every later bundle reads it, so it enters its register at once. -/
def Ctx.write (x : Ctx) (d : Dest) (mask val : V1024) (now bound : Nat) : Ctx :=
  let x := x.overtake d mask
  let l : Landing := { dest := d, mask := mask, val := val &&& mask, due := now + bound }
  if bound ≤ 1 then x.commit l else { x with flight := x.flight ++ [l] }

def mask64 : V1024 := BitVec.ofNat 1024 (2 ^ 64 - 1)

/-- A scalar destination (R168): `s0` is ignored. -/
def Ctx.writeS (x : Ctx) (n : Nat) (v : W64) (now bound : Nat) : Ctx :=
  if n = 0 then x else x.write (.s n) mask64 (v.setWidth 1024) now bound

/-- The bits of a mask register that `sel` picks; `m0` is ignored. -/
def Ctx.writeM (x : Ctx) (n : Nat) (sel v : W64) (now bound : Nat) : Ctx :=
  if n = 0 then x else x.write (.m n) (sel.setWidth 1024) (v.setWidth 1024) now bound

/-- A steer's condition half. -/
def Ctx.writeCond (x : Ctx) (k : Nat) (b : Bool) (now bound : Nat) : Ctx :=
  x.write (.cond k) 1 (if b then 1 else 0) now bound

/-- The bytes all of whose bits `mask` picks (R205). DESIGN CHOICE: a byte of an `sq` entry of which a masked `lld` of 6-bit elements writes only some bits
is no filled byte, and stays unwritten (R227; log entry 126). -/
def fullBytes (mask : V1024) : BitVec 128 :=
  BitVec.ofNat 128 ((List.range 128).foldl (fun a i => if bits mask.toNat (8 * i) 8 = 255 then a + 2 ^ i else a) 0)

/-- A cell of a port of 16 for a new entry, beside those in use. DESIGN CHOICE: the lowest that is free (log entry 125). -/
def newCell (used : List Nat) : Nat := ((List.range 16).find? (fun k => !used.contains k)).getD 0

/-- What stands in a cell that a lasting error has broken is lost (R273). -/
def Ctx.cellLost (x : Ctx) (cell : Nat) : Option (Nat × Nat × Nat) := if x.deadRegs.contains cell then some (0, 0, noByte) else none

/-- A new entry of `lqs` (`base` 500) or `lq` (520), whose port holds `q` (R15). -/
def Ctx.newEntry (x : Ctx) (base : Nat) (q : List PortEntry) (val : V1024) (left : Nat) : PortEntry :=
  let k := newCell (q.map (fun e => e.cell))
  { id := x.seq, val := val, left := left, lost := x.cellLost (base + k), cell := k }

/-- A vector destination (R168, R205): register 31 reserves an `sq` entry that the result fills when it lands. -/
def Ctx.writeV (x : Ctx) (n : Nat) (mask v : V1024) (now bound : Nat) : Ctx :=
  if n = 31 then
    let k := newCell (x.sq.map (fun e => e.cell))
    { x with
      sq := x.sq ++ [{ id := x.seq, val := v &&& mask, bytes := fullBytes mask, filled := false, lost := x.deadRegs.contains (540 + k), cell := k }]
      seq := x.seq + 1 }
  else if mask = 0 then x
  else x.write (.v n) mask v now bound

/-! ### Ports and outstanding accesses -/

/-- An entry of `lqs` is reserved (R15); its name is `seq`. -/
def Ctx.reserveLqs (x : Ctx) : Ctx :=
  { x with lqs := x.lqs ++ [x.newEntry 500 x.lqs 0 1], seq := x.seq + 1 }

/-- An entry of `lqs` pushed with its value. -/
def Ctx.pushLqs (x : Ctx) (v : W64) : Ctx :=
  { x with lqs := x.lqs ++ [x.newEntry 500 x.lqs (v.setWidth 1024) 0], seq := x.seq + 1 }

/-- An entry of `lq` is reserved for `parts` parts of data. -/
def Ctx.reserveLq (x : Ctx) (parts : Nat) : Ctx :=
  { x with lq := x.lq ++ [x.newEntry 520 x.lq 0 parts], seq := x.seq + 1 }

/-- An access joins the context's outstanding accesses (R135 po). -/
def Ctx.pushOp (x : Ctx) (kind : OpKind) (rd : List (Nat × Nat)) (wr : List (Nat × Byte)) (ord scope bundle va : Nat) : Ctx :=
  { x with ops := x.ops ++ [{ id := x.seq, kind := kind, bytes := rd, writes := wr, ord := ord, scope := scope, bundle := bundle, va := va }]
           seq := x.seq + 1 }

/-- Every access with a name below `mark` has been performed (R147). -/
def Ctx.doneBelow (x : Ctx) (mark : Nat) : Bool := x.ops.all (fun o => decide (mark ≤ o.id))

/-! ### Which access may be performed (R134, R138, R141) -/

def MemOp.isRead (o : MemOp) : Bool := match o.kind with | .load .. | .sld _ => true | _ => false
def MemOp.isWrite (o : MemOp) : Bool := match o.kind with | .store _ => true | _ => false
def MemOp.isRmw (o : MemOp) : Bool := match o.kind with | .atomic .. | .reduce .. | .queue .. => true | _ => false

/-- A read that a later write does not precede (R141): a load, and what may turn out to read alone: an `acas` (R232), a queue operation
(R134). -/
def MemOp.readsFirst (o : MemOp) : Bool := o.isRead || match o.kind with | .atomic .cas .. | .queue .. => true | _ => false

/-- The physical bytes an access reads or writes. -/
def MemOp.touches (o : MemOp) : List Nat := o.bytes.map (fun b => b.1) ++ o.writes.map (fun w => w.1)

def MemOp.meets (o p : MemOp) : Bool := o.touches.any (fun a => p.touches.contains a)

def MemOp.isLst (o : MemOp) : Bool := match o.kind with | .lst _ => true | _ => false
/-- A fence, a pub or an arrive: performed once every earlier access of its context has been (R134, R137, R237). -/
def MemOp.isMark (o : MemOp) : Bool := match o.kind with | .fence | .pub .. | .arrive _ => true | _ => false

/-- Access `o` may be performed before, or beside, the earlier access `p` of its context. A plain read may take the value of an own earlier
store that is not yet performed (R105); an acquire reads what stands at its coherence point (R143; log entry 81). A write waits for
earlier reads (R141); another RMW counts as none of these (log entry 82). -/
def MemOp.passes (o p : MemOp) : Bool :=
  p.kind != .fence && p.ord % 2 == 0 && !o.isMark && decide (o.isRead ∨ o.ord < 2) &&
  (if o.isRead then
    !o.meets p || (o.ord % 2 == 0 && p.isWrite && p.kind == .store none)
  else !p.readsFirst && !o.meets p && !(o.isLst && (p.isLst || p.isMark)))

/-- The access at place `k` may be performed now. -/
def Ctx.opReady (x : Ctx) (k : Nat) : Option MemOp :=
  match x.ops[k]? with
  | some o => if (x.ops.take k).all o.passes then some o else none
  | none => none

def Ctx.dropOp (x : Ctx) (id : Nat) : Ctx := { x with ops := x.ops.filter (fun o => o.id != id) }

/-- The context's own latest earlier store to a byte, among the first `k` accesses (R105). -/
def Ctx.ownByte (x : Ctx) (k pa : Nat) : Option Byte :=
  (x.ops.take k).reverse.findSome? (fun o => (o.writes.reverse.find? (fun w => w.1 == pa)).map (fun w => w.2))

/-! ### Barriers (R32, R33) -/

def Barrier.fresh : Barrier := { phase := 0, arrived := [], owing := [], owed := [] }

/-- The key of barrier `b` as context `x` names it (R33). -/
def Core.barKey (k : Core) (x b : Nat) : Nat :=
  match k.teamOf x with
  | some (_, t) => t.barKey * 16 + b
  | none => x * 16 + b

def Core.barrier (k : Core) (key : Nat) : Barrier := (tget k.barriers key).getD Barrier.fresh

/-- The contexts whose teams share a barrier numbering. -/
def Core.participants (k : Core) (barKey : Nat) : List Nat :=
  [0, 1, 2, 3].filter (fun y => match k.teamOf y with | some (_, t) => t.barKey == barKey | none => false)

/-- A phase completes when every participant has arrived; one that has exited counts as arrived (R32). -/
def Core.settleBarrier (k : Core) (key : Nat) : Core :=
  let b := k.barrier key
  if (k.participants (key / 16)).all (fun y => b.arrived.contains y || (k.ctx y).status == .exited) then
    { k with barriers := tput k.barriers key { phase := b.phase + 1, arrived := [], owing := [], owed := b.owing.map (fun y => (y, 0)) } }
  else k

/-- The phase context `x` arrived in with the `bar` of the bundle at `pc`, and has not left. -/
def Ctx.arrivedAt (x : Ctx) (key pc : Nat) : Option Nat := (x.arrived.find? (fun a => a.1 == key && a.2.1 == pc)).map (fun a => a.2.2)

def Ctx.dropArrived (x : Ctx) (key pc : Nat) : Ctx := { x with arrived := x.arrived.filter (fun a => !(a.1 == key && a.2.1 == pc)) }

/-- Context `x` arrives with the `bar` of its bundle at `pc`, and remembers the phase
it waits for: one that has arrived in the phase does not arrive again before it completes. `owes`: earlier syllables stand in the
bundle, which no one leaves the phase before (R137). -/
def Core.arrive (k : Core) (x b pc : Nat) (owes : Bool) : Core :=
  let key := k.barKey x b
  let g := k.barrier key
  let v := k.ctx x
  if g.arrived.contains x || (v.arrivedAt key pc).isSome then k
  else
    let k := k.putCtx x { v with arrived := v.arrived ++ [(key, pc, g.phase)] }
    ({ k with barriers := tput k.barriers key { g with
        arrived := insertNat x g.arrived, owing := if owes then insertNat x g.owing else g.owing } }).settleBarrier key

/-- An arrive of `barv` at barrier `key` is performed. -/
def Core.arriveAt (k : Core) (x key : Nat) : Core :=
  let g := k.barrier key
  ({ k with barriers := tput k.barriers key { g with arrived := insertNat x g.arrived } }).settleBarrier key

/-- What context `y` owes a phase that is complete has been performed, or it has stopped. -/
def Core.paid (k : Core) (y mark : Nat) : Bool :=
  match (k.ctx y).status with
  | .free | .exited | .dead => true
  | _ => decide (mark ≠ 0) && (k.ctx y).ops.all (fun o => decide (mark ≤ o.id + 1))

/-- The phase context `x` arrived in with the `bar` at `pc` has completed, and it may leave. -/
def Core.passed (k : Core) (x b pc : Nat) : Bool :=
  let key := k.barKey x b
  let g := k.barrier key
  match (k.ctx x).arrivedAt key pc with
  | some p => decide (p < g.phase) && g.owed.all (fun e => e.1 == x || k.paid e.1 e.2)
  | none => false

/-- Context `x` leaves with the `bar` at `pc`: its record goes, and what it owes is what its bundle has issued. -/
def Core.leave (k : Core) (x b pc : Nat) : Core :=
  let key := k.barKey x b
  let g := k.barrier key
  let v := k.ctx x
  let k := k.putCtx x (v.dropArrived key pc)
  if (tget g.owed x).isSome then { k with barriers := tput k.barriers key { g with owed := tput g.owed x (v.seq + 1) } } else k

/-- Context `x` has gone elsewhere than to the bundles other than the one at `pc` in which it waited: what they arrived for and owed is
forgotten (R262). -/
def Core.forget (k : Core) (x pc : Nat) : Core :=
  let v := k.ctx x
  let gone := v.arrived.filter (fun a => a.2.1 != pc)
  let k := gone.foldl (fun (k : Core) a =>
    let g := k.barrier a.1
    { k with barriers := tput k.barriers a.1 { g with owing := g.owing.filter (fun y => y != x), owed := tdel g.owed x } }) k
  k.putCtx x { v with arrived := v.arrived.filter (fun a => a.2.1 == pc) }

/-! ### What is performed inside the core -/

/-- Elements written to a window: bit address, width, value (R37). -/
def winPut (m : Memory) (es : List (Nat × Nat × Nat)) : Memory :=
  es.foldl (fun (k : Memory) e => winWrites k (putBitsAt (mget k) e.1 e.2.1 e.2.2)) m

/-- The window as context `x` of the team at base `b` reads it: its own `lst`s that are not yet performed are seen (R67). -/
def Core.ownWindow (k : Core) (b x : Nat) : Memory :=
  (k.ctx x).ops.foldl (fun m o => match o.kind with | .lst es => winPut m es | _ => m) (k.window b)

/-- A fence (R153, R154, R237), an `lst` (R227), a pub (R116) or an arrive (R32) of context `x` is performed. -/
def State.performInner (s : State) (c x : Nat) (o : MemOp) : State :=
  let b := match (s.core c).teamOf x with | some (b, _) => b | none => x
  match o.kind with
  | .fence =>
    let s := if o.scope ≠ 0 ∧ (o.ord = 2 ∨ o.ord = 3) then s.publish c o.scope else s
    if o.scope ≠ 0 ∧ (o.ord = 1 ∨ o.ord = 3) then s.acquire c o.scope else s
  | .lst es => s.putWindow c b (winPut ((s.core c).window b) es)
  | .pub t gen n => s.modTag c b t (fun (g : Tag) => g.published gen n)
  | .arrive key => s.modCore c (fun k => k.arriveAt x key)
  | _ => s

/-- The first of a context's accesses that is performed inside the core and may be performed now. -/
def Ctx.innerReady (x : Ctx) : Option MemOp :=
  (x.ops.zip (List.range x.ops.length)).findSome? (fun p =>
    if (p.1.isMark || p.1.isLst) && (x.ops.take p.2).all p.1.passes then some p.1 else none)

/-- At most `n` of them are performed. -/
def settleN : Nat → State → Nat → Nat → State
  | 0, s, _, _ => s
  | n + 1, s, c, x =>
    match (s.ctx c x).innerReady with
    | some o => settleN n ((s.modCtx c x (fun v => v.dropOp o.id)).performInner c x o) c x
    | none => s

/-- Every access that is performed inside the core, and that nothing earlier holds back any longer, is performed. -/
def State.settleOps (s : State) (c x : Nat) : State := settleN (s.ctx c x).ops.length s c x

/-! ### Withdrawal from slice queues -/

/-- A parked context withdraws from its queues (R83, R235, R262): its requests or its places among the waiters go, their entries are
freed, and its `qdeqw`s are to be sent again; what waited for them alone inside the core is performed. -/
def State.withdraw (s : State) (c x : Nat) : State :=
  let ps := (s.ctx c x).parks
  if ps.isEmpty then s
  else
    let s : State := { s with sliceQueues := s.sliceQueues.map (fun q =>
        if ps.any (fun p => p.1 == q.1) then (q.1, { q.2 with waiters := q.2.waiters.filter (fun w => !(w.1 == c && w.2.1 == x)) }) else q) }
    (s.modCtx c x (fun v => { v with
      parks := [], resend := v.resend ++ ps.map (fun p => p.1)
      lqs := v.lqs.filter (fun p => !(ps.any (fun e => p.id == e.2 || p.id == e.2 + 1)))
      ops := v.ops.filter (fun o => !(ps.any (fun e => o.kind == .queue .deqw 0 e.2))) })).settleOps c x

/-! ### Ending a launch (R263, R307) -/

/-- Every command of the teams of launch `l` on core `c` ends as by abort, and its parked contexts withdraw. -/
def State.abortLaunchOn (s : State) (l c : Nat) : State :=
  let k := s.core c
  let mine := fun (b : Nat) => match tget k.teams b with | some t => t.launch == l | none => false
  let s := (k.cmds.filter (fun m => mine m.team)).foldl (fun s m => s.abortCmd c m false) s
  let s := [0, 1, 2, 3].foldl (fun (s : State) x => match k.teamOf x with
    | some (_, t) => if t.launch = l then s.withdraw c x else s
    | none => s) s
  s.modCore c (fun k => { k with ctxs := Vector.ofFn (fun (i : Fin 4) =>
    let x := k.ctx i.val
    match k.teamOf i.val with
    | some (_, t) => if t.launch = l then { x.landAll with status := .dead, groups := [], pending := [], resend := [] } else x
    | none => x) })

/-- The commands of a saved team of a launch that has ended end as by abort (R307): an open tile-atomic store is marked broken (R149), and
permits and stack-queue entries are given back (R308). -/
def State.endSaved (s : State) (v : SavedTeam) : State :=
  let d := v.die
  let name := savedCore v.launch v.unit
  let root := match s.launchOf v.launch with | some l => l.root | none => 0
  let c := match (s.launchOf v.launch).bind (fun l => tget l.units v.unit) with
    | some r => (match r.state with | .saved c => c | _ => d * 64)
    | none => d * 64
  let s := v.cmds.foldl (fun (s : State) m => s.breakVersion c m root) s
  let k := s.die d
  let s := s.putDie d { k with waiting := k.waiting.filter (fun w => w.1 != name), holding := k.holding.filter (fun w => w.1 != name) }
  { s with stackQ := s.stackQ.map (fun (q : Nat × List (Nat × Nat)) => (q.1, q.2.filter (fun w => w.1 != name))) }

/-- A launch ends with a status (R291) before its units have finished: none of its contexts runs on, its commands end as by abort,
nothing is saved and no further unit is dispatched (R307). -/
def State.endLaunch (s : State) (l status cause : Nat) (tpc : W64) : State :=
  let s := s.cores.foldl (fun s e => s.abortLaunchOn l e.1) s
  let s := (s.saved.filter (fun v => v.launch == l)).foldl State.endSaved s
  let s := s.modLaunch l (fun v =>
    if v.ended then v else { v with ended := true, status := status, cause := cause, tpc := tpc, groups := [] })
  { s with saved := s.saved.filter (fun v => v.launch != l) }

/-- A nested fault (R263): the context stops at once and its launch ends FAULTED with the nested cause and `tpc`. -/
def State.nestedFault (s : State) (c x cause tpc : Nat) : State :=
  let s := match s.launchAt c x with
    | some (l, _) => s.endLaunch l 1 cause (BitVec.ofNat 64 tpc)
    | none => s
  s.modCtx c x (fun v => { v.landAll with status := .dead })

/-! ### Taking a trap (R260 to R263) and returning (R264) -/

/-- A failed translation as a cause (R260). -/
def Xlat.cause : Xlat → Nat
  | .prot => 0x0D
  | .mchk _ => 0x0E
  | _ => 0x0B

def Xlat.isVzero : Xlat → Bool
  | .xlate v => v
  | _ => false

/-- Where the record can be written, its 64 physical addresses; else the cause of the failure and, for MCHK, the failing byte (R261, R271): 0
where `trec` itself is lost; and whether a walk met V = 0 (R267). -/
def State.recordPlace (s : State) (c x : Nat) : Except (Nat × Nat × Bool) (List Nat) :=
  if (s.ctx c x).lostRegs.contains 718 then .error (0x0E, 0, false) else
  match s.xlatSpan c (s.rootAt c x) ((s.ctx c x).trec.toNat / 64 * 64) 64 .write with
  | .ok pas => (match pas.find? s.isLost with | some p => .error (0x0E, p, false) | none => .ok pas)
  | .error (_, .mchk p) => .error (0x0E, p, false)
  | .error (_, e) => .error (e.cause, 0, e.isVzero)

/-- The launch of a context takes firmware-first service (R267). -/
def State.asksFirst (s : State) (c x : Nat) : Bool := match s.launchAt c x with | some (_, l) => l.firmware | none => false

/-- The record cannot be written: the context stops (R261, R271). -/
def State.recordFailed (s : State) (c x tpc : Nat) (e : Nat × Nat × Bool) : State :=
  (s.logFault c { step := 0, cause := e.1, pa := e.2.1, detail := if e.2.1 = 0 then 3 else s.lossOf e.2.1 }).nestedFault c x e.1 tpc

/-- Trap entry (R261), in its order: results in flight land; `tpc` and `tcause` are written; the record is stored by plain stores at context scope; the
pc goes to the trap entry of the header (R26). A context parked in `qdeqw` withdraws first (R262). In the handler already, or where the record's write
faults, the context stops as under R263; a walk of that write that meets V = 0 is first sent to the firmware where the launch has firmware-first
service (R267). DESIGN CHOICE: two stores, of 32 bytes each (log entry 138). -/
def State.takeTrap (s : State) (c x cause : Nat) (record : W512) (tpc : Nat) (cmd : Option Nat) (unitWd : Bool) : State :=
  if (s.ctx c x).handler.isSome then s.nestedFault c x cause tpc
  else
    match s.recordPlace c x with
    | .error e =>
      if e.2.2 && s.asksFirst c x then
        s.modCtx c x (fun v => { v with status := .service { cause := cause, record := record, cmd := cmd, unitWd := unitWd, ask := true } })
      else s.recordFailed c x tpc e
    | .ok pas =>
      let s := (s.withdraw c x).noteTlb c (s.rootAt c x) ((s.ctx c x).trec.toNat / 64 * 64)
      let ws := pas.zip (leBytes 64 record.toNat)
      let trapEntry := hdrTrap (s.hdrAt c x)
      s.modCtx c x (fun v =>
        let v := v.landAll
        let v := { v with tpc := BitVec.ofNat 64 tpc, tcause := BitVec.ofNat 64 cause }
        let v := { v with lostRegs := v.lostRegs.filter (fun j => (j != 716 && j != 717) || v.deadRegs.contains j) }
        let a := v.trec.toNat / 64 * 64
        let v := v.pushOp (.store none) [] (ws.take 32) 0 0 tpc a
        let v := v.pushOp (.store none) [] (ws.drop 32) 0 0 tpc (a + 32)
        { v with status := .ready, pc := trapEntry, resend := []
                 handler := some { cause := cause, cmd := cmd, unitWd := unitWd || v.condemned, resend := v.resend.map (fun q => (q, tpc)) } })

/-- A tag whose GROUPMIS is taken leaves MISMATCH for ABORTED (R97, R114). -/
def State.settleMismatch (s : State) (c x : Nat) (f : Flt) : State :=
  match f.mismatch, (s.core c).teamOf x with
  | some n, some (b, _) => s.modTag c b n (fun (t : Tag) => if t.state = TagState.mismatch then { t with state := .aborted } else t)
  | _, _ => s

/-- A synchronous fault, precise at the bundle (R166, R260): the trap is taken with `tpc` at the bundle; under firmware-first service
a walk that failed on V = 0 is sent to the firmware first and the context waits (R267). -/
def State.raise (s : State) (c x bundle : Nat) (f : Flt) : State :=
  let s := s.settleMismatch c x f
  let r := f.record bundle s.cycle
  if s.asksFirst c x && f.vzero then
    s.modCtx c x (fun v => { v with status := .service { cause := f.cause, record := r, cmd := none, unitWd := false, ask := false } })
  else (s.logFault c f).takeTrap c x f.cause r bundle none false

/-- The request of command `id` of core `c` stands in a hold. -/
def Hold.holds (h : Hold) (c id : Nat) : Bool := h.asks.any (fun a => a.core == c && a.cmd == id)

/-- Abort of a group load's halted hold: every asking member's command ends, its tag ABORTED (R98, R128). -/
def State.abortHold (s : State) (c id : Nat) : State :=
  let hs := s.launches.foldl (fun (a : List Hold) l => l.2.groups.foldl (fun a g => a ++ g.2.holds.filter (fun h => h.halted && h.holds c id)) a) []
  let asks := hs.foldl (fun (a : List GroupAsk) h => a ++ h.asks.filter (fun q => !q.served)) []
  let s := asks.foldl (fun (s : State) (q : GroupAsk) =>
    match (s.core q.core).cmd q.cmd with
    | some m => s.abortCmd q.core m false
    | none => s.modSaved q.core q.cmd (SavedTeam.endCmd .aborted)) s
  { s with launches := s.launches.map (fun l => (l.1, { l.2 with groups := l.2.groups.map (fun g => (g.1, { g.2 with
      holds := g.2.holds.map (fun h => if h.halted && h.holds c id then
        { h with halted := false, asks := h.asks.map (fun q => { q with served := true }) } else h) })) })) }

/-- The choice of `rte` on a halted command (R128): 0 resume, 1 skip, 2 abort. A group load's halted hold follows (R98). A card whose replay was saved
while it stood halted is replayed anew (R380). -/
def State.resumeCmd (s : State) (c : Nat) (m : Cmd) (choice : Nat) : State :=
  if choice = 2 then (if m.kind = CmdKind.gld then s.abortHold c m.id else s).abortCmd c m false
  else
    let s := s.putCmd c { m with
      st := if m.kind = CmdKind.jcard ∧ m.replays ≠ 0 ∧ m.chan = 0 then .requeued else .running, halt := none
      skip := if choice = 1 then (match m.halt with | some h => m.skip ++ [h.piece] | none => m.skip) else m.skip }
    match m.tag with
    | some (n, g) => s.modTag c m.team n (fun (t : Tag) =>
        if t.gen = g ∧ t.state = TagState.halted then { t with state := .bound } else t)
    | none => s

/-- `rte` (R198, R264): handling ends and the pc goes to `back`, the `tpc` read at issue; an engine-fault trap's command proceeds under the
choice (R128); from a unit watchdog it acts as `exit` (R277), and so it does from a trap taken in that exit's drain. -/
def State.leaveTrap (s : State) (c x choice back : Nat) : State :=
  let v := s.ctx c x
  match v.handler with
  | none => s
  | some h =>
    let s := match h.cmd with
      | some id => (match (s.core c).cmd id with
        | some m => if m.st = CmdState.halted then s.resumeCmd c m choice else s
        | none => s)
      | none => s
    let s := s.modCore c (fun k => k.forget x back)
    s.modCtx c x (fun v => { v with
      handler := none, pc := back, status := if h.unitWd then .exiting else .ready, condemned := h.unitWd
      resend := (h.resend.filter (fun q => q.2 == back)).map (fun q => q.1) })

end Sys2Proof.Machine
end

