-- ==== Sys2Proof/Machine/Operands.lean ====
section
/-! DEFINITION. Operand forms: registers and queue ports (R167, R168), policy words (R79), loop indices (R21), engine format
registers (R47), and streams: the descriptor (R241), its effective geometry (R242), its elements' places (R37, R43, R87),
its checks (R29, R36, R37, R88, R107, R243). Beside them, what a syllable is to the issue of its bundle (`Sem`). -/

namespace Sys2Proof.Machine

/-! ### Causes (R260) and the steps of R166 -/

def cILLSYL : Nat := 0x01
def cILLBUNDLE : Nat := 0x02
def cNOSTART : Nat := 0x03
def cRESOVER : Nat := 0x04
def cALIGN : Nat := 0x05
def cBOUND : Nat := 0x06
def cBANKGROUP : Nat := 0x07
def cTAGBUSY : Nat := 0x08
def cCHASECYCLE : Nat := 0x09
def cOVERLAP : Nat := 0x0A
def cXLATE : Nat := 0x0B
def cXLATEA : Nat := 0x0C
def cPROT : Nat := 0x0D
def cMCHK : Nat := 0x0E
def cCHASEABORT : Nat := 0x0F
def cGROUPMIS : Nat := 0x10
def cCHTIMEOUT : Nat := 0x11
def cWATCHDOG : Nat := 0x12
def cTRAP : Nat := 0x14
def cBRK : Nat := 0x15
def cFORMAT : Nat := 0x17
def cDFROVER : Nat := 0x19

def fIllSyl : Flt := { step := 2, cause := cILLSYL }
def fResover : Flt := { step := 3, cause := cRESOVER }
def fFormat : Flt := { step := 4, cause := cFORMAT }
def fBankGroup : Flt := { step := 5, cause := cBANKGROUP }
def fOverlap : Flt := { step := 6, cause := cOVERLAP }
def fAlign (a : Nat) : Flt := { step := 7, cause := cALIGN, addr := a }
/-- TAGBUSY of tag `n`, bound to a producer of code `p` (log entry 89) -/
def fTagBusy (n p : Nat) : Flt := { step := 8, cause := cTAGBUSY, tag := n, producer := p }
def fChaseCycle : Flt := { step := 9, cause := cCHASECYCLE }
/-- GROUPMIS at a wait or `tclr` of tag `n` (R97, R266): the detail names the group of the `gld` that bound it -/
def fGroupMis (n g : Nat) : Flt := { step := 10, cause := cGROUPMIS, detail := g, tag := n, producer := 8, mismatch := some n }
def fDfrOver : Flt := { step := 11, cause := cDFROVER }
def fBound : Flt := { step := 12, cause := cBOUND }

/-- MCHK of the byte at `a`, physical `pa`; `d` says what was retired (R266). -/
def fMchk (st a pa d : Nat) : Flt := { step := st, cause := cMCHK, addr := a, pa := pa, detail := d }
/-- The address of physical byte `p` among the bytes `pas` of an access at `va` (R265). -/
def lostAddr (va : Nat) (pas : List Nat) (p : Nat) : Nat := va + pas.idxOf p

/-- A failed translation of `a`, at step `st` of R166 (13 for an access; 4 for a record read at the FORMAT step); where a table entry is lost, MCHK after the other checks of the step (R166, R272). -/
def State.fXlat (s : State) (st a : Nat) (e : Xlat) : Flt :=
  match e with
  | .mchk q => fMchk (if st = 13 then 14 else st) a q (s.lossOf q)
  | _ => { step := st, cause := e.cause, addr := a, vzero := e.isVzero }

/-- A condition that must hold, or else a fault. -/
def need (b : Bool) (f : Flt) : List Flt := if b then [] else [f]

/-! ### What a syllable is to its bundle -/

/-- A register source field (R168): 31 of a scalar or vector field pops its port. -/
inductive Src where
  | s (n : Nat)
  | v (n : Nat)
  | m (n : Nat)
  | cond (k : Nat)
  deriving DecidableEq, Repr

/-- What a syllable writes, for R164 and R28: a register, a mask, a steer half, a special register, a rotating base. -/
inductive Dst where
  | s (n : Nat)
  | v (n : Nat)
  | m (n : Nat)
  | cond (k : Nat)
  | tgt (k : Nat)
  | spr (n : Nat)
  /-- a rotating base, the stage predicates -/
  | lb (n : Nat)
  | sg
  deriving DecidableEq, Repr

/-- Where control goes after the bundle. -/
inductive Flow where
  /-- the next bundle under R159, with the pass decision of R193 -/
  | next
  /-- a taken transfer of control (R160) to `t`, with the misaligned and far flags of its steer half (R190) -/
  | jump (t : Nat) (mis far : Bool)
  /-- to `t`, with no transfer checks: past the end of a nest (R193, R195) -/
  | goto (t : Nat)
  /-- as `next`, then the trap handler with cause `cause` and the detail `code` (R197) -/
  | trap (cause code : Nat)
  /-- leave the handler for the bundle at `tpc`, with a choice (R198) -/
  | rte (choice tpc : Nat)
  /-- begin the drain of `exit` (R30) -/
  | exit
  deriving DecidableEq, Repr

/-- What a syllable sees at issue: the state with due results landed, its core and context, the bundle's address, its own packet
position, the next bundle under R159, the cycle, its sources' values in field order (R165), and the special registers the bundle
writes (R200). -/
structure Env where
  snap : State
  c : Nat
  x : Nat
  pc : Nat
  pos : Nat
  next : Nat
  now : Nat
  vals : List V1024
  sprs : List Nat

/-- A syllable's part in the issue of its bundle. Checks and effects of later syllables see the state earlier ones leave
(R114, R223); register sources are those of the issue (R165). -/
structure Sem where
  ins : Instr
  /-- source fields from high bits to low (R165) -/
  srcs : List Src := []
  /-- registers it names without a field of their own (R28: b + 1, d + 1, s27 to s30) -/
  names : List Src := []
  /-- context registers it reads that are no source of it, numbered as in `ErrSite.register` (R270) -/
  hidden : List Nat := []
  dsts : List Dst := []
  /-- entries of `lqs`, of `lq` it reserves; whether it takes an `sq` entry (R14 to R16) -/
  lqs : Nat := 0
  lq : Nat := 0
  takesSq : Bool := false
  /-- the engine queue it enters (R14) -/
  queue : Option Nat := none
  streams : List Nat := []
  tags : List Nat := []
  barriers : List Nat := []
  groups : List Nat := []
  /-- it reads a record of global memory at issue (R312, R346, R368, R370, R371) -/
  record : Bool := false
  /-- an accumulator it names (R11 f) -/
  acc : Option Nat := none
  check : Env → State → List Flt := fun _ _ => []
  /-- a condition it still awaits (R11 d, e) -/
  waits : Env → State → Bool := fun _ _ => false
  /-- what happens even while it waits, once nothing else hinders its bundle: a barrier arrival (R262) -/
  arrive : Env → State → State := fun _ s => s
  act : Env → State → State := fun _ s => s
  flow : Env → State → Flow := fun _ _ => .next

namespace Env

/-- Source value `i` as a vector, a scalar, a mask, a condition. -/
def v (e : Env) (i : Nat) : V1024 := (e.vals[i]?).getD 0
def s (e : Env) (i : Nat) : W64 := (e.v i).setWidth 64
def b (e : Env) (i : Nat) : Bool := (e.v i).getLsbD 0
/-- the context at issue -/
def ctx (e : Env) : Ctx := e.snap.ctx e.c e.x
/-- the address of the syllable (R160) -/
def addr (e : Env) : Nat := e.pc / 64 * 64 + 4 * e.pos
def root (e : Env) : Nat := e.snap.rootAt e.c e.x
def hdr (e : Env) : W512 := e.snap.hdrAt e.c e.x
/-- the team's first context -/
def base (e : Env) : Nat := match (e.snap.core e.c).teamOf e.x with | some (b, _) => b | none => e.x
/-- `f` applied to the issuing context -/
def upd (e : Env) (s : State) (f : Ctx → Ctx) : State := s.modCtx e.c e.x f

end Env

/-! ### Identity and loops -/

/-- The indices of unit `u` at the spatial levels, innermost last (R19): `extents` innermost first. -/
def unitDigits : List Nat → Nat → List Nat
  | [], _ => []
  | e :: es, u => u % e :: unitDigits es (u / e)

/-- The spatial levels of a header, L0 outwards in. -/
def spatialLevels (h : W512) : List Nat := (List.range (hdrDepth h)).filter (fun j => hdrKind h j == 2 || hdrKind h j == 3)

/-- Index of unit `u` at spatial level `j` (R19). -/
def unitIndex (h : W512) (u j : Nat) : Nat :=
  let ls := spatialLevels h
  let ds := (unitDigits (ls.reverse.map (hdrExtent h)) u).reverse
  match ls.findIdx? (fun l => l == j) with
  | some i => (ds[i]?).getD 0
  | none => 0

/-- `li` j of a context (R21). -/
def liOf (h : W512) (x : Ctx) (j : Nat) : Nat :=
  if hdrDepth h ≤ j then 0
  else if hdrKind h j = 1 then
    match x.nest.find? (fun n => n.level == j) with
    | some n => if n.rev then n.passes - 1 - n.pass else n.pass
    | none => 0
  else unitIndex h x.unit j

/-! ### Policy words (R79) -/

/-- The policy word of a field: 0 selects `mpol`, another value the scalar register read as source `v`. -/
def policyOf (x : Ctx) (field : Nat) (v : W64) : W64 := if field = 0 then x.mpol else v

/-- The source a policy field reads. -/
def policySrc (field : Nat) : List Src := [Src.s field]

/-- Ordering and scope of a policy word. -/
def polOrd (p : W64) : Nat := bits p.toNat 16 2
def polScope (p : W64) : Nat := bits p.toNat 18 2

/-- The eviction class of an access (R80): 0 keep, 1 normal, 2 streaming. It changes timing only. -/
def evictClass (p : W64) (va : Nat) : Nat :=
  let l := bits va 7 45
  let h := (List.range 6).foldl (fun a j => a ^^^ bits l (8 * j) 8) 0
  let t2 := if bits p.toNat 8 8 = 0 then 256 else bits p.toNat 8 8
  if h < bits p.toNat 0 8 then 0 else if h < t2 then 1 else 2

/-! ### Engine format registers (R47) -/

/-- `xf` k as a bundle issued at cycle `now` reads it: inside the window of each write, the old or the new value (R47). -/
def Core.readXf (k : Core) (free now i : Nat) : W32 :=
  k.xfSets.foldl (fun v w => if w.1 = i then
    (if w.2.2 + 3 ≤ now then w.2.1 else if Config.choice free (400 + i + 64 * w.2.2) then w.2.1 else v) else v) (vget k.xf i 0)

/-- Writes whose window has passed enter the registers. -/
def Core.landXf (k : Core) (now : Nat) : Core :=
  { k with
    xf := (k.xfSets.filter (fun w => decide (w.2.2 + 3 ≤ now))).foldl (fun v w => vset v w.1 w.2.1) k.xf
    xfSets := k.xfSets.filter (fun w => !decide (w.2.2 + 3 ≤ now)) }

def xfWidth (v : W32) : Nat := bits v.toNat 0 2
def xfSigned (v : W32) : Bool := v.getLsbD 2
def xfSym (v : W32) : Bool := v.getLsbD 3
def xfSub (v : W32) : Nat := bits v.toNat 4 2
def xfRound (v : W32) : Nat := bits v.toNat 6 2
def xfStream (v : W32) : Nat := bits v.toNat 8 8
def xfInfKeep (v : W32) : Bool := v.getLsbD 16
/-- the narrow width in bits; 0 for the reserved code -/
def xfBits (v : W32) : Nat := match xfWidth v with | 0 => 4 | 1 => 6 | 2 => 8 | _ => 0

/-! ### Stream descriptors (R241, R244) -/

/-- Place and width of the field with code `c` (R244); code 30 and 31 name no descriptor field. -/
def fieldPlace (c : Nat) : Nat × Nat :=
  match c with
  | 0 => (0, 52) | 1 => (52, 2) | 2 => (54, 4) | 3 => (58, 2) | 4 => (60, 2) | 5 => (62, 1) | 6 => (63, 1) | 7 => (180, 6)
  | 8 => (64, 16) | 9 => (80, 16) | 10 => (96, 32) | 11 => (128, 52) | 12 => (192, 32) | 13 => (256, 52) | 14 => (308, 1)
  | 15 => (309, 3) | 16 => (312, 1) | 17 => (313, 2) | 18 => (320, 32) | 19 => (352, 32) | 20 => (224, 8) | 21 => (232, 8)
  | 22 => (240, 8) | 23 => (248, 8) | 24 => (384, 16) | 25 => (400, 16) | 26 => (416, 16) | 27 => (432, 16) | 28 => (448, 16)
  | 29 => (464, 16) | _ => (0, 0)

/-- Fields whose `sget` extension is by sign (R244). -/
def fieldSigned (c : Nat) : Bool := c == 10 || c == 12 || c == 18 || c == 19

/-- The bits of a descriptor that exist; reserved ones read 0 (R241). -/
def descMask : Nat := 2 ^ 480 - 1 - (2 ^ 5 - 1) * 2 ^ 315 - (2 ^ 6 - 1) * 2 ^ 186

def putField (d : W512) (c : Nat) (v : W64) : W512 :=
  BitVec.ofNat 512 (putBits d.toNat (fieldPlace c).1 (fieldPlace c).2 v.toNat)

def getField (d : W512) (c : Nat) : Nat := hbits d (fieldPlace c).1 (fieldPlace c).2

/-- The context with an `sset` in force (R245). -/
def Ctx.applySet (x : Ctx) (w : PendingSet) : Ctx :=
  if w.code = 30 then { x with lb := vset x.lb w.reg w.val }
  else if w.code = 31 then { x with sg := w.val.setWidth 4 }
  else { x with a := vset x.a w.reg (putField (vget x.a w.reg 0) w.code w.val) }

/-- Writes whose window has passed take effect (R245). -/
def Ctx.landSets (x : Ctx) (now : Nat) : Ctx :=
  (x.sets.filter (fun w => decide (w.at_ + 3 ≤ now))).foldl Ctx.applySet
    { x with sets := x.sets.filter (fun w => !decide (w.at_ + 3 ≤ now)) }

/-- Whether a bundle sees a write of `sset` inside its window (R245): the same throughout the bundle, for all that is written at once. -/
def PendingSet.seen (w : PendingSet) (free : Nat) : Bool :=
  Config.choice free (500 + w.reg + (if w.code = 30 then 20 else if w.code = 31 then 40 else 0) + 64 * w.at_)

/-- The context as a bundle sees its streams, `lb` and `sg` (R245). -/
def Ctx.seeSets (x : Ctx) (free : Nat) : Ctx := x.sets.foldl (fun y w => if w.seen free then y.applySet w else y) x

/-- A write of `lb` or `sg` by the bundle of cycle `now` begins from what the bundle sees (R245): pending writes it sees, with any older to
the same register, have taken effect; the others still land later. -/
def Ctx.takeSets (x : Ctx) (free now : Nat) (codes : List Nat) : Ctx :=
  let gone := fun (w : PendingSet) => codes.contains w.code && decide (w.at_ < now) &&
    x.sets.any (fun u => u.seen free && u.reg == w.reg && u.code == w.code && decide (w.at_ ≤ u.at_ ∧ u.at_ < now))
  (x.sets.filter gone).foldl Ctx.applySet { x with sets := x.sets.filter (fun w => !gone w) }

/-! ### Element widths (R36, R37) -/

/-- Bits of one element; codes alone for q4. -/
def fmtBits (fmt : Nat) (xf : W32) : Nat :=
  match fmt with
  | 0 | 8 => 32
  | 1 | 2 | 9 => 16
  | 3 | 4 => 8
  | 5 | 6 => 6
  | 7 => 4
  | 10 => xfBits xf
  | _ => 0

/-- Elements of one packing group (R37). -/
def packGroup (fmt : Nat) (xf : W32) : Nat :=
  match fmt with
  | 5 | 6 => 4
  | 7 => 8
  | 10 => (match xfBits xf with | 4 => 2 | 6 => 4 | _ => 1)
  | _ => 1

def Geo.w (g : Geo) : Nat := fmtBits g.fmt g.xf

/-! ### Layout records (R86 to R88) -/

def recExtent (r : W512) (j : Nat) : Nat := hbits r (256 + 32 * j) 32
/-- stride of dimension j, 1 to 5 -/
def recStride (r : W512) (j : Nat) : Int := sbits r.toNat (16 + 48 * (j - 1)) 48
def recFmt (r : W512) : Nat := hbits r 456 4
def recNdim (r : W512) : Nat := hbits r 453 3
def recScale (r : W512) : Nat := hbits r 451 2
/-- the transposition granule g, in elements -/
def recGranule (r : W512) : Nat := 8 * 2 ^ hbits r 449 2
def recVersion (r : W512) : Nat := hbits r 460 52
/-- extent of dimension j: 1 from ndim on (R87) -/
def recExt (r : W512) (j : Nat) : Nat := if j < recNdim r then recExtent r j else 1

/-- The conditions of R88 but for the granule of `cpyt`; true when the record passes. -/
def recordOk (r : W512) (fmt : Nat) : Bool :=
  hbits r 448 1 == 0 && hbits r 0 16 == 0 && recFmt r == fmt && recScale r != 3 &&
  (recScale r == 0 || fmt == 7) && (recScale r != 0 || fmt != 7) && 1 ≤ recNdim r && recNdim r ≤ 6 &&
  (List.range (recNdim r)).all (fun j => recExtent r j != 0)

/-! ### Effective geometry (R242) -/

/-- Iterator entry `j` of a descriptor: target and signed amount. -/
def iterTarget (d : W512) (j : Nat) : Nat := hbits d (384 + 16 * j + 13) 3
def iterAmount (d : W512) (j : Nat) : Int := sbits d.toNat (384 + 16 * j) 13

/-- The sum of amount × li over the entries with target `t`. -/
def iterSum (d : W512) (li : Nat → Nat) (t : Nat) : Int :=
  (List.range 6).foldl (fun a j => if iterTarget d j = t then a + iterAmount d j * (li j : Int) else a) 0

/-- A byte as the context reads it now: its own latest earlier store (R105), else its core's view. -/
def State.ctxByte (s : State) (c x pa : Nat) : Byte :=
  match (s.ctx c x).ops.reverse.findSome? (fun o => (o.writes.reverse.find? (fun w => w.1 == pa)).map (fun w => w.2)) with
  | some b => b
  | none => s.l1Read c pa

/-- A record of `n` bytes read at issue at core scope: its bytes, or the fault at the FORMAT step (R243, R312, R346, R368). -/
def State.readRecord (s : State) (c x va n : Nat) : Except Flt (List Byte) :=
  match s.xlatSpan c (s.rootAt c x) va n .read with
  | .error (a, e) => .error (s.fXlat 4 a e)
  | .ok pas =>
    match pas.find? s.isLost with
    | some p => .error (fMchk 4 (lostAddr va pas p) p (s.lossOf p))
    | none => .ok (pas.map (s.ctxByte c x))

/-- The layout record a descriptor names, if it is readable. -/
def State.layoutOf (s : State) (c x : Nat) (d : W512) : Option (Nat × W512) :=
  let a := hbits d 256 52
  if a = 0 then none
  else match s.readRecord c x a 64 with
    | .ok bs => some (a, BitVec.ofNat 512 (leNat bs))
    | .error _ => some (a, 0)

/-- The effective geometry of stream `a` at issue (R242), with the command's copies (R248) and its chase attachment (R120). -/
def Env.geo (e : Env) (s : State) (a : Nat) : Geo :=
  let x := e.ctx.seeSets e.snap.free
  let d := vget x.a a 0
  let h := e.hdr
  let li := liOf h x
  let lay := s.layoutOf e.c e.x d
  let lbv := vget x.lb (hbits d 309 3) 0
  let pitch : Int := match lay with | some (_, r) => recStride r 1 | none => sbits d.toNat 96 32
  let base0 : Int := if hbits d 308 1 = 1 then (bits lbv.toNat 0 52 : Int) else hbits d 0 52
  let org := [sbits d.toNat 320 32, sbits d.toNat 352 32, (hbits d 224 8 : Int), (hbits d 232 8 : Int), (hbits d 240 8 : Int),
    (hbits d 248 8 : Int)]
  let ct := hbits d 180 6
  { desc := d, space := hbits d 52 2, fmt := hbits d 54 4, trav := hbits d 58 2,
    xf := (e.snap.core e.c).readXf e.snap.free e.now (hbits d 60 2),
    base := base0 + 64 * iterSum d li 6 + pitch * iterSum d li 7, pitch := pitch, d0 := hbits d 64 16, d1 := hbits d 80 16,
    clamp := hbits d 62 1 == 1,
    org := (List.range 6).map (fun j => (org[j]?).getD 0 + iterSum d li j),
    layout := lay, sbase := hbits d 128 52, sstride := sbits d.toNat 192 32,
    chase := if hbits d 63 1 = 1 then some (((s.core e.c).tagAt e.base ct).attach ct) else none }

/-- The layout-record address of a stream, or 0. -/
def Geo.layoutAddr (g : Geo) : Nat := match g.layout with | some (a, _) => a | none => 0

/-- A fault of stream `g` (R265); one that lies between streams is the first's (log entry 114). -/
def Flt.of (f : Flt) (g : Geo) : Flt := { f with layout := g.layoutAddr }

/-- Whether the stage predicate a stream selects lets `lld` and `lst` act (R227). -/
def Env.stageOn (e : Env) (a : Nat) : Bool :=
  let x := e.ctx.seeSets e.snap.free
  let d := vget x.a a 0
  hbits d 312 1 == 0 || x.sg.getLsbD (hbits d 313 2)

/-! ### Places of elements -/

/-- The tensor coordinate of tile element (x, y) (R242). -/
def Geo.coord (g : Geo) (x y : Int) : List Int :=
  match g.org with
  | o0 :: o1 :: rest => (o0 + x) :: (o1 + y) :: rest
  | _ => [x, y]

def coordAt (c : List Int) (j : Nat) : Int := c.getD j 0

/-- The byte sum Σ cj × sj over dimensions 1 to 5 (R87). -/
def recOffset (r : W512) (c : List Int) : Int :=
  (List.range 5).foldl (fun a j => a + coordAt c (j + 1) * recStride r (j + 1)) 0

/-- The bit address of the element at a tensor coordinate (R37, R87). -/
def Geo.bitAt (g : Geo) (r : W512) (c : List Int) : Int :=
  let a := (g.base + recOffset r c) * 8
  if recScale r = 2 then a + Int.ediv (coordAt c 0) 8 * 40 + Int.emod (coordAt c 0) 8 * 4 else a + coordAt c 0 * g.w

/-- The bit address of tile element (x, y) (R242). -/
def Geo.bitOf (g : Geo) (x y : Int) : Int :=
  match g.layout with
  | some (_, r) => g.bitAt r (g.coord x y)
  | none => (g.base + y * g.pitch) * 8 + x * g.w

/-- Line number of a coordinate in the scale array of a whole tensor (R43). -/
def scaleLine (r : W512) (c : List Int) : Int :=
  coordAt c 1 + recExt r 1 * (coordAt c 2 + recExt r 2 * (coordAt c 3 + recExt r 3 * (coordAt c 4 + recExt r 4 * coordAt c 5)))

/-- The byte address of the scale byte of the q4 block of a coordinate (R43, R87). -/
def Geo.scaleAt (g : Geo) (r : W512) (c : List Int) : Int :=
  if recScale r = 2 then g.base + recOffset r c + Int.ediv (coordAt c 0) 8 * 5 + 4
  else g.sbase + scaleLine r c * g.sstride + Int.ediv (coordAt c 0) 8

/-- The byte address of the scale byte of the q4 block that holds tile element (x, y). -/
def Geo.scaleOf (g : Geo) (x y : Int) : Int :=
  match g.layout with
  | some (_, r) => g.scaleAt r (g.coord x y)
  | none => g.sbase + y * g.sstride + Int.ediv x 8

/-- Bytes of one line of `d0` elements (R37). -/
def Geo.lineBytes (g : Geo) : Nat := (g.d0 * g.w + 7) / 8

/-- The least and greatest of two ends. -/
def loHi (a b : Int) : Int × Int := if a ≤ b then (a, b) else (b, a)

/-- The span of `lines` lines of a stream with no record, first and last byte (R29). -/
def Geo.lineSpan (g : Geo) (lines : Nat) : Int × Int :=
  let r := loHi 0 (((lines : Int) - 1) * g.pitch)
  (g.base + r.1, g.base + r.2 + (g.lineBytes : Int) - 1)

/-- The bytes coordinates from `lo` to `hi` (per dimension, inclusive) can reach (R92). -/
def Geo.boxSpan (g : Geo) (r : W512) (lo hi : List Int) : Int × Int :=
  let ends := (List.range 5).foldl (fun (p : Int × Int) j =>
    let e := loHi (coordAt lo (j + 1) * recStride r (j + 1)) (coordAt hi (j + 1) * recStride r (j + 1))
    (p.1 + e.1, p.2 + e.2)) (0, 0)
  let x0 := if recScale r = 2 then Int.ediv (coordAt lo 0) 8 * 5 else Int.ediv (coordAt lo 0 * g.w) 8
  let x1 := if recScale r = 2 then Int.ediv (coordAt hi 0) 8 * 5 + 4 else Int.ediv (coordAt hi 0 * g.w + g.w - 1) 8
  (g.base + ends.1 + x0, g.base + ends.2 + x1)

/-- The span of a stream's tile (R92); `lines` for a list command's consecutive tiles. DESIGN CHOICE: a clamped stream's span is that of its
coordinates before they are clamped, and the scale bytes of a q4 stream that stand apart are no part of it (R92; log entries 85, 86). -/
def Geo.span (g : Geo) (lines : Nat) : Int × Int :=
  match g.layout with
  | some (_, r) => g.boxSpan r (g.coord 0 0) (g.coord ((g.d0 : Int) - 1) ((lines : Int) - 1))
  | none => g.lineSpan lines

/-- The span of the whole tensor of a stream's record (R92). -/
def Geo.tensorSpan (g : Geo) : Int × Int :=
  match g.layout with
  | some (_, r) => g.boxSpan r [0, 0, 0, 0, 0, 0] ((List.range 6).map (fun j => (recExt r j : Int) - 1))
  | none => g.lineSpan g.d1

/-- Every byte of a span lies in a window of `w` bytes (R24, R28, R29). -/
def spanInside (w : Nat) (p : Int × Int) : Bool :=
  decide (0 ≤ p.1) && decide (p.2 < 0x200000) &&
  (w / 4 == 0x80000 || (decide (p.1 / 0x80000 = p.2 / 0x80000) && decide (p.2 % 0x80000 < ((w / 4 : Nat) : Int))))

/-- The span of the scale bytes of a q4 stream's lines (R43). -/
def Geo.scaleSpan (g : Geo) (lines : Nat) : Int × Int :=
  let r := loHi 0 (((lines : Int) - 1) * g.sstride)
  ((g.sbase : Int) + r.1, (g.sbase : Int) + r.2 + ((g.d0 + 7) / 8 : Nat) - 1)

/-! ### Checks of a named stream -/

/-- RESOVER of a local stream whose span leaves the window (R28, R29); an empty shape, or a format with no width, reaches no byte. DESIGN
CHOICE: an `lb` offset outside the window that the iterators bring back is judged by the effective span alone (R257; log entry 84). -/
def Geo.windowCheck (g : Geo) (h : W512) (lines : Nat) : List Flt :=
  if g.space = 1 ∧ g.lineBytes ≠ 0 ∧ lines ≠ 0 then
    need (spanInside (hdrWindow h) (g.lineSpan lines) &&
      (g.fmt != 7 || spanInside (hdrWindow h) (g.scaleSpan lines))) (fResover.of g)
  else []

/-- An iterator entry moves an origin of a stream that names no record (R243). -/
def iterBad (d : W512) : Bool := (List.range 6).any (fun j => iterAmount d j != 0 && decide (iterTarget d j ≤ 5))

/-- FORMAT at issue of a bundle that names a stream whose format matters (R36, R37, R107, R243, R88), with the faults of reading
its layout record (R243); `fmtMatters` is false for the metadata of `mmasp` and the records of `padj`, whose code is ignored: their layout record is
held to its own (R36, R88). DESIGN CHOICE: a layout address on a stream of space 2 is FORMAT too, as it is on a local one (R243; log entry 133). -/
def Env.streamCheck (e : Env) (s : State) (a : Nat) (fmtMatters : Bool) : List Flt :=
  let g := e.geo s a
  let d := g.desc
  let lay := hbits d 256 52
  let f : Flt := { fFormat with layout := lay }
  need (g.space != 3) f ++
  need (lay == 0 || g.space == 0) f ++
  need (lay % 64 == 0) f ++
  need (!(hbits d 308 1 == 1 && g.space == 0)) f ++
  need (lay != 0 || !iterBad d) f ++
  need (g.trav != 3 && (g.trav != 2 || (g.d0 % 4 == 0 && g.d1 % 4 == 0))) f ++
  (if fmtMatters then
    need (decide (g.fmt ≤ 10)) f ++
    need (g.fmt != 10 || xfWidth g.xf != 3) f ++
    need (!((g.fmt == 5 || g.fmt == 6 || (g.fmt == 10 && xfWidth g.xf == 1)) && g.d0 % 4 != 0)) f ++
    need (!(g.fmt == 7 && g.d0 % 8 != 0)) f
  else []) ++
  (if lay = 0 ∨ lay % 64 ≠ 0 ∨ g.space ≠ 0 then []
  else match s.readRecord e.c e.x lay 64 with
    | .error x => [{ x with layout := lay }]
    | .ok bs =>
      let r : W512 := BitVec.ofNat 512 (leNat bs)
      need (recordOk r (if fmtMatters then g.fmt else recFmt r)) f ++ need (!(fmtMatters && g.fmt == 7 && Int.emod (coordAt g.org 0) 8 != 0)) f)

/-! ### Traversal (R107) and pieces (R109) -/

/-- The index of element (x, y) of a d0 × d1 shape. -/
def travIndex (trav d0 d1 x y : Nat) : Nat :=
  match trav with
  | 0 => y * d0 + x
  | 1 => x * d1 + y
  | _ => (y / 4 * (d0 / 4) + x / 4) * 16 + y % 4 * 4 + x % 4

/-- The element with a given index: (x, y). -/
def travElem (trav d0 d1 i : Nat) : Nat × Nat :=
  match trav with
  | 0 => (i % d0, i / d0)
  | 1 => (i / d1, i % d1)
  | _ => (i / 16 % (d0 / 4) * 4 + i % 4, i / 16 / (d0 / 4) * 4 + i % 16 / 4)

/-- Elements of one traversal line. -/
def travLine (trav d0 d1 : Nat) : Nat := match trav with | 0 => d0 | 1 => d1 | _ => 16

/-- The greatest piece of a line for an element width (R109). -/
def pieceMax (w : Nat) : Nat := match w with | 32 => 64 | 16 => 128 | 8 => 256 | 6 => 340 | _ => 512

/-- The boundary that ends the piece beginning at index `i` of a tile of `n` elements in lines of `line`. -/
def pieceEnd (line w i n : Nat) : Nat :=
  let r := i % line
  min n (i - r + min line (r / pieceMax w * pieceMax w + pieceMax w))

end Sys2Proof.Machine
end

