-- ==== Sys2Proof/Machine/Flags.lean ====
section
/-! DEFINITION. Flags: the relations that set a steer register's condition half (R189), the predicate bit of a lane (R204), the bits
of a register or mask that a predicated instruction performs (R203, R204, R208), and `vtest` (R214). The module keeps no other
flags (R39). -/

namespace Sys2Proof.Machine

/-! ### Relations of the scalar compares (R189) -/

def relEq (a b : W64) : Bool := a == b
def relNe (a b : W64) : Bool := a != b
def relLt (a b : W64) : Bool := a.slt b
def relLe (a b : W64) : Bool := a.sle b
def relLtz (a b : W64) : Bool := a.ult b
def relLez (a b : W64) : Bool := a.ule b
def relBit (a b : W64) : Bool := a.getLsbD (b.toNat % 64)

/-! ### Lanes -/

/-- The predicate bit of lane `i` (R204): bit i for 16-bit lanes, bit 2i for 32-bit lanes. -/
def predBit (m : W64) (size i : Nat) : Bool := if size = 32 then m.getLsbD (2 * i) else m.getLsbD i

/-- Lane `i` of a vector, as a number. -/
def lane (v : V1024) (size i : Nat) : Nat := bits v.toNat (size * i) size

/-- A vector of `n` lanes given by `f` from lane 0 up. -/
def lanes (size n : Nat) (f : Nat → Nat) : V1024 :=
  BitVec.ofNat 1024 ((List.range n).foldr (fun i a => f i % 2 ^ size + 2 ^ size * a) 0)

/-- The bits of the lanes below `n` that `p` picks. -/
def laneMask (size n : Nat) (p : Nat → Bool) : V1024 :=
  BitVec.ofNat 1024 ((List.range n).foldl (fun a i => if p i then a + (2 ^ size - 1) * 2 ^ (size * i) else a) 0)

/-- The mask bits a compare writes for the lanes below `n` that `p` picks (R208): bit i, or bits 2i and 2i + 1. -/
def cmpBits (size n : Nat) (p : Nat → Bool) : W64 :=
  BitVec.ofNat 64 ((List.range n).foldl (fun a i =>
    if p i then a + (if size = 32 then 3 * 4 ^ i else 2 ^ i) else a) 0)

/-- `vtest` (R214): some position below `n` is set in both masks. -/
def anyBoth (a b : W64) (n : Nat) : Bool := (List.range n).any (fun i => a.getLsbD i && b.getLsbD i)

/-- The width in bits of a width field (R175). -/
def widthOf (w : Nat) : Nat := 256 * 2 ^ w

/-- Lane size of a type code (R175, R203). -/
def laneSize (t : Nat) : Nat := match t with | 0 | 3 | 5 => 32 | _ => 16

end Sys2Proof.Machine
end

