-- ==== Sys2Proof/Machine/Issue.lean ====
section
/-! DEFINITION. The issue of a bundle (R11, R165, R166): what blocks it, what its checks find, what it does, and where control
goes after it (R159, R160, R193). Every syllable's meaning is its `Sem` issued through `issueSems`. -/

namespace Sys2Proof.Machine

/-! ### Sources -/

/-- Source values in order, with the ports left (R165, R168). -/
def takeSrcs (x : Ctx) (free : Nat) : List Src → List PortEntry → List PortEntry → List V1024 × List PortEntry × List PortEntry
  | [], lq, lqs => ([], lq, lqs)
  | .s 31 :: r, lq, lqs =>
    let t := takeSrcs x free r lq (lqs.drop 1)
    ((match lqs with | e :: _ => (e.val.setWidth 64).setWidth 1024 | [] => 0) :: t.1, t.2)
  | .v 31 :: r, lq, lqs =>
    let t := takeSrcs x free r (lq.drop 1) lqs
    ((match lq with | e :: _ => e.val | [] => 0) :: t.1, t.2)
  | .s n :: r, lq, lqs => let t := takeSrcs x free r lq lqs; ((x.readS free n).setWidth 1024 :: t.1, t.2)
  | .v n :: r, lq, lqs => let t := takeSrcs x free r lq lqs; (x.readV free n :: t.1, t.2)
  | .m n :: r, lq, lqs => let t := takeSrcs x free r lq lqs; ((x.readM free n).setWidth 1024 :: t.1, t.2)
  | .cond k :: r, lq, lqs => let t := takeSrcs x free r lq lqs; ((if x.readCond free k then 1 else 0) :: t.1, t.2)

/-- The values of each syllable's sources, syllable by syllable, with the ports left. -/
def takeAll (x : Ctx) (free : Nat) : List (Nat × Sem) → List PortEntry → List PortEntry →
    List (List V1024) × List PortEntry × List PortEntry
  | [], lq, lqs => ([], lq, lqs)
  | p :: r, lq, lqs =>
    let t := takeSrcs x free p.2.srcs lq lqs
    let u := takeAll x free r t.2.1 t.2.2
    (t.1 :: u.1, u.2)

/-! ### Blocking before the checks (R11 a, b, c, R16, R71, R247) -/

def popCount (p : Src → Bool) (sems : List (Nat × Sem)) : Nat := ((sems.map (fun q => (q.2.srcs.filter p).length))).sum

/-- The first `n` entries are there and their data has arrived (R11 b, R15). -/
def portReady (q : List PortEntry) (n : Nat) : Bool := decide (n ≤ q.length) && (q.take n).all (fun e => e.left == 0)

/-- How many `sq` entries a syllable reserves. -/
def Sem.sqOut (m : Sem) : Nat := (m.dsts.filter (fun d => d == .v 31)).length

/-- Each store of the bundle finds a reserved `sq` entry, its own bundle's earlier reservations counted (R16, R225); and no
reservation passes 16 entries (R11 c). -/
def sqReady : Nat → List (Nat × Sem) → Bool
  | _, [] => true
  | n, p :: r =>
    let n' := n + p.2.sqOut
    decide (n' ≤ 16 ∨ p.2.sqOut = 0) && (!p.2.takesSq || decide (0 < n)) && sqReady (if p.2.takesSq then n' - 1 else n') r

/-- A scalar load, whose `s31` stands in its data field, above the base field (R165, R224). -/
def Sem.loads (m : Sem) : Bool :=
  match m.ins with
  | .ld8s .. | .ld8z .. | .ld16s .. | .ld16z .. | .ld32s .. | .ld32z .. | .ld64 .. => true
  | _ => false

/-- No reservation finds its port full (R11 c), `n` entries being there before: ports are taken syllable by syllable, so a pop makes room
for what reserves after it. Within a syllable an entry reserved by the top field (`top`) comes before the pops (R165). DESIGN CHOICE: the entry of an
atomic or queue syllable, which no field names, comes after its pops (R221; log entry 130). -/
def portRoom (pops outs : Sem → Nat) (top : Sem → Bool) : Nat → List (Nat × Sem) → Bool
  | _, [] => true
  | n, p :: r =>
    decide ((if top p.2 then n else n - pops p.2) + outs p.2 ≤ 16 ∨ outs p.2 = 0) &&
    portRoom pops outs top (n + outs p.2 - pops p.2) r

/-- How many entries a syllable pops of `lqs` and of `lq`. -/
def Sem.popsS (m : Sem) : Nat := (m.srcs.filter (fun r => r == .s 31)).length
def Sem.popsV (m : Sem) : Nat := (m.srcs.filter (fun r => r == .v 31)).length

/-- A stream whose `sld` is pending (R247). -/
def Ctx.sldPending (x : Ctx) (a : Nat) : Bool := x.ops.any (fun o => o.kind == .sld a)

/-- An engine queue has room for the command, and the accumulators are the team's or no one's (R11 a, R14, R71). -/
def Core.queueRoom (k : Core) (base q : Nat) : Bool :=
  decide (k.inQueue q < queueDepth q) &&
  (q != 1 || match k.accOwner with | some b => b == base | none => true)

/-- `sld`, `sset`, `sget` name a stream and look at no layout record of it (R244 to R247). -/
def Sem.layoutFree (m : Sem) : Bool :=
  match m.ins with
  | .sld .. | .sset .. | .sget .. => true
  | _ => false

/-- A syllable that reads a record of global memory at issue: its own, or a stream's layout record (R243). -/
def Sem.readsRecord (m : Sem) (x : Ctx) : Bool :=
  m.record || (m.streams.any (fun a => hbits (vget x.a a 0) 256 52 != 0) && !m.layoutFree)

/-- An access of the context is outstanding that no later plain read passes (R138, R147): an RMW, or an acquire. -/
def Ctx.readsHeld (x : Ctx) : Bool := x.ops.any (fun o => o.isRmw || o.ord % 2 == 1)

/-- Conditions (a), (b) and (c) of R11, with those of R16, R71 and R247; true: the bundle blocks, unchecked. DESIGN CHOICE: so does one that reads a
record at issue while an RMW or an acquire of its context is outstanding (log entry 139). -/
def blocksBefore (k : Core) (x : Ctx) (base : Nat) (sems : List (Nat × Sem)) : Bool :=
  !(sems.all (fun p => match p.2.queue with | some q => k.queueRoom base q | none => true) &&
    portReady x.lqs (popCount (fun r => r == .s 31) sems) && portReady x.lq (popCount (fun r => r == .v 31) sems) &&
    portRoom Sem.popsS (fun m => m.lqs) Sem.loads x.lqs.length sems && portRoom Sem.popsV (fun m => m.lq) (fun _ => true) x.lq.length sems &&
    sqReady x.sq.length sems &&
    sems.all (fun p => p.2.streams.all (fun a => !x.sldPending a)) && !(x.readsHeld && sems.any (fun p => p.2.readsRecord x)))

/-! ### Checks (R164, R166, R28) -/

/-- A destination that counts for R164. -/
def Dst.counts : Dst → Bool
  | .s n => n != 0
  | .m n => n != 0
  | .v n => decide (n < 31)
  | _ => true

/-- A number that names a register (R167); an unread syllable's field may hold another. -/
def Dst.named : Dst → Bool
  | .cond k => decide (k ≤ 11)
  | .tgt k => decide (k ≤ 11)
  | .spr n => decide (n ≤ 24)
  | _ => true

/-- The packet position of the first syllable that writes a register, mask or steer half which an earlier syllable of the bundle
writes (R164); `seen` is what those write. -/
def dupDst : List (Nat × Sem) → List Dst → Option Nat
  | [], _ => none
  | p :: r, seen =>
    if p.2.dsts.any (fun d => d.counts && seen.contains d) then some p.1 else dupDst r (p.2.dsts ++ seen)

/-- A register number at or beyond the header's count (R28). -/
def srcOver (h : W512) : Src → Bool
  | .s n => decide (hdrScalars h ≤ n) && decide (n ≤ 30) && n != 0
  | .v n => decide (hdrVectors h ≤ n) && decide (n ≤ 30)
  | _ => false

def dstOver (h : W512) : Dst → Bool
  | .s n => srcOver h (.s n)
  | .v n => srcOver h (.v n)
  | _ => false

/-- RESOVER of the resources a syllable names (R28). -/
def Sem.over (m : Sem) (h : W512) : Bool :=
  m.srcs.any (srcOver h) || m.names.any (srcOver h) || m.dsts.any (dstOver h) ||
  m.streams.any (fun n => decide (hdrStreams h ≤ n)) || m.tags.any (fun n => decide (hdrTags h ≤ n)) ||
  m.barriers.any (fun n => decide (hdrBarriers h ≤ n)) || m.groups.any (fun n => decide (hdrGroups h ≤ n))

/-- The environments of a bundle's syllables. -/
def envsOf (snap : State) (c x pc next now : Nat) (sems : List (Nat × Sem)) (vals : List (List V1024)) : List (Env × Sem) :=
  let sprs := sems.foldl (fun a p => a ++ p.2.dsts.filterMap (fun d => match d with | .spr n => some n | _ => none)) []
  (sems.zip vals).map (fun p =>
    ({ snap := snap, c := c, x := x, pc := pc, pos := p.1.1, next := next, now := now, vals := p.2, sprs := sprs }, p.1.2))

/-- A source's number among the registers of a context (`ErrSite.register`). -/
def Src.key : Src → Nat
  | .s n => n
  | .v n => 100 + n
  | .m n => 200 + n
  | .cond k => 300 + k

/-- A register a syllable names without a field of its own, and writes. -/
def Sem.writes (m : Sem) : Src → Bool
  | .s n => m.dsts.contains (.s n)
  | .v n => m.dsts.contains (.v n)
  | _ => false

/-- The streams a syllable reads: `sld` and `sset` only write theirs. -/
def Sem.readStreams (m : Sem) : List Nat :=
  match m.ins with
  | .sld .. | .sset .. => []
  | _ => m.streams

/-- A stream register, and what its descriptor takes in: an `lb`, an `xf`, the `nest` levels its iterators follow (R242, R243), the tag it chases (R120). -/
def Ctx.streamKeys (x : Ctx) (a : Nat) : List Nat :=
  let d := vget x.a a 0
  let fmt := hbits d 54 4
  (400 + a) :: ((if hbits d 308 1 = 1 then [600 + hbits d 309 3] else []) ++
    (if 3 ≤ fmt ∧ fmt ≠ 8 ∧ fmt ≠ 9 then [620 + hbits d 60 2] else []) ++
    (if (List.range 6).any (fun j => iterAmount d j != 0) then [800] else []) ++ (if hbits d 63 1 = 1 then [900 + hbits d 180 6] else []))

/-- What a syllable reads by what it is (R270): special registers, the policy of `mpol` (R79), the `nest` levels, the stage predicates. -/
def Sem.implied (m : Sem) (x : Ctx) : List Nat :=
  let pol := fun (p : BitVec 5) => if p = 0 then [715] else []
  let stage := fun (a : BitVec 4) => if hbits (vget x.a a.toNat 0) 312 1 = 1 then [640] else []
  match m.ins with
  | .mfs _ n => if 5 ≤ n.toNat ∧ n.toNat ≤ 10 then [800] else [700 + n.toNat]
  | .rte _ => [717]
  | .wfe => [714]
  | .lbrk | .nest .. => [800]
  | .lrot => [640, 800]
  | .lld _ _ a _ _ | .lst _ _ a _ _ => stage a
  | .ld8s .. | .ld8z .. | .ld16s .. | .ld16z .. | .ld32s .. | .ld32z .. | .ld64 .. | .st8 .. | .st16 .. | .st32 .. | .st64 ..
  | .vld .. | .vst .. | .vlds .. | .vsts .. | .vgath .. | .vscat .. | .qinit .. | .qlen .. | .drain .. => [715]
  | .aadd _ _ _ p | .amin _ _ _ p | .amax _ _ _ p | .aand _ _ _ p | .aor _ _ _ p | .axor _ _ _ p | .axchg _ _ _ p | .acas _ _ _ p
  | .radd _ _ _ p | .raddf _ _ p | .rmax _ _ _ p | .rmin _ _ _ p | .vradd _ _ p | .waitv _ _ _ p => pol p
  | .fence p => pol p
  | _ => []

/-- What a syllable reads of its context and team, numbered as in `ErrSite.register`, a tag n as 900 + n and a barrier as 964 + n; with the pass
decision of its bundle. -/
def Sem.reads (m : Sem) (x : Ctx) : List Nat :=
  (m.srcs ++ m.names.filter (fun n => !m.writes n)).map Src.key ++ m.hidden ++ m.readStreams.foldl (fun l a => l ++ x.streamKeys a) [] ++ m.implied x ++
    m.tags.map (fun t => 900 + t) ++ m.barriers.map (fun b => 964 + b) ++ (if x.nest.any (fun n => n.last == x.pc) then [800] else [])

/-- MCHK of the registers, tags and barriers a syllable of context `y` of core `c` reads, and of the `sq` entry it takes, that a lasting error has
destroyed (R270, R271); `tags`: those of its team that are, a barrier n as 64 + n. -/
def lostReads (c y : Nat) (x : Ctx) (tags : Nat × List Nat) (sq : List SqEntry) (m : Sem) : List Flt :=
  let lost := fun (site : ErrSite) => { fMchk 14 0 0 3 with unit := some site }
  (m.reads x).filterMap (fun k =>
    if x.lostRegs.contains k then some (lost (.register c y k))
    else if 900 ≤ k ∧ tags.2.contains (k - 900) = true then some (lost (if k < 964 then .tag c tags.1 (k - 900) else .barrier c tags.1 (k - 964)))
    else none) ++
  (sq.take (if m.takesSq then 1 else 0)).filterMap (fun e => if e.lost then some (lost (.register c y (540 + e.cell))) else none)

/-- The barriers of a team that are destroyed (R271), those among them whose cells are broken (R273): the teams of a pair share the cells of the first
(R33). -/
def Core.barsLost (k : Core) (t : Team) : List Nat :=
  let first := ((k.teams.filter (fun e => e.2.barKey == t.barKey)).map (fun e => e.1)).headD 0
  t.lostBars ++ (k.deadBars.filter (fun n => n / 16 == first)).map (fun n => n % 16)

/-- A context's team, by its base, and the tags and barriers of it that are destroyed. -/
def State.lostTagsAt (s : State) (c x : Nat) : Nat × List Nat :=
  match (s.core c).teamOf x with
  | some (b, t) => (b, t.lostTags ++ ((s.core c).barsLost t).map (fun n => 64 + n))
  | none => (x, [])

/-- The faults of a bundle's syllables in order, each with its position in the bundle; later syllables are checked against the
state the earlier ones would leave (R114). -/
def faultsOf (h : W512) : List (Env × Sem) → State → List Flt
  | [], _ => []
  | (e, m) :: r, s =>
    (need m.ins.wf fIllSyl ++ need (!m.over h) fResover ++
      m.streams.filterMap (fun a => (tget e.ctx.lostA a).map (fun p => fMchk 14 p.1 p.2 (s.lossOf p.2))) ++
      lostReads e.c e.x e.ctx (e.snap.lostTagsAt e.c e.x) (s.ctx e.c e.x).sq m ++ m.check e s).map (fun f => { f with syl := e.pos - e.pc / 4 % 16 }) ++
    faultsOf h r (m.act e s)

/-- The first fault in the order of R166: the earliest step, then the lowest syllable, then the syllable's own order. -/
def firstFault : List Flt → Option Flt
  | [] => none
  | f :: r =>
    match firstFault r with
    | some g => if g.step < f.step ∨ g.step = f.step ∧ g.syl < f.syl then some g else some f
    | none => some f

/-- MCHK of the lost entries one syllable pops, in field order (R271), and the ports it leaves. -/
def lostSrcs (s : State) (c x : Nat) : List Src → List PortEntry → List PortEntry → List Flt × List PortEntry × List PortEntry
  | [], lq, lqs => ([], lq, lqs)
  | r :: rs, lq, lqs =>
    let here := fun (k : Nat) (q : List PortEntry) => (q.take 1).filterMap (fun e => e.lost.map (fun p =>
      { fMchk 14 p.2.1 p.2.2 (s.lossOf p.2.2) with unit := if p.2.2 = noByte then some (.register c x (k + e.cell)) else none }))
    match r with
    | .s 31 => let t := lostSrcs s c x rs lq (lqs.drop 1); (here 500 lqs ++ t.1, t.2)
    | .v 31 => let t := lostSrcs s c x rs (lq.drop 1) lqs; (here 520 lq ++ t.1, t.2)
    | _ => lostSrcs s c x rs lq lqs

/-- MCHK of the entries a bundle pops whose data is lost (R271), each at the syllable that pops it; `p0` is the bundle's first position. -/
def lostPop (s : State) (c x p0 : Nat) : List (Nat × Sem) → List PortEntry → List PortEntry → List Flt
  | [], _, _ => []
  | q :: r, lq, lqs =>
    let t := lostSrcs s c x q.2.srcs lq lqs
    t.1.map (fun f => { f with syl := q.1 - p0 }) ++ lostPop s c x p0 r t.2.1 t.2.2

/-- The checks of a taken transfer of control (R160): alignment, the address's high bits, the fetch of the target, its B bit. -/
def State.targetCheck (s : State) (c x t : Nat) (mis far : Bool) : List Flt :=
  let f : Flt := { step := 15, cause := cALIGN, addr := t }
  if mis || t % 4 != 0 then [f]
  else if far || decide (2 ^ 52 ≤ t) then [{ f with cause := cXLATE }]
  else match s.fetchPacket c (s.rootAt c x) t with
    | .error e => [s.fXlat 15 t e]
    | .ok (pa, pk) =>
      match (span (pa + t % 64) 4).find? s.isLost with
      | some q => [fMchk 15 (t / 64 * 64 + q % 64) q (s.lossOf q)]
      | none =>
        need (startsBundle (pk.getD (t / 4 % 16) 0)) { f with cause := cNOSTART }

/-- Where the bundle's control syllable, if it holds one, sends control. -/
def flowOf : List (Env × Sem) → State → Flow
  | [], _ => .next
  | (e, m) :: r, s => match m.flow e s with | .next => flowOf r s | f => f

def flowFaults (s : State) (c x : Nat) (pos : Nat) : Flow → List Flt
  | .jump t mis far => (s.targetCheck c x t mis far).map (fun f => { f with syl := pos })
  | .rte _ t => (s.targetCheck c x t false false).map (fun f => { f with syl := pos })
  | _ => []

/-- The bundle position of the syllable whose flow is taken. -/
def flowPos : List (Env × Sem) → State → Nat
  | [], _ => 0
  | (e, m) :: r, s => match m.flow e s with | .next => flowPos r s | _ => e.pos - e.pc / 4 % 16

/-! ### What a bundle does -/

def runActs : List (Env × Sem) → State → State
  | [], s => s
  | (e, m) :: r, s => runActs r (m.act e s)

/-- The pass decision when a context completes its bundle at `pc` (R193): the innermost level that ends there first; a level that ends
elsewhere, which a branch has left active, stands by. -/
def passDecision (pc next : Nat) : List Nest → List Nest × Nat
  | [] => ([], next)
  | n :: r =>
    if n.last = pc then
      if n.pass + 1 < n.passes then ({ n with pass := n.pass + 1 } :: r, n.body) else passDecision pc next r
    else (n :: (passDecision pc next r).1, (passDecision pc next r).2)

/-- Bubbles of a taken transfer (R171). -/
def bubblesOf (x : Ctx) : Instr → Flow → Nat
  | .jmp _, .jump _ _ _ => 1
  | .call _, .jump _ _ _ => 1
  | .ret, .jump _ _ _ => 2
  | .br k, .jump _ _ _ => (x.preps.find? (fun p => p.1 == k.toNat)).elim 0 (fun p => (if p.2.1 then 3 else 2) - p.2.2)
  | .brn k, .jump _ _ _ => (x.preps.find? (fun p => p.1 == k.toNat)).elim 0 (fun p => (if p.2.1 then 3 else 2) - p.2.2)
  | _, _ => 0

/-- The steers whose target half a syllable writes, for R171. -/
def prepOf : Instr → Option (Nat × Bool)
  | .prep k _ => some (k.toNat, false)
  | .prepx k _ => some (k.toNat, true)
  | _ => none

def nextPreps (x : Ctx) (sems : List (Nat × Sem)) : List (Nat × Bool × Nat) :=
  let new := sems.filterMap (fun p => prepOf p.2.ins)
  (new.map (fun p => (p.1, p.2, 0))) ++
    ((x.preps.filter (fun p => decide (p.2.2 < 3) && !(new.any (fun q => q.1 == p.1)))).map (fun p => (p.1, p.2.1, p.2.2 + 1)))

/-- One step of the module passes: the timebase advances (R201), and the free values of the next step are new ones. -/
def State.tick (s : State) : State :=
  { s with cycle := s.cycle + 1 + BitVec.ofNat 64 (Config.ticks s.free), free := s.free + 1 }

/-- A context that issues bundles, is not parked in `qdeqw` (R235), is not asked to stop (R301), and belongs to a resident team. -/
def Core.canTry (k : Core) (x : Nat) : Bool :=
  (k.ctx x).status == .ready && (k.ctx x).parks.isEmpty && match k.teamOf x with | some (_, t) => !t.stopping | none => false

/-- The context at place `j` of the order in which a core looks for one that can issue (R12): the one that issued last comes first while its turn goes on,
else after the others. -/
def Core.inOrder (k : Core) (j : Nat) : Nat := (k.cur + j + if k.spent then 1 else 0) % 4

/-- The place of context `x` in that order. -/
def Core.placeIn (k : Core) (x : Nat) : Nat := (x + 8 - k.cur - if k.spent then 1 else 0) % 4

/-- The first place from `j` on whose context may try to issue. -/
def Core.search (k : Core) (j : Nat) : Option Nat := [0, 1, 2, 3].find? (fun i => decide (j ≤ i) && k.canTry (k.inOrder i))

/-- The attempt of context `x` has blocked: the next in order tries in the same cycle. With none left, the core issues nothing in this cycle, the
cycle counts, and in the next one it examines every context again, the one that issued last behind the others (R12, R13). -/
def Core.idled (k : Core) (x : Nat) : Core :=
  match k.search (k.placeIn x + 1) with
  | some j => { k with idle := j }
  | none => { k with clock := k.clock + 1, idle := 0, spent := true, run := 0 }

/-- Cycles pass on a core with a resident team, and on one that a `sev` is on its way to (R34). -/
def Core.awake (k : Core) : Bool := !k.teams.isEmpty || !k.sevs.isEmpty

/-- The next core on which cycles pass, after `c`. -/
def State.nextCore (s : State) (c : Nat) : Nat :=
  match (s.cores.find? (fun e => decide (c < e.1) && e.2.awake)) with
  | some e => e.1
  | none => match (s.cores.find? (fun e => e.2.awake)) with
    | some e => e.1
    | none => c

/-- What happens in the module comes before the core whose turn it is looks for a context that can issue: the search begins anew (R12). -/
def State.anew (s : State) : State := if (s.core s.turn).idle = 0 then s else s.modCore s.turn (fun k => { k with idle := 0 })

/-- Context `x` of core `c` has issued nothing: the next context of the core tries, or, where none is left, the next core has its turn. -/
def State.blocked (s : State) (c x : Nat) : State :=
  let s := s.modCore c (fun k => k.idled x)
  { s with turn := if (s.core c).idle = 0 then s.nextCore c else c, stall := s.stall + 1 }.tick

/-- A core after an issue by its context `x`: it counts the cycle and the bubbles (R171); a `yield` ends the context's turn (R11). -/
def Core.counted (k : Core) (x bubbles : Nat) (yields : Bool) : Core :=
  { k with clock := k.clock + 1 + bubbles, cur := x, idle := 0, spent := yields, run := if yields then 0 else k.run }

/-- After an issue by context `x` of core `c` the next core has its turn. `State.contest` counts the cycles of R11 g. -/
def State.issued (s : State) (c x bubbles : Nat) (yields : Bool := false) : State :=
  let s := s.modCore c (fun k => k.counted x bubbles yields)
  { s with turn := s.nextCore c, stall := 0 }.tick

/-- The latch of a context that is resident is set (R34). -/
def Core.setLatch (k : Core) (x : Nat) : Core :=
  if (k.teamOf x).isSome then k.putCtx x { k.ctx x with evt := true } else k

/-- The last cycle for a `sev` to arrive has come, on the clock of the core it goes to or of the core that issued it (R34). -/
def State.sevDue (s : State) (k : Core) (e : Sev) : Bool := decide (e.due ≤ k.clock) || decide (e.until_ ≤ (s.core e.issuer).clock)

/-- Every `sev` whose last cycle to arrive has come arrives (R34). -/
def State.landSevs (s : State) (k : Core) : Core :=
  (k.sevs.filter (s.sevDue k)).foldl (fun (k : Core) e => k.setLatch e.ctx) { k with sevs := k.sevs.filter (fun e => !s.sevDue k e) }

/-- What has arrived at core `c` by now is in its latches: a unit that comes next takes none of it (R34). -/
def State.purgeSevs (s : State) (c : Nat) : State := s.modCore c s.landSevs

/-- The state with the results, stream and `xf` writes of context `x` that are due (R47, R169, R245), and the `sev`s. -/
def State.landed (s : State) (c x : Nat) : State :=
  let k := s.landSevs (s.core c)
  s.putCore c ((k.landXf k.clock).putCtx x (((k.ctx x).land k.clock).landSets k.clock))

/-- Control after the bundle: the pc, pass decisions, the trap handler (R193, R197, R198). DESIGN CHOICE: an `rte` in the end bundle of an
active level goes to `tpc` and counts no pass, as a taken `br` does (log entry 109). -/
def State.goOn (s : State) (c x pc next : Nat) (bundlePos : Nat) : Flow → State
  | .next =>
    let d := passDecision pc next (s.ctx c x).nest
    s.modCtx c x (fun v => { v with pc := d.2, nest := d.1 })
  | .jump t _ _ => s.modCtx c x (fun v => { v with pc := t })
  | .goto t => s.modCtx c x (fun v => { v with pc := t })
  | .trap cause code =>
    let d := passDecision pc next (s.ctx c x).nest
    let s := s.modCtx c x (fun v => { v with pc := d.2, nest := d.1 })
    let f : Flt := { step := 0, cause := cause, detail := code, syl := bundlePos }
    s.takeTrap c x cause (f.record pc s.cycle) d.2 none false
  | .rte choice t => s.leaveTrap c x choice t
  | .exit => s.modCtx c x (fun v => { v with status := .exiting, nest := [] })

/-- What the issue of a bundle comes to. -/
inductive Verdict where
  /-- unchecked (R11 a, b, c) -/
  | block
  /-- every check passed (R11 d, e, f) -/
  | await
  | fault (f : Flt)
  | go

/-- A bundle prepared for issue: the state with due results landed and ports popped, its syllables in their environments, the
state their effects leave, and where control goes. -/
structure Prepared where
  before : State
  envs : List (Env × Sem)
  after : State
  flow : Flow
  pos : Nat

/-- The bundle `sems` at `pc`, read at issue (R165). -/
def State.prepare (s : State) (c x pc next : Nat) (sems : List (Nat × Sem)) : Prepared :=
  let s1 := s.landed c x
  let v := s1.ctx c x
  let got := takeAll v s1.free sems v.lq v.lqs
  let s2 := s1.putCtx c x { v with lq := got.2.1, lqs := got.2.2 }
  let es := envsOf s2 c x pc next (s1.core c).clock sems got.1
  { before := s2, envs := es, after := runActs es s2, flow := flowOf es s2, pos := flowPos es s2 }

/-- The accumulator a syllable names is busy for the team at base `b` (R11 f, R71, R125). -/
def Core.accBusy (k : Core) (b : Nat) (m : Sem) : Bool :=
  match m.acc with
  | some a => (vget k.accs a Acc.zero).busy.isSome && decide (k.accOwner = some b)
  | none => false

/-- Conditions (d), (e) and (f) of R11, for the team at base `b`. -/
def waitsAfter (k : Core) (b : Nat) : List (Env × Sem) → State → Bool
  | [], _ => false
  | (e, m) :: r, s => m.waits e s || k.accBusy b m || waitsAfter k b r (m.act e s)

/-- What a bundle does while it waits (R262): its `bar` arrives, once the syllables before it wait for nothing. -/
def arrivals (k : Core) (b : Nat) : List (Env × Sem) → State → State → State
  | [], _, s => s
  | (e, m) :: r, h, s => if m.waits e h || k.accBusy b m then m.arrive e s else arrivals k b r (m.act e h) s

/-- Blocked, faulting, or free to go (R11, R166). -/
def State.verdict (s : State) (c x : Nat) (sems : List (Nat × Sem)) (p : Prepared) : Verdict :=
  let k := s.core c
  let v := (s.landed c x).ctx c x
  let base := match k.teamOf x with | some (b, _) => b | none => x
  if blocksBefore k v base sems then .block
  else
    let dup : List Flt := match dupDst sems [] with
      | some p => [{ step := 1, cause := cILLBUNDLE, syl := p - v.pc / 4 % 16 }]
      | none => []
    match firstFault (dup ++ lostPop s c x (v.pc / 4 % 16) sems v.lq v.lqs ++ faultsOf (s.hdrAt c x) p.envs p.before ++
        flowFaults p.before c x p.pos p.flow) with
    | some f => .fault f
    | none => if waitsAfter k base p.envs p.before then .await else .go

/-- The context's next bundle waits for a fence (R237). -/
def Ctx.fenced (x : Ctx) : Bool := x.ops.any (fun o => o.kind == .fence)

/-- The first trap held for a context that the firmware is not asked about (R127, R267). -/
def Ctx.dueTrap (v : Ctx) : Option Trap := v.pending.find? (fun t => !t.ask)

/-- That trap is taken (R127, R262): `tpc` is the bundle the context would issue next. -/
def State.deliverTrap (s : State) (c x : Nat) : State :=
  match (s.ctx c x).dueTrap with
  | some t =>
    let s := s.modCtx c x (fun v => { v with pending := v.pending.erase t })
    s.takeTrap c x t.cause t.record (s.ctx c x).pc t.cmd t.unitWd
  | none => s

/-- Withdrawn `qdeqw`s are sent again before the context's next bundle, and the context parks (R235); their entries are reserved again
when they find room. -/
def State.resendQdeqw (s : State) (c x : Nat) : State :=
  s.modCtx c x (fun v =>
    if v.lqs.length + 2 * v.resend.length ≤ 16 then
      v.resend.foldl (fun (v : Ctx) q =>
        let entry := v.seq
        let v := { v.reserveLqs.reserveLqs with parks := v.parks ++ [(q, entry)] }
        v.pushOp (.queue .deqw 0 entry) [(q, 0)] [] 1 2 v.pc 0) { v with resend := [] }
    else v)

/-- One attempt to issue `sems` at the context's pc. -/
def State.issueSems (s : State) (c x : Nat) (sems : List (Nat × Sem)) : State :=
  let s := s.settleOps c x
  let v := s.ctx c x
  match v.dueTrap, v.handler with
  | some _, none => (s.deliverTrap c x).issued c x 0
  | _, _ =>
    if v.pending.any (fun t => t.ask) then s.blocked c x
    else match v.resend with
    | _ :: _ => (s.resendQdeqw c x).blocked c x
    | [] =>
      if v.fenced then s.blocked c x
      else
        let root := s.rootAt c x
        match s.fetchPacket c root v.pc with
        | .error e => (s.raise c x v.pc (s.fXlat 0 v.pc e)).issued c x 0
        | .ok (pa, pk) =>
          match (span (pa + v.pc % 64) 4).find? s.isLost with
          | some q => (s.raise c x v.pc (fMchk 0 (v.pc / 64 * 64 + q % 64) q (s.lossOf q))).issued c x 0
          | none =>
            let next := match nextStart pk (v.pc / 4 % 16) with
              | some j => v.pc / 64 * 64 + 4 * j
              | none => v.pc / 64 * 64 + 64
            let s := (s.noteFetch c pa).noteTlb c root v.pc
            let p := s.prepare c x v.pc next sems
            match s.verdict c x sems p with
            | .block => (s.landed c x).blocked c x
            | .await => (arrivals (s.core c) (match (s.core c).teamOf x with | some (b, _) => b | none => x) p.envs p.before (s.landed c x)).blocked c x
            | .fault f =>
              let named := sems.foldl (fun a q => a ++ q.2.streams) []
              let s := (s.landed c x).modCtx c x (fun w => if f.cause = cMCHK then
                { w with lostA := w.lostA.filter (fun p => !named.contains p.1) } else w)
              (s.raise c x v.pc f).issued c x 0
            | .go =>
              let bub := (sems.map (fun q => bubblesOf v q.2.ins p.flow)).sum
              let s' := (p.after.modCtx c x (fun w => { w with preps := nextPreps w sems })).settleOps c x
              (s'.goOn c x v.pc next p.pos p.flow).issued c x bub (sems.any (fun q => q.2.ins == .yield))

/-- The context that tries to issue next: of the core whose turn it is, the one its search has come to (R12). -/
def State.pick (s : State) : Option (Nat × Nat) :=
  let k := s.core s.turn
  (k.search k.idle).map (fun j => (s.turn, k.inOrder j))

/-- No context of the turn's core is left that can try: its cycle passes, and the `sev`s that are due have arrived. -/
def State.skipTurn (s : State) : State := (s.purgeSevs s.turn).blocked s.turn ((s.core s.turn).inOrder 3)

/-- The meaning shared by every event: it happens, and time passes; without power nothing runs (R355). -/
def happen (f : State → State) (s : State) : Host.Outcome State Fault Refusal :=
  if !s.powered then .fault .poweredOff else .next (f s).tick

/-- A syllable that names no instruction (R181). -/
def semIll : Sem := { ins := .nop, check := fun _ _ => [fIllSyl] }

end Sys2Proof.Machine
end

