-- ==== Sys2Proof/Machine/Float.lean ====
section
/-! DEFINITION. Binary floating point (R38 to R42): exact values, and one rounding into a format (R39, R49). -/

namespace Sys2Proof.Machine

/-- An exact value: NaN, an infinity, or ± m × 2^e, with the sign of a zero kept. -/
inductive Num where
  | nan
  | inf (neg : Bool)
  | fin (neg : Bool) (m : Nat) (e : Int)
  deriving DecidableEq, Repr

/-- A binary format: exponent and fraction bits, bias, and what its top exponent holds: `ieee` infinities and NaNs, else only (for
e4m3) the NaN of fraction all ones. -/
structure Fp where
  ebits : Nat
  fbits : Nat
  bias : Nat
  ieee : Bool
  topNan : Bool
  deriving DecidableEq, Repr

def fpF32 : Fp := { ebits := 8, fbits := 23, bias := 127, ieee := true, topNan := false }
def fpBf16 : Fp := { ebits := 8, fbits := 7, bias := 127, ieee := true, topNan := false }
def fpF16 : Fp := { ebits := 5, fbits := 10, bias := 15, ieee := true, topNan := false }
def fpE4m3 : Fp := { ebits := 4, fbits := 3, bias := 7, ieee := false, topNan := true }
def fpE5m2 : Fp := { ebits := 5, fbits := 2, bias := 15, ieee := true, topNan := false }
def fpE3m2 : Fp := { ebits := 3, fbits := 2, bias := 3, ieee := false, topNan := false }
def fpE2m3 : Fp := { ebits := 2, fbits := 3, bias := 1, ieee := false, topNan := false }

/-- The format with a stream code from 0 to 6 (R36). -/
def fpOf (code : Nat) : Fp :=
  match code with
  | 0 => fpF32 | 1 => fpBf16 | 2 => fpF16 | 3 => fpE4m3 | 4 => fpE5m2 | 5 => fpE3m2 | _ => fpE2m3

def Fp.width (f : Fp) : Nat := f.ebits + f.fbits + 1

/-- The exponent of the unit of the least binade: 1 − bias − fraction bits. -/
def Fp.qmin (f : Fp) : Int := 1 - (f.bias : Int) - f.fbits

/-- The code of the greatest finite magnitude (R38, R41). -/
def Fp.maxCode (f : Fp) : Nat :=
  if f.ieee then (2 ^ f.ebits - 1) * 2 ^ f.fbits - 1
  else if f.topNan then 2 ^ (f.ebits + f.fbits) - 2 else 2 ^ (f.ebits + f.fbits) - 1

/-- The canonical NaN of f32, bf16 and f16 (R38). -/
def Fp.nanCode (f : Fp) : Nat := (2 ^ f.ebits - 1) * 2 ^ f.fbits + 2 ^ (f.fbits - 1)

/-- A code with a sign. -/
def Fp.signed (f : Fp) (neg : Bool) (mag : Nat) : Nat := if neg then mag + 2 ^ (f.width - 1) else mag

/-- The value of a code (R38, R41). -/
def Fp.decode (f : Fp) (c : Nat) : Num :=
  let neg := bits c (f.ebits + f.fbits) 1 == 1
  let e := bits c f.fbits f.ebits
  let m := bits c 0 f.fbits
  if f.ieee && e == 2 ^ f.ebits - 1 then (if m = 0 then .inf neg else .nan)
  else if f.topNan && e == 2 ^ f.ebits - 1 && m == 2 ^ f.fbits - 1 then .nan
  else if e = 0 then .fin neg m f.qmin
  else .fin neg (2 ^ f.fbits + m) (f.qmin + e - 1)

/-! ### Rounding (R49) -/

/-- A rounding mode (R49); the stochastic one with the draw of its element (R51). -/
inductive Round where
  | rne
  | rz
  | stochastic (draw : Nat)
  deriving DecidableEq, Repr

/-- Whether the greater magnitude is taken, for a magnitude `r / 2^k` above the lesser one, 0 < r < 2^k; `odd`: the lesser one's
encoding has bit 0 set. -/
def Round.away (md : Round) (neg : Bool) (r k : Nat) (odd : Bool) : Bool :=
  match md with
  | .rne => decide (2 ^ k < 2 * r) || (decide (2 * r = 2 ^ k) && odd)
  | .rz => false
  | .stochastic d =>
    if neg then !decide (d < (2 ^ k - r) * 65536 / 2 ^ k) else decide (d < r * 65536 / 2 ^ k)

/-- `m × 2^e` rounded to a multiple of `2^q`: the multiple. -/
def roundTo (md : Round) (neg : Bool) (m : Nat) (e q : Int) : Nat :=
  if q ≤ e then m * 2 ^ (e - q).toNat
  else
    let k := (q - e).toNat
    let n := m / 2 ^ k
    let r := m % 2 ^ k
    if r ≠ 0 ∧ md.away neg r k (n % 2 == 1) = true then n + 1 else n

/-- The code of the magnitude `m × 2^e` rounded with no upper bound on the exponent. -/
def Fp.roundMag (f : Fp) (md : Round) (neg : Bool) (m : Nat) (e : Int) : Nat :=
  if m = 0 then 0
  else
    let top := e + (Nat.log2 m : Int)
    let q := max (top - f.fbits) f.qmin
    (q - f.qmin).toNat * 2 ^ f.fbits + roundTo md neg m e q

/-- A value rounded once into f32, bf16 or f16 (R39): overflow goes to infinity, a NaN is the canonical one. -/
def Fp.encode (f : Fp) (x : Num) : Nat :=
  match x with
  | .nan => f.nanCode
  | .inf neg => f.signed neg (f.maxCode + 1)
  | .fin neg m e => f.signed neg (min (f.roundMag .rne neg m e) (f.maxCode + 1))

/-- A value narrowed into e4m3, e5m2, e3m2 or e2m3 (R42). -/
def Fp.narrow (f : Fp) (md : Round) (infKeep : Bool) (x : Num) : Nat :=
  let top := if f.ieee && infKeep then f.maxCode + 1 else f.maxCode
  match x with
  | .nan => if f.topNan then 0x7F else if f.ieee then 0x7E else 0
  | .inf neg => f.signed neg top
  | .fin neg m e =>
    let c := f.roundMag md neg m e
    f.signed neg (if f.maxCode < c then top else c)

/-! ### Exact arithmetic (R39) -/

/-- The signed integer of a magnitude at exponent `d`, for `d` at or below `e`. -/
def scaled (neg : Bool) (m : Nat) (e d : Int) : Int :=
  let v : Int := ((m * 2 ^ (e - d).toNat : Nat) : Int)
  if neg then -v else v

/-- The exact sum. A zero sum is negative only when both terms are (roundTiesToEven). -/
def Num.add : Num → Num → Num
  | .nan, _ => .nan
  | _, .nan => .nan
  | .inf a, .inf b => if a = b then .inf a else .nan
  | .inf a, _ => .inf a
  | _, .inf b => .inf b
  | .fin a m e, .fin b n g =>
    let d := min e g
    let s := scaled a m e d + scaled b n g d
    if s = 0 then .fin (a && b) 0 0 else .fin (decide (s < 0)) s.natAbs d

def Num.neg : Num → Num
  | .nan => .nan
  | .inf a => .inf (!a)
  | .fin a m e => .fin (!a) m e

def Num.mul : Num → Num → Num
  | .nan, _ => .nan
  | _, .nan => .nan
  | .inf a, .inf b => .inf (a != b)
  | .inf a, .fin b n _ => if n = 0 then .nan else .inf (a != b)
  | .fin a m _, .inf b => if m = 0 then .nan else .inf (a != b)
  | .fin a m e, .fin b n g => .fin (a != b) (m * n) (e + g)

/-- The exact sum of some values, from the first on (R53: a NaN, or infinities of both signs, give NaN). -/
def Num.sum : List Num → Num
  | [] => .fin false 0 0
  | x :: xs => xs.foldl Num.add x

/-- The value of an integer. -/
def Num.ofInt (i : Int) : Num := .fin (decide (i < 0)) i.natAbs 0

/-- A value rounded to an integer (R49); infinities and NaNs are for the caller. -/
def roundInt (md : Round) (neg : Bool) (m : Nat) (e : Int) : Int :=
  let n : Int := (roundTo md neg m e 0 : Nat)
  if neg then -n else n

/-- A value rounded to an integer and saturated to a range; NaN gives 0 (R48, R50). -/
def Num.toIntSat (x : Num) (md : Round) (lo hi : Int) : Int :=
  match x with
  | .nan => 0
  | .inf neg => if neg then lo else hi
  | .fin neg m e => max lo (min hi (roundInt md neg m e))

/-! ### Operations on codes -/

def Fp.add (f : Fp) (a b : Nat) : Nat := f.encode ((f.decode a).add (f.decode b))
def Fp.sub (f : Fp) (a b : Nat) : Nat := f.encode ((f.decode a).add (f.decode b).neg)
def Fp.mul (f : Fp) (a b : Nat) : Nat := f.encode ((f.decode a).mul (f.decode b))
/-- a × b + d with one rounding. -/
def Fp.fma (f : Fp) (a b d : Nat) : Nat := f.encode (((f.decode a).mul (f.decode b)).add (f.decode d))

def Fp.isNan (f : Fp) (c : Nat) : Bool := f.decode c == .nan

/-- The order of codes that puts −0 below +0 (R40). -/
def Fp.key (f : Fp) (c : Nat) : Int :=
  let m : Int := (bits c 0 (f.width - 1) : Nat)
  if bits c (f.width - 1) 1 = 1 then -1 - m else m

/-- The order of values: −0 equals +0. -/
def Fp.valueKey (f : Fp) (c : Nat) : Int :=
  let m : Int := (bits c 0 (f.width - 1) : Nat)
  if bits c (f.width - 1) 1 = 1 then -m else m

/-- `vmin` and `vmax` on floating point (R40). -/
def Fp.min (f : Fp) (a b : Nat) : Nat :=
  if f.isNan a || f.isNan b then f.nanCode else if f.key a ≤ f.key b then a else b
def Fp.max (f : Fp) (a b : Nat) : Nat :=
  if f.isNan a || f.isNan b then f.nanCode else if f.key a ≤ f.key b then b else a

/-- The compares of R40: 0 equal, 1 less, 2 less or equal; false with a NaN. -/
def Fp.cmp (f : Fp) (rel a b : Nat) : Bool :=
  if f.isNan a || f.isNan b then false
  else match rel with
    | 0 => f.valueKey a == f.valueKey b
    | 1 => decide (f.valueKey a < f.valueKey b)
    | _ => decide (f.valueKey a ≤ f.valueKey b)

/-- f32 addition on 32-bit patterns (R57, R58). -/
def fadd32 (a b : W32) : W32 := BitVec.ofNat 32 (fpF32.add a.toNat b.toNat)

end Sys2Proof.Machine
end

