-- ==== Sys2Proof/Machine/Narrow.lean ====
section
/-! DEFINITION. Narrow integers (R48), the q4 block format (R43 to R46), the stochastic generator (R51), and the conversions of
elements between stream formats (R50, R251). -/

namespace Sys2Proof.Machine

/-! ### Integers -/

/-- The two's complement value of the low `n` bits. -/
def signedVal (n c : Nat) : Int := sbits c 0 n

/-- The low `n` bits of an integer. -/
def wrapTo (n : Nat) (i : Int) : Nat := (Int.emod i (2 ^ n)).toNat

/-- The range of a narrow integer (R48). -/
def xfLo (xf : W32) : Int :=
  if xfSigned xf then (if xfSym xf then -(2 ^ (xfBits xf - 1) - 1) else -(2 ^ (xfBits xf - 1))) else 0
def xfHi (xf : W32) : Int := if xfSigned xf then 2 ^ (xfBits xf - 1) - 1 else 2 ^ xfBits xf - 1

/-- A narrow integer's value; `none`: the reserved code under substitute 2, or a reserved substitute (R47, R48). -/
def decodeNarrow (xf : W32) (c : Nat) : Option Int :=
  if xfSigned xf then
    let v := signedVal (xfBits xf) c
    if xfSym xf ∧ v = -(2 ^ (xfBits xf - 1)) then
      (match xfSub xf with | 0 => some 0 | 1 => some (xfLo xf) | _ => none)
    else some v
  else some c

/-! ### q4 (R43 to R46) -/

/-- Twice the value of a code of a block type, before the scale; every zero is +0 (R44). -/
def q4Twice (t c : Nat) : Int :=
  let k := c % 8
  let sg : Int := if c / 8 % 2 = 1 then -1 else 1
  match t with
  | 0 => 2 * signedVal 4 c
  | 1 => sg * (([0, 1, 2, 3, 4, 6, 8, 12] : List Int).getD k 0)
  | 2 => if k = 0 then 0 else sg * 2 ^ k
  | _ => sg * (([0, 2, 4, 6, 8, 10, 12, 16] : List Int).getD k 0)

/-- The value of a code under a scale byte (R44, R45); `none`: a FORMAT fault (substitute 2, or the reserved 3). -/
def decodeQ4 (sub scale c : Nat) : Option Num :=
  let t := scale / 64 % 4
  let e := scale % 64
  let val := fun (e : Nat) =>
    let v := q4Twice t c
    Num.fin (decide (v < 0)) v.natAbs ((e : Int) - 33)
  if e = 63 then
    (match sub with | 0 => some (Num.fin false 0 0) | 1 => some (val 62) | _ => none)
  else if t = 2 ∧ c = 8 then
    (match sub with | 0 => some (Num.fin false 0 0) | 1 => some (Num.fin false 0 0) | _ => none)
  else some (val e)

/-- Twice M_T (R46). -/
def q4Max (t : Nat) : Nat := match t with | 0 => 14 | 1 => 12 | 2 => 128 | _ => 16

/-- A magnitude compared: m × 2^e ≤ n × 2^g. -/
def magLe (m : Nat) (e : Int) (n : Nat) (g : Int) : Bool :=
  let d := min e g
  decide (m * 2 ^ (e - d).toNat ≤ n * 2 ^ (g - d).toNat)

/-- The magnitude of a source value for the choice of E: NaN as 0, infinity as the largest finite value (R46). -/
def q4Mag (src : Fp) (x : Num) : Nat × Int :=
  match x with
  | .nan => (0, 0)
  | .inf _ => (match src.decode src.maxCode with | .fin _ m e => (m, e) | _ => (0, 0))
  | .fin _ m e => (m, e)

/-- E of a block (R46, steps 1 to 3). -/
def q4Scale (src : Fp) (t : Nat) (xs : List Num) : Nat :=
  ((List.range 63).find? (fun (E : Nat) => xs.all (fun x =>
    let p := q4Mag src x
    magLe p.1 p.2 (q4Max t) ((E : Int) - 33)))).getD 62

/-- A type's values, twice over, with the codes the encoder writes, in rising order (R46, step 5). -/
def q4Set (t : Nat) : List (Int × Nat) :=
  match t with
  | 0 => (List.range 16).map (fun (i : Nat) => (2 * ((i : Int) - 8), (i + 8) % 16))
  | _ => (List.range 7).map (fun i => (q4Twice t (15 - i), 15 - i)) ++ (List.range 8).map (fun i => (q4Twice t i, i))

/-- The exact value `X` rounded into a rising set under R49; beyond its ends, the end (R46). -/
def roundSet (md : Round) (x : Int) : List (Int × Nat) → Nat
  | [] => 0
  | [p] => p.2
  | p :: q :: r =>
    if x ≤ p.1 then p.2
    else if x < q.1 then
      let up := match md with
        | .rne => decide (p.1 + q.1 < 2 * x) || (decide (p.1 + q.1 = 2 * x) && q.2 % 2 == 0)
        | .rz => decide (q.1.natAbs < p.1.natAbs)
        | .stochastic d => decide ((d : Int) < (x - p.1) * 65536 / (q.1 - p.1))
      if up then q.2 else p.2
    else roundSet md x (q :: r)

/-- One code of a block (R46, steps 4 and 5). -/
def encodeQ4 (md : Round) (t E : Nat) (x : Num) : Nat :=
  match x with
  | .nan => 0
  | .inf neg => if neg then (match q4Set t with | p :: _ => p.2 | [] => 0) else 7
  | .fin neg m e =>
    let g : Int := (E : Int) - 33
    let d := min e g
    roundSet md (scaled neg m e d) ((q4Set t).map (fun p => (p.1 * ((2 ^ (g - d).toNat : Nat) : Int), p.2)))

/-- The scale byte. -/
def q4Byte (t E : Nat) : Nat := t * 64 + E

/-! ### The generator of R51 -/

def lfsrStep (s : W32) : W32 :=
  let s := if s = 0 then 1 else s
  if s.getLsbD 0 then (s >>> 1) ^^^ 0x80200003#32 else s >>> 1

/-- The state after each of `n` steps. -/
def lfsrRun : Nat → W32 → List W32
  | 0, _ => []
  | n + 1, s => lfsrStep s :: lfsrRun n (lfsrStep s)

/-- A draw, with the stream select mixed in. -/
def drawOf (xf s : W32) : Nat := (s.toNat / 65536) ^^^ (xfStream xf * 0x0101 % 65536)

/-- The rounding mode of element `i`, whose state after its step is `s` (R48 to R51). -/
def xfMode (xf s : W32) : Round :=
  match xfRound xf with
  | 0 => .rne
  | 1 => .rz
  | _ => .stochastic (drawOf xf s)

/-! ### Elements of streams -/

/-- The exact value of an element of a floating-point format, codes 0 to 6. -/
def elemNum (fmt c : Nat) : Num := (fpOf fmt).decode c

/-- The value narrowed or rounded into a format of code 0 to 6 under RNE (R50, R251). -/
def encodeElem (fmt : Nat) (xf : W32) (x : Num) : Nat :=
  if fmt ≤ 2 then (fpOf fmt).encode x else (fpOf fmt).narrow .rne (xfInfKeep xf) x

/-- The conversions a copy accepts (R251). -/
def convertOk (src dst : Nat) (sxf dxf : W32) : Bool :=
  if src = dst then src != 10 || (xfWidth sxf == xfWidth dxf && xfSigned sxf == xfSigned dxf)
  else (decide (src ≤ 6) && decide (dst ≤ 6)) || (src == 7 && decide (dst ≤ 2))

/-- An element read by an engine: its bits, and for q4 its scale byte. -/
structure Elem where
  code : Nat
  scale : Nat
  deriving DecidableEq, Repr

/-- One element converted (R251); `none`: FORMAT (a reserved code under substitute 2, R258). -/
def convertElem (src dst : Nat) (sxf dxf : W32) (x : Elem) : Option Elem :=
  if src = dst then some x
  else if src = 7 then
    (decodeQ4 (xfSub sxf) x.scale x.code).map (fun v => { code := encodeElem dst dxf v, scale := 0 })
  else some { code := encodeElem dst dxf (elemNum src x.code), scale := 0 }

end Sys2Proof.Machine
end

