-- ==== Sys2Proof/Machine/Access.lean ====
section
/-! DEFINITION. Accesses: the checks of a global access at issue
(R66, R103, R222), chase conditions (R117 to R121), and how an engine command is issued (R14, R108, R114, R248). -/

namespace Sys2Proof.Machine

/-! ### Addresses -/

/-- A virtual byte address as 64 bits; below 0 it lies beyond bit 52. -/
def addrOf (a : Int) : Nat := (Int.emod a (2 ^ 64)).toNat

/-! ### A global access at issue -/

/-- The faults of translating `n` bytes from `va` (R66, R103), and PROT on host memory for an access performed at a home slice
(R77). -/
def Env.access (e : Env) (s : State) (va n : Nat) (acc : Access) (atHome : Bool) : List Flt :=
  match s.xlatSpan e.c e.root va n acc with
  | .error (a, q) => [s.fXlat 13 a q]
  | .ok pas => need (!(atHome && pas.any isHost)) (s.fXlat 13 va .prot)

/-- A store to bytes a lasting error has destroyed (R222, R272). -/
def Env.storeLost (e : Env) (s : State) (va n : Nat) : List Flt :=
  match s.xlatSpan e.c e.root va n .write with
  | .error _ => []
  | .ok pas => (match pas.find? s.isLost with | some p => [fMchk 14 (lostAddr va pas p) p (s.lossOf p)] | none => [])

/-- The physical addresses of an access that has passed its checks. -/
def Env.phys (e : Env) (s : State) (va n : Nat) (acc : Access) : List Nat :=
  match s.xlatSpan e.c e.root va n acc with
  | .ok pas => pas
  | .error _ => []

/-- Its pages' translations join the TLB. -/
def Env.note (e : Env) (s : State) (va n : Nat) : State :=
  (s.noteTlb e.c e.root va).noteTlb e.c e.root (va + n - 1)

/-- A read with a release part performs a release fence first (R134). -/
def Ctx.preFence (x : Ctx) (ord scope bundle : Nat) : Ctx :=
  if 2 ≤ ord then x.pushOp .fence [] [] 2 scope bundle 0 else x

/-! ### Chasing -/

/-- The geometry a producer's tag holds (R108, R118): the effective base and pitch of its destination, with `lines` lines. -/
def Geo.tagGeo (g : Geo) (lines : Nat) : TagGeo :=
  { space := g.space, fmt := g.fmt, w := g.w, base := g.bitOf 0 0, pitch := g.pitch, d0 := g.d0, lines := lines,
    d1 := g.d1, trav := g.trav, inl := match g.layout with | some (_, r) => recScale r == 2 | none => false }

/-- The index of element (x, y) in the producer's order; `cpyg` places tile i on lines i × d1 and up (R108). -/
def TagGeo.index (t : TagGeo) (x y : Nat) : Nat :=
  if t.d1 = 0 then 0 else y / t.d1 * (t.d0 * t.d1) + travIndex t.trav t.d0 t.d1 x (y % t.d1)

/-- The bit offset of element `x` in its line (R37, R87). -/
def TagGeo.place (t : TagGeo) (x : Nat) : Nat := if t.inl then x / 8 * 40 + x % 8 * 4 else x * t.w

/-- The element of a line that begins at bit offset `r`, if one does. -/
def TagGeo.elemAt (t : TagGeo) (r : Nat) : Option Nat :=
  if t.inl then (if r % 40 < 32 ∧ r % 4 = 0 then some (r / 40 * 8 + r % 40 / 4) else none)
  else if t.w ≠ 0 ∧ r % t.w = 0 then some (r / t.w) else none

/-- The lines on which a bit position can lie. -/
def TagGeo.lineRange (t : TagGeo) (off : Int) : List Nat :=
  let p := 8 * t.pitch
  let room : Int := t.place (t.d0 - 1)
  if p = 0 then List.range t.lines
  else
    let a := Int.fdiv (off - room) p
    let b := Int.fdiv off p
    let lo := (min a b).toNat
    let hi := min (max a b + 1).toNat t.lines
    (List.range (hi - lo + 1)).map (fun i => lo + i)

/-- The largest index of an element of the geometry that begins at bit position `a` (R118). -/
def TagGeo.indexAt (t : TagGeo) (a : Int) : Option Nat :=
  let off := a - t.base
  (t.lineRange off).foldl (fun (best : Option Nat) (y : Nat) =>
    let r := off - (y : Int) * (8 * t.pitch)
    match (if 0 ≤ r then t.elemAt r.toNat else none) with
    | some x =>
      if x < t.d0 ∧ y < t.lines then
        (match best with | some j => some (max (t.index x y) j) | none => some (t.index x y))
      else best
    | none => best) none

/-- What a chase condition comes to: met, to wait for, or never to be met (R118, R129). -/
inductive Chase where
  | met
  | wait
  | aborted
  deriving DecidableEq, Repr

/-- The condition on binding (`n`, `gen`) of the team at base `b` for an element at bit position `a` of a space and format; a binding that
is RELEASING short of its extent was ABORTED. DESIGN CHOICE: two streams of code 10 whose widths differ are not of one format (log entry 115). -/
def Core.chase (k : Core) (b : Nat) (at_ : Nat × Nat) (space fmt w : Nat) (a : Int) : Chase :=
  let t := k.tagAt b at_.1
  if t.gen < at_.2 then .wait
  else if at_.2 < t.gen then .met
  else if t.state = .mismatch then .aborted
  else
    let needs := match t.geo with
      | some g => if g.space = space ∧ g.fmt = fmt ∧ g.w = w then (match g.indexAt a with | some i => i + 1 | none => t.n) else t.n
      | none => t.n
    if t.state = .ready ∨ needs ≤ t.f then .met else if t.state = .aborted ∨ t.state = .releasing then .aborted else .wait

/-- The chase condition of an element of a stream; met when it does not chase. -/
def Core.chaseOf (k : Core) (b : Nat) (g : Geo) (a : Int) : Chase :=
  match g.chase with
  | some c => k.chase b c g.space g.fmt g.w a
  | none => .met

/-! ### Issuing an engine command -/

/-- A producer or `fbind` needs a FREE tag (R114). -/
def Env.tagFree (e : Env) (s : State) (t : Nat) : List Flt := 
  need (((s.core e.c).tagAt e.base t).state == .free) (fTagBusy t ((s.core e.c).tagAt e.base t).producer)

/-- The name the next command of the core takes. -/
def Env.cmdId (e : Env) (s : State) : Nat := (s.core e.c).cmdSeq

/-- The command a syllable issues, before its own fields. -/
def Env.newCmd (e : Env) (s : State) (kind : CmdKind) : Cmd :=
  Cmd.blank (e.cmdId s) kind e.x e.base e.pc e.pos (s.ctx e.c e.x).seq

/-- The binding tag `t` takes now (R114): its number. -/
def Env.nextGen (e : Env) (s : State) (t : Nat) : Nat := ((s.core e.c).tagAt e.base t).gen + 1

/-- The translations of the layout records of some streams join the TLBs (R104). -/
def Env.noteLayouts (e : Env) (s : State) (gs : List (Option Geo)) : State :=
  gs.foldl (fun s g => match g.bind (fun g => g.layout) with | some l => s.noteSpan e.c e.root l.1 64 | none => s) s

/-- The command enters its queue; it binds its tag, sets its accumulator's busy bit (R125), and a matrix-queue command of a team
takes the accumulators when no team holds them: all four are then +0 (R71). -/
def Env.enqueue (e : Env) (s : State) (m : Cmd) : State :=
  (e.noteLayouts s [m.dst, m.src, m.src2, m.src3]).modCore e.c (fun k =>
    let k := if m.kind.queue = some 1 ∧ k.accOwner = none then
      { k with accOwner := some e.base, accs := Vector.replicate 4 Acc.zero } else k
    let k := match m.acc with
      | some a => { k with accs := vset k.accs a { vget k.accs a Acc.zero with busy := some m.id } }
      | none => k
    { k with cmds := k.cmds ++ [m], cmdSeq := k.cmdSeq + 1 })

/-- Its tag is bound (R108, R114); an extent of 0 makes it READY at once. -/
def Env.bindTag (e : Env) (s : State) (t producer n : Nat) (geo : Option TagGeo) (group : Nat) : State :=
  s.modTag e.c e.base t (fun (g : Tag) => g.bind producer n geo e.x group)

/-- RESOVER of a stream that chases a tag at or beyond the declared count (R112). -/
def Env.chaseOver (e : Env) (g : Geo) : List Flt :=
  match g.chase with
  | some (t, _) => need (decide (t < hdrTags e.hdr)) (fResover.of g)
  | none => []

/-- The chases of a command at issue: RESOVER of a tag beyond the declaration (R112), and CHASECYCLE (R124). -/
def Env.cycleCheck (e : Env) (s : State) (m : Cmd) (self : Bool) : List Flt :=
  need (m.chases.all (fun p => decide (p.1 < hdrTags e.hdr))) fResover ++
  need (!(s.core e.c).closesCycle m self) fChaseCycle

end Sys2Proof.Machine
end

