-- ==== Sys2Proof/Machine/Atomic.lean ====
section
/-! DEFINITION. Atomics (R232) and reductions (R233), as issued; the slices perform them (R78). -/

namespace Sys2Proof.Machine

/-- The size in bytes of an e field. -/
def sizeOf (e : BitVec 1) : Nat := if e = 1 then 8 else 4

/-- The faults of an RMW of `z` bytes at a home slice, aligned to `al` (R66, R77, R232). -/
def Env.rmwChecks (e : Env) (s : State) (a z al : Nat) : List Flt :=
  need (a % al == 0) (fAlign a) ++ e.access s a z .write true

/-- A returning atomic joins the context's accesses, with its `lqs` entry reserved. -/
def Env.sendAtomic (e : Env) (s : State) (f : AtomOp) (a z : Nat) (v ex p : W64) : State :=
  e.upd (e.note s a z) (fun x =>
    let x := x.reserveLqs
    x.pushOp (.atomic f z v ex (x.seq - 1)) ((e.phys s a z .write).zip (List.range z)) [] (polOrd p) (polScope p) e.pc a)

/-- `op.wZ [sb], sv, sp` -/
def atomic (ins : Instr) (f : AtomOp) (sz : BitVec 1) (b v p : BitVec 5) : Sem :=
  { ins := ins, srcs := [.s b.toNat, .s v.toNat, .s p.toNat], lqs := 1,
    check := fun e s => e.rmwChecks s (e.s 0).toNat (sizeOf sz) (sizeOf sz),
    act := fun e s => e.sendAtomic s f (e.s 0).toNat (sizeOf sz) (e.s 1) 0 (policyOf e.ctx p.toNat (e.s 2)) }

/-- `aadd` -/
def semAadd (e : BitVec 1) (b v p : BitVec 5) : Sem := atomic (.aadd e b v p) .add e b v p

/-- `amin` -/
def semAmin (e : BitVec 1) (b v p : BitVec 5) : Sem := atomic (.amin e b v p) .min e b v p

/-- `amax` -/
def semAmax (e : BitVec 1) (b v p : BitVec 5) : Sem := atomic (.amax e b v p) .max e b v p

/-- `aand` -/
def semAand (e : BitVec 1) (b v p : BitVec 5) : Sem := atomic (.aand e b v p) .and e b v p

/-- `aor` -/
def semAor (e : BitVec 1) (b v p : BitVec 5) : Sem := atomic (.aor e b v p) .or e b v p

/-- `axor` -/
def semAxor (e : BitVec 1) (b v p : BitVec 5) : Sem := atomic (.axor e b v p) .xor e b v p

/-- `axchg` -/
def semAxchg (e : BitVec 1) (b v p : BitVec 5) : Sem := atomic (.axchg e b v p) .xchg e b v p

/-- `acas`: always 64-bit; e names the register of the expected value. -/
def semAcas (e b v p : BitVec 5) : Sem :=
  { ins := .acas e b v p, srcs := [.s e.toNat, .s b.toNat, .s v.toNat, .s p.toNat], lqs := 1,
    check := fun n s => n.rmwChecks s (n.s 1).toNat 8 8,
    act := fun n s => n.sendAtomic s .cas (n.s 1).toNat 8 (n.s 2) (n.s 0) (policyOf n.ctx p.toNat (n.s 3)) }

/-- A reduction joins the context's accesses. -/
def Env.sendReduce (e : Env) (s : State) (f : RedOp) (a z : Nat) (v p : W64) : State :=
  e.upd (e.note s a z) (fun x =>
    x.pushOp (.reduce f z v) ((e.phys s a z .write).zip (List.range z)) [] (polOrd p) (polScope p) e.pc a)

/-- `op.wZ [sb], sv, sp` -/
def reduction (ins : Instr) (f : RedOp) (z : Nat) (b v p : BitVec 5) : Sem :=
  { ins := ins, srcs := [.s b.toNat, .s v.toNat, .s p.toNat],
    check := fun e s => e.rmwChecks s (e.s 0).toNat z z,
    act := fun e s => e.sendReduce s f (e.s 0).toNat z (e.s 1) (policyOf e.ctx p.toNat (e.s 2)) }

/-- `radd` -/
def semRadd (e : BitVec 1) (b v p : BitVec 5) : Sem := reduction (.radd e b v p) .add (sizeOf e) b v p

/-- `raddf` -/
def semRaddf (b v p : BitVec 5) : Sem := reduction (.raddf b v p) .addf 4 b v p

/-- `rmax` -/
def semRmax (e : BitVec 1) (b v p : BitVec 5) : Sem := reduction (.rmax e b v p) .max (sizeOf e) b v p

/-- `rmin` -/
def semRmin (e : BitVec 1) (b v p : BitVec 5) : Sem := reduction (.rmin e b v p) .min (sizeOf e) b v p

/-- `vradd`: each of the 32 lanes is an RMW of its own; v names a vector register. -/
def semVradd (b v p : BitVec 5) : Sem :=
  { ins := .vradd b v p, srcs := [.s b.toNat, .v v.toNat, .s p.toNat],
    check := fun e s => e.rmwChecks s (e.s 0).toNat 128 32,
    act := fun e s =>
      (List.range 32).foldl (fun s i =>
        e.sendReduce s .addf ((e.s 0).toNat + 4 * i) 4 (BitVec.ofNat 64 (lane (e.v 1) 32 i)) (policyOf e.ctx p.toNat (e.s 2))) s }

end Sys2Proof.Machine
end

