-- ==== Sys2Proof/Machine/Sha.lean ====
section
/-! DEFINITION. SHA-256 (FIPS 180-4), which boot images (R399, R400), LMS signatures and the manifest of a checkpoint (R279) use. -/

namespace Sys2Proof.Machine

/-- A big-endian number. -/
def beNat (bs : List Byte) : Nat := bs.foldl (fun a b => a * 256 + b.toNat) 0

/-- The `n` big-endian bytes of a number. -/
def beBytes (n v : Nat) : List Byte := (leBytes n v).reverse

/-- The largest `r` with `r ^ k ≤ n`, its bits below `b` found from the highest down, those above given. -/
def rootBits (k n : Nat) : Nat → Nat → Nat
  | 0, r => r
  | b + 1, r => rootBits k n b (if (r + 2 ^ b) ^ k ≤ n then r + 2 ^ b else r)

/-- The first 32 bits after the point of the `k`-th root of `p`. -/
def rootWord (k p : Nat) : W32 := BitVec.ofNat 32 (rootBits k (p * 2 ^ (32 * k)) 36 0)

/-- The first 64 primes. -/
def shaPrimes : List Nat := (List.range 312).filter (fun n => decide (2 ≤ n) && (List.range n).all (fun d => decide (d < 2) || n % d != 0))

/-- The 64 constants of the rounds come from cube roots; the initial hash value, from square roots of the first eight primes. -/
def shaConstants : List W32 := shaPrimes.map (rootWord 3)
def shaSeed : List W32 := (shaPrimes.take 8).map (rootWord 2)

/-- A word rotated right by each of three amounts, and the three added without carry. -/
def spin (x : W32) (i j k : Nat) : W32 := x.rotateRight i ^^^ (x.rotateRight j ^^^ x.rotateRight k)

/-- A word rotated by two amounts and shifted by a third. -/
def smear (x : W32) (i j k : Nat) : W32 := x >>> k ^^^ (x.rotateRight i ^^^ x.rotateRight j)

/-- The message schedule, `n` words longer. -/
def shaExtend : Nat → List W32 → List W32
  | 0, ws => ws
  | n + 1, ws =>
    let back := fun d => ws.getD (ws.length - d) 0
    shaExtend n (ws ++ [smear (back 2) 17 19 10 + back 7 + smear (back 15) 7 18 3 + back 16])

/-- The words a round works on: the last four values of each of two sequences, latest first. -/
structure ShaWork where
  upper : List W32
  lower : List W32

/-- One round: each sequence grows by a word. -/
def ShaWork.round (v : ShaWork) (kw : W32 × W32) : ShaWork :=
  let a := fun i => v.upper.getD i 0
  let e := fun i => v.lower.getD i 0
  let choice := e 2 ^^^ (e 0 &&& (e 1 ^^^ e 2))
  let most := (a 0 &&& a 1) ||| (a 2 &&& (a 0 ||| a 1))
  let t := kw.1 + kw.2 + e 3 + choice + spin (e 0) 6 11 25
  { upper := (t + most + spin (a 0) 2 13 22) :: v.upper.take 3, lower := (a 3 + t) :: v.lower.take 3 }

/-- A block of 64 bytes carries the hash value on. -/
def shaBlock (h : List W32) (bs : List Byte) : List W32 :=
  let ws := shaExtend 48 ((List.range 16).map (fun i => BitVec.ofNat 32 (beNat ((bs.drop (4 * i)).take 4))))
  let v := (shaConstants.zip ws).foldl ShaWork.round { upper := h.take 4, lower := h.drop 4 }
  List.zipWith (fun x y => x + y) h (v.upper ++ v.lower)

def shaBlocks : Nat → List Byte → List W32 → List W32
  | 0, _, h => h
  | n + 1, bs, h => shaBlocks n (bs.drop 64) (shaBlock h (bs.take 64))

/-- The digest, as its 32 bytes. -/
def sha256 (bs : List Byte) : List Byte :=
  let n := bs.length
  let padded := bs ++ 0x80 :: List.replicate ((119 - n % 64) % 64) 0 ++ beBytes 8 (8 * n)
  (shaBlocks (padded.length / 64) padded shaSeed).foldl (fun a w => a ++ beBytes 4 w.toNat) []

end Sys2Proof.Machine
end

