-- ==== Sys2Proof/Machine/Boot.lean ====
section
/-! DEFINITION. Network boot (R398 to R400): the LMS verification of RFC 8554 for the one parameter set the module accepts, the boot image, and the
stages the boot ROM goes through. -/

namespace Sys2Proof.Machine

/-! ### LMS (RFC 8554), LMS_SHA256_M32_H20 with LMOTS_SHA256_N32_W8 -/

/-- The chain of one element from value `a` on to 255. -/
def otsChain (id : List Byte) (q i : Nat) : Nat → Nat → List Byte → List Byte
  | 0, _, t => t
  | n + 1, a, t => otsChain id q i n (a + 1) (sha256 (id ++ beBytes 4 q ++ beBytes 2 i ++ beBytes 1 a ++ t))

/-- The candidate one-time public key of a signature: randomiser `r`, elements `ys`. -/
def otsKey (id : List Byte) (q : Nat) (r : List Byte) (ys : Nat → List Byte) (msg : List Byte) : List Byte :=
  let d := sha256 (id ++ beBytes 4 q ++ beBytes 2 0x8181 ++ r ++ msg)
  let sum := d.foldl (fun a b => a + (255 - b.toNat)) 0
  let cs := d ++ beBytes 2 sum
  sha256 (id ++ beBytes 4 q ++ beBytes 2 0x8080 ++
    (List.range 34).foldl (fun a i => a ++ (let c := (cs.getD i 0).toNat; otsChain id q i (255 - c) c (ys i))) [])

/-- The root of the tree from node `n` up, with the path. -/
def lmsRoot (id : List Byte) : List (List Byte) → Nat → List Byte → List Byte
  | [], _, t => t
  | p :: ps, n, t =>
    let pre := id ++ beBytes 4 (n / 2) ++ beBytes 2 0x8383
    lmsRoot id ps (n / 2) (sha256 (if n % 2 = 1 then pre ++ p ++ t else pre ++ t ++ p))

/-- Bytes `n` from `at_` on. -/
def slice (bs : List Byte) (at_ n : Nat) : List Byte := (bs.drop at_).take n

/-- A public key of 56 bytes and a signature of 1,772 verify over a message (R400): no other type is accepted. -/
def lmsVerify (key sig msg : List Byte) : Bool :=
  let id := slice key 8 16
  let q := beNat (slice sig 0 4)
  let kc := otsKey id q (slice sig 8 32) (fun i => slice sig (40 + 32 * i) 32) msg
  let leaf := sha256 (id ++ beBytes 4 (2 ^ 20 + q) ++ beBytes 2 0x8282 ++ kc)
  let path := (List.range 20).map (fun i => slice sig (1132 + 32 * i) 32)
  key.length == 56 && sig.length == 1772 && beNat (slice key 0 4) == 8 && beNat (slice key 4 4) == 4 && beNat (slice sig 4 4) == 4 &&
    beNat (slice sig 1128 4) == 8 && decide (q < 2 ^ 20) && lmsRoot id path (2 ^ 20 + q) leaf == slice key 24 32

/-! ### The boot image (R399, R400) -/

/-- The length of the body that a header names. -/
def bootLength (h : Nat) : Nat := bits h 384 64

/-- An image is accepted (R400); the digest field holds the digest's first byte lowest (log entry 19). -/
def bootOk (f : List Byte) : Bool :=
  let h := leNat (f.take 64)
  let n := bootLength h
  let body := slice f 64 n
  let key := slice f (64 + n) 56
  let sig := f.drop (120 + n)
  bits h 480 32 == 0x424E4C4D && decide (Config.minVersion.toNat ≤ bits h 448 32) && decide (2 ^ 20 ≤ n ∧ n ≤ 60 * 2 ^ 20) && bits h 0 128 == 0 &&
    BitVec.ofNat 256 (beNat (sha256 key)) == Config.rootKeyHash && lmsVerify key sig (f.take 64) && sha256 body == slice f 16 32

/-- The longest file a fetch carries (R398): 65,535 blocks of 1,448 bytes, or of 512 from a server that declines the option. -/
def tftpLimit (declines : Bool) : Nat := if declines then 33553920 else 94894680

/-- The stage at which an attempt at a port fails, if it does: 1 DHCPv6, 2 TFTP, 3 the verification (R398, R401). -/
def bootFails (port attempt : Nat) : Option Nat :=
  match Config.bootFile port attempt with
  | none => some (if Config.bootStage port attempt = 1 then 1 else 2)
  | some f => if tftpLimit (Config.tftpDeclines port attempt) < f.length then some 2 else if bootOk f then none else some 3

/-- The firmware of an accepted image runs on the management cores (R398), its body in their SRAM (log entry 103). -/
def Platform.started (f : Platform) (img : List Byte) : Platform :=
  { f with boot := 4, sram := mwrite f.sram 0 (img.drop 64 |>.take (bootLength (leNat (img.take 64)))), version := BitVec.ofNat 32 (bits (leNat (img.take 64)) 448 32), digest := BitVec.ofNat 256 (beNat (slice img 16 32)) }

/-- Attempt `bootRetries` failed: the next goes to the other port; after one attempt and three retries for each port the ROM stops and shows the stage
(R398, R401; log entry 19). -/
def Platform.bootRetry (f : Platform) (stage : Nat) : Platform :=
  if f.bootRetries < 6 then { f with boot := 1, bootPort := 1 - f.bootPort, bootRetries := f.bootRetries + 1 } else { f with boot := 0xF0 + stage }

/-- The boot ROM goes on by one stage (R398, R401): the port's link, DHCPv6, TFTP, the verification. -/
def Platform.bootNext (f : Platform) : Platform :=
  match f.boot with
  | 0 => if Config.linkUp f.bootPort 0 then { f with boot := 1 } else f
  | 1 => if bootFails f.bootPort f.bootRetries = some 1 then f.bootRetry 1 else { f with boot := 2 }
  | 2 => if bootFails f.bootPort f.bootRetries = some 2 then f.bootRetry 2 else { f with boot := 3 }
  | 3 => if bootFails f.bootPort f.bootRetries = some 3 then f.bootRetry 3
    else f.started ((Config.bootFile f.bootPort f.bootRetries).getD [])
  | _ => f

def Platform.bootAlong (f : Platform) : Nat → Platform
  | 0 => f
  | n + 1 => (f.bootAlong n).bootNext

/-- The most stages a boot goes through: the link, then seven attempts of three. -/
def bootStages : Nat := 22

/-- The boot of a module whose firmware is needed has gone as far as it goes. -/
def Platform.booted (f : Platform) : Platform :=
  match f.boot with
  | 0 | 1 | 2 | 3 => f.bootAlong bootStages
  | _ => f

end Sys2Proof.Machine
end

