-- ==== Sys2Proof/Machine/Copy.lean ====
section
/-! DEFINITION. The copy commands as issued (R249 to R257). What the copy engine then does is in EngineCopy. -/

namespace Sys2Proof.Machine

/-! ### Flags (R249, R145) -/

def flagAcq (f : Nat) : Bool := bits f 0 1 == 1
def flagRel (f : Nat) : Bool := bits f 1 1 == 1
/-- The scope, ignored when the acquire and release bits are both 0 (R145, R259). DESIGN CHOICE: a tile-atomic copy with both clear then accesses its
version word at core scope (R149; log entry 87). -/
def flagScope (f : Nat) : Nat := if f % 4 = 0 then 0 else bits f 2 2
def flagTa (f : Nat) : Bool := bits f 4 1 == 1
def flagClamp (f : Nat) : Bool := bits f 5 1 == 1
def flagZero (f : Nat) : Bool := bits f 6 1 == 1

/-! ### Spans (R92) -/

/-- Two spans share a byte. -/
def spansMeet (p q : Int × Int) : Bool := decide (p.1 ≤ q.2) && decide (q.1 ≤ p.2)

/-- A stream's region in a copy: the whole tensor for the listed stream of a list command, else `lines` lines; `none` when empty. -/
def Geo.region (g : Geo) (listed : Bool) (lines : Nat) : Option (Int × Int) :=
  if g.d0 = 0 ∨ lines = 0 then none else if listed then some g.tensorSpan else some (g.span lines)

/-- The identity relation of R92, of two streams that overlap: same base, record, shape, pitch, format and traversal. -/
def Geo.same (g h : Geo) : Bool :=
  g.bitOf 0 0 == h.bitOf 0 0 && (g.layout.map (fun r => r.1)) == (h.layout.map (fun r => r.1)) && g.d0 == h.d0 && g.d1 == h.d1 &&
  g.pitch == h.pitch && g.fmt == h.fmt && g.trav == h.trav && g.space == h.space

/-- A copy's overlap, listed streams and lines given for destination and source. -/
def overlaps (d s : Geo) (dl sl : Bool) (dn sn : Nat) : Bool :=
  d.space == s.space && match d.region dl dn, s.region sl sn with
    | some p, some q => spansMeet p q
    | _, _ => false

/-! ### Issue -/

/-- The granule condition of `cpyt` on a stream's record (R88, R91). -/
def granuleOk (g : Geo) (d0 d1 : Nat) : Bool :=
  match g.layout with
  | some (_, r) => recGranule r * g.w == 256 && d0 % recGranule r == 0 && d1 % recGranule r == 0
  | none => false

/-- The shape rules of R250, R91 and R253. -/
def copyShapes (kind : CmdKind) (d s : Geo) (n : Nat) : Bool :=
  match kind with
  | .cpy => s.d0 == d.d0 && s.d1 == d.d1
  | .cpyt => d.d0 == s.d1 && d.d1 == s.d0 && granuleOk d d.d0 d.d1 && granuleOk s d.d0 d.d1 &&
      d.fmt != 7 && s.fmt != 7 && d.w != 6 && s.w != 6
  | .cpyg => s.d0 == d.d0 && s.d1 == d.d1 && s.layout.isSome && d.layout.isNone && decide (n * (d.d0 * d.d1) ≤ 2 ^ 32 - 1)
  | .cpys => s.d0 == d.d0 && s.d1 == d.d1 && d.layout.isSome && s.layout.isNone && decide (n * (d.d0 * d.d1) ≤ 2 ^ 32 - 1)
  | _ => true

/-- The command's producer code (R113). -/
def CmdKind.producer : CmdKind → Nat
  | .cpy => 1 | .cpyt => 2 | .cpyg => 3 | .cpys => 4 | .cfill => 5 | .drain => 6 | .padj => 7 | .gld => 8 | .ldblk => 9
  | .chrecv => 10 | .chred => 11 | .coll => 12 | .rdld => 14
  | _ => 0

/-- Lines of the destination and of the source. -/
def copyLines (kind : CmdKind) (d s : Geo) (n : Nat) : Nat × Nat :=
  match kind with
  | .cpyg => (n * d.d1, s.d1)
  | .cpys => (d.d1, n * s.d1)
  | _ => (d.d1, s.d1)

/-- The command as it enters the queue. -/
def Env.copyCmd (e : Env) (s : State) (kind : CmdKind) (d a t f list n : Nat) : Cmd :=
  { e.newCmd s kind with
    dst := some (e.geo s d), src := some (e.geo s a), flags := f, tag := some (t, e.nextGen s t), list := list, n := n }

/-- The extent of a copy's binding (R108). -/
def copyExtent (kind : CmdKind) (d : Geo) (n : Nat) : Nat :=
  match kind with
  | .cpyg | .cpys => n * (d.d0 * d.d1)
  | _ => d.d0 * d.d1

/-- A copy of stream `a` to stream `d` under tag `t`; `list`: it reads its list address and count from `s29` and `s28`. -/
def copyOf (ins : Instr) (kind : CmdKind) (list : Bool) (d a : BitVec 4) (t : BitVec 6) (f : BitVec 7) : Sem :=
  { ins := ins, srcs := if list then [.s 29, .s 28] else [], queue := some 0, streams := [d.toNat, a.toNat], tags := [t.toNat],
    check := fun e s =>
      let dg := e.geo s d.toNat
      let sg := e.geo s a.toNat
      let n := if list then (e.s 1).toNat else 1
      let ls := copyLines kind dg sg n
      let m := e.copyCmd s kind d.toNat a.toNat t.toNat f.toNat (e.s 0).toNat n
      let meet := overlaps dg sg (kind == .cpys) (kind == .cpyg) ls.1 ls.2
      let ident := meet && dg.same sg
      dg.windowCheck e.hdr ls.1 ++ sg.windowCheck e.hdr ls.2 ++
      e.streamCheck s d.toNat true ++ e.streamCheck s a.toNat true ++
      need (dg.space != 2) (fFormat.of dg) ++ need (sg.space != 2) (fFormat.of sg) ++
      need (convertOk sg.fmt dg.fmt sg.xf dg.xf) (fFormat.of dg) ++
      need (sg.fmt != 7 || sg.fmt == dg.fmt || xfSub sg.xf != 3) (fFormat.of sg) ++
      need (copyShapes kind dg sg n) (fFormat.of dg) ++
      need (!meet || ident) (fOverlap.of dg) ++
      (if list then need ((e.s 0).toNat % 32 == 0) (fAlign (e.s 0).toNat) else []) ++
      e.tagFree s t.toNat ++ e.cycleCheck s m (kind == .cpy && ident),
    act := fun e s =>
      let dg := e.geo s d.toNat
      let n := if list then (e.s 1).toNat else 1
      let geo := if kind = .cpys then none else some (dg.tagGeo (copyLines kind dg dg n).1)
      let m := e.copyCmd s kind d.toNat a.toNat t.toNat f.toNat (e.s 0).toNat n
      e.enqueue (e.bindTag s t.toNat kind.producer (copyExtent kind dg n) geo 0) m }

/-- `cpy` -/
def semCpy (d s : BitVec 4) (t : BitVec 6) (f : BitVec 7) : Sem := copyOf (.cpy d s t f) .cpy false d s t f

/-- `cpyt` -/
def semCpyt (d s : BitVec 4) (t : BitVec 6) (f : BitVec 7) : Sem := copyOf (.cpyt d s t f) .cpyt false d s t f

/-- `cpyg` -/
def semCpyg (d s : BitVec 4) (t : BitVec 6) (f : BitVec 7) : Sem := copyOf (.cpyg d s t f) .cpyg true d s t f

/-- `cpys` -/
def semCpys (d s : BitVec 4) (t : BitVec 6) (f : BitVec 7) : Sem := copyOf (.cpys d s t f) .cpys true d s t f

/-- `cfill` (R254): v names `s0` to `s15`. -/
def semCfill (d v : BitVec 4) (t : BitVec 6) (f : BitVec 7) : Sem :=
  { ins := .cfill d v t f, srcs := [.s v.toNat], queue := some 0, streams := [d.toNat], tags := [t.toNat],
    check := fun e s =>
      let dg := e.geo s d.toNat
      dg.windowCheck e.hdr dg.d1 ++ e.streamCheck s d.toNat true ++ need (dg.space != 2) (fFormat.of dg) ++ e.tagFree s t.toNat,
    act := fun e s =>
      let dg := e.geo s d.toNat
      let m := { e.newCmd s .cfill with dst := some dg, flags := f.toNat, tag := some (t.toNat, e.nextGen s t.toNat), val := e.s 0, n := 1 }
      e.enqueue (e.bindTag s t.toNat 5 (dg.d0 * dg.d1) (some (dg.tagGeo dg.d1)) 0) m }

end Sys2Proof.Machine
end

