-- ==== Sys2Proof/Machine/SpecialFn.lean ====
section
/-! DEFINITION. The F class (R215, R60 to R62). A function's exact value is held by its leading bits: a dyadic number at or below
its magnitude, and whether the value lies strictly between that number and the next. The transcendental functions are
computed by series in fixed point with `fxp` fraction bits; `drop` of them are given up to the error of the series. -/

namespace Sys2Proof.Machine

/-- The magnitude of an exact value: m × 2^e, or, where `more`, strictly between it and (m + 1) × 2^e. -/
structure Lead where
  neg : Bool
  m : Nat
  e : Int
  more : Bool
  deriving DecidableEq, Repr

/-- Fraction bits of the fixed-point computations, and how many of them carry error. -/
def fxp : Nat := 704
def drop : Nat := 48

/-- 1 in fixed point. -/
def one_ : Nat := 2 ^ fxp

/-! ### Roots and quotients: exact -/

/-- ⌊√n⌋ for n < 4^k, by bits from the top. -/
def isqrtFrom (n : Nat) : Nat → Nat → Nat
  | 0, r => r
  | k + 1, r => isqrtFrom n k (if (r + 2 ^ k) * (r + 2 ^ k) ≤ n then r + 2 ^ k else r)

def isqrt (n : Nat) : Nat := isqrtFrom n (Nat.log2 n / 2 + 1) 0

/-- √(m × 2^e) -/
def leadSqrt (m : Nat) (e : Int) : Lead :=
  let odd := e % 2 == 1
  let m' := (if odd then 2 * m else m) * 2 ^ 200
  let e' := if odd then e - 1 else e
  let q := isqrt m'
  { neg := false, m := q, e := e' / 2 - 100, more := q * q != m' }

/-- 1 / (m × 2^e) -/
def leadRcp (neg : Bool) (m : Nat) (e : Int) : Lead :=
  { neg := neg, m := 2 ^ 200 / m, e := -e - 200, more := 2 ^ 200 % m != 0 }

/-- 1 / √(m × 2^e) -/
def leadRsqrt (m : Nat) (e : Int) : Lead :=
  let odd := e % 2 == 1
  let m' := if odd then 2 * m else m
  let e' := if odd then e - 1 else e
  let q := isqrt (2 ^ 400 / m')
  { neg := false, m := q, e := -(e' / 2) - 200, more := q * q * m' != 2 ^ 400 }

/-! ### Series in fixed point -/

/-- Σ z^(2i+1) / (2i+1) from i = `i` on, `p` holding z^(2i+1): atanh z. -/
def atanhFrom (zz : Int) : Nat → Nat → Int → Int
  | 0, _, _ => 0
  | n + 1, i, p => p / (2 * (i : Int) + 1) + atanhFrom zz n (i + 1) (p * zz / (one_ : Int))

def atanhFx (z : Int) : Int := atanhFrom (z * z / (one_ : Int)) 180 0 z

/-- ln 2 = 2 atanh (1/3). -/
def ln2Fx : Nat := (2 * atanhFx ((one_ : Int) / 3)).toNat

/-- Σ (−1)^i / ((2i+1) k^(2i+1)) with `q` fraction bits: arctan (1/k); `p` holds 2^q / k^(2i+1). -/
def atanInvFrom (kk : Nat) : Nat → Nat → Nat → Int
  | 0, _, _ => 0
  | n + 1, i, p => (p : Int) / (2 * (i : Int) + 1) - atanInvFrom kk n (i + 1) (p / kk)

/-- π with `q` fraction bits (Machin). -/
def piFx (q : Nat) : Nat := (16 * atanInvFrom 25 220 0 (2 ^ q / 5) - 4 * atanInvFrom 57121 70 0 (2 ^ q / 239)).toNat

/-- Σ r^i / i! from term `t` = r^i / i! on. -/
def expFrom (r : Nat) : Nat → Nat → Nat → Nat
  | 0, _, _ => 0
  | n + 1, i, t => t + expFrom r n (i + 1) (t * r / one_ / (i + 1))

/-- e^r for 0 ≤ r < 1 in fixed point. -/
def expFx (r : Nat) : Nat := expFrom r 160 0 one_

/-- e^x for a fixed-point x: (k, F) with e^x = F × 2^k, 1 ≤ F < 2. -/
def expSplit (x : Int) : Int × Nat :=
  let k := Int.ediv x (ln2Fx : Int)
  (k, expFx (x - k * (ln2Fx : Int)).toNat)

/-- The alternating series with terms `t`, t × −zz / ((i+1)(i+2)), …: sine from i = 1, cosine from i = 0. -/
def sinFrom (zz : Nat) : Nat → Nat → Nat → Int
  | 0, _, _ => 0
  | n + 1, i, t => (t : Int) - sinFrom zz n (i + 2) (t * zz / one_ / ((i + 1) * (i + 2)))

def sinFx (r : Nat) : Int := sinFrom (r * r / one_) 100 1 r
def cosFx (r : Nat) : Int := sinFrom (r * r / one_) 100 0 one_

/-- Σ y^i / (2i+1)!! from the term `t` on. -/
def oddFrom (y : Nat) : Nat → Nat → Nat → Nat
  | 0, _, _ => 0
  | n + 1, i, t => t + oddFrom y n (i + 1) (t * y / one_ / (2 * i + 3))

/-- The number m × 2^e, or its nearest below, in fixed point. -/
def toFx (m : Nat) (e : Int) : Nat := if 0 ≤ e + fxp then m * 2 ^ (e + fxp).toNat else m / 2 ^ (-(e + fxp)).toNat

def signedFx (neg : Bool) (m : Nat) (e : Int) : Int := if neg then -(toFx m e : Int) else toFx m e

/-! ### Results -/

/-- A fixed-point magnitude times 2^k, as an inexact leading part. -/
def leadFx (neg : Bool) (v : Nat) (k : Int) : Lead := { neg := neg, m := v / 2 ^ drop, e := k - fxp + drop, more := true }

def leadExact (neg : Bool) (m : Nat) (e : Int) : Lead := { neg := neg, m := m, e := e, more := false }

/-- A magnitude below every format's least value. -/
def leadTiny (neg : Bool) : Lead := { neg := neg, m := 0, e := -170, more := true }

/-- Just below m × 2^e. -/
def leadBelow (neg : Bool) (m : Nat) (e : Int) : Lead := { neg := neg, m := m * 2 ^ 200 - 1, e := e - 200, more := true }

/-- A magnitude beyond every format's range. -/
def leadHuge (neg : Bool) : Lead := { neg := neg, m := 1, e := 400, more := true }

/-- m × 2^e ≥ n -/
def atLeast (m : Nat) (e : Int) (n : Nat) : Bool := if 0 ≤ e then decide (n ≤ m * 2 ^ e.toNat) else decide (n * 2 ^ (-e).toNat ≤ m)

/-- e^x for x = ± m × 2^e ≠ 0. -/
def leadExp (neg : Bool) (m : Nat) (e : Int) : Lead :=
  if atLeast m e 512 then (if neg then leadTiny false else leadHuge false)
  else let p := expSplit (signedFx neg m e); leadFx false p.2 p.1

/-- 2^x for x = ± m × 2^e ≠ 0; exact for an integer x. -/
def leadExp2 (neg : Bool) (m : Nat) (e : Int) : Lead :=
  if atLeast m e 512 then (if neg then leadTiny false else leadHuge false)
  else
    let x := signedFx neg m e
    let k := Int.ediv x (one_ : Int)
    let f := (x - k * (one_ : Int)).toNat
    if f = 0 then leadExact false 1 k else leadFx false (expFx (f * ln2Fx / one_)) k

/-- ln (m × 2^e) in fixed point; the mantissa is taken in [2/3, 4/3). -/
def lnFx (m : Nat) (e : Int) : Int :=
  let l := Nat.log2 m
  let f := m * one_ / 2 ^ l
  let up := decide (4 * one_ ≤ 3 * f)
  let k : Int := e + l + (if up then 1 else 0)
  let f : Int := if up then ((f / 2 : Nat) : Int) else (f : Int)
  k * (ln2Fx : Int) + 2 * atanhFx ((f - (one_ : Int)) * (one_ : Int) / (f + (one_ : Int)))

def isPow2 (m : Nat) : Bool := m == 2 ^ Nat.log2 m

/-- ln and log2 of m × 2^e > 0. -/
def leadLn (m : Nat) (e : Int) : Lead :=
  if isPow2 m ∧ e + Nat.log2 m = 0 then leadExact false 0 0
  else let v := lnFx m e; leadFx (decide (v < 0)) v.natAbs 0

def leadLog2 (m : Nat) (e : Int) : Lead :=
  if isPow2 m then
    let k : Int := e + Nat.log2 m
    leadExact (decide (k < 0)) k.natAbs 0
  else let v := lnFx m e * (one_ : Int) / (ln2Fx : Int); leadFx (decide (v < 0)) v.natAbs 0

/-- The quarter turns in a magnitude, and the rest in fixed point: the argument is reduced exactly (R215). -/
def reduceTurns (m : Nat) (e : Int) : Nat × Nat :=
  let q := fxp + 160
  let half := piFx q / 2
  let x := if 0 ≤ e + q then m * 2 ^ (e + q).toNat else m / 2 ^ (-(e + q)).toNat
  (x / half % 4, x % half / 2 ^ 160)

/-- sin and cos of `q` quarter turns and a rest. -/
def sinTurn (q r : Nat) : Int := match q with | 0 => sinFx r | 1 => cosFx r | 2 => -sinFx r | _ => -cosFx r
def cosTurn (q r : Nat) : Int := match q with | 0 => cosFx r | 1 => -sinFx r | 2 => -cosFx r | _ => sinFx r

/-- sin and cos of a nonzero magnitude. -/
def leadSin (neg : Bool) (m : Nat) (e : Int) : Lead :=
  let p := reduceTurns m e
  leadFx (neg != decide (sinTurn p.1 p.2 < 0)) (sinTurn p.1 p.2).natAbs 0

def leadCos (m : Nat) (e : Int) : Lead :=
  let p := reduceTurns m e
  leadFx (decide (cosTurn p.1 p.2 < 0)) (cosTurn p.1 p.2).natAbs 0

/-- tanh |x| = (1 − e^(−2|x|)) / (1 + e^(−2|x|)). -/
def leadTanh (neg : Bool) (m : Nat) (e : Int) : Lead :=
  if atLeast m e 64 then leadBelow neg 1 0
  else
    let p := expSplit (-2 * (toFx m e : Int))
    let t := p.2 / 2 ^ (-p.1).toNat
    leadFx neg ((one_ - t) * one_ / (one_ + t)) 0

/-- 1 / (1 + e^(−x)): e^x / (1 + e^x) on the negative side. -/
def sigmFx (neg : Bool) (m : Nat) (e : Int) : Int × Nat :=
  let p := expSplit (-(toFx m e : Int))
  let t := p.2 / 2 ^ (-p.1).toNat
  if neg then (p.1, p.2 * one_ / (one_ + t)) else (0, one_ * one_ / (one_ + t))

def leadSigm (neg : Bool) (m : Nat) (e : Int) : Lead :=
  if atLeast m e 128 then (if neg then leadTiny false else leadBelow false 1 0)
  else let p := sigmFx neg m e; leadFx false p.2 p.1

def leadSilu (neg : Bool) (m : Nat) (e : Int) : Lead :=
  if atLeast m e 128 then (if neg then leadTiny true else leadBelow false m e)
  else let p := sigmFx neg m e; leadFx neg (m * p.2) (p.1 + e)

/-- e^(−y/2) Σ y^i / (2i+1)!! in fixed point, for y below 512. -/
def bellFx (y : Nat) : Nat :=
  let p := expSplit (-((y / 2 : Nat) : Int))
  oddFrom y 1200 0 one_ * p.2 / one_ / 2 ^ (-p.1).toNat

/-- erf |x| = (2/√π) |x| e^(−x²) Σ (2x²)^i / (2i+1)!!. -/
def leadErf (neg : Bool) (m : Nat) (e : Int) : Lead :=
  if atLeast m e 8 then leadBelow neg 1 0
  else
    let x := toFx m e
    let root := isqrt (piFx fxp * one_)
    leadFx neg (2 * x * bellFx (2 * x * x / one_) / root) 0

/-- x × Φ(x), with Φ(x) = ½ + x e^(−x²/2) Σ x^(2i) / (2i+1)!! / √(2π). -/
def leadGelu (neg : Bool) (m : Nat) (e : Int) : Lead :=
  if atLeast m e 16 then (if neg then leadTiny true else leadBelow false m e)
  else
    let x := toFx m e
    let root := isqrt (2 * piFx fxp * one_)
    let half := x * bellFx (x * x / one_) / root
    leadFx neg (m * (if neg then one_ / 2 - half else one_ / 2 + half)) e

/-! ### The functions (R60, R61, R215) -/

/-- The function numbers of R215 on an exact argument: a special result of R61, or a leading part. -/
def sfValue (func : Nat) (x : Num) : Num ⊕ Lead :=
  match x with
  | .nan => .inl .nan
  | .inf neg => .inl (match func with
    | 0 | 1 => if neg then .fin false 0 0 else .inf false
    | 2 | 3 | 6 => if neg then .nan else .inf false
    | 4 => .fin neg 0 0
    | 5 => if neg then .nan else .fin false 0 0
    | 7 | 8 => .nan
    | 9 | 13 => .fin neg 1 0
    | 10 => if neg then .fin false 0 0 else .fin false 1 0
    | _ => if neg then .fin true 0 0 else .inf false)
  | .fin neg m e =>
    if m = 0 then .inl (match func with
      | 0 | 1 | 8 => .fin false 1 0
      | 2 | 3 => .inf true
      | 4 | 5 => .inf neg
      | 10 => .fin false 1 (-1)
      | _ => .fin neg 0 0)
    else match func with
      | 0 => .inr (leadExp2 neg m e)
      | 1 => .inr (leadExp neg m e)
      | 2 => if neg then .inl .nan else .inr (leadLog2 m e)
      | 3 => if neg then .inl .nan else .inr (leadLn m e)
      | 4 => .inr (leadRcp neg m e)
      | 5 => if neg then .inl .nan else .inr (leadRsqrt m e)
      | 6 => if neg then .inl .nan else .inr (leadSqrt m e)
      | 7 => .inr (leadSin neg m e)
      | 8 => .inr (leadCos m e)
      | 9 => .inr (leadTanh neg m e)
      | 10 => .inr (leadSigm neg m e)
      | 11 => .inr (leadGelu neg m e)
      | 12 => .inr (leadSilu neg m e)
      | _ => .inr (leadErf neg m e)

/-- Correct rounding of a leading part under RNE (R60). -/
def Lead.nearest (l : Lead) (f : Fp) : Nat :=
  if l.more then f.encode (.fin l.neg (2 * l.m + 1) (l.e - 1)) else f.encode (.fin l.neg l.m l.e)

/-- One of the two values that bracket a leading part, the greater magnitude where `up`; the value itself when it is representable;
an overflow goes to infinity (R60, R215). -/
def Lead.bracket (l : Lead) (f : Fp) (up : Bool) : Nat :=
  let near := l.nearest f
  if near = f.signed l.neg (f.maxCode + 1) then near
  else
    let lo := f.roundMag .rz l.neg l.m l.e
    let exact := !l.more && (match f.decode lo with | .fin _ n g => magEq n g l.m l.e | _ => false)
    f.signed l.neg (if exact || !up then lo else lo + 1)
where
  /-- m × 2^e = n × 2^g -/
  magEq (m : Nat) (e : Int) (n : Nat) (g : Int) : Bool :=
    let d := min e g
    m * 2 ^ (e - d).toNat == n * 2 ^ (g - d).toNat

/-- A function of one lane (R60); `degraded`: the F slot's degraded mode (R62). `exp2` and `exp` underflow to +0 where RNE does (R215; log entry
97). -/
def sfLane (func ty : Nat) (degraded : Bool) (c : Nat) : Nat :=
  let f := fpOf ty
  match sfValue func (f.decode c) with
  | .inl v => f.encode v
  | .inr l =>
    if func ≤ 1 ∧ l.nearest f = 0 then 0
    else if ty = 0 then l.bracket f (Config.sfUp func (BitVec.ofNat 32 c))
    else if degraded then l.bracket f (Config.sfUpNarrow func ty (BitVec.ofNat 16 c))
    else l.nearest f

/-- An F syllable (R215). -/
def special (ins : Instr) (func : Nat) (w t : BitVec 2) (d a : BitVec 5) (m : BitVec 3) : Sem :=
  { ins := ins, srcs := [.v a.toNat, .m m.toNat], dsts := [.v d.toNat],
    act := fun e s =>
      let size := laneSize t.toNat
      let n := widthOf w.toNat / size
      let deg := (e.snap.core e.c).sfDegraded
      e.upd s (fun x => x.writeV d.toNat (laneMask size n (predBit (e.s 1) size))
        (lanes size n (fun i => sfLane func t.toNat deg (lane (e.v 0) size i))) e.now 10) }

/-- `exp2` (R215) -/
def semExp2 (w t : BitVec 2) (d a : BitVec 5) (m : BitVec 3) : Sem := special (.exp2 w t d a m) 0 w t d a m

/-- `exp` (R215) -/
def semExp (w t : BitVec 2) (d a : BitVec 5) (m : BitVec 3) : Sem := special (.exp w t d a m) 1 w t d a m

/-- `log2` (R215) -/
def semLog2 (w t : BitVec 2) (d a : BitVec 5) (m : BitVec 3) : Sem := special (.log2 w t d a m) 2 w t d a m

/-- `ln` (R215) -/
def semLn (w t : BitVec 2) (d a : BitVec 5) (m : BitVec 3) : Sem := special (.ln w t d a m) 3 w t d a m

/-- `rcp` (R215) -/
def semRcp (w t : BitVec 2) (d a : BitVec 5) (m : BitVec 3) : Sem := special (.rcp w t d a m) 4 w t d a m

/-- `rsqrt` (R215) -/
def semRsqrt (w t : BitVec 2) (d a : BitVec 5) (m : BitVec 3) : Sem := special (.rsqrt w t d a m) 5 w t d a m

/-- `sqrt` (R215) -/
def semSqrt (w t : BitVec 2) (d a : BitVec 5) (m : BitVec 3) : Sem := special (.sqrt w t d a m) 6 w t d a m

/-- `sin` (R215) -/
def semSin (w t : BitVec 2) (d a : BitVec 5) (m : BitVec 3) : Sem := special (.sin w t d a m) 7 w t d a m

/-- `cos` (R215) -/
def semCos (w t : BitVec 2) (d a : BitVec 5) (m : BitVec 3) : Sem := special (.cos w t d a m) 8 w t d a m

/-- `tanh` (R215) -/
def semTanh (w t : BitVec 2) (d a : BitVec 5) (m : BitVec 3) : Sem := special (.tanh w t d a m) 9 w t d a m

/-- `sigm` (R215) -/
def semSigm (w t : BitVec 2) (d a : BitVec 5) (m : BitVec 3) : Sem := special (.sigm w t d a m) 10 w t d a m

/-- `gelu` (R215) -/
def semGelu (w t : BitVec 2) (d a : BitVec 5) (m : BitVec 3) : Sem := special (.gelu w t d a m) 11 w t d a m

/-- `silu` (R215) -/
def semSilu (w t : BitVec 2) (d a : BitVec 5) (m : BitVec 3) : Sem := special (.silu w t d a m) 12 w t d a m

/-- `erf` (R215) -/
def semErf (w t : BitVec 2) (d a : BitVec 5) (m : BitVec 3) : Sem := special (.erf w t d a m) 13 w t d a m

end Sys2Proof.Machine
end

