-- ==== Sys2Proof/Machine/Projection.lean ====
section
/-! DEFINITION. The projection engine's arithmetic (22_projection.md): the sets of R315 to R319, support records (R321) and the
adjoint (R323, R324). Values are f32 codes. -/

namespace Sys2Proof.Machine

/-! ### f32 operations, each rounded once (R39) -/

/-- The quotient, exact but for a last bit that keeps it off a tie. -/
def Num.div : Num → Num → Num
  | .nan, _ => .nan
  | _, .nan => .nan
  | .inf _, .inf _ => .nan
  | .inf a, .fin b _ _ => .inf (a != b)
  | .fin a _ _, .inf b => .fin (a != b) 0 0
  | .fin a m e, .fin b n g =>
    if n = 0 then (if m = 0 then .nan else .inf (a != b))
    else
      let k := Nat.log2 n + 64
      .fin (a != b) (2 * (m * 2 ^ k / n) + (if m * 2 ^ k % n = 0 then 0 else 1)) (e - g - k - 1)

/-- The square root, exact but for a last bit that keeps it off a tie. -/
def Num.sqrt : Num → Num
  | .nan => .nan
  | .inf a => if a then .nan else .inf false
  | .fin a m e =>
    if m = 0 then .fin a 0 0
    else if a then .nan
    else
      let odd := (Int.emod e 2).toNat
      let n := m * 2 ^ (128 + odd)
      let q := isqrt n
      .fin false (2 * q + (if q * q = n then 0 else 1)) (Int.ediv (e - odd) 2 - 65)

def f32Div (a b : Nat) : Nat := fpF32.encode ((fpF32.decode a).div (fpF32.decode b))
def f32Sqrt (a : Nat) : Nat := fpF32.encode (fpF32.decode a).sqrt
def f32Neg (a : Nat) : Nat := if a < 2 ^ 31 then a + 2 ^ 31 else a - 2 ^ 31
def f32Abs (a : Nat) : Nat := a % 2 ^ 31
/-- a / k for a count k -/
def f32Over (a k : Nat) : Nat := fpF32.encode ((fpF32.decode a).div (Num.ofInt k))
def f32Gt (a b : Nat) : Bool := fpF32.cmp 1 b a
def f32Le (a b : Nat) : Bool := fpF32.cmp 2 a b
def f32IsZero (a : Nat) : Bool := a % 2 ^ 31 == 0
def f32Finite (a : Nat) : Bool := decide (bits a 23 8 ≠ 255)
def f32Nan : Nat := fpF32.nanCode

/-- The sum in increasing index from +0, each addition rounded (R324). -/
def f32Sum (xs : List Nat) : Nat := xs.foldl fpF32.add 0

/-! ### The projection record (R313, R314) -/

def pjLen (p : BitVec 256) : Nat := bits p.toNat 128 8
def pjScale (p : BitVec 256) : Nat := bits p.toNat 96 32
def pjR (p : BitVec 256) : Nat := bits p.toNat 64 32
def pjHi (p : BitVec 256) : Nat := bits p.toNat 32 32
def pjLo (p : BitVec 256) : Nat := bits p.toNat 0 32

/-- The conditions of R314 for any set. -/
def pjOk (p : BitVec 256) : Bool :=
  bits p.toNat 136 120 == 0 && decide (pjLen p ≤ 128) && f32Finite (pjScale p) && !f32IsZero (pjScale p)

/-- The conditions of R314 for one set. -/
def pjSetOk (set : Nat) (p : BitVec 256) : Bool :=
  match set with
  | 1 => !fpF32.isNan (pjLo p) && !fpF32.isNan (pjHi p) && f32Le (pjLo p) (pjHi p)
  | 2 => f32Finite (pjR p) && f32Gt (pjR p) 0
  | 3 | 4 => f32Finite (pjR p) && f32Le 0 (pjR p)
  | _ => true

/-- Elements that take part, of d0 (R311). -/
def pjTaking (p : BitVec 256) (d0 : Nat) : Nat := if pjLen p = 0 then d0 else min (pjLen p) d0

/-! ### Rows -/

/-- A projected row with what its support record says (R321). -/
structure ProjRow where
  y : List Nat
  mask : Nat
  size : Nat
  param : Nat
  active : Bool
  deriving DecidableEq, Repr

/-- `2^n − 1` -/
def lowMask (n : Nat) : Nat := 2 ^ n - 1

/-- The bits of `n` elements that `p` picks. -/
def maskOf (n : Nat) (p : Nat → Bool) : Nat := (List.range n).foldl (fun a i => if p i then a + 2 ^ i else a) 0

def bitCount (n : Nat) : Nat := ((List.range 128).filter (fun i => bits n i 1 == 1)).length

/-- Insertion into a list that falls, equal values in the order they came (R316). -/
def insertDown (x : Nat) : List Nat → List Nat
  | [] => [x]
  | y :: ys => if fpF32.key y < fpF32.key x then x :: y :: ys else y :: insertDown x ys

def sortDown (xs : List Nat) : List Nat := xs.foldl (fun a x => insertDown x a) []

/-- t[k] for each k from 1, paired with u[k] (R316). -/
def simplexSteps (z : Nat) : Nat → Nat → List Nat → List (Nat × Nat)
  | _, _, [] => []
  | k, c, u :: us =>
    let c := fpF32.add c u
    (u, f32Over (fpF32.sub c z) k) :: simplexSteps z (k + 1) c us

/-- τ of R316. -/
def simplexTau (z : Nat) (xs : List Nat) : Nat :=
  let ts := simplexSteps z 1 0 (sortDown xs)
  match (ts.filter (fun p => f32Gt p.1 p.2)).getLast? with
  | some p => p.2
  | none => (match ts with | p :: _ => p.2 | [] => 0)

/-- The simplex result for one element. -/
def simplexElem (tau x : Nat) : Nat := if f32Gt x tau then fpF32.sub x tau else 0

/-- The simplex (R316). -/
def simplexRow (z : Nat) (xs : List Nat) : ProjRow :=
  let tau := simplexTau z xs
  let m := maskOf xs.length (fun i => f32Gt (xs.getD i 0) tau)
  { y := xs.map (simplexElem tau), mask := m, size := bitCount m, param := tau, active := false }

/-- The result of an L1 or L2 row that is left as it is. -/
def inactiveRow (xs : List Nat) : ProjRow :=
  { y := xs, mask := lowMask xs.length, size := xs.length, param := 0, active := false }

/-- The L1 ball (R317). -/
def l1Row (rho : Nat) (xs : List Nat) : ProjRow :=
  if f32Le (f32Sum (xs.map f32Abs)) rho then inactiveRow xs
  else
    let p := simplexRow rho (xs.map f32Abs)
    { p with
      y := xs.map (fun x =>
        let r := simplexElem p.param (f32Abs x)
        if f32IsZero r then 0 else if 2 ^ 31 ≤ x then f32Neg r else r)
      active := true }

/-- The L2 ball (R318). -/
def l2Row (rho : Nat) (xs : List Nat) : ProjRow :=
  let norm := f32Sqrt (xs.foldl (fun q x => fpF32.fma x x q) 0)
  if f32Le norm rho then inactiveRow xs
  else
    let c := f32Div rho norm
    { y := xs.map (fun x => fpF32.mul x c), mask := lowMask xs.length, size := xs.length, param := c, active := true }

/-- Pools of R319, the top first: sum and count. -/
def poolTop : Nat → Nat → List (Nat × Nat) → List (Nat × Nat)
  | s, n, [] => [(s, n)]
  | s, n, (t, k) :: r =>
    if f32Gt (f32Over t k) (f32Over s n) then poolTop (fpF32.add t s) (k + n) r else (s, n) :: (t, k) :: r

def pools (xs : List Nat) : List (Nat × Nat) := (xs.foldl (fun a x => poolTop x 1 a) []).reverse

/-- The first elements of the blocks. -/
def poolStarts : Nat → List (Nat × Nat) → List Nat
  | _, [] => []
  | i, (_, n) :: r => i :: poolStarts (i + n) r

/-- The non-decreasing cone (R319). -/
def coneRow (xs : List Nat) : ProjRow :=
  let bs := pools xs
  { y := bs.foldl (fun a b => a ++ List.replicate b.2 (f32Over b.1 b.2)) [], mask := (poolStarts 0 bs).foldl (fun a i => a + 2 ^ i) 0,
    size := bs.length, param := 0, active := false }

/-- The box (R315). -/
def boxRow (lo hi : Nat) (xs : List Nat) : ProjRow :=
  let m := maskOf xs.length (fun i => f32Le lo (xs.getD i 0) && f32Le (xs.getD i 0) hi)
  { y := xs.map (fun x => fpF32.min (fpF32.max x lo) hi), mask := m, size := bitCount m, param := 0, active := false }

/-- A row of `a` through a set (R311, R315); set none moves it unchanged (R310, R321). -/
def projectRow (set : Nat) (p : BitVec 256) (a : List Nat) : ProjRow :=
  if set = 0 then { y := a, mask := lowMask a.length, size := a.length, param := 0, active := false }
  else
    let n := pjTaking p a.length
    let xs := (a.take n).map (fun v => fpF32.mul (pjScale p) v)
    let pad := List.replicate (a.length - n) 0
    if set ≠ 1 ∧ xs.any (fun x => !f32Finite x) then
      { y := List.replicate n f32Nan ++ pad, mask := 0, size := 0, param := f32Nan, active := false }
    else
      let r := match set with
        | 1 => boxRow (pjLo p) (pjHi p) xs
        | 2 => simplexRow (pjR p) xs
        | 3 => l1Row (pjR p) xs
        | 4 => l2Row (pjR p) xs
        | 5 => coneRow xs
        | _ =>
          let q := coneRow (xs.map f32Neg)
          { q with y := q.y.map (fun v => if fpF32.isNan v then v else f32Neg v) }
      { r with y := r.y ++ pad }

/-- The support record of a row (R321), 256 bits. -/
def ProjRow.record (r : ProjRow) (set : Nat) : Nat :=
  (if r.active then 2 ^ 195 else 0) + set * 2 ^ 192 + r.param * 2 ^ 160 + r.size * 2 ^ 128 + r.mask

/-! ### The adjoint (R323, R324) -/

/-- What a support record breaks, for a row of d0 elements (R323) and the projection record in use (R343). -/
def supportOk (p : BitVec 256) (rec_ d0 : Nat) : Bool :=
  bits rec_ 196 60 == 0 && bits rec_ 192 3 != 7 && decide (bits rec_ 0 128 < 2 ^ d0) && pjSetOk (bits rec_ 192 3) p

/-- The mean of the block that holds element `i` of the cones' adjoint: from the last start at or below it to the next start. An
element below every start has no block (log entry 10). -/
def blockMean (starts : List Nat) (g : List Nat) (free i : Nat) : Nat :=
  match (starts.filter (fun b => decide (b ≤ i))).getLast? with
  | none => (Config.freeBits free (700 + i)).toNat % 2 ^ 32
  | some b =>
    let e := ((starts.filter (fun k => decide (i < k))).head?).getD g.length
    f32Over (f32Sum ((g.drop b).take (e - b))) (e - b)

/-- g′ over the taking-part elements (R324). -/
def adjointOf (p : BitVec 256) (rec_ : Nat) (g y : List Nat) (free : Nat) : List Nat :=
  let on := fun (i : Nat) => bits rec_ i 1 == 1
  let idx := List.range g.length
  let s := idx.filter on
  let mean := fun (v : Nat → Nat) => if s.isEmpty then 0 else f32Over (f32Sum (s.map v)) s.length
  let active := bits rec_ 195 1 == 1
  let at_ := fun (i : Nat) => g.getD i 0
  match bits rec_ 192 3 with
  | 0 => g
  | 1 => idx.map (fun i => if on i then at_ i else 0)
  | 2 =>
    let m := mean at_
    idx.map (fun i => if on i then fpF32.sub (at_ i) m else 0)
  | 3 =>
    if active then
      let sg := fun (i v : Nat) => if 2 ^ 31 ≤ y.getD i 0 then f32Neg v else v
      let m := mean (fun i => sg i (at_ i))
      idx.map (fun i => if on i then fpF32.sub (at_ i) (sg i m) else 0)
    else g
  | 4 =>
    if active then
      let c := bits rec_ 160 32
      if f32IsZero c then idx.map (fun _ => 0)
      else
        let h := fun (i : Nat) => f32Div (y.getD i 0) (pjR p)
        let d := f32Sum (idx.map (fun i => fpF32.mul (h i) (at_ i)))
        idx.map (fun i => fpF32.mul c (fpF32.sub (at_ i) (fpF32.mul (h i) d)))
    else g
  | _ => idx.map (blockMean s g free)

/-- A row of `padj` (R323): the gradient row, the forward output's row, and the support record. -/
def adjointRow (p : BitVec 256) (rec_ : Nat) (g y : List Nat) (free : Nat) : List Nat :=
  let n := pjTaking p g.length
  let r := if fpF32.isNan (bits rec_ 160 32) then List.replicate n f32Nan
    else (adjointOf p rec_ (g.take n) (y.take n) free).map (fun v => fpF32.mul (pjScale p) v)
  r ++ List.replicate (g.length - n) 0

end Sys2Proof.Machine
end

