-- ==== Sys2Proof/Machine/Matrix.lean ====
section
/-! DEFINITION. The matrix-queue commands as issued (R327 to R343), with `hist` (R344, R345) and `jcard` (R346, R376). What the engines
then do is in EngineMatrix. -/

namespace Sys2Proof.Machine

/-! ### Operands of a product (R327, R328) -/

/-- The class of an operand format: 0 16-bit float, 1 narrow float, 2 q4, 3 narrow integer; 9: refused. -/
def matClass (fmt : Nat) : Nat :=
  match fmt with
  | 1 | 2 => 0
  | 3 | 4 | 5 | 6 => 1
  | 7 => 2
  | 10 => 3
  | _ => 9

/-- The chunk length L of a class (R53); an integer product is taken in chunks of 32 (R54: order does not matter). -/
def chunkLen (cls : Nat) : Nat := if cls = 0 then 16 else 32

/-- m, n and k of a product of streams A and B. -/
def matDims (sparse : Bool) (a b : Geo) : Nat × Nat × Nat :=
  (a.d1, if b.fmt = 7 then b.d1 else b.d0, if sparse then 2 * a.d0 else a.d0)

/-- The rows of B agree with k. -/
def matInner (b : Geo) (k : Nat) : Bool := if b.fmt = 7 then b.d0 == k else b.d1 == k

def fourTo (n lim : Nat) : Bool := n % 4 == 0 && decide (4 ≤ n) && decide (n ≤ lim)

/-- The shape rules of R327. -/
def matShapes (sparse : Bool) (a b : Geo) (meta_ : Option Geo) : Bool :=
  let (m, n, k) := matDims sparse a b
  fourTo m 128 && fourTo n 128 && fourTo k 65532 && matInner b k &&
  !((a.fmt == 7 || b.fmt == 7) && k % 8 != 0) && !(sparse && a.fmt == 7 && k % 16 != 0) &&
  (match meta_ with | some g => g.d0 * 4 == k && g.d1 == m | none => true)

/-- The kind of accumulator `c` at issue (R328): F where the team would take the accumulators now (R71). -/
def Core.accInt (k : Core) (c : Nat) : Bool := k.accOwner.isSome && (vget k.accs c Acc.zero).isInt

/-- The bank group a stream's region lies in, if it is one (R69). DESIGN CHOICE: a q4 stream's scale bytes are no part of its region here, as in the
spans of R92; its window check counts them (R29; log entry 86). -/
def bankOf (g : Geo) : Option Int :=
  let p := g.lineSpan g.d1
  if p.1 / 0x80000 = p.2 / 0x80000 then some (p.1 / 0x80000) else none

/-- The kind an accumulator has from now on (R328). -/
def State.setAccKind (s : State) (c a : Nat) (isInt : Bool) : State :=
  s.modCore c (fun k => { k with accs := vset k.accs a { vget k.accs a Acc.zero with isInt := isInt } })

/-- A product of streams `a` and `b`, and for `mmasp` metadata `md`, into accumulator `c` (R329, R334). -/
def product (ins : Instr) (kind : CmdKind) (c : BitVec 2) (a b : BitVec 4) (md : Option (BitVec 4)) (z : BitVec 1) : Sem :=
  let names := [a.toNat, b.toNat] ++ md.toList.map (fun m => m.toNat)
  let sparse := md.isSome
  let cmd := fun (e : Env) (s : State) =>
    { e.newCmd s kind with
      src := some (e.geo s a.toNat), src2 := some (e.geo s b.toNat), src3 := md.map (fun m => e.geo s m.toNat)
      flags := z.toNat, acc := some c.toNat }
  { ins := ins, queue := some 1, streams := names, acc := some c.toNat,
    check := fun e s =>
      let ag := e.geo s a.toNat
      let bg := e.geo s b.toNat
      let mg := md.map (fun m => e.geo s m.toNat)
      ag.windowCheck e.hdr ag.d1 ++ bg.windowCheck e.hdr bg.d1 ++
      (match mg with
       | some g => if g.space = 1 ∧ g.d0 * g.d1 ≠ 0 then need (spanInside (hdrWindow e.hdr) (({ g with fmt := 7 }).lineSpan g.d1)) (fResover.of g) else []
       | none => []) ++
      e.streamCheck s a.toNat true ++ e.streamCheck s b.toNat true ++
      (match md with | some m => e.streamCheck s m.toNat false | none => []) ++
      need (ag.space == 1) (fFormat.of ag) ++ need (bg.space == 1) (fFormat.of bg) ++
      (match mg with | some g => need (g.space == 1) (fFormat.of g) | none => []) ++
      need (matClass ag.fmt == matClass bg.fmt && matClass ag.fmt != 9) (fFormat.of ag) ++
      need (matShapes sparse ag bg mg) (fFormat.of ag) ++
      need (z == 1 || (s.core e.c).accInt c.toNat == (matClass ag.fmt == 3)) (fFormat.of ag) ++
      need (match bankOf ag, bankOf bg with | some p, some q => p != q | _, _ => false) (fBankGroup.of ag) ++
      e.cycleCheck s (cmd e s) false,
    act := fun e s => (e.enqueue s (cmd e s)).setAccKind e.c c.toNat (matClass (e.geo s a.toNat).fmt == 3) }

/-- `mma` -/
def semMma (c : BitVec 2) (a b : BitVec 4) (z : BitVec 1) : Sem := product (.mma c a b z) .mma c a b none z

/-- `mmasp` -/
def semMmasp (c : BitVec 2) (a b m : BitVec 4) (z : BitVec 1) : Sem := product (.mmasp c a b m z) .mmasp c a b (some m) z

/-- `mzero` (R336) -/
def semMzero (c : BitVec 2) : Sem :=
  { ins := .mzero c, queue := some 1, acc := some c.toNat,
    act := fun e s => (e.enqueue s { e.newCmd s .mzero with acc := some c.toNat }).setAccKind e.c c.toNat false }

/-! ### Projection records at issue (R312) -/

/-- The address of the record of `pj` k. -/
def Env.pjAddr (e : Env) (k : Nat) : Nat := (e.ctx.launch - 128 + BitVec.ofNat 64 (32 * k)).toNat

/-- The record read at issue, or the faults of reading it, all at the FORMAT step. -/
def Env.pjRead (e : Env) (s : State) (k : Nat) : Except Flt (BitVec 256) :=
  if e.pjAddr k % 32 ≠ 0 then .error { fAlign (e.pjAddr k) with step := 4 }
  else match s.readRecord e.c e.x (e.pjAddr k) 32 with
    | .error f => .error f
    | .ok bs => .ok (BitVec.ofNat 256 (leNat bs))

def Env.pjValue (e : Env) (s : State) (k : Nat) : BitVec 256 :=
  match e.pjRead s k with
  | .ok p => p
  | .error _ => 0

/-- The record's faults at issue for a set. -/
def Env.pjCheck (e : Env) (s : State) (k : Nat) (ok : BitVec 256 → Bool) : List Flt :=
  match e.pjRead s k with
  | .error f => [f]
  | .ok p => need (ok p) fFormat

/-! ### drain (R337 to R341) -/

def drainSup (f : BitVec 4) : Bool := f.getLsbD 0
def drainRed (f : BitVec 4) : Bool := f.getLsbD 1
def drainDet (f : BitVec 4) : Bool := f.getLsbD 2
def drainRel (f : BitVec 4) : Bool := f.getLsbD 3

/-- The stride of support records: 0 is read as 32 (R320). -/
def supStride (g : Geo) : Int := if g.sstride = 0 then 32 else g.sstride

/-- The area of `n` records of 32 bytes. -/
def recordArea (base stride : Int) (n : Nat) : Int × Int :=
  let r := loHi 0 (((n : Int) - 1) * stride)
  (base + r.1, base + r.2 + 31)

/-- The kind and destination format pairs of R338 and R339. -/
def drainPair (isInt red : Bool) (fmt : Nat) : Bool :=
  if red then (if isInt then fmt == 8 else fmt == 0)
  else if isInt then fmt == 8 || fmt == 9 || decide (fmt ≤ 2) else decide (fmt ≤ 6)

/-- A row's first or last byte lies in host memory (R339). -/
def Env.redHost (e : Env) (s : State) (g : Geo) : Bool :=
  (List.range g.d1).any (fun y => [0, g.d0 - 1].any (fun x =>
    match s.xlat e.c e.root (addrOf (Int.ediv (g.bitOf x y) 8)) .write with
    | .ok pa => isHost pa
    | _ => false))

def Env.drainCmd (e : Env) (s : State) (c : BitVec 2) (d : BitVec 4) (t : BitVec 6) (p : BitVec 2) (set : BitVec 3) (f : BitVec 4) : Cmd :=
  { e.newCmd s .drain with
    dst := some { e.geo s d.toNat with chase := none }, flags := f.toNat, tag := some (t.toNat, e.nextGen s t.toNat),
    acc := some c.toNat, pj := if set = 0 then 0 else e.pjValue s p.toNat, pset := set.toNat, val := BitVec.ofNat 64 (polScope e.ctx.mpol),
    n := if drainDet f then bits (e.s 0).toNat 0 11 else 0,
    entry := if drainSup f then some (s.ctx e.c e.x).seq else none }

/-- `drain` -/
def semDrain (c : BitVec 2) (d : BitVec 4) (t : BitVec 6) (p : BitVec 2) (s : BitVec 3) (f : BitVec 4) : Sem :=
  { ins := .drain c d t p s f, srcs := if drainDet f then [.s 27] else [], queue := some 1, streams := [d.toNat], tags := [t.toNat],
    acc := some c.toNat, lqs := if drainSup f then 1 else 0, record := s != 0 && s != 7,
    check := fun e st =>
      let g := e.geo st d.toNat
      let isInt := (st.core e.c).accInt c.toNat
      let area := recordArea g.sbase (supStride g) g.d1
      g.windowCheck e.hdr g.d1 ++
      (if drainSup f && g.space == 1 && g.d1 != 0 then need (spanInside (hdrWindow e.hdr) area) (fResover.of g) else []) ++
      need (s != 7) fFormat ++
      (if s = 0 ∨ s = 7 then [] else e.pjCheck st p.toNat (fun q => pjOk q && pjSetOk s.toNat q)) ++
      e.streamCheck st d.toNat true ++ need (g.space != 2 && g.fmt != 7 && g.fmt != 10) (fFormat.of g) ++
      need (drainPair isInt (drainRed f) g.fmt) (fFormat.of g) ++
      need (!(drainRed f && (s != 0 || drainSup f))) fFormat ++ need (!(drainDet f && !drainRed f)) fFormat ++
      need (!(drainRed f && (g.space != 0 || e.redHost st g))) (fFormat.of g) ++
      need (decide (1 ≤ g.d0 ∧ g.d0 ≤ 128 ∧ 1 ≤ g.d1 ∧ g.d1 ≤ 128)) (fFormat.of g) ++ need (s == 0 || !isInt) fFormat ++
      (if drainDet f then
        need (bits (e.s 0).toNat 11 53 == 0 && decide (1 ≤ bits (e.s 0).toNat 0 11 ∧ bits (e.s 0).toNat 0 11 ≤ 1024))
          { fBound with step := 4 } else []) ++
      (if drainSup f then need (!spansMeet area (g.span g.d1)) (fOverlap.of g) else []) ++
      (if drainSup f then need (g.sbase % 32 == 0 && Int.emod g.sstride 32 == 0) ((fAlign g.sbase).of g) else []) ++
      (if drainRed f then need (Int.emod (Int.ediv (g.bitOf 0 0) 8) 4 == 0) ((fAlign (addrOf (Int.ediv (g.bitOf 0 0) 8))).of g) else []) ++
      e.tagFree st t.toNat ++ e.cycleCheck st (e.drainCmd st c d t p s f) false,
    act := fun e st =>
      let m := e.drainCmd st c d t p s f
      let g := e.geo st d.toNat
      let st := if s = 0 then st else e.note st (e.pjAddr p.toNat) 32
      let st := e.bindTag st t.toNat 6 (g.d0 * g.d1) (if drainRed f then none else some (g.tagGeo g.d1)) 0
      let st := e.enqueue st m
      e.upd st (fun x =>
        let x := if s = 0 then x else { x with pj := vset x.pj p.toNat m.pj }
        if drainSup f then x.reserveLqs else x) }

/-! ### padj (R342, R343) -/

/-- The stride of the record stream: its pitch, 0 read as 32. -/
def recPitch (g : Geo) : Int := if g.pitch = 0 then 32 else g.pitch

def Env.padjCmd (e : Env) (s : State) (d g r : BitVec 4) (t : BitVec 6) (p : BitVec 2) : Cmd :=
  { e.newCmd s .padj with
    dst := some (e.geo s d.toNat), src := some (e.geo s g.toNat), src2 := some (e.geo s r.toNat),
    tag := some (t.toNat, e.nextGen s t.toNat), pj := e.pjValue s p.toNat }

/-- `padj` -/
def semPadj (d g r : BitVec 4) (t : BitVec 6) (p : BitVec 2) : Sem :=
  { ins := .padj d g r t p, record := true, queue := some 1, streams := [d.toNat, g.toNat, r.toNat], tags := [t.toNat],
    check := fun e s =>
      let dg := e.geo s d.toNat
      let gg := e.geo s g.toNat
      let rg := e.geo s r.toNat
      let area := recordArea rg.base (recPitch rg) rg.d1
      dg.windowCheck e.hdr dg.d1 ++ gg.windowCheck e.hdr gg.d1 ++
      (if rg.space = 1 ∧ rg.d1 ≠ 0 then need (spanInside (hdrWindow e.hdr) area) (fResover.of rg) else []) ++
      e.pjCheck s p.toNat pjOk ++ e.streamCheck s d.toNat true ++ e.streamCheck s g.toNat true ++ e.streamCheck s r.toNat false ++
      need (dg.d0 == gg.d0 && dg.d1 == gg.d1 && rg.d1 == dg.d1 && decide (1 ≤ dg.d0 ∧ dg.d0 ≤ 128)) (fFormat.of dg) ++
      need (dg.space != 2 && decide (dg.fmt ≤ 6)) (fFormat.of dg) ++ need (gg.space != 2 && decide (gg.fmt ≤ 6)) (fFormat.of gg) ++
      need (rg.space != 2) (fFormat.of rg) ++
      (if dg.d1 = 0 then [] else
        need (!(dg.space == gg.space && spansMeet (gg.span gg.d1) (dg.span dg.d1)) &&
          !(dg.space == rg.space && spansMeet area (dg.span dg.d1)) && !(gg.space == rg.space && spansMeet area (gg.span gg.d1))) (fOverlap.of dg)) ++
      need (Int.emod rg.base 32 == 0 && Int.emod rg.pitch 32 == 0) ((fAlign (addrOf rg.base)).of rg) ++
      e.tagFree s t.toNat ++ e.cycleCheck s (e.padjCmd s d g r t p) false,
    act := fun e s =>
      let m := e.padjCmd s d g r t p
      let dg := e.geo s d.toNat
      let s := e.note s (e.pjAddr p.toNat) 32
      let s := e.enqueue (e.bindTag s t.toNat 7 (dg.d0 * dg.d1) (some (dg.tagGeo dg.d1)) 0) m
      e.upd s (fun x => { x with pj := vset x.pj p.toNat m.pj }) }

/-! ### hist (R344, R345) -/

/-- The command of a `hist` of stream `s`. -/
def Env.histCmd (e : Env) (st : State) (s : Nat) : Cmd :=
  { e.newCmd st .hist with src := some (e.geo st s), list := (e.s 0).toNat, val := e.s 1, entry := some (st.ctx e.c e.x).seq }

/-- The record's faults at issue (R345): PROT, on host memory or a read-only page; what else hinders its updates is found as they are made. -/
def Env.histRecord (e : Env) (s : State) (va : Nat) : List Flt :=
  match s.xlatSpan e.c e.root va 128 .write with
  | .ok pas => need (!pas.any isHost) (s.fXlat 13 va .prot)
  | .error (a, .prot) => [s.fXlat 13 a .prot]
  | .error _ => []

/-- `hist`: r the record register, b the base exponent's. -/
def semHist (s : BitVec 4) (r b : BitVec 5) : Sem :=
  { ins := .hist s r b, srcs := [.s r.toNat, .s b.toNat], queue := some 0, streams := [s.toNat], lqs := 1,
    check := fun e st =>
      let g := e.geo st s.toNat
      g.windowCheck e.hdr g.d1 ++ e.streamCheck st s.toNat true ++ need (decide (g.fmt ≤ 7) && g.space != 2) (fFormat.of g) ++
      need ((e.s 0).toNat % 128 == 0) (fAlign (e.s 0).toNat) ++
      need (decide (-128 ≤ (e.s 1).toInt ∧ (e.s 1).toInt ≤ 127)) fBound ++ e.histRecord st (e.s 0).toNat ++
      e.cycleCheck st (e.histCmd st s.toNat) false,
    act := fun e st => e.upd (e.enqueue st (e.histCmd st s.toNat)) (fun x => x.reserveLqs) }

/-! ### jcard (R346, R376) -/

def cardQuery (r : Nat) : Nat := bits r 460 52
def cardTable (r : Nat) : Nat := bits r 396 52
def cardKeys (r : Nat) : Nat := bits r 332 52
def cardValues (r : Nat) : Nat := bits r 268 52
def cardOut (r : Nat) : Nat := bits r 204 52
def cardVersion (r : Nat) : Nat := bits r 140 52
def cardTokens (r : Nat) : Nat := 2 ^ bits r 136 4
def cardLimit (r : Nat) : Nat := bits r 128 8
def cardScale (r : Nat) : Nat := bits r 96 32
def cardSeq (r : Nat) : Nat := bits r 64 32
def cardBound (r : Nat) : Nat := bits r 32 32
def cardHead (r : Nat) : Nat := bits r 24 8
def cardHeads (r : Nat) : Nat := bits r 16 8
def cardRows (r : Nat) : Nat := bits r 8 8
def cardDim (r : Nat) : Nat := bits r 0 8

/-- The limits and alignments of R376. -/
def cardOk (r : Nat) : Bool :=
  [448, 384, 320, 256, 192].all (fun b => bits r b 12 == 0) &&
  [cardQuery r, cardKeys r, cardValues r, cardOut r].all (fun a => a % 64 == 0) && cardTable r % 4 == 0 && cardVersion r % 8 == 0 &&
  decide (2 ≤ bits r 136 4 ∧ bits r 136 4 ≤ 7) && decide (1 ≤ cardLimit r) && f32Finite (cardScale r) && !f32IsZero (cardScale r) &&
  decide (1 ≤ cardSeq r) && decide (1 ≤ cardBound r) && decide (1 ≤ cardHeads r) && decide (cardHead r < cardHeads r) &&
  fourTo (cardRows r) 64 && fourTo (cardDim r) 128

/-- A record of 64 bytes read at issue where its address is aligned; misaligned, only ALIGN is found. -/
def Env.readAligned (e : Env) (s : State) (va n al : Nat) (ok : Nat → Bool) : List Flt :=
  if va % al ≠ 0 then [fAlign va]
  else match s.readRecord e.c e.x va n with
    | .error f => [f]
    | .ok bs => need (ok (leNat bs)) fFormat

/-- The bytes of a record that has passed its checks. -/
def Env.recordBytes (e : Env) (s : State) (va n : Nat) : List Byte :=
  match s.readRecord e.c e.x va n with
  | .ok bs => bs
  | .error _ => []

/-- `jcard`: `seqlen` takes the card's sequence length, the card enters the matrix queue. -/
def semJcard (c : BitVec 2) (r : BitVec 5) : Sem :=
  { ins := .jcard c r, record := true, srcs := [.s r.toNat], dsts := [.spr 12], queue := some 1, acc := some c.toNat,
    check := fun e s => e.readAligned s (e.s 0).toNat 64 64 cardOk,
    act := fun e s =>
      let bs := e.recordBytes s (e.s 0).toNat 64
      let m := { e.newCmd s .jcard with acc := some c.toNat, desc := bs, list := (e.s 0).toNat }
      let s := e.note s (e.s 0).toNat 64
      e.upd ((e.enqueue s m).setAccKind e.c c.toNat false) (fun x => { x with seqlen := BitVec.ofNat 64 (cardSeq (leNat bs)) }) }

end Sys2Proof.Machine
end

