-- ==== Sys2Proof/Machine/Channel.lean ====
section
/-! DEFINITION. Mesh transfers (R367), the channel table (R357, R368) and the channel commands as issued (R369 to R372). What the
channel engine then does is in Fabric. -/

namespace Sys2Proof.Machine

/-! ### Grants (R350) and mesh transfers (R367) -/

def grantUse (g : W64) : Nat := bits g.toNat 40 2
def grantSlot (g : W64) : Nat := bits g.toNat 32 8
def grantDstDie (g : W64) : Nat := bits g.toNat 14 2
def grantSrcDie (g : W64) : Nat := bits g.toNat 12 2
def grantDst (g : W64) : Nat := bits g.toNat 6 6
def grantSrc (g : W64) : Nat := bits g.toNat 0 6

/-- The place in its launch's table of the grant an instruction uses, the first that matches. -/
def State.grantFor (s : State) (c x : Nat) (p : W64 → Bool) : Option (Nat × Nat × Grant) :=
  match s.launchAt c x with
  | some (l, v) => match v.grants.findIdx? (fun g => grantUse g.word == 0 && p g.word) with
    | some i => (v.grants[i]?).map (fun g => (l, i, g))
    | none => none
  | none => none

def State.sendGrant (s : State) (c x p : Nat) : Option (Nat × Nat × Grant) :=
  s.grantFor c x (fun g => grantSrcDie g == dieOf c && grantSrc g == meshPos c && grantDst g == p)

def State.recvGrant (s : State) (c x p : Nat) : Option (Nat × Nat × Grant) :=
  s.grantFor c x (fun g => grantDstDie g == dieOf c && grantDst g == meshPos c && grantSrc g == p)

/-- The core that receives under a grant. -/
def grantReceiver (g : W64) : Nat := grantDstDie g * 64 + grantDst g

/-- `f` applied to grant `i` of launch `l`. -/
def State.modGrant (s : State) (l i : Nat) (f : Grant → Grant) : State :=
  s.modLaunch l (fun v => { v with grants := v.grants.modify i f })

/-- The payload that a `mrecv` takes next is lost: it stands in a buffer that a lasting error has destroyed (R271). -/
def Grant.lostNext (g : Grant) : Option Nat :=
  let cell := (g.came - g.recvBuf.length) % 2
  if !g.recvBuf.isEmpty && g.dead.contains cell then some cell else none

/-- `msend` -/
def semMsend (v : BitVec 5) (p : BitVec 6) : Sem :=
  { ins := .msend v p, srcs := [.v v.toNat],
    check := fun e s => need (s.sendGrant e.c e.x p.toNat).isSome fResover,
    waits := fun e s => match s.sendGrant e.c e.x p.toNat with
      | some (_, _, g) => decide (2 ≤ g.sendBuf.length)
      | none => false,
    act := fun e s => match s.sendGrant e.c e.x p.toNat with
      | some (l, i, _) => s.modGrant l i (fun g => { g with sendBuf := g.sendBuf ++ [e.v 0] })
      | none => s }

/-- `mrecv` -/
def semMrecv (v : BitVec 5) (p : BitVec 6) : Sem :=
  { ins := .mrecv v p, dsts := [.v v.toNat],
    check := fun e s => need (s.recvGrant e.c e.x p.toNat).isSome fResover ++
      (match s.recvGrant e.c e.x p.toNat with
       | some (l, i, g) => g.lostNext.toList.map (fun n => { fMchk 14 0 0 3 with unit := some (.meshBuffer l i n) })
       | none => []),
    waits := fun e s => match s.recvGrant e.c e.x p.toNat with
      | some (_, _, g) => g.recvBuf.isEmpty
      | none => false,
    act := fun e s => match s.recvGrant e.c e.x p.toNat with
      | some (l, i, g) =>
        e.upd (s.modGrant l i (fun g => { g with recvBuf := g.recvBuf.drop 1 }))
          (fun x => x.writeV v.toNat (BitVec.allOnes 1024) (g.recvBuf.headD 0) e.now 3)
      | none => s }

/-! ### Channel entries (R357) -/

def chDone (e : ChanEntry) : Nat := bits e.toNat 192 64
def chPosted (e : ChanEntry) : Nat := bits e.toNat 128 64
def chBuffer (e : ChanEntry) : Nat := bits e.toNat 76 52
def chFmt (e : ChanEntry) : Nat := bits e.toNat 72 4
def chTimeout (e : ChanEntry) : Nat := bits e.toNat 48 16
def chDepth (e : ChanEntry) : Nat := bits e.toNat 40 8
def chShape (e : ChanEntry) : Nat := bits e.toNat 24 16
def chPeerChan (e : ChanEntry) : Nat := bits e.toNat 16 8
def chPeer (e : ChanEntry) : Nat := bits e.toNat 0 14

/-- The limits of R357 on a used entry. -/
def chanOk (e : ChanEntry) : Bool :=
  chDepth e == 0 ||
  (chBuffer e % 64 == 0 && decide (chFmt e ≤ 10) && bits e.toNat 64 8 == 0 && decide (1 ≤ chTimeout e) && chShape e % 64 == 0 &&
    decide (64 ≤ chShape e ∧ chShape e ≤ 65472))

/-- An entry with its live fields: done sequence, send sequence, state. -/
def chanWord (e : ChanEntry) (done posted state : Nat) : ChanEntry :=
  BitVec.ofNat 256 (putBits (putBits (putBits e.toNat 192 64 done) 128 64 posted) 14 2 state)

/-! ### The descriptor of a collective (R370) -/

def collRoute (r : Nat) : Nat := bits r 64 52
def collC3 (r : Nat) : Nat := bits r 50 8
def collC2 (r : Nat) : Nat := bits r 42 8
def collC1 (r : Nat) : Nat := bits r 34 8
def collRank (r : Nat) : Nat := bits r 21 13
def collP (r : Nat) : Nat := bits r 8 13
def collOp (r : Nat) : Nat := bits r 4 2
def collKind (r : Nat) : Nat := bits r 0 4

/-- The channels a collective uses. -/
def collChans (r : Nat) : List Nat :=
  if collKind r = 3 then [collC1 r, collC2 r, collC3 r].filter (fun c => c != 0) else [collC1 r, collC2 r]

/-- The channel a relay takes its transfer from (R360). -/
def Geo.relayChan (g : Geo) : Nat := hbits g.desc 0 8

/-- The channel set of a command (R365). -/
def Cmd.chanSet (m : Cmd) : List Nat :=
  match m.kind with
  | .chsend => m.chan :: (match m.src with | some g => if g.space = 2 then [g.relayChan] else [] | none => [])
  | .chrecv | .chred => [m.chan]
  | .coll => collChans (leNat m.desc)
  | _ => []

/-- Entry `n` as the engine holds it: the live state is the module's, whichever core holds the table (R303, R357); it is ACTIVE while a command is
pending on it (R369). -/
def State.chanEntry (s : State) (c n : Nat) : ChanEntry :=
  let e := (tget (s.core c).chans n).getD 0
  match (tget s.channels n).filter (fun h => e != 0 && chanWord h.entry 0 0 0 == chanWord e 0 0 0) with
  | some h =>
    let st := if h.state = 2 then 2 else if (s.core c).cmds.any (fun m => m.chanSet.contains n) then 1 else 0
    chanWord e (chDone h.entry) h.posted st
  | none => e

/-- `n` bytes from `va` lie on device pages with W = 1 (R357): the faults, at the FORMAT step. -/
def Env.deviceSpan (e : Env) (s : State) (va n : Nat) : List Flt :=
  (List.range ((va % 65536 + n + 65535) / 65536)).foldl (fun f i =>
    let a := if i = 0 then va else va / 65536 * 65536 + 65536 * i
    f ++ match s.xlat e.c e.root a .write with
      | .ok pa => need (!isHost pa) (s.fXlat 4 a .prot)
      | q => [s.fXlat 4 a q]) []

/-- The entries of an image. -/
def imageEntries (bs : List Byte) : List ChanEntry :=
  (List.range 256).map (fun i => BitVec.ofNat 256 (leNat ((bs.drop (32 * i)).take 32)))

/-- A live channel as loaded (R357, R358): it is IDLE, its next id follows the send sequence, and its next arrival follows the
transfers its done sequence counts (log entry 12). -/
def Channel.load (c va root n : Nat) (e : ChanEntry) : Channel :=
  { core := c, entry := chanWord e (chDone e) (chPosted e) 0, imageVa := va + 32 * n, root := root, posted := chPosted e, acked := chPosted e,
    freed := chPosted e, arrived := [], came := max (chDone e) 1 - 1, landing := [], state := 0, silent := 0 }

/-- MCHK of the entries of the core's channel table, among those named, whose data is lost (R271, R357). -/
def Env.chanLost (e : Env) (s : State) (ns : List Nat) : List Flt :=
  (ns.filter (s.core e.c).lostChans.contains).map (fun n => { fMchk 14 0 0 3 with unit := some (.channel e.c n) })

/-- `chset` (R357, R368) -/
def semChset (r : BitVec 5) : Sem :=
  { ins := .chset r, srcs := [.s r.toNat], record := true,
    check := fun e s =>
      let a := (e.s 0).toNat
      if a % 64 ≠ 0 then [fAlign a]
      else match s.readRecord e.c e.x a 8192 with
        | .error f => [f]
        | .ok bs =>
          let es := imageEntries bs
          need (es.all chanOk) fFormat ++
          (if es.all chanOk then
            e.deviceSpan s a 8192 ++
              es.foldl (fun f n => f ++ (if chDepth n = 0 then [] else e.deviceSpan s (chBuffer n) (chDepth n * chShape n))) [] ++
              need ((es.zip (List.range 256)).all (fun p => chDepth p.1 == 0 ||
                match tget s.channels p.2 with | some h => h.core == e.c | none => true)) fFormat
          else []),
    waits := fun e s => (s.core e.c).cmds.any (fun m => m.kind.queue == some 2),
    act := fun e s =>
      let a := (e.s 0).toNat
      let es := (imageEntries (e.recordBytes s a 8192)).zip (List.range 256)
      let s := (e.note s a 8192).modCore e.c (fun k => { k with
        lostChans := k.deadChans
        chans := (es.filter (fun p => p.1 != 0)).map (fun p => (p.2, chanWord p.1 (chDone p.1) (chPosted p.1) 0))
        chanImage := some a, chanRoot := e.root })
      let keep := s.channels.filter (fun h => h.2.core != e.c || decide (256 ≤ h.1))
      let live := (es.filter (fun p => chDepth p.1 != 0)).foldl (fun t p => tput t p.2 (Channel.load e.c a e.root p.2 p.1)) keep
      { s with channels := live } }

/-- `chget` (R368): four entries of `lqs`. -/
def semChget (c : BitVec 8) : Sem :=
  { ins := .chget c, lqs := 4,
    check := fun e s => e.chanLost s [c.toNat],
    act := fun e s =>
      let w := (s.chanEntry e.c c.toNat).toNat
      e.upd s (fun x => [0, 1, 2, 3].foldl (fun x i => x.pushLqs (BitVec.ofNat 64 (bits w (64 * i) 64))) x) }

/-! ### Point-to-point commands (R369) -/

/-- Bytes of `n` elements of a format as a transfer carries them: a q4 block is its four code bytes and its scale byte (log entry 11). -/
def xferBytes (fmt w n : Nat) : Nat := if fmt = 7 then n / 8 * 5 else n * w / 8

/-- The elements of a stream fill a transfer of `shape` bytes exactly. -/
def xferFits (fmt w n shape : Nat) : Bool :=
  xferBytes fmt w n == shape && (if fmt = 7 then n % 8 == 0 else n * w % 8 == 0)

/-- The element width of a channel's format; a narrow integer's is the stream's own. -/
def chanWidth (fmt : Nat) (xf : W32) : Nat := fmtBits fmt xf

/-- FORMAT of a stream of space 2 (R360): a base beyond 8 bits, or a channel that is unused. -/
def Env.relayOk (e : Env) (s : State) (g : Geo) : Bool :=
  hbits g.desc 8 44 == 0 && chDepth (s.chanEntry e.c (hbits g.desc 0 8)) != 0

/-- `chsend` -/
def semChsend (c : BitVec 8) (s : BitVec 4) : Sem :=
  { ins := .chsend c s, queue := some 2, streams := [s.toNat],
    check := fun e st =>
      let g := e.geo st s.toNat
      let h := st.chanEntry e.c c.toNat
      g.windowCheck e.hdr g.d1 ++ e.chaseOver g ++ e.streamCheck st s.toNat true ++
      need (chDepth h != 0 && g.fmt == chFmt h && xferFits g.fmt g.w (g.d0 * g.d1) (chShape h)) (fFormat.of g) ++
      need (g.space != 2 || e.relayOk st g) (fFormat.of g) ++ e.chanLost st (c.toNat :: (if g.space = 2 then [g.relayChan] else [])),
    act := fun e st => e.enqueue st { e.newCmd st .chsend with src := some (e.geo st s.toNat), chan := c.toNat } }

/-- The checks a receive and a receive-and-reduce share. -/
def Env.recvChecks (e : Env) (s : State) (c d t : Nat) (red : Bool) : List Flt :=
  let g := e.geo s d
  let h := s.chanEntry e.c c
  g.windowCheck e.hdr g.d1 ++ e.streamCheck s d true ++
  need (chDepth h != 0 && g.space != 2 && xferFits g.fmt g.w (g.d0 * g.d1) (chShape h)) (fFormat.of g) ++
  need (if red then g.fmt == chFmt h && [0, 1, 8].contains g.fmt && g.space == 0 && !e.redHost s g
        else convertOk (chFmt h) g.fmt g.xf g.xf) (fFormat.of g) ++
  e.tagFree s t ++ e.chanLost s [c]

def Env.recvCmd (e : Env) (s : State) (kind : CmdKind) (c d t o : Nat) : Cmd :=
  { e.newCmd s kind with
    dst := some { e.geo s d with chase := none }, chan := c, tag := some (t, e.nextGen s t), flags := o }

/-- The command bound to its tag as a producer whose extent is its destination stream's, and queued. -/
def Env.launchProducer (e : Env) (s : State) (m : Cmd) (t : Nat) : State :=
  match m.dst with
  | some g => e.enqueue (e.bindTag s t m.kind.producer (g.d0 * g.d1) (some (g.tagGeo g.d1)) 0) m
  | none => s

/-- `chrecv` -/
def semChrecv (c : BitVec 8) (s : BitVec 4) (t : BitVec 6) : Sem :=
  { ins := .chrecv c s t, queue := some 2, streams := [s.toNat], tags := [t.toNat],
    check := fun e st => e.recvChecks st c.toNat s.toNat t.toNat false ++
      e.cycleCheck st (e.recvCmd st .chrecv c.toNat s.toNat t.toNat 0) false,
    act := fun e st => e.launchProducer st (e.recvCmd st .chrecv c.toNat s.toNat t.toNat 0) t.toNat }

/-- `chred` -/
def semChred (c : BitVec 8) (s : BitVec 4) (t : BitVec 6) (o : BitVec 3) : Sem :=
  { ins := .chred c s t o, queue := some 2, streams := [s.toNat], tags := [t.toNat],
    check := fun e st => e.recvChecks st c.toNat s.toNat t.toNat true ++
      e.cycleCheck st (e.recvCmd st .chred c.toNat s.toNat t.toNat o.toNat) false,
    act := fun e st => e.launchProducer st (e.recvCmd st .chred c.toNat s.toNat t.toNat o.toNat) t.toNat }

/-! ### Collectives (R370) -/

/-- The kinds that reduce: reduce-scatter and both all-reduces. -/
def collReduces (r : Nat) : Bool := decide (1 ≤ collKind r ∧ collKind r ≤ 3)

/-- The descriptor's own rules (R370). -/
def collOk (r : Nat) : Bool :=
  bits r 116 396 == 0 && bits r 58 6 == 0 && bits r 6 2 == 0 && collOp r != 3 && decide (collKind r ≤ 5) &&
  decide (2 ≤ collP r ∧ collP r ≤ 4096 ∧ collRank r < collP r) &&
  (if collKind r = 3 then
    (collC1 r == 0) == (collRank r == 0) && (collC2 r == 0) == decide (collP r ≤ 2 * collRank r + 1) &&
      (collC3 r == 0) == decide (collP r ≤ 2 * collRank r + 2)
  else collC3 r == 0)

/-- Elements that share whole bytes (R37). -/
def collGroup (g : Geo) : Nat := if g.fmt = 7 then 8 else packGroup g.fmt g.xf

/-- The rules on its streams alone, which need no descriptor (R257, R370, R372). -/
def collPair (sg dg : Geo) : Bool :=
  sg.space != 2 && dg.space != 2 && sg.fmt == dg.fmt && (sg.fmt != 10 || xfWidth sg.xf == xfWidth dg.xf && xfSigned sg.xf == xfSigned dg.xf)

/-- The rules on its streams and channels (R370, R372). -/
def Env.collFits (e : Env) (s : State) (r : Nat) (sg dg : Geo) : Bool :=
  let n := sg.d0 * sg.d1
  n % collP r == 0 && n / collP r % collGroup sg == 0 &&
  (dg.d0 * dg.d1 == if collKind r = 1 then n / collP r else n) &&
  (collChans r).all (fun c => let h := s.chanEntry e.c c; chDepth h != 0 && chFmt h == sg.fmt) &&
  (!collReduces r || ([0, 1, 8].contains sg.fmt && dg.space == 0))

def Env.collCmd (e : Env) (st : State) (s d t : Nat) : Cmd :=
  let bs := e.recordBytes st (e.s 0).toNat 64
  { e.newCmd st .coll with
    src := some (e.geo st s), dst := some { e.geo st d with chase := none }, tag := some (t, e.nextGen st t), desc := bs,
    list := collRoute (leNat bs), chan := collC1 (leNat bs) }

/-- `coll` -/
def semColl (r : BitVec 5) (s d : BitVec 4) (t : BitVec 6) : Sem :=
  { ins := .coll r s d t, srcs := [.s r.toNat], record := true, queue := some 2, streams := [s.toNat, d.toNat], tags := [t.toNat],
    check := fun e st =>
      let sg := e.geo st s.toNat
      let dg := e.geo st d.toNat
      sg.windowCheck e.hdr sg.d1 ++ dg.windowCheck e.hdr dg.d1 ++ e.streamCheck st s.toNat true ++ e.streamCheck st d.toNat true ++ need (collPair sg dg) (fFormat.of sg) ++
      e.readAligned st (e.s 0).toNat 64 64 (fun r => collOk r && e.collFits st r sg dg) ++
      e.tagFree st t.toNat ++ e.cycleCheck st (e.collCmd st s.toNat d.toNat t.toNat) false ++
      e.chanLost st (collChans (leNat (e.recordBytes st (e.s 0).toNat 64))),
    act := fun e st => e.launchProducer (e.note st (e.s 0).toNat 64) (e.collCmd st s.toNat d.toNat t.toNat) t.toNat }

/-! ### Multicast and reducing loads (R371) -/

/-- A record whose first dword holds a count in [6:0] and whose entries of `z` bytes follow: its length. -/
def setBytes (first z : Nat) : Nat := 8 + z * bits first 0 7

/-- The first dword of a set's record as read at issue, 0 where it is not readable. -/
def Env.setHead (e : Env) (s : State) : Nat := leNat (e.recordBytes s (e.s 0).toNat 8)

/-- The destination set of `mcst` (R363, R371). -/
def mcstOk (r : Nat) : Bool :=
  decide (1 ≤ bits r 0 7 ∧ bits r 0 7 ≤ 64 ∧ 1 ≤ bits r 16 16) && bits r 7 9 == 0 && bits r 32 32 == 0 &&
  (List.range (bits r 0 7)).all (fun i => bits r (64 + 64 * i + 14) 2 == 0 && bits r (64 + 64 * i + 24) 40 == 0)

/-- Member `i` of a set: chip, channel. -/
def mcstMember (r i : Nat) : Nat × Nat := (bits r (64 + 64 * i) 14, bits r (64 + 64 * i + 16) 8)

/-- The record of `rdld` (R371). -/
def rdldOk (w : Nat) (r : Nat) : Bool :=
  decide (1 ≤ bits r 0 7 ∧ bits r 0 7 ≤ 64 ∧ 1 ≤ bits r 16 16) && bits r 7 1 == 0 && bits r 8 2 != 3 && bits r 14 2 == 0 &&
  bits r 32 32 == 0 && [0, 1, 8].contains (bits r 10 4) &&
  (List.range (bits r 0 7)).all (fun i => bits r (64 + 128 * i + 14) 50 == 0 && w != 0 && bits r (64 + 128 * i + 64) 64 % (w / 8) == 0 &&
    Config.hasSwitch (bits r (64 + 128 * i) 14))

/-- Member `i` of an `rdld` record: its chip. -/
def rdldChip (r i : Nat) : Nat := bits r (64 + 128 * i) 14

/-- `mcst` -/
def semMcst (s : BitVec 4) (r : BitVec 5) : Sem :=
  { ins := .mcst s r, srcs := [.s r.toNat], record := true, queue := some 2, streams := [s.toNat],
    check := fun e st =>
      let g := e.geo st s.toNat
      g.windowCheck e.hdr g.d1 ++ e.chaseOver g ++ e.streamCheck st s.toNat true ++ need (g.space != 2 && g.d0 * g.d1 * g.w % 8 == 0) (fFormat.of g) ++
      e.readAligned st (e.s 0).toNat 8 64 (fun _ => true) ++
      (if (e.s 0).toNat % 64 = 0 then e.readAligned st (e.s 0).toNat (setBytes (e.setHead st) 8) 64 mcstOk else []),
    act := fun e st => e.enqueue (e.note st (e.s 0).toNat (setBytes (e.setHead st) 8))
      { e.newCmd st .mcst with src := some (e.geo st s.toNat), desc := e.recordBytes st (e.s 0).toNat (setBytes (e.setHead st) 8) } }

def Env.rdldCmd (e : Env) (st : State) (d t : Nat) : Cmd :=
  { e.newCmd st .rdld with
    dst := some { e.geo st d with chase := none }, tag := some (t, e.nextGen st t),
    desc := e.recordBytes st (e.s 0).toNat (setBytes (e.setHead st) 16) }

/-- `rdld` -/
def semRdld (d : BitVec 4) (r : BitVec 5) (t : BitVec 6) : Sem :=
  { ins := .rdld d r t, srcs := [.s r.toNat], record := true, queue := some 2, streams := [d.toNat], tags := [t.toNat],
    check := fun e st =>
      let g := e.geo st d.toNat
      g.windowCheck e.hdr g.d1 ++ e.streamCheck st d.toNat true ++ need (g.space != 2) (fFormat.of g) ++
      e.readAligned st (e.s 0).toNat 8 64 (fun _ => true) ++
      (if (e.s 0).toNat % 64 = 0 then
        e.readAligned st (e.s 0).toNat (setBytes (e.setHead st) 16) 64 (fun q => rdldOk g.w q && g.fmt == bits q 10 4) else []) ++
      e.tagFree st t.toNat ++ e.cycleCheck st (e.rdldCmd st d.toNat t.toNat) false,
    act := fun e st => e.launchProducer (e.note st (e.s 0).toNat (setBytes (e.setHead st) 16)) (e.rdldCmd st d.toNat t.toNat) t.toNat }

end Sys2Proof.Machine
end

