-- ==== Sys2Proof/Machine/Control.lean ====
section
/-! DEFINITION. The C class (13_isa_scalar.md): branches and calls (R190, R191), nested loops (R192 to R195), context control
(R196, R30 to R35), traps and return (R197, R198), and `budget` (R199). -/

namespace Sys2Proof.Machine

/-! ### Steer targets (R190) -/

/-- The target half for a target address: its bits [33:2], and the two flags against the writing syllable's address. -/
def Steer.aim (k : Steer) (t addr : Nat) : Steer :=
  { k with tgt := BitVec.ofNat 32 (t / 4), mis := t % 4 != 0, far := t / 2 ^ 34 != addr / 2 ^ 34 }

/-- The address a branch at the bundle `pc` forms from a target half. -/
def Steer.target (k : Steer) (pc : Nat) : Nat := pc / 2 ^ 34 * 2 ^ 34 + k.tgt.toNat * 4

/-- The address `n` syllables from `addr`, as 64 bits. -/
def offsetFrom (addr : Nat) (n : BitVec 27) : Nat := (BitVec.ofNat 64 addr + n.signExtend 64 * 4).toNat

def Env.steer (e : Env) (k : BitVec 4) : Steer := vget e.ctx.st k.toNat Steer.zero

/-- A branch through steer `k`, taken when its condition half reads `want` (R191). -/
def branch (i : Instr) (k : BitVec 4) (want : Bool) : Sem :=
  { ins := i, srcs := [.cond k.toNat],
    flow := fun e _ =>
      let t := e.steer k
      if e.b 0 = want then .jump (t.target e.pc) t.mis t.far else .next }

/-- `nop` (R196). -/
def semNop : Sem := { ins := .nop }

/-- `prep` (R190): the target half from an offset; its misaligned flag is cleared. -/
def semPrep (k : BitVec 4) (i : BitVec 27) : Sem :=
  { ins := .prep k i, dsts := [.tgt k.toNat],
    act := fun e s => e.upd s (fun x =>
      { x with st := vset x.st k.toNat ((vget x.st k.toNat Steer.zero).aim (offsetFrom e.addr i) e.addr) }) }

/-- `prepx` (R190): the target half from a scalar register. -/
def semPrepx (k : BitVec 4) (s : BitVec 5) : Sem :=
  { ins := .prepx k s, srcs := [.s s.toNat], dsts := [.tgt k.toNat],
    act := fun e st => e.upd st (fun x =>
      { x with st := vset x.st k.toNat ((vget x.st k.toNat Steer.zero).aim (e.s 0).toNat e.addr) }) }

/-- `br` (R191). -/
def semBr (k : BitVec 4) : Sem := branch (.br k) k true

/-- `brn` (R191). -/
def semBrn (k : BitVec 4) : Sem := branch (.brn k) k false

/-- `jmp` (R191). -/
def semJmp (i : BitVec 27) : Sem := { ins := .jmp i, flow := fun e _ => .jump (offsetFrom e.addr i) false false }

/-- `call` (R191): `s30` receives the next bundle's address. -/
def semCall (i : BitVec 27) : Sem :=
  { ins := .call i, names := [.s 30], dsts := [.s 30],
    act := fun e s => e.upd s (fun x => x.writeS 30 (BitVec.ofNat 64 e.next) e.now 1),
    flow := fun e _ => .jump (offsetFrom e.addr i) false false }

/-- `ret` (R191): to the full 64 bits of `s30`. -/
def semRet : Sem :=
  { ins := .ret, srcs := [.s 30],
    flow := fun e _ => .jump (e.s 0).toNat ((e.s 0).toNat % 4 != 0) false }

/-! ### Nested loops -/

/-- The address of a `nest`'s end bundle. -/
def Env.nestEnd (e : Env) (n : BitVec 22) : Nat := e.addr + 4 * n.toNat

/-- The bundle after the one at `a`, under R159; the packet of `a` is read as fetched now. -/
def State.bundleAfter (s : State) (c x a : Nat) : Nat :=
  match s.fetchPacket c (s.rootAt c x) a with
  | .ok (_, pk) => (match nextStart pk (a / 4 % 16) with
    | some j => a / 64 * 64 + 4 * j
    | none => a / 64 * 64 + 64)
  | .error _ => a / 64 * 64 + 64

/-- `nest` (R192, R193). -/
def semNest (l : BitVec 3) (r : BitVec 1) (k : BitVec 5) (n : BitVec 22) : Sem :=
  { ins := .nest l r k n, srcs := [.s k.toNat], dsts := [.sg],
    check := fun e _ =>
      let x := e.ctx
      let last := e.nestEnd n
      need (hdrKind e.hdr l.toNat == 1 && decide (l.toNat < 6)) fResover ++
      need (x.nest.all (fun a => decide (a.level < l.toNat))) fResover ++
      need (match x.nest with | a :: _ => decide (last ≤ a.last) | [] => true) fResover ++
      need (decide ((e.s 0).toNat < 2 ^ 34)) fBound ++
      (match e.snap.fetchPacket e.c e.root last with
       | .error q => [e.snap.fXlat 15 last q]
       | .ok (pa, pk) =>
         match (span (pa + last % 64) 4).find? e.snap.isLost with
         | some q => [fMchk 15 (last / 64 * 64 + q % 64) q (e.snap.lossOf q)]
         | none => need (decide (e.pc < last) && startsBundle (pk.getD (last / 4 % 16) 0))
           { step := 15, cause := cNOSTART, addr := last }),
    act := fun e s =>
      let trips := bits (e.s 0).toNat 0 32
      let passes := trips + bits (e.s 0).toNat 32 2
      if passes = 0 then s
      else
        let a : Nest := { level := l.toNat, rev := r == 1, trips := trips, passes := passes, pass := 0, body := e.next,
                          last := e.nestEnd n, after := e.snap.bundleAfter e.c e.x (e.nestEnd n) }
        e.upd s (fun x => { x.takeSets e.snap.free e.now [31] with nest := a :: x.nest, sg := if 0 < trips then 1 else 0 }),
    flow := fun e _ =>
      if bits (e.s 0).toNat 0 32 + bits (e.s 0).toNat 32 2 = 0 then .goto (e.snap.bundleAfter e.c e.x (e.nestEnd n)) else .next }

/-- The bases and stage predicates rotated (R194). -/
def Ctx.rotate (x : Ctx) : Ctx :=
  let more := match x.nest with | a :: _ => decide (a.pass + 1 < a.trips) | [] => false
  { x with
    lb := Vector.ofFn (fun (i : Fin 8) => vget x.lb ((i.val + 7) % 8) 0)
    sg := (x.sg <<< 1) ||| (if more then 1 else 0) }

/-- `lrot` (R194); inside the window of an `sset` it rotates the old or the new value (R245; log entry 30). -/
def semLrot : Sem :=
  { ins := .lrot, hidden := (List.range 8).map (fun k => 600 + k), dsts := .sg :: (List.range 8).map .lb,
    act := fun e s => e.upd s (fun x => (x.takeSets e.snap.free e.now [30, 31]).rotate) }

/-- `lbrk` (R195). -/
def semLbrk : Sem :=
  { ins := .lbrk,
    act := fun e s => e.upd s (fun x => { x with nest := x.nest.tail }),
    flow := fun e _ => match e.ctx.nest with | a :: _ => .goto a.after | [] => .next }

/-! ### Context control -/

/-- What the drain of `exit` waits for (R30): accesses not performed, `qdeqw`s not answered, and commands neither complete nor halted. -/
def State.undrained (s : State) (c x : Nat) : Bool :=
  !(s.ctx c x).ops.isEmpty || !(s.ctx c x).parks.isEmpty || (s.core c).cmds.any (fun m => m.ctx == x && m.st != .halted)

/-- `exit` (R30, R196): the context blocks until what it issued before has drained; then the bundle is performed, what it issued
itself drains too, and the context stops. -/
def semExit : Sem := { ins := .exit, waits := fun e _ => e.snap.undrained e.c e.x, flow := fun _ _ => .exit }

/-- `yield` (R196, R11): the core's turn passes on after its bundle. -/
def semYield : Sem := { ins := .yield }

/-- `wfe` (R34): waits for the event latch and clears it; an `mts evt` of its bundle lands after. -/
def semWfe : Sem :=
  { ins := .wfe,
    waits := fun e _ => !e.ctx.evt,
    act := fun e s => if e.sprs.contains 14 then s else e.upd s (fun x => { x with evt := false }) }

/-- `sev` (R34): an arrival is on its way to each context of each selected core of the die; it comes within 64 cycles of the issue, which
both cores' clocks bound. -/
def semSev (k : BitVec 5) : Sem :=
  { ins := .sev k, srcs := [.s k.toNat],
    act := fun e s => (List.range 64).foldl (fun s p =>
      if (e.s 0).getLsbD p then s.modCore (dieOf e.c * 64 + p) (fun q => 
        { q with sevs := q.sevs ++ [0, 1, 2, 3].map (fun x => { ctx := x, issuer := e.c, until_ := e.now + 64, due := q.clock + 64 }) }) else s) s }

/-! ### Traps and return -/

/-- `trap` (R197). -/
def semTrap (i : BitVec 27) : Sem := { ins := .trap i, flow := fun _ _ => .trap cTRAP i.toNat }

/-- `rte` (R198): legal only in the handler; the reserved choice 3 of an engine fault trap raises ILLSYL (R128). -/
def semRte (k : BitVec 5) : Sem :=
  { ins := .rte k, srcs := [.s k.toNat],
    check := fun e _ => match e.ctx.handler with
      | none => [fIllSyl]
      | some h => need (h.cmd.isNone || (e.s 0).toNat % 4 != 3) fIllSyl,
    flow := fun e _ => .rte ((e.s 0).toNat % 4) e.ctx.tpc.toNat }

/-- `brk` (R197). -/
def semBrk (i : BitVec 27) : Sem := { ins := .brk i, flow := fun _ _ => .trap cBRK i.toNat }

/-! ### Barriers (R32, R33) -/

/-- The arrival of a `bar`, once the context's accesses before its bundle have been performed (R137, R147). It owes the phase the syllables
before it in its bundle. -/
def Env.barArrive (e : Env) (b : Nat) (k : Core) : Core :=
  if e.ctx.ops.isEmpty then k.arrive e.x b e.pc (e.pos != e.pc / 4 % 16) else k

/-- `bar` (R32, R196). -/
def semBar (b : BitVec 4) : Sem :=
  { ins := .bar b, barriers := [b.toNat],
    arrive := fun e s => s.modCore e.c (e.barArrive b.toNat),
    waits := fun e _ => !(e.barArrive b.toNat (e.snap.core e.c)).passed e.x b.toNat e.pc,
    act := fun e s => s.modCore e.c (fun k => (e.barArrive b.toNat k).leave e.x b.toNat e.pc) }

/-- `barv` (R32, R196): arrives, once its earlier accesses have been performed (R134), and does not wait; a second arrival in one phase
blocks until the phase completes. -/
def semBarv (b : BitVec 4) : Sem :=
  { ins := .barv b, barriers := [b.toNat],
    waits := fun e s =>
      let k := s.core e.c
      let key := k.barKey e.x b.toNat
      (k.barrier key).arrived.contains e.x || (k.ctx e.x).ops.any (fun o => o.kind == .arrive key),
    act := fun e s =>
      (e.upd s (fun x => x.pushOp (.arrive ((s.core e.c).barKey e.x b.toNat)) [] [] 0 0 e.pc 0)).settleOps e.c e.x }

/-- `budget` (R199). -/
def semBudget (i : BitVec 27) : Sem :=
  { ins := .budget i, dsts := [.spr 23], act := fun e s => e.upd s (fun x => { x with budget := i }) }

end Sys2Proof.Machine
end

