-- ==== Sys2Proof/Machine/MemEvents.lean ====
section
/-! DEFINITION. The events that perform a context's outstanding accesses (R133 to R141): load data (R15), stores (R77), descriptor loads
(R247), atomics and reductions (R78), slice-queue operations (R234), and results landing (R13, R16). -/

namespace Sys2Proof.Machine

/-! ### Loads -/

/-- The core's view of the bytes is brought up to what a read returns: `lvl` 0 the L1 as it stands, 1 its sectors filled again from
the slices, 2 or more the slices' copies of lines homed elsewhere fetched again too (R72, R77). The lines of a live load-block stay
in the L1, but for an acquire (R73). -/
def State.refresh (s : State) (c : Nat) (pas : List Nat) (lvl : Nat) (acq : Bool := false) : State :=
  let s := if 2 ≤ lvl then s.dieEvict (dieOf c) (fun l => pas.any (fun a => lineOf a == l)) else s
  let kept := if acq then [] else (s.core c).blockLines
  let s := if 1 ≤ lvl then s.modCore c (fun k => k.l1Drop (fun x => !kept.contains (x / 4) && pas.any (fun a => sectorOf a == x))) else s
  pas.foldl (fun s a => s.l1Fill c a) s

/-- A read performed: the acquire part of its ordering at its scope's coherence point (R134, R154), then its bytes. -/
def State.readFor (s : State) (c : Nat) (o : MemOp) (lvl : Nat) : State :=
  let pas := o.bytes.map (fun b => b.1)
  if o.ord % 2 = 1 ∧ o.scope ≠ 0 then (s.acquire c o.scope).refresh c pas (if 2 ≤ o.scope then 2 else 1) true
  else s.refresh c pas lvl

/-- The bytes an access's data puts into a place of 128 bytes: the value and its mask. -/
def placeBytes (bs : List (Nat × Byte)) : V1024 × V1024 :=
  (BitVec.ofNat 1024 (bs.foldl (fun a b => a + b.2.toNat * 2 ^ (8 * b.1)) 0),
   BitVec.ofNat 1024 (bs.foldl (fun a b => a + 255 * 2 ^ (8 * b.1)) 0))

/-- The bytes a read returns: place, byte. -/
def State.returned (s : State) (c x k : Nat) (o : MemOp) : List (Nat × Byte) :=
  o.bytes.map (fun b => (b.2, ((s.ctx c x).ownByte k b.1).getD (s.l1Read c b.1)))

/-- Access `id` has been performed; what waited for it alone inside the core is performed too. -/
def State.opDone (s : State) (c x id : Nat) : State := (s.modCtx c x (fun v => v.dropOp id)).settleOps c x

/-- The bytes of a load that it has still to read (R133). -/
def MemOp.unread (o : MemOp) : List (Nat × Nat) := o.bytes.filter (fun b => !o.part.any (fun p => p.1 == b.2))

/-- The load or `sld` with those bytes alone. -/
def MemOp.rest (o : MemOp) : MemOp := { o with bytes := o.unread }

/-- A load returns: it fills its entry with what it has read before and what it reads now; a byte that is lost is kept for the pop (R271). -/
def State.loadNow (s : State) (c x k lvl : Nat) : State :=
  match (s.ctx c x).opReady k with
  | some o =>
    match o.kind with
    | .load toLq entry sext =>
      match o.unread.find? (fun b => s.isLost b.1) with
      | some b => (s.modCtx c x (fun v => v.loseEntry entry b.2 o.va b.1)).opDone c x o.id
      | none =>
        let s := s.readFor c o.rest lvl
        let got := o.part ++ s.returned c x k o.rest
        let p := placeBytes got
        (s.modCtx c x (fun v =>
          if toLq then v.fillLq entry p.2 p.1
          else match sext with
            | some n => v.fillLqs entry (BitVec.ofInt 64 (sbits p.1.toNat 0 n))
            | none => v.fillLqs entry (p.1.setWidth 64))).opDone c x o.id
    | _ => s
  | none => s

/-- The place of the oldest part of stream `a`'s descriptor that may be read. -/
def Ctx.sldReady (v : Ctx) (a : Nat) : Option Nat :=
  (List.range v.ops.length).find? (fun k => match v.opReady k with | some o => o.kind == .sld a | none => false)

/-- The oldest part of stream `a`'s descriptor that may be read arrives; reserved bits read 0 (R241). Of several bytes that are lost the first is named
(R265). -/
def State.sldNow (s : State) (c x a : Nat) : State :=
  let v := s.ctx c x
  match v.sldReady a with
  | some k =>
    match v.opReady k with
    | some o =>
      match (o.unread.map (fun b => b.1)).find? s.isLost with
      | some pa =>
        let va := o.va / 65536 * 65536 + pa % 65536
        (s.modCtx c x (fun v => { v with lostA := match tget v.lostA a with
          | some q => if q.1 ≤ va then v.lostA else tput v.lostA a (va, pa)
          | none => tput v.lostA a (va, pa) })).opDone c x o.id
      | none =>
        let s := s.readFor c o.rest 0
        let p := placeBytes (o.part ++ s.returned c x k o.rest)
        (s.modCtx c x (fun v =>
          let old := (vget v.a a 0).setWidth 1024
          { v with
            a := vset v.a a ((merge p.2 old p.1).setWidth 512 &&& BitVec.ofNat 512 descMask)
            lostRegs := if v.ops.any (fun q => q.kind == .sld a && q.id != o.id) then v.lostRegs else v.mended (400 + a) })).opDone c x o.id
    | none => s
  | none => s

/-! ### Stores -/

/-- Bytes of a store written at the scope of its release part: at device and system scope at their home slices, what its die's slices hold dirty
having been written back first (R77, R153). -/
def State.storeBytes (s : State) (c : Nat) (o : MemOp) (ws : List (Nat × Byte)) : State :=
  if o.ord < 2 ∨ o.scope ≤ 1 then s.coreWrites c ws
  else ws.foldl (fun s w => s.homeWrite c w.1 w.2) (s.dieFlush (dieOf c) (fun _ => true))

/-- A store performed (R77) with the release part of its ordering at its scope (R153); bytes whose data is lost are not written. DESIGN
CHOICE: a releasing store's own line belongs to its own signature (log entry 90). -/
def State.storeFor (s : State) (c : Nat) (o : MemOp) : State :=
  let s := s.storeBytes c o (o.writes.filter (fun w => !s.isLost w.1))
  if o.ord < 2 ∨ o.scope = 0 then s else s.publish c o.scope

/-- An access that needs no answer meets lost data: MCHK for its context at its next bundle boundary, naming the access's bundle (R271,
R272). -/
def State.lostAccess (s : State) (c x : Nat) (o : MemOp) (pa : Nat) : State :=
  s.post c x cMCHK o.bundle { fMchk 0 (o.va / 65536 * 65536 + pa % 65536) pa (s.lossOf pa) with kind := 3 } none false false

/-- A store at place `k` is performed; a byte lost since the store's issue raises MCHK (R272, R273; log entry 91). -/
def State.storeNow (s : State) (c x k : Nat) : State :=
  match (s.ctx c x).opReady k with
  | some o =>
    if o.kind = .store none then
      let s := match (o.writes.map (fun w => w.1)).find? s.isLost with | some pa => s.lostAccess c x o pa | none => s
      (s.storeFor c o).opDone c x o.id
    else s
  | none => s

/-! ### Atomics and reductions (R78, R232, R233) -/

/-- A location's value at its home slice, `z` bytes, the die's own copy written back first (R77). -/
def State.homeRead (s : State) (c : Nat) (pas : List Nat) : State × Nat :=
  let s := s.dieEvict (dieOf c) (fun l => pas.any (fun a => lineOf a == l))
  (s, leNat (pas.map (mget s.mem)))

def State.homeWrites (s : State) (c : Nat) (pas : List Nat) (v : Nat) : State :=
  (pas.zip (leBytes pas.length v)).foldl (fun s w => s.homeWrite c w.1 w.2) s

/-- f of R232, on `n` bits. -/
def AtomOp.apply (f : AtomOp) (n old v e : Nat) : Nat :=
  match f with
  | .add => (old + v) % 2 ^ n
  | .min => if sbits old 0 n ≤ sbits v 0 n then old else v % 2 ^ n
  | .max => if sbits old 0 n ≤ sbits v 0 n then v % 2 ^ n else old
  | .and => (old &&& v) % 2 ^ n
  | .or => (old ||| v) % 2 ^ n
  | .xor => (old ^^^ v) % 2 ^ n
  | .xchg => v % 2 ^ n
  | .cas => if old = e then v % 2 ^ n else old

/-- f of R233, on `n` bits. -/
def RedOp.apply (f : RedOp) (n old v : Nat) : Nat :=
  match f with
  | .add => (old + v) % 2 ^ n
  | .addf => fpF32.add old (v % 2 ^ 32)
  | .max => if sbits old 0 n ≤ sbits v 0 n then v % 2 ^ n else old
  | .min => if sbits old 0 n ≤ sbits v 0 n then old else v % 2 ^ n

/-- The release and acquire parts of an RMW at a scope beyond the core (R134). -/
def State.rmwRelease (s : State) (c : Nat) (o : MemOp) : State := if 2 ≤ o.ord ∧ o.scope ≠ 0 then s.publish c o.scope else s
def State.rmwAcquire (s : State) (c : Nat) (o : MemOp) : State := if o.ord % 2 = 1 ∧ o.scope ≠ 0 then s.acquire c o.scope else s

/-- An atomic is performed (R78): on lost data it is not and the pop of its old value finds the loss (R271). A failing `acas` writes
nothing and releases nothing (R232), and what its core held of the location goes, so that no later read returns an older value (R138).
DESIGN CHOICE: the line an RMW itself writes is left to its core's next signature (R153; log entry 90). -/
def State.atomicNow (s : State) (c x k : Nat) : State :=
  match (s.ctx c x).opReady k with
  | some o =>
    match o.kind with
    | .atomic f size v e entry =>
      let pas := o.bytes.map (fun b => b.1)
      match pas.find? s.isLost with
      | some pa => (s.modCtx c x (fun y => y.loseEntry entry 0 o.va pa)).opDone c x o.id
      | none =>
        let p := s.homeRead c pas
        let old := p.2
        let s := p.1
        let s := if f = .cas ∧ old ≠ e.toNat then s.reread c 2 (pas.headD 0)
          else (s.rmwRelease c o).homeWrites c pas (f.apply (8 * size) old v.toNat e.toNat)
        let s := s.rmwAcquire c o
        (s.modCtx c x (fun y => y.fillLqs entry (BitVec.ofInt 64 (sbits old 0 (8 * size))))).opDone c x o.id
    | _ => s
  | none => s

/-- A reduction is performed (R78): on lost data it is not, and the context takes MCHK with the record naming its bundle (R271). -/
def State.reductionNow (s : State) (c x k : Nat) : State :=
  match (s.ctx c x).opReady k with
  | some o =>
    match o.kind with
    | .reduce f size v =>
      let pas := o.bytes.map (fun b => b.1)
      match pas.find? s.isLost with
      | some pa => (s.lostAccess c x o pa).opDone c x o.id
      | none =>
        let p := s.homeRead c pas
        (((p.1.rmwRelease c o).homeWrites c pas (f.apply (8 * size) p.2 v.toNat)).rmwAcquire c o).opDone c x o.id
    | _ => s
  | none => s

/-! ### Single-copy atomicity (R133) -/

/-- The bytes an access covers, those it has written already among them. -/
def MemOp.covers (o : MemOp) : List Nat := o.touches ++ (if o.isWrite then o.part.map (fun p => p.1) else [])

/-- Two accesses cover exactly the same bytes. -/
def sameBytes (p q : List Nat) : Bool := p.all q.contains && q.all p.contains

/-- The accesses of contexts other than `x` of core `c` (no context: 4) that are half done and cover exactly the bytes `pas`: core, context, name. -/
def State.halves (s : State) (c x : Nat) (pas : List Nat) : List (Nat × Nat × Nat) :=
  s.cores.foldl (fun (a : List (Nat × Nat × Nat)) e =>
    [0, 1, 2, 3].foldl (fun a y =>
      if e.1 = c ∧ y = x then a
      else a ++ ((e.2.ctx y).ops.filter (fun o => !o.part.isEmpty && sameBytes o.covers pas)).map (fun o => (e.1, y, o.id))) a) []

/-- A half-done access happens as a whole: a store writes the rest of its bytes, a load reads all of them anew. -/
def State.finishHalf (s : State) (h : Nat × Nat × Nat) : State :=
  match ((s.ctx h.1 h.2.1).ops.zip (List.range (s.ctx h.1 h.2.1).ops.length)).find? (fun p => p.1.id == h.2.2) with
  | some (o, k) =>
    if o.isWrite then s.storeNow h.1 h.2.1 k
    else s.modCtx h.1 h.2.1 (fun v => { v with ops := v.ops.map (fun p => if p.id = o.id then { p with part := [] } else p) })
  | none => s

/-- Before an access of context `x` of core `c` to the bytes `pas` is performed, no access of exactly these bytes is left half done: each is single-copy
atomic against the other (R133). -/
def State.whole (s : State) (c x : Nat) (pas : List Nat) : State := (s.halves c x pas).foldl State.finishHalf s

/-- The bytes the access at place `k` of a context covers. -/
def State.coversAt (s : State) (c x k : Nat) : List Nat := match (s.ctx c x).ops[k]? with | some o => o.covers | none => []

/-- `LOAD_DATA_RETURN` (R15): the load at place `k` of the context's accesses returns. -/
def State.loadReturn (s : State) (c x k lvl : Nat) : State := (s.whole c x (s.coversAt c x k)).loadNow c x k lvl

def execLoadDataReturn (c x k lvl : Nat) (s' : State) : Host.Outcome State Fault Refusal := happen (fun s => s.loadReturn c x k lvl) s'

/-- `SLD_DATA_RETURN` (R247): a sector of stream `a`'s descriptor arrives. -/
def State.sldReturn (s : State) (c x a : Nat) : State :=
  (match (s.ctx c x).sldReady a with | some k => s.whole c x (s.coversAt c x k) | none => s).sldNow c x a

def execSldDataReturn (c x a : Nat) (s' : State) : Host.Outcome State Fault Refusal := happen (fun s => s.sldReturn c x a) s'

/-- `STORE_PERFORM` (R77): the store at place `k` of the context's accesses is performed. -/
def State.storePerform (s : State) (c x k : Nat) : State := (s.whole c x (s.coversAt c x k)).storeNow c x k

def execStorePerform (c x k : Nat) (s' : State) : Host.Outcome State Fault Refusal := happen (fun s => s.storePerform c x k) s'

/-- `SLICE_ATOMIC` (R78) -/
def State.sliceAtomic (s : State) (c x k : Nat) : State := (s.whole c x (s.coversAt c x k)).atomicNow c x k

def execSliceAtomic (c x k : Nat) (s' : State) : Host.Outcome State Fault Refusal := happen (fun s => s.sliceAtomic c x k) s'

/-- `SLICE_REDUCTION` (R78) -/
def State.sliceReduction (s : State) (c x k : Nat) : State := (s.whole c x (s.coversAt c x k)).reductionNow c x k

def execSliceReduction (c x k : Nat) (s' : State) : Host.Outcome State Fault Refusal := happen (fun s => s.sliceReduction c x k) s'

/-! ### Bytes as accesses of their own (R133) -/

/-- Some bytes of the load or `sld` at place `k` are read, a free choice of them: each byte is an access of its own (R106, R133). -/
def State.loadPart (s : State) (c x k lvl : Nat) : State :=
  match (s.ctx c x).opReady k with
  | some o =>
    let now := { o with bytes := o.unread.filter (fun b => Config.choice s.free (1000 + b.2)) }
    if !o.isRead || now.bytes.any (fun b => s.isLost b.1) then s
    else
      let s := (s.whole c x o.covers).readFor c now lvl
      let got := s.returned c x k now
      s.modCtx c x (fun v => { v with ops := v.ops.map (fun p => if p.id = o.id then { p with part := p.part ++ got } else p) })
  | none => s

/-- Some bytes of the store at place `k` are written, a free choice of them, as far as their data is not lost: its release part comes with the last
(R133, R153). -/
def State.storePart (s : State) (c x k : Nat) : State :=
  match (s.ctx c x).opReady k with
  | some o =>
    let now := o.writes.filter (fun w => !s.isLost w.1 && Config.choice s.free (1000 + w.1))
    if o.kind ≠ .store none then s
    else ((s.whole c x o.covers).storeBytes c o now).modCtx c x (fun v => { v with ops := v.ops.map (fun p => if p.id = o.id then
      { p with part := p.part ++ now, writes := p.writes.filter (fun w => !now.contains w) } else p) })
  | none => s

/-- The loads, stores, atomics and reductions that may be performed now and have some byte of an access of no context, but not exactly its bytes
(R133), nor those of an access that is half done: core, context, place. -/
def State.racing (s : State) (ws : List (Nat × Byte)) : List (Nat × Nat × Nat) :=
  s.cores.foldl (fun (a : List (Nat × Nat × Nat)) e =>
    [0, 1, 2, 3].foldl (fun a y =>
      a ++ (List.range (e.2.ctx y).ops.length).filterMap (fun k =>
        match (e.2.ctx y).opReady k with
        | some o =>
          if (match o.kind with | .load .. | .store none | .atomic .. | .reduce .. => true | _ => false) && ws.any (fun w => o.touches.contains w.1) &&
              !sameBytes o.covers (ws.map (fun w => w.1)) && (s.halves e.1 y o.covers).isEmpty then some (e.1, y, k) else none
        | none => none)) a) []

/-- An access that comes between bytes of another is performed. -/
def State.raceStep (s : State) (c x k lvl : Nat) : State :=
  match (s.ctx c x).opReady k with
  | some o => (match o.kind with
    | .store _ => s.storeNow c x k
    | .atomic .. => s.atomicNow c x k
    | .reduce .. => s.reductionNow c x k
    | _ => s.loadNow c x k lvl)
  | none => s

/-- Bytes `ws` of an access of the bytes `all` are written by core `c`, at most `n` accesses of contexts coming in between. -/
def tornN (c : Nat) (all : List (Nat × Byte)) : Nat → State → List (Nat × Byte) → State
  | 0, s, ws => s.coreWrites c ws
  | n + 1, s, ws =>
    let rs := s.racing all
    match rs[(Config.freeBits s.free (900 + 2 ^ 20 * n)).toNat % (rs.length + 1)]? with
    | none => s.coreWrites c ws
    | some (d, y, k) =>
      let early := fun (w : Nat × Byte) => Config.choice s.free (1000 + w.1 + 2 ^ 50 * n)
      tornN c all n ((s.coreWrites c (ws.filter early)).raceStep d y k ((Config.freeBits s.free (901 + 2 ^ 20 * n)).toNat % 3)) (ws.filter (fun w => !early w))

/-- The bytes `ws` of an engine's access are written for core `c`. An access of a context that has some of these bytes, and is not one of exactly the
same bytes, may be performed when some of them are written and others are not (R106, R133; log entry 79). -/
def State.tornWrites (s : State) (c : Nat) (ws : List (Nat × Byte)) : State := tornN c ws (s.racing ws).length s ws

/-- An engine of core `c` comes to `n` bytes from `va` up: their pages' translations join the TLBs (R104), and accesses of contexts to exactly these
bytes that are half done are no longer (R133). -/
def State.reach (s : State) (c root va n : Nat) : State :=
  let s := s.noteSpan c root va n
  match s.xlatSpan c root va n .read with
  | .ok pas => s.whole c 4 pas
  | .error _ => s

/-! ### Slice queues (R81 to R85, R234, R235) -/

def qOK : W64 := 0
def qEMPTY : W64 := 1
def qFULL : W64 := 2
def qGONE : W64 := 3
def qNOQ : W64 := 4
def qNOSLOT : W64 := 5
def qBADCAP : W64 := 6

/-- A capacity `qinit` takes (R82). -/
def capOk (v : Nat) : Bool := decide (16 ≤ v ∧ v ≤ 2 ^ 20) && isPow v
where isPow (v : Nat) : Bool := v == 2 ^ Nat.log2 v

/-- The queues of one slice: home die and slice index of the address (R76, R81). -/
def State.queuesOf (s : State) (q : Nat) : Nat :=
  (s.sliceQueues.filter (fun e => homeDie e.1 == homeDie q && sliceOf e.1 == sliceOf q)).length

/-- The `qdeqw` of context `x` with entry `entry` is answered: its two entries are filled, its access is performed, and with no other left the
context is parked no longer (R235); an OK answer is a device-scope acquire (R85). -/
def State.answerEntry (s : State) (c x entry : Nat) (status val : W64) : State :=
  let s := s.modCtx c x (fun v => { (v.fillLqs entry status).fillLqs (entry + 1) val with
    parks := v.parks.filter (fun p => p.2 != entry), ops := v.ops.filter (fun o => o.kind != .queue .deqw 0 entry) })
  (if status = qOK then s.acquire c 2 else s).settleOps c x

/-- A waiter is answered. -/
def State.answer (s : State) (w : Nat × Nat × Nat) (status val : W64) : State := s.answerEntry w.1 w.2.1 w.2.2 status val

/-- Every waiter of a queue wakes with QGONE (R84). -/
def State.wakeAll (s : State) (v : SliceQueue) : State := v.waiters.foldl (fun s w => s.answer w qGONE 0) s

/-- The operation at its home slice; every `qenq` is a release (R85). A `qdeqw` that waits there stays among its context's accesses, which
nothing after it passes (R137). -/
def State.queueOp (s : State) (c x : Nat) (f : QueueOp) (v : W64) (entry q : Nat) : State :=
  let give := fun (s : State) (w : W64) => s.modCtx c x (fun y => y.fillLqs entry w)
  let give2 := fun (s : State) (a b : W64) => s.modCtx c x (fun y => (y.fillLqs entry a).fillLqs (entry + 1) b)
  match f, tget s.sliceQueues q with
  | .init, old =>
    if v = 0 then
      (match old with
       | some o => give ({ s with sliceQueues := tdel s.sliceQueues q }.wakeAll o) qOK
       | none => give s qNOQ)
    else if !capOk v.toNat then give s qBADCAP
    else
      let new : SliceQueue := { cap := v.toNat, items := [], past := [], next := 0, waiters := [] }
      (match old with
       | some o => give ({ s with sliceQueues := tput s.sliceQueues q { new with past := o.past } }.wakeAll o) qOK
       | none => if 64 ≤ s.queuesOf q then give s qNOSLOT else give { s with sliceQueues := tput s.sliceQueues q new } qOK)
  | .enq, none => give (s.publish c 2) qNOQ
  | .enq, some o =>
    match o.waiters with
    | w :: ws => give (({ s with sliceQueues := tput s.sliceQueues q { o with waiters := ws } }.publish c 2).answer w qOK v) qOK
    | [] =>
      if o.cap ≤ o.items.length then give (s.publish c 2) qFULL
      else give ({ s with sliceQueues := tput s.sliceQueues q (o.put v) }.publish c 2) qOK
  | .deq, none => give2 s qNOQ 0
  | .deq, some o =>
    match o.items with
    | a :: r => give2 ({ s with sliceQueues := tput s.sliceQueues q { o with items := r } }.acquire c 2) qOK a
    | [] => give2 s qEMPTY 0
  | .deqw, none => s.answerEntry c x entry qNOQ 0
  | .deqw, some o =>
    match o.items with
    | a :: r => { s with sliceQueues := tput s.sliceQueues q { o with items := r } }.answerEntry c x entry qOK a
    | [] => { s with sliceQueues := tput s.sliceQueues q { o with waiters := o.waiters ++ [(c, x, entry)] } }
  | .len, none => give s (BitVec.allOnes 64)
  | .len, some o => give s (BitVec.ofNat 64 o.items.length)

/-- The `qdeqw` of context `x` of core `c` with entry `entry` waits at a slice (R83). -/
def State.parkedAt (s : State) (c x entry : Nat) : Bool := s.sliceQueues.any (fun e => e.2.waiters.contains (c, x, entry))

/-- The release and acquire parts of `qinit` and `qlen` (R134; log entry 108). -/
def State.queueEvent (s : State) (c x : Nat) (f : QueueOp) (v : W64) (entry q : Nat) (o : MemOp) : State :=
  match f with
  | .init => ((s.rmwRelease c o).queueOp c x f v entry q).rmwAcquire c o
  | .len => (s.queueOp c x f v entry q).rmwAcquire c o
  | _ => s.queueOp c x f v entry q

/-- The bytes a queue operation at `q` reads or writes: the queue's state, and the ring's entry that it takes or fills (R81). -/
def State.queueBytes (s : State) (f : QueueOp) (q : Nat) : List Nat :=
  span q 64 ++ (match f, tget s.sliceQueues q with
    | .enq, some o => if o.waiters.isEmpty && decide (o.items.length < o.cap) then span (ringAddr q (o.next % o.cap)) 8 else []
    | .deq, some o | .deqw, some o => if o.items.isEmpty then [] else span (ringAddr q (o.placeOf 0)) 8
    | _, _ => [])

/-- `SLICE_QUEUE_OP` (R234); where the queue's state, or the entry's place in the ring, is lost it is not performed, as an atomic is not (R271; log
entry 14). -/
def State.sliceQueueOp (s : State) (c x k : Nat) : State :=
  match (s.ctx c x).opReady k with
  | some o =>
    match o.kind, o.bytes with
    | .queue f v entry, (q, _) :: _ =>
      if s.parkedAt c x entry then s
      else match (s.queueBytes f q).find? s.isLost with
      | some pa => (s.modCtx c x (fun y =>
          let y := y.loseEntry entry 0 (o.va + (pa - q)) pa
          let y := if f = .deqw ∨ f = .deq then y.loseEntry (entry + 1) 0 (o.va + (pa - q)) pa else y
          { y with parks := y.parks.filter (fun p => p.2 != entry) })).opDone c x o.id
      | none =>
        let s := s.queueEvent c x f v entry q o
        if s.parkedAt c x entry then s else s.opDone c x o.id
    | _, _ => s
  | none => s

def execSliceQueueOp (c x k : Nat) (s' : State) : Host.Outcome State Fault Refusal := happen (fun s => s.sliceQueueOp c x k) s'

/-! ### Several accesses at once -/

/-- The oldest access of a context is performed; the result a store waits for lands first. -/
def State.performHead (s : State) (c x : Nat) : State :=
  let lvl := (Config.freeBits s.free 902).toNat % 3
  match (s.ctx c x).ops with
  | [] => s
  | o :: _ =>
    match o.kind with
    | .load .. => s.loadReturn c x 0 lvl
    | .sld a => s.sldReturn c x a
    | .store _ =>
      (s.modCtx c x (fun v => { v with
        sq := v.sq.map (fun e => if o.kind = .store (some e.id) then { e with filled := true } else e)
        ops := v.ops.map (fun p => if p.kind = o.kind then { p with kind := .store none } else p) })).storePerform c x 0
    | .atomic .. => s.sliceAtomic c x 0
    | .reduce .. => s.sliceReduction c x 0
    | .queue .. => s.sliceQueueOp c x 0
    | _ => s.settleOps c x

/-- At most `n` of a context's accesses are performed, the oldest first. -/
def performN : Nat → State → Nat → Nat → State
  | 0, s, _, _ => s
  | n + 1, s, c, x => performN n (s.performHead c x) c x

/-- Every access a context has outstanding is performed, in order. -/
def State.performAll (s : State) (c x : Nat) : State := performN (s.ctx c x).ops.length s c x

/-! ### Results landing -/

/-- `RESULT_LANDING` (R13, R169): the oldest result in flight lands. -/
def Ctx.landFirst (x : Ctx) : Ctx :=
  match x.flight with
  | l :: r => { x with flight := r }.commit l
  | [] => x

def execResultLanding (c x : Nat) (s' : State) : Host.Outcome State Fault Refusal := happen (fun s => s.modCtx c x Ctx.landFirst) s'

/-- The name of the oldest reserved `sq` entry whose result has not landed, a store's included (R16). -/
def Ctx.sqOldest (x : Ctx) : Option Nat :=
  let names := (x.sq.filter (fun e => !e.filled)).map (fun e => e.id) ++
    x.ops.filterMap (fun o => match o.kind with | .store q => q | _ => none)
  names.foldl (fun (a : Option Nat) n => match a with | some m => some (min m n) | none => some n) none

/-- `SQ_ENTRY_FILL` (R16): its result lands, and a store that waits for it may proceed. -/
def Ctx.sqFill (x : Ctx) : Ctx :=
  match x.sqOldest with
  | some id => { x with
      sq := x.sq.map (fun e => if e.id = id then { e with filled := true } else e)
      ops := x.ops.map (fun o => if o.kind = .store (some id) then { o with kind := .store none } else o) }
  | none => x

def execSqEntryFill (c x : Nat) (s' : State) : Host.Outcome State Fault Refusal := happen (fun s => s.modCtx c x Ctx.sqFill) s'

end Sys2Proof.Machine
end

