-- ==== Sys2Proof/Machine/MemInst.lean ====
section
/-! DEFINITION. Loads, stores, gathers and scatters (R224 to R226), local-store access (R227), load-blocks and prefetch (R228, R229),
group membership and group loads (R230, R231, R93 to R100). -/

namespace Sys2Proof.Machine

/-! ### Scalar loads and stores (R224) -/

/-- The address of an MS syllable: base plus scaled offset, wrapping. -/
def msAddr (base : W64) (i : BitVec 19) (z : Nat) : Nat := (base + i.signExtend 64 * BitVec.ofNat 64 z).toNat

/-- A scalar load of `z` bytes, sign-extended where `sx` (R224), under `mpol` (R221). -/
def scalarLoad (ins : Instr) (b : BitVec 5) (i : BitVec 19) (z : Nat) (sx : Bool) : Sem :=
  { ins := ins, srcs := [.s b.toNat], lqs := 1,
    check := fun e s =>
      let a := msAddr (e.s 0) i z
      need (a % z == 0) (fAlign a) ++ e.access s a z .read false,
    act := fun e s =>
      let a := msAddr (e.s 0) i z
      let p := e.ctx.mpol
      e.upd (e.note s a z) (fun x =>
        let x := x.preFence (polOrd p) (polScope p) e.pc
        let x := x.reserveLqs
        x.pushOp (.load false (x.seq - 1) (if sx then some (8 * z) else none))
          ((e.phys s a z .read).zip (List.range z)) [] (polOrd p) (polScope p) e.pc a) }

/-- A scalar store of `z` bytes. -/
def scalarStore (ins : Instr) (v b : BitVec 5) (i : BitVec 19) (z : Nat) : Sem :=
  { ins := ins, srcs := [.s v.toNat, .s b.toNat],
    check := fun e s =>
      let a := msAddr (e.s 1) i z
      need (a % z == 0) (fAlign a) ++ e.access s a z .write false ++ e.storeLost s a z,
    act := fun e s =>
      let a := msAddr (e.s 1) i z
      let p := e.ctx.mpol
      e.upd (e.note s a z) (fun x =>
        x.pushOp (.store none) [] ((e.phys s a z .write).zip (leBytes z (e.s 0).toNat)) (polOrd p) (polScope p) e.pc a) }

/-- `ld8s` -/
def semLd8s (b : BitVec 5) (i : BitVec 19) : Sem := scalarLoad (.ld8s b i) b i 1 true

/-- `ld8z` -/
def semLd8z (b : BitVec 5) (i : BitVec 19) : Sem := scalarLoad (.ld8z b i) b i 1 false

/-- `ld16s` -/
def semLd16s (b : BitVec 5) (i : BitVec 19) : Sem := scalarLoad (.ld16s b i) b i 2 true

/-- `ld16z` -/
def semLd16z (b : BitVec 5) (i : BitVec 19) : Sem := scalarLoad (.ld16z b i) b i 2 false

/-- `ld32s` -/
def semLd32s (b : BitVec 5) (i : BitVec 19) : Sem := scalarLoad (.ld32s b i) b i 4 true

/-- `ld32z` -/
def semLd32z (b : BitVec 5) (i : BitVec 19) : Sem := scalarLoad (.ld32z b i) b i 4 false

/-- `ld64` -/
def semLd64 (b : BitVec 5) (i : BitVec 19) : Sem := scalarLoad (.ld64 b i) b i 8 false

/-- `st8` -/
def semSt8 (s b : BitVec 5) (i : BitVec 19) : Sem := scalarStore (.st8 s b i) s b i 1

/-- `st16` -/
def semSt16 (s b : BitVec 5) (i : BitVec 19) : Sem := scalarStore (.st16 s b i) s b i 2

/-- `st32` -/
def semSt32 (s b : BitVec 5) (i : BitVec 19) : Sem := scalarStore (.st32 s b i) s b i 4

/-- `st64` -/
def semSt64 (s b : BitVec 5) (i : BitVec 19) : Sem := scalarStore (.st64 s b i) s b i 8

/-! ### Vector accesses in chunks (R225) -/

/-- The address of chunk `j`. -/
def chunkAt (a : W64) (stride : Int) (j : Nat) : Nat := addrOf ((a.toNat : Int) + (j : Int) * stride)

/-- Byte `k` of an entry takes part: its 16-bit position's mask bit is set. -/
def byteOn (m : W64) (k : Nat) : Bool := m.getLsbD (k / 2)

/-- The chunks of a width that take part. -/
def chunksOf (w : BitVec 2) (m : W64) : List Nat :=
  (List.range (widthOf w.toNat / 256)).filter (fun j => (List.range 16).any (fun i => m.getLsbD (16 * j + i)))

/-- The checks of a chunked access. -/
def Env.chunkChecks (e : Env) (s : State) (w : BitVec 2) (a : W64) (stride : Int) (m : W64) (acc : Access) : List Flt :=
  need (a.toNat % 32 == 0 && stride % 32 == 0) (fAlign a.toNat) ++
  (chunksOf w m).foldl (fun f j => f ++ e.access s (chunkAt a stride j) 32 acc false ++
    (if acc = .write then e.storeLost s (chunkAt a stride j) 32 else [])) []

/-- A vector load's effect: one `lq` entry, filled chunk by chunk. -/
def Env.chunkLoad (e : Env) (s : State) (w : BitVec 2) (a : W64) (stride : Int) (m : W64) (p : W64) : State :=
  let js := chunksOf w m
  let s1 := js.foldl (fun s j => e.note s (chunkAt a stride j) 32) s
  e.upd s1 (fun x =>
    let x := if js.isEmpty then x else x.preFence (polOrd p) (polScope p) e.pc
    let x := x.reserveLq js.length
    let entry := x.seq - 1
    js.foldl (fun x j =>
      let bs := ((e.phys s (chunkAt a stride j) 32 .read).zip ((List.range 32).map (fun k => 32 * j + k))).filter (fun q => byteOn m q.2)
      x.pushOp (.load true entry none) bs [] (polOrd p) (polScope p) e.pc (chunkAt a stride j)) x)

/-- A vector store's effect: it takes the oldest `sq` entry and writes its filled bytes that take part, chunk by chunk (R16, R205). -/
def Env.chunkStore (e : Env) (s : State) (w : BitVec 2) (a : W64) (stride : Int) (m : W64) (p : W64) : State :=
  let js := chunksOf w m
  let s1 := js.foldl (fun s j => e.note s (chunkAt a stride j) 32) s
  e.upd s1 (fun x =>
    match x.sq with
    | [] => x
    | q :: r =>
      js.foldl (fun x j =>
        let ws := ((e.phys s (chunkAt a stride j) 32 .write).zip ((List.range 32).map (fun k => 32 * j + k))).filter
          (fun z => byteOn m z.2 && q.bytes.getLsbD z.2)
        if ws.isEmpty then x
        else x.pushOp (.store (if q.filled then none else some q.id)) []
          (ws.map (fun z => (z.1, BitVec.ofNat 8 (bits q.val.toNat (8 * z.2) 8)))) (polOrd p) (polScope p) e.pc (chunkAt a stride j)) { x with sq := r })

/-- `vld` -/
def semVld (w : BitVec 2) (b x : BitVec 5) (m : BitVec 3) : Sem :=
  { ins := .vld w b x m, srcs := [.s b.toNat, .s x.toNat, .m m.toNat], lq := 1,
    check := fun e s => e.chunkChecks s w (e.s 0) 32 (e.s 2) .read,
    act := fun e s => e.chunkLoad s w (e.s 0) 32 (e.s 2) (policyOf e.ctx x.toNat (e.s 1)) }

/-- `vst` -/
def semVst (w : BitVec 2) (b x : BitVec 5) (m : BitVec 3) : Sem :=
  { ins := .vst w b x m, srcs := [.s b.toNat, .s x.toNat, .m m.toNat], takesSq := true,
    check := fun e s => e.chunkChecks s w (e.s 0) 32 (e.s 2) .write,
    act := fun e s => e.chunkStore s w (e.s 0) 32 (e.s 2) (policyOf e.ctx x.toNat (e.s 1)) }

/-- `vlds`: the register above the base holds the stride. -/
def semVlds (w : BitVec 2) (b x : BitVec 5) (m : BitVec 3) : Sem :=
  { ins := .vlds w b x m, srcs := [.s b.toNat, .s (b.toNat + 1), .s x.toNat, .m m.toNat], lq := 1,
    check := fun e s => e.chunkChecks s w (e.s 0) (e.s 1).toInt (e.s 3) .read,
    act := fun e s => e.chunkLoad s w (e.s 0) (e.s 1).toInt (e.s 3) (policyOf e.ctx x.toNat (e.s 2)) }

/-- `vsts` -/
def semVsts (w : BitVec 2) (b x : BitVec 5) (m : BitVec 3) : Sem :=
  { ins := .vsts w b x m, srcs := [.s b.toNat, .s (b.toNat + 1), .s x.toNat, .m m.toNat], takesSq := true,
    check := fun e s => e.chunkChecks s w (e.s 0) (e.s 1).toInt (e.s 3) .write,
    act := fun e s => e.chunkStore s w (e.s 0) (e.s 1).toInt (e.s 3) (policyOf e.ctx x.toNat (e.s 2)) }

/-! ### Bounded gather and scatter (R226) -/

/-- Lanes that take part. -/
def gatherLanes (w : BitVec 2) (m : W64) : List Nat := (List.range (widthOf w.toNat / 32)).filter (predBit m 32)

/-- The bound word's own breaches: reserved bits, k > 31, B = 0 while a lane takes part. -/
def boundBad (q : W64) (js : List Nat) : Bool :=
  decide (2 ^ 41 ≤ q.toNat) || decide (31 < bits q.toNat 32 8) || (bits q.toNat 0 32 == 0 && !js.isEmpty)

def boundClamp (q : W64) : Bool := q.getLsbD 40

/-- The address of a lane; `none`: its index breaks the bound. -/
def gatherAt (base q : W64) (v : V1024) (i : Nat) : Option Nat :=
  let x := lane v 32 i
  let n := bits q.toNat 0 32
  let at_ := fun (x : Nat) => (base.toNat + x * 2 ^ bits q.toNat 32 8) % 2 ^ 64
  if x < n then some (at_ x) else if boundClamp q then some (at_ (n - 1)) else none

/-- The checks of a gather or scatter. -/
def Env.gatherChecks (e : Env) (s : State) (base q : W64) (v : V1024) (js : List Nat) (acc : Access) : List Flt :=
  if boundBad q js then [{ fBound with step := 7 }]
  else js.foldl (fun f i => f ++ match gatherAt base q v i with
    | none => [fBound]
    | some a => need (a % 4 == 0) (fAlign a) ++ e.access s a 4 acc false ++ (if acc = .write then e.storeLost s a 4 else [])) []

/-- `vgath`: x is the index vector; the register above the base the bound word. -/
def semVgath (w : BitVec 2) (b x : BitVec 5) (m : BitVec 3) : Sem :=
  { ins := .vgath w b x m, srcs := [.s b.toNat, .s (b.toNat + 1), .v x.toNat, .m m.toNat], lq := 1,
    check := fun e s => e.gatherChecks s (e.s 0) (e.s 1) (e.v 2) (gatherLanes w (e.s 3)) .read,
    act := fun e s =>
      let js := gatherLanes w (e.s 3)
      let at_ := fun (i : Nat) => (gatherAt (e.s 0) (e.s 1) (e.v 2) i).getD 0
      let p := e.ctx.mpol
      e.upd (js.foldl (fun s i => e.note s (at_ i) 4) s) (fun v =>
        let v := (if js.isEmpty then v else v.preFence (polOrd p) (polScope p) e.pc).reserveLq js.length
        let entry := v.seq - 1
        js.foldl (fun v i => v.pushOp (.load true entry none)
          ((e.phys s (at_ i) 4 .read).zip ((List.range 4).map (fun k => 4 * i + k))) [] (polOrd p) (polScope p) e.pc (at_ i)) v) }

/-- `vscat`: a lane is written when it takes part and its four bytes were filled. -/
def semVscat (w : BitVec 2) (b x : BitVec 5) (m : BitVec 3) : Sem :=
  { ins := .vscat w b x m, srcs := [.s b.toNat, .s (b.toNat + 1), .v x.toNat, .m m.toNat], takesSq := true,
    check := fun e s => e.gatherChecks s (e.s 0) (e.s 1) (e.v 2) (gatherLanes w (e.s 3)) .write,
    act := fun e s =>
      let js := gatherLanes w (e.s 3)
      let at_ := fun (i : Nat) => (gatherAt (e.s 0) (e.s 1) (e.v 2) i).getD 0
      let p := e.ctx.mpol
      e.upd (js.foldl (fun s i => e.note s (at_ i) 4) s) (fun v =>
        match v.sq with
        | [] => v
        | q :: r =>
          js.foldl (fun v i =>
            if bits q.bytes.toNat (4 * i) 4 = 15 then
              v.pushOp (.store (if q.filled then none else some q.id)) []
                ((e.phys s (at_ i) 4 .write).zip (leBytes 4 (lane q.val 32 i))) (polOrd p) (polScope p) e.pc (at_ i)
            else v) { v with sq := r }) }

/-! ### Local store (R227) -/

/-- The element count of an access of a width: the largest whole number of packing groups. -/
def localCount (g : Geo) (w : BitVec 2) : Nat :=
  let k := packGroup g.fmt g.xf
  if g.w = 0 then 0 else widthOf w.toNat / (g.w * k) * k

/-- The bit offset of element `i` in the window. -/
def Geo.elemBit (g : Geo) (i : Nat) : Int :=
  let p := travElem g.trav g.d0 g.d1 i
  g.bitOf p.1 p.2

/-- Elements of the access that take part: the 16-bit position of an element's first bit is set. -/
def localElems (g : Geo) (w : BitVec 2) (m : W64) : List Nat :=
  (List.range (localCount g w)).filter (fun j => m.getLsbD (j * g.w / 16))

/-- The bytes of the window that element `i` lies in. -/
def Geo.elemBytes (g : Geo) (i : Nat) : List Nat :=
  Machine.span (Int.ediv (g.elemBit i) 8).toNat (((Int.emod (g.elemBit i) 8).toNat + g.w + 7) / 8)

/-- The checks of `lld` and `lst`: FORMAT always; window and bound only while performed (R29, R227); `m` picks the elements that take part,
whose data may be lost (R271). DESIGN CHOICE: the window check covers elements beyond N too, at the place the index formula gives them, so that
RESOVER comes before BOUND (log entry 129). -/
def Env.localChecks (e : Env) (s : State) (a : Nat) (w : BitVec 2) (x m : W64) : List Flt :=
  let g := e.geo s a
  let n := localCount g w
  let e0 := x.toNat % 2 ^ 32
  e.streamCheck s a true ++ need (g.space == 1) (fFormat.of g) ++
  (if e.stageOn a then
    need (decide (x.toNat < 2 ^ 32) && decide (x.toNat + n ≤ g.d0 * g.d1)) fBound ++
    need ((List.range n).all (fun j => spanInside (hdrWindow e.hdr)
      (Int.ediv (g.elemBit (e0 + j)) 8, Int.ediv (g.elemBit (e0 + j) + g.w - 1) 8))) (fResover.of g) ++
    (((s.core e.c).lostGranule e.base ((localElems g w m).foldl (fun b j => b ++ g.elemBytes (e0 + j)) [])).toList).map (fun q =>
      { fMchk 14 0 0 3 with unit := some (.localStore e.c q) })
  else [])

/-- The element indices an `lld` chases (R119). -/
def Env.lldElems (e : Env) (s : State) (a : Nat) (w : BitVec 2) (x m : W64) : List Nat :=
  if e.stageOn a then (localElems (e.geo s a) w m).map (fun j => x.toNat + j) else []

/-- The chase condition of each. -/
def Env.lldChase (e : Env) (s : State) (a : Nat) (w : BitVec 2) (x m : W64) : List (Nat × Chase) :=
  let g := e.geo s a
  (e.lldElems s a w x m).map (fun i => (i, ((s.core e.c).withPubs e.base e.x).chaseOf e.base g (g.elemBit i)))

/-- An access of the context that a read of the window follows: an acquire or a fence (R138, R144). -/
def Ctx.acquiring (x : Ctx) : Bool := x.ops.any (fun o => o.kind == .fence || o.ord % 2 == 1)

/-- `lld` (R227): b is the stream, x the element index. It reads at issue, after the acquires before it, which are performed then (log
entry 88). A chase on an aborted tag takes CHASEABORT at the bundle (R129), but while the
context is in its handler the trap stays pending and the bundle waits (R263). -/
def semLld (w : BitVec 2) (d : BitVec 5) (b : BitVec 4) (x : BitVec 5) (m : BitVec 3) : Sem :=
  { ins := .lld w d b x m, srcs := [.s x.toNat, .m m.toNat], dsts := [.v d.toNat], streams := [b.toNat],
    check := fun e s =>
      let g := e.geo s b.toNat
      e.localChecks s b.toNat w (e.s 0) (e.s 1) ++ e.chaseOver g ++
      (match (e.lldChase s b.toNat w (e.s 0) (e.s 1)).find? (fun p => p.2 == .aborted) with
       | some (i, _) =>
         let p := travElem g.trav g.d0 g.d1 i
         need e.ctx.handler.isSome { step := 16, cause := cCHASEABORT, kind := 2, coord := [(p.1 : Int), (p.2 : Int)],
                                     tag := (g.chase.getD (0, 0)).1 }
       | none => []),
    waits := fun e s => (e.lldChase s b.toNat w (e.s 0) (e.s 1)).any (fun p => p.2 != .met),
    act := fun e s =>
      let g := e.geo s b.toNat
      let s := if (s.ctx e.c e.x).acquiring then s.performAll e.c e.x else s
      let win := (s.core e.c).ownWindow e.base e.x
      let js := if e.stageOn b.toNat then localElems g w (e.s 1) else []
      let mask := js.foldl (fun (a : V1024) (j : Nat) => a ||| BitVec.ofNat 1024 ((2 ^ g.w - 1) * 2 ^ (j * g.w))) 0
      let val := js.foldl (fun (a : V1024) (j : Nat) =>
        a ||| BitVec.ofNat 1024 (bitsAt (mget win) (g.elemBit ((e.s 0).toNat + j)).toNat g.w * 2 ^ (j * g.w))) 0
      e.upd s (fun v => v.writeV d.toNat mask val e.now 8) }

/-- `lst`: its elements are written once the reads before it have been performed (R141). -/
def semLst (w : BitVec 2) (d : BitVec 5) (b : BitVec 4) (x : BitVec 5) (m : BitVec 3) : Sem :=
  { ins := .lst w d b x m, srcs := [.v d.toNat, .s x.toNat, .m m.toNat], streams := [b.toNat],
    check := fun e s => e.localChecks s b.toNat w (e.s 1) (e.s 2),
    act := fun e s =>
      let g := e.geo s b.toNat
      let js := if e.stageOn b.toNat then localElems g w (e.s 2) else []
      let es := js.map (fun j => ((g.elemBit ((e.s 1).toNat + j)).toNat, g.w, bits (e.v 0).toNat (j * g.w) g.w))
      if es.isEmpty then s else (e.upd s (fun v => v.pushOp (.lst es) [] [] 0 0 e.pc 0)).settleOps e.c e.x }

/-! ### Load-blocks and prefetch (R73, R74, R228, R229) -/

/-- The line of a virtual address, for OVERLAP: physical where it translates. -/
def State.blockLine (s : State) (c root va : Nat) : Nat :=
  match s.xlat c root va .read with
  | .ok pa => lineOf pa
  | _ => 2 ^ 60 + va / 128

def State.blockLinesOf (s : State) (c root a n : Nat) : List Nat :=
  (List.range n).map (fun i => s.blockLine c root (a + 128 * i))

/-- The table root of a team's launch. -/
def State.teamRoot (s : State) (t : Team) : Nat := match s.launchOf t.launch with | some l => l.root | none => 0

/-- The lines of a live load-block as its addresses translate now. -/
def State.blockNow (s : State) (c root : Nat) (b : Block) : List Nat := s.blockLinesOf c root b.va b.lines.length

/-- `ldblk`: b the base register, n the line count. A line overlaps where it is one a live block holds, or names as its addresses translate
now. -/
def semLdblk (t : BitVec 6) (b : BitVec 5) (n : BitVec 7) : Sem :=
  { ins := .ldblk t b n, srcs := [.s b.toNat], tags := [t.toNat],
    check := fun e s =>
      let k := s.core e.c
      let bs := match tget k.teams e.base with | some q => q.blocks | none => []
      let lines := s.blockLinesOf e.c e.root (e.s 0).toNat n.toNat
      need (decide (bs.length + 1 ≤ 16) && decide ((bs.map (fun q => q.lines.length)).sum + n.toNat ≤ 768)) fResover ++
      need (!(k.teams.any (fun q => q.2.blocks.any (fun o =>
        (o.lines ++ s.blockNow e.c (s.teamRoot q.2) o).any (fun l => lines.contains l))))) fOverlap ++
      need (decide (1 ≤ n.toNat ∧ n.toNat ≤ 64) && (e.s 0).toNat % 128 == 0) (fAlign (e.s 0).toNat) ++
      e.tagFree s t.toNat,
    act := fun e s =>
      let gen := e.nextGen s t.toNat
      let m := { e.newCmd s .ldblk with list := (e.s 0).toNat, n := n.toNat, tag := some (t.toNat, gen), st := .running }
      let lines := s.blockLinesOf e.c e.root (e.s 0).toNat n.toNat
      let s := e.enqueue (e.bindTag s t.toNat 9 n.toNat none 0) m
      s.modCore e.c (fun k => match tget k.teams e.base with
        | some q => k.putTeam e.base { q with blocks := q.blocks ++ [{ tag := t.toNat, gen := gen, va := (e.s 0).toNat, lines := lines }] }
        | none => k) }

/-- `evblk`: the lines of the live block bound to the tag go back to ordinary replacement; a FREE tag is bound to none. -/
def semEvblk (t : BitVec 6) : Sem :=
  { ins := .evblk t, tags := [t.toNat],
    act := fun e s =>
      let g := (s.core e.c).tagAt e.base t.toNat
      let gen := g.gen
      if g.state = .free then s else s.modCore e.c (fun k => match tget k.teams e.base with
        | some q => k.putTeam e.base { q with blocks := q.blocks.filter (fun o => !(o.tag == t.toNat && o.gen == gen)) }
        | none => k) }

/-- `pfetch` (R229): the L1 fills the line, or drops the request; no event, no fault. -/
def semPfetch (p b : BitVec 5) (i : BitVec 19) : Sem :=
  { ins := .pfetch p b i, srcs := [.s p.toNat, .s b.toNat],
    act := fun e s =>
      let a := msAddr (e.s 1) i 128 / 128 * 128
      match s.xlat e.c e.root a .read with
      | .ok pa =>
        if Config.choice s.free (lineOf pa) && !(span pa 128).any s.isLost then
          [0, 32, 64, 96].foldl (fun s o => s.l1Fill e.c (pa + o)) (s.noteTlb e.c e.root a)
        else s
      | _ => s }

/-! ### Groups (R93, R94, R99, R230, R390) -/

/-- The place of a group in its launch's table: die × 16 + number. -/
def groupKey (c g : Nat) : Nat := dieOf c * 16 + g

/-- A group as declared: members in bits [15:0] of its word, the hold time in [31:16], 0 standing for 64 (R93, R390). -/
def Launch.group (l : Launch) (key : Nat) : Group :=
  (tget l.groups key).getD
    (let w := (l.groupWords.getD (key % 16) 0).toNat
     { members := bits w 0 16, hold := if bits w 16 16 = 0 then 64 else bits w 16 16, joined := [], next := 0, holds := [] })

/-- The group a context names, with its launch's number. -/
def State.groupAt (s : State) (c x g : Nat) : Option (Nat × Launch × Group) :=
  (s.launchAt c x).map (fun p => (p.1, p.2, p.2.group (groupKey c g)))

/-- The group status of a member's tag once its hold is released (R96, R113): 1 complete, 2 timed out, 3 late. -/
def Hold.status (h : Hold) (m : Cmd) : Nat := if m.flags = 1 then 3 else if h.timedOut then 2 else 1

/-- The binding `gen` of a tag takes a group status. -/
def Tag.grouped (t : Tag) (gen v : Nat) : Tag := if t.gen = gen then { t with gstat := v } else t

/-- The tags of the members a released hold still owes a fill show its status, on cores and in saved teams. -/
def State.noteReleased (s : State) (h : Hold) : State :=
  if !h.released || h.mismatch then s
  else (h.asks.filter (fun a => !a.served)).foldl (fun (s : State) a =>
    match (s.core a.core).cmd a.cmd with
    | some m => (match m.tag with
      | some (n, gen) => s.modTag a.core m.team n (fun t => t.grouped gen (h.status m))
      | none => s)
    | none => s.modSaved a.core a.cmd (fun v m => match m.tag with
      | some (n, gen) => { v with team := { v.team with tags := tput v.team.tags n ((v.team.tag n).grouped gen (h.status m)) } }
      | none => v)) s

/-- A group as it now is, with the statuses its released holds give (R113). -/
def State.putGroup (s : State) (l key : Nat) (g : Group) : State :=
  g.holds.foldl State.noteReleased (s.modLaunch l (fun v => { v with groups := tput v.groups key g }))

/-- Release complete (R95): every enrolled member has asked. DESIGN CHOICE: an asker that has left counts no longer (log entry 93). -/
def Group.complete (g : Group) (h : Hold) : Bool := g.joined.all (fun j => h.asks.any (fun a => a.core == j.1 && a.ctx == j.2))

/-- Every entry of a group evaluated again (R95, R99): a pending one that every enrolled member has asked is released complete; a
released one that they all have asked, and whose fills have landed, is freed. -/
def Group.settle (g : Group) : Group :=
  let hs := g.holds.map (fun (h : Hold) => if !h.released && g.complete h then { h with released := true } else h)
  { g with holds := hs.filter (fun h => !(h.released && g.complete h && h.asks.all (fun a => a.served))) }

/-- Context `x` of core `c` leaves group `g`. -/
def State.leaveGroup (s : State) (c x g : Nat) : State :=
  match s.groupAt c x g with
  | some (l, _, v) =>
    (s.putGroup l (groupKey c g) { v with joined := v.joined.filter (fun j => j != (c, x)) }.settle).modCtx c x
      (fun y => { y with groups := tdel y.groups g })
  | none => s

/-- `gjoin` (R94) -/
def semGjoin (g : BitVec 4) : Sem :=
  { ins := .gjoin g, groups := [g.toNat],
    check := fun e s => match s.groupAt e.c e.x g.toNat with
      | some (_, _, v) => need (v.joined.contains (e.c, e.x) || decide (v.joined.length < v.members)) fResover
      | none => [],
    act := fun e s => match s.groupAt e.c e.x g.toNat with
      | some (l, _, v) =>
        if v.joined.contains (e.c, e.x) then s
        else e.upd (s.putGroup l (groupKey e.c g.toNat) { v with joined := v.joined ++ [(e.c, e.x)] })
          (fun y => { y with groups := tput y.groups g.toNat v.next })
      | none => s }

/-- `gleave` (R99) -/
def semGleave (g : BitVec 4) : Sem :=
  { ins := .gleave g, groups := [g.toNat],
    act := fun e s => if (tget (s.ctx e.c e.x).groups g.toNat).isSome then s.leaveGroup e.c e.x g.toNat else s }

/-- `gld` (R231): the tag is bound and the request is on its way to the hold entry of its sequence number. DESIGN CHOICE: the source's first byte, which
is checked and whose slice the hold stands at, is that of element (0, 0) before any clamp (log entry 116). -/
def semGld (g d a : BitVec 4) (t : BitVec 6) : Sem :=
  { ins := .gld g d a t, streams := [d.toNat, a.toNat], tags := [t.toNat], groups := [g.toNat],
    check := fun e s =>
      let dg := e.geo s d.toNat
      let sg := e.geo s a.toNat
      let first := addrOf (Int.ediv (sg.bitOf 0 0) 8)
      e.streamCheck s d.toNat true ++ e.streamCheck s a.toNat true ++ dg.windowCheck e.hdr dg.d1 ++
      need (dg.space == 1 && dg.fmt == sg.fmt && dg.d0 == sg.d0 && dg.d1 == sg.d1) (fFormat.of dg) ++
      need (sg.space == 0 && sg.chase.isNone) (fFormat.of sg) ++ e.tagFree s t.toNat ++
      need (tget (s.ctx e.c e.x).groups g.toNat).isSome { step := 10, cause := cGROUPMIS, detail := g.toNat, tag := t.toNat, producer := 8 } ++
      e.access s first 1 .read false,
    act := fun e s =>
      let dg := e.geo s d.toNat
      let seq := (tget (s.ctx e.c e.x).groups g.toNat).getD 0
      let n := dg.d0 * dg.d1
      let m := { e.newCmd s .gld with dst := some dg, src := some (e.geo s a.toNat), tag := some (t.toNat, e.nextGen s t.toNat),
                                      chan := g.toNat, n := seq, st := .running }
      let s := e.enqueue (e.bindTag s t.toNat 8 n (some (dg.tagGeo dg.d1)) g.toNat) m
      let s := match s.groupAt e.c e.x g.toNat with
        | some (l, _, v) => s.putGroup l (groupKey e.c g.toNat) { v with next := max v.next (seq + 1) }
        | none => s
      e.upd s (fun y => { y with groups := tput y.groups g.toNat (seq + 1) }) }

end Sys2Proof.Machine
end

