-- ==== Sys2Proof/Machine/Vector.lean ====
section
/-! DEFINITION. The V class (14_isa_vector.md): lane arithmetic, compares, conversions, selection, bitwise operations, reductions,
scans and the miscellaneous family (R203 to R214). -/

namespace Sys2Proof.Machine

/-! ### Lane operations by type code (R175): 0 f32, 1 bf16, 2 f16, 3 s32, 4 s16, 5 z32, 6 z16 -/

def isFloat (t : Nat) : Bool := decide (t ≤ 2)
def isSigned (t : Nat) : Bool := t == 3 || t == 4

/-- An integer lane's value. -/
def intVal (t c : Nat) : Int := if isSigned t then sbits c 0 (laneSize t) else (bits c 0 (laneSize t) : Nat)

/-- The range of an integer type (R207). -/
def intLo (t : Nat) : Int := if isSigned t then -(2 ^ (laneSize t - 1)) else 0
def intHi (t : Nat) : Int := if isSigned t then 2 ^ (laneSize t - 1) - 1 else 2 ^ laneSize t - 1

/-- The bit pattern of an integer in a lane. -/
def intBits (t : Nat) (i : Int) : Nat := (Int.emod i (2 ^ laneSize t)).toNat

def intSat (t : Nat) (i : Int) : Nat := intBits t (max (intLo t) (min i (intHi t)))

/-- R207. -/
def laneAdd (t a b : Nat) : Nat := if isFloat t then (fpOf t).add a b else intBits t (intVal t a + intVal t b)
def laneSub (t a b : Nat) : Nat := if isFloat t then (fpOf t).sub a b else intBits t (intVal t a - intVal t b)
def laneMul (t a b : Nat) : Nat := if isFloat t then (fpOf t).mul a b else intBits t (intVal t a * intVal t b)
def laneFma (t a b d : Nat) : Nat :=
  if isFloat t then (fpOf t).fma a b d else intBits t (intVal t a * intVal t b + intVal t d)
def laneMin (t a b : Nat) : Nat := if isFloat t then (fpOf t).min a b else if intVal t a ≤ intVal t b then a else b
def laneMax (t a b : Nat) : Nat := if isFloat t then (fpOf t).max a b else if intVal t a ≤ intVal t b then b else a
def laneAdds (t a b : Nat) : Nat := intSat t (intVal t a + intVal t b)
def laneSubs (t a b : Nat) : Nat := intSat t (intVal t a - intVal t b)

/-- The relations of R208: 0 equal, 1 less, 2 less or equal. -/
def laneCmp (rel t a b : Nat) : Bool :=
  if isFloat t then (fpOf t).cmp rel a b
  else match rel with
    | 0 => intVal t a == intVal t b
    | 1 => decide (intVal t a < intVal t b)
    | _ => decide (intVal t a ≤ intVal t b)

/-- One lane converted (R209). -/
def laneConvert (src dst c : Nat) : Nat :=
  if isFloat src then
    let x := (fpOf src).decode c
    if isFloat dst then (fpOf dst).encode x else intBits dst (x.toIntSat .rne (intLo dst) (intHi dst))
  else (fpOf dst).encode (Num.ofInt (intVal src c))

/-- A node of an add tree (R212): integers of s types saturate. -/
def nodeAdd (t a b : Nat) : Nat := if isSigned t then laneAdds t a b else laneAdd t a b

/-- The identities of R55. -/
def identAdd (t : Nat) : Nat := if isFloat t then (fpOf t).signed true 0 else 0
def identMax (t : Nat) : Nat := if isFloat t then (fpOf t).encode (.inf true) else intBits t (intLo t)
def identMin (t : Nat) : Nat := if isFloat t then (fpOf t).encode (.inf false) else intBits t (intHi t)

/-- One level of the tree of R55. -/
def pairUp (f : Nat → Nat → Nat) : List Nat → List Nat
  | a :: b :: r => f a b :: pairUp f r
  | r => r

/-- The tree of R55 over at most `2^k` values. -/
def treeOf (f : Nat → Nat → Nat) : Nat → List Nat → Nat
  | 0, x => x.headD 0
  | k + 1, x => treeOf f k (pairUp f x)

/-- The rounds of R56, with distances `d`, 2d, 4d, … -/
def scanOf (f : Nat → Nat → Nat) : Nat → Nat → List Nat → List Nat
  | 0, _, y => y
  | k + 1, d, y => scanOf f k (2 * d) (y.take d ++ List.zipWith f y (y.drop d))

/-- The masked inputs of a reduction or scan. -/
def entering (t n ident : Nat) (a : V1024) (m : W64) : List Nat :=
  (List.range n).map (fun i => if predBit m (laneSize t) i then lane a (laneSize t) i else ident)

/-! ### Shapes -/

/-- `d.lane[i] ← f(a.lane[i], b.lane[i])` on lanes of `size` bits where the predicate bit is 1 (R204). -/
def lanewise (ins : Instr) (size : Nat) (w : BitVec 2) (d a c : BitVec 5) (m : BitVec 3) (bound : Nat) (f : Nat → Nat → Nat) : Sem :=
  { ins := ins, srcs := [.v a.toNat, .v c.toNat, .m m.toNat], dsts := [.v d.toNat],
    act := fun e s =>
      let n := widthOf w.toNat / size
      e.upd s (fun x => x.writeV d.toNat (laneMask size n (predBit (e.s 2) size))
        (lanes size n (fun i => f (lane (e.v 0) size i) (lane (e.v 1) size i))) e.now bound) }

/-- A typed family of R207. -/
def typed (ins : Instr) (t : BitVec 3) (w : BitVec 2) (d a c : BitVec 5) (m : BitVec 3) (bound : Nat) (f : Nat → Nat → Nat → Nat) : Sem :=
  lanewise ins (laneSize t.toNat) w d a c m bound (f t.toNat)

/-- A compare into a mask (R208). -/
def maskCompare (ins : Instr) (rel : Nat) (t : BitVec 3) (w : BitVec 2) (d : BitVec 3) (a c : BitVec 5) (m : BitVec 3) : Sem :=
  { ins := ins, srcs := [.v a.toNat, .v c.toNat, .m m.toNat], dsts := [.m d.toNat],
    act := fun e s =>
      let size := laneSize t.toNat
      let n := widthOf w.toNat / size
      let p := predBit (e.s 2) size
      e.upd s (fun x => x.writeM d.toNat (cmpBits size n p)
        (cmpBits size n (fun i => p i && laneCmp rel t.toNat (lane (e.v 0) size i) (lane (e.v 1) size i))) e.now 3) }

/-! ### Lane arithmetic (R207) -/

/-- `vadd` -/
def semVadd (t : BitVec 3) (w : BitVec 2) (d a c : BitVec 5) (m : BitVec 3) : Sem := typed (.vadd t w d a c m) t w d a c m 3 laneAdd

/-- `vsub` -/
def semVsub (t : BitVec 3) (w : BitVec 2) (d a c : BitVec 5) (m : BitVec 3) : Sem := typed (.vsub t w d a c m) t w d a c m 3 laneSub

/-- `vmul` -/
def semVmul (t : BitVec 3) (w : BitVec 2) (d a c : BitVec 5) (m : BitVec 3) : Sem := typed (.vmul t w d a c m) t w d a c m 5 laneMul

/-- `vfma` (R205, R207): its d field is a source too, taken first. -/
def semVfma (t : BitVec 3) (w : BitVec 2) (d a c : BitVec 5) (m : BitVec 3) : Sem :=
  { ins := .vfma t w d a c m, srcs := [.v d.toNat, .v a.toNat, .v c.toNat, .m m.toNat], dsts := [.v d.toNat],
    act := fun e s =>
      let size := laneSize t.toNat
      let n := widthOf w.toNat / size
      e.upd s (fun x => x.writeV d.toNat (laneMask size n (predBit (e.s 3) size))
        (lanes size n (fun i => laneFma t.toNat (lane (e.v 1) size i) (lane (e.v 2) size i) (lane (e.v 0) size i))) e.now 5) }

/-- `vmin` -/
def semVmin (t : BitVec 3) (w : BitVec 2) (d a c : BitVec 5) (m : BitVec 3) : Sem := typed (.vmin t w d a c m) t w d a c m 3 laneMin

/-- `vmax` -/
def semVmax (t : BitVec 3) (w : BitVec 2) (d a c : BitVec 5) (m : BitVec 3) : Sem := typed (.vmax t w d a c m) t w d a c m 3 laneMax

/-- `vadds` -/
def semVadds (t : BitVec 3) (w : BitVec 2) (d a c : BitVec 5) (m : BitVec 3) : Sem := typed (.vadds t w d a c m) t w d a c m 3 laneAdds

/-- `vsubs` -/
def semVsubs (t : BitVec 3) (w : BitVec 2) (d a c : BitVec 5) (m : BitVec 3) : Sem := typed (.vsubs t w d a c m) t w d a c m 3 laneSubs

/-! ### Compares and conversion (R208, R209) -/

/-- `vcmpeq` -/
def semVcmpeq (t : BitVec 3) (w : BitVec 2) (d : BitVec 3) (a c : BitVec 5) (m : BitVec 3) : Sem :=
  maskCompare (.vcmpeq t w d a c m) 0 t w d a c m

/-- `vcmplt` -/
def semVcmplt (t : BitVec 3) (w : BitVec 2) (d : BitVec 3) (a c : BitVec 5) (m : BitVec 3) : Sem :=
  maskCompare (.vcmplt t w d a c m) 1 t w d a c m

/-- `vcmple` -/
def semVcmple (t : BitVec 3) (w : BitVec 2) (d : BitVec 3) (a c : BitVec 5) (m : BitVec 3) : Sem :=
  maskCompare (.vcmple t w d a c m) 2 t w d a c m

/-- `vcvt` (R209): the c field holds the destination type; the predicate is that of the wider side. -/
def semVcvt (t : BitVec 3) (w : BitVec 2) (d a c : BitVec 5) (m : BitVec 3) : Sem :=
  { ins := .vcvt t w d a c m, srcs := [.v a.toNat, .m m.toNat], dsts := [.v d.toNat],
    act := fun e s =>
      let ss := laneSize t.toNat
      let ds := laneSize c.toNat
      let wide := max ss ds
      let n := widthOf w.toNat / wide
      e.upd s (fun x => x.writeV d.toNat (laneMask ds n (predBit (e.s 1) wide))
        (lanes ds n (fun i => laneConvert t.toNat c.toNat (lane (e.v 0) ss i))) e.now 4) }

/-! ### Selection and bitwise operations (R210, R211) -/

/-- `vsel`: the mask selects, and no position is predicated off. -/
def semVsel (w : BitVec 2) (d a c : BitVec 5) (k : BitVec 3) : Sem :=
  { ins := .vsel w d a c k, srcs := [.v a.toNat, .v c.toNat, .m k.toNat], dsts := [.v d.toNat],
    act := fun e s =>
      let n := widthOf w.toNat / 16
      e.upd s (fun x => x.writeV d.toNat (laneMask 16 n (fun _ => true))
        (lanes 16 n (fun i => if (e.s 2).getLsbD i then lane (e.v 0) 16 i else lane (e.v 1) 16 i)) e.now 3) }

/-- `vand` -/
def semVand (w : BitVec 2) (d a c : BitVec 5) (m : BitVec 3) : Sem := lanewise (.vand w d a c m) 16 w d a c m 3 Nat.land

/-- `vor` -/
def semVor (w : BitVec 2) (d a c : BitVec 5) (m : BitVec 3) : Sem := lanewise (.vor w d a c m) 16 w d a c m 3 Nat.lor

/-- `vxor` -/
def semVxor (w : BitVec 2) (d a c : BitVec 5) (m : BitVec 3) : Sem := lanewise (.vxor w d a c m) 16 w d a c m 3 Nat.xor

/-- `vandn` -/
def semVandn (w : BitVec 2) (d a c : BitVec 5) (m : BitVec 3) : Sem :=
  lanewise (.vandn w d a c m) 16 w d a c m 3 (fun a b => Nat.land a (65535 - b))

/-- `vshl` -/
def semVshl (w : BitVec 2) (d a c : BitVec 5) (m : BitVec 3) : Sem :=
  lanewise (.vshl w d a c m) 32 w d a c m 3 (fun a b => a * 2 ^ (b % 32) % 2 ^ 32)

/-- `vshr` -/
def semVshr (w : BitVec 2) (d a c : BitVec 5) (m : BitVec 3) : Sem :=
  lanewise (.vshr w d a c m) 32 w d a c m 3 (fun a b => a / 2 ^ (b % 32))

/-- `vsra` -/
def semVsra (w : BitVec 2) (d a c : BitVec 5) (m : BitVec 3) : Sem :=
  lanewise (.vsra w d a c m) 32 w d a c m 3 (fun a b => intBits 3 (Int.ediv (sbits a 0 32) (2 ^ (b % 32))))

/-- `vrot`: to the left. -/
def semVrot (w : BitVec 2) (d a c : BitVec 5) (m : BitVec 3) : Sem :=
  lanewise (.vrot w d a c m) 32 w d a c m 3 (fun a b => a * 2 ^ (b % 32) % 2 ^ 32 + a / 2 ^ (32 - b % 32))

/-! ### Reduction and scan (R212, R213) -/

/-- `vred`: the c field holds the operation: 0 add, 1 max, 2 min; lane 0 of d is always written. -/
def semVred (t : BitVec 3) (w : BitVec 2) (d a c : BitVec 5) (m : BitVec 3) : Sem :=
  { ins := .vred t w d a c m, srcs := [.v a.toNat, .m m.toNat], dsts := [.v d.toNat],
    act := fun e s =>
      let ty := t.toNat
      let size := laneSize ty
      let n := widthOf w.toNat / size
      let r := match c.toNat with
        | 0 => treeOf (nodeAdd ty) 6 (entering ty n (identAdd ty) (e.v 0) (e.s 1))
        | 1 => treeOf (laneMax ty) 6 (entering ty n (identMax ty) (e.v 0) (e.s 1))
        | _ => treeOf (laneMin ty) 6 (entering ty n (identMin ty) (e.v 0) (e.s 1))
      e.upd s (fun x => x.writeV d.toNat (laneMask size 1 (fun _ => true)) (lanes size 1 (fun _ => r)) e.now 6) }

/-- `vscan`: the c field holds the element type; every lane below n is written. -/
def semVscan (w : BitVec 2) (d a c : BitVec 5) (m : BitVec 3) : Sem :=
  { ins := .vscan w d a c m, srcs := [.v a.toNat, .m m.toNat], dsts := [.v d.toNat],
    act := fun e s =>
      let ty := c.toNat
      let size := laneSize ty
      let n := widthOf w.toNat / size
      let y := scanOf (nodeAdd ty) 6 1 (entering ty n (identAdd ty) (e.v 0) (e.s 1))
      e.upd s (fun x => x.writeV d.toNat (laneMask size n (fun _ => true)) (lanes size n (fun i => y.getD i 0)) e.now 6) }

/-! ### The miscellaneous family (R214) -/

/-- `vmov` -/
def semVmov (w : BitVec 2) (d a : BitVec 5) (m : BitVec 3) : Sem :=
  { ins := .vmov w d a m, srcs := [.v a.toNat, .m m.toNat], dsts := [.v d.toNat],
    act := fun e s =>
      let n := widthOf w.toNat / 16
      e.upd s (fun x => x.writeV d.toNat (laneMask 16 n (predBit (e.s 1) 16)) (e.v 0) e.now 3) }

/-- `vbcast`: a is a scalar register, c the element type. -/
def semVbcast (w : BitVec 2) (d a c : BitVec 5) (m : BitVec 3) : Sem :=
  { ins := .vbcast w d a c m, srcs := [.s a.toNat, .m m.toNat], dsts := [.v d.toNat],
    act := fun e s =>
      let size := laneSize c.toNat
      let n := widthOf w.toNat / size
      e.upd s (fun x => x.writeV d.toNat (laneMask size n (predBit (e.s 1) size))
        (lanes size n (fun _ => (e.s 0).toNat)) e.now 3) }

/-- `vperm` -/
def semVperm (w : BitVec 2) (d a c : BitVec 5) (m : BitVec 3) : Sem :=
  { ins := .vperm w d a c m, srcs := [.v a.toNat, .v c.toNat, .m m.toNat], dsts := [.v d.toNat],
    act := fun e s =>
      let n := widthOf w.toNat / 32
      e.upd s (fun x => x.writeV d.toNat (laneMask 32 n (predBit (e.s 2) 32))
        (lanes 32 n (fun i => lane (e.v 0) 32 (lane (e.v 1) 32 i % n))) e.now 4) }

/-- `vidx` -/
def semVidx (w : BitVec 2) (d : BitVec 5) (m : BitVec 3) : Sem :=
  { ins := .vidx w d m, srcs := [.m m.toNat], dsts := [.v d.toNat],
    act := fun e s =>
      let n := widthOf w.toNat / 32
      e.upd s (fun x => x.writeV d.toNat (laneMask 32 n (predBit (e.s 0) 32)) (lanes 32 n (fun i => i)) e.now 3) }

/-- `vext`: d is a scalar register, c the lane. -/
def semVext (w : BitVec 2) (d a c : BitVec 5) (m : BitVec 3) : Sem :=
  { ins := .vext w d a c m, srcs := [.v a.toNat, .m m.toNat], dsts := [.s d.toNat],
    act := fun e s =>
      if predBit (e.s 1) 32 c.toNat then
        e.upd s (fun x => x.writeS d.toNat (BitVec.ofNat 64 (lane (e.v 0) 32 c.toNat)) e.now 3)
      else s }

/-- `vins`: a is a scalar register, c the lane. -/
def semVins (w : BitVec 2) (d a c : BitVec 5) (m : BitVec 3) : Sem :=
  { ins := .vins w d a c m, srcs := [.s a.toNat, .m m.toNat], dsts := [.v d.toNat],
    act := fun e s =>
      e.upd s (fun x => x.writeV d.toNat (laneMask 32 32 (fun i => i == c.toNat && predBit (e.s 1) 32 i))
        (lanes 32 32 (fun _ => (e.s 0).toNat)) e.now 3) }

/-- `vtest`: d is a steer register, a and m masks. -/
def semVtest (w : BitVec 2) (d : BitVec 5) (a m : BitVec 3) : Sem :=
  { ins := .vtest w d a m, srcs := [.m a.toNat, .m m.toNat], dsts := [.cond d.toNat],
    act := fun e s => e.upd s (fun x => x.writeCond d.toNat (anyBoth (e.s 0) (e.s 1) (widthOf w.toNat / 16)) e.now 3) }

end Sys2Proof.Machine
end

