-- ==== Sys2Proof/Machine/Pack.lean ====
section
/-! DEFINITION. The U and K classes (R216 to R219): unpacking and packing of pieces. -/

namespace Sys2Proof.Machine

/-! ### Pieces (R216) -/

/-- The first bit of piece `p` of elements of `w` bits. -/
def pieceBase (w p : Nat) : Nat := if w = 6 then 96 * p else 128 * p

/-- Elements of one piece. -/
def pieceCount (w : Nat) : Nat := if w = 4 then 32 else 16

/-- Element `j` of piece `p`. -/
def pieceElem (v : V1024) (w p j : Nat) : Nat := bits v.toNat (pieceBase w p + w * j) w

/-- The bits of piece `p`. -/
def pieceMask (w p : Nat) : V1024 := BitVec.ofNat 1024 ((2 ^ (w * pieceCount w) - 1) * 2 ^ pieceBase w p)

/-- Elements placed in piece `p`. -/
def pieceOf (w p : Nat) (f : Nat → Nat) : V1024 := lanes w (pieceCount w) f <<< pieceBase w p

/-- The four scale bytes of piece `p` (R218). -/
def scaleMask (p : Nat) : V1024 := BitVec.ofNat 1024 ((2 ^ 32 - 1) * 2 ^ (32 * p))
def scaleBytes (p : Nat) (f : Nat → Nat) : V1024 := lanes 8 4 f <<< (32 * p)

def Env.xf (e : Env) (k : Nat) : W32 := (e.snap.core e.c).readXf e.snap.free e.now k

/-- The state of `lfsr` after each element of an operation of `n` elements, and its new value (R51): it moves only under stochastic
rounding, and an `mts lfsr` of the bundle is the later write (R200). -/
def Env.draws (e : Env) (n : Nat) : List W32 := lfsrRun n e.ctx.lfsr

def Env.stepLfsr (e : Env) (xf : W32) (n : Nat) (x : Ctx) : Ctx :=
  if xfRound xf = 2 ∧ !e.sprs.contains 20 then { x with lfsr := (e.draws n).getLastD x.lfsr } else x

/-- The rounding mode of element `i`. -/
def Env.mode (e : Env) (xf : W32) (n i : Nat) : Round := xfMode xf ((e.draws n).getD i 0)

/-- An element of a source lane: a floating-point value. -/
def laneNum (ty : Nat) (v : V1024) (i : Nat) : Num :=
  if isFloat ty then (fpOf ty).decode (lane v (laneSize ty) i) else Num.ofInt (intVal ty (lane v (laneSize ty) i))

/-! ### Unpacking (R218) -/

/-- `unpk`: i[5:4] the destination type, i[3:0] the source format. -/
def semUnpk (d a : BitVec 5) (p : BitVec 3) (x : BitVec 2) (i : BitVec 6) : Sem :=
  { ins := .unpk d a p x i, srcs := [.v a.toNat], dsts := [.v d.toNat],
    act := fun e s =>
      let src := fpOf (i.toNat % 16)
      let ty := i.toNat / 16
      let n := pieceCount src.width
      e.upd s (fun v => v.writeV d.toNat (laneMask (laneSize ty) n (fun _ => true))
        (lanes (laneSize ty) n (fun j => (fpOf ty).encode (src.decode (pieceElem (e.v 0) src.width p.toNat j)))) e.now 4) }

/-- The decoded q4 elements of a piece. -/
def q4Piece (sub : Nat) (codes scales : V1024) (p : Nat) : List (Option Num) :=
  (List.range 32).map (fun j => decodeQ4 sub (bits scales.toNat (8 * (4 * p + j / 8)) 8) (pieceElem codes 4 p j))

/-- `unpks`: i the destination type. -/
def semUnpks (d a : BitVec 5) (p : BitVec 3) (x : BitVec 2) (i : BitVec 2) : Sem :=
  { ins := .unpks d a p x i, srcs := [.v a.toNat, .v (a.toNat + 1)], hidden := [620 + x.toNat], dsts := [.v d.toNat],
    check := fun e _ =>
      let sub := xfSub (e.xf x.toNat)
      need (sub != 3 && (q4Piece sub (e.v 0) (e.v 1) p.toNat).all (fun v => v.isSome)) fFormat,
    act := fun e s =>
      let ty := i.toNat
      let vals := q4Piece (xfSub (e.xf x.toNat)) (e.v 0) (e.v 1) p.toNat
      e.upd s (fun v => v.writeV d.toNat (laneMask (laneSize ty) 32 (fun _ => true))
        (lanes (laneSize ty) 32 (fun j => (fpOf ty).encode ((vals.getD j none).getD .nan))) e.now 4) }

/-- The decoded narrow integers of a piece. -/
def narrowPiece (xf : W32) (v : V1024) (p : Nat) : List (Option Int) :=
  (List.range (pieceCount (xfBits xf))).map (fun j => decodeNarrow xf (pieceElem v (xfBits xf) p j))

/-- `unpki`: i the destination type. -/
def semUnpki (d a : BitVec 5) (p : BitVec 3) (x : BitVec 2) (i : BitVec 4) : Sem :=
  { ins := .unpki d a p x i, srcs := [.v a.toNat], hidden := [620 + x.toNat], dsts := [.v d.toNat],
    check := fun e _ =>
      let xf := e.xf x.toNat
      need (xfWidth xf != 3 && xfSub xf != 3 && (narrowPiece xf (e.v 0) p.toNat).all (fun v => v.isSome)) fFormat,
    act := fun e s =>
      let xf := e.xf x.toNat
      let ty := i.toNat
      let vals := narrowPiece xf (e.v 0) p.toNat
      e.upd s (fun v => v.writeV d.toNat (laneMask (laneSize ty) (pieceCount (xfBits xf)) (fun _ => true))
        (lanes (laneSize ty) (pieceCount (xfBits xf)) (fun j => intBits ty ((vals.getD j none).getD 0))) e.now 4) }

/-! ### Packing (R219) -/

/-- A K instruction reads its destination register at issue (R219); an `sq` entry is new. -/
def packDst (d : BitVec 5) : List Nat := if d = 31 then [] else [100 + d.toNat]

/-- `lfsr` is drawn from, and a lasting error has destroyed it (R271). -/
def Env.drawsLost (e : Env) (x : BitVec 2) : List Flt :=
  need (!(xfRound (e.xf x.toNat) == 2 && e.ctx.lostRegs.contains 720)) { fMchk 14 0 0 3 with unit := some (.register e.c e.x 720) }

/-- `pack`: i[5:4] the source type, i[3:0] the destination format. -/
def semPack (d a : BitVec 5) (p : BitVec 3) (x : BitVec 2) (i : BitVec 6) : Sem :=
  { ins := .pack d a p x i, srcs := [.v a.toNat], hidden := packDst d ++ [620 + x.toNat], dsts := [.v d.toNat],
    check := fun e _ => need (xfRound (e.xf x.toNat) != 3) fFormat ++ e.drawsLost x,
    act := fun e s =>
      let xf := e.xf x.toNat
      let dst := fpOf (i.toNat % 16)
      let ty := i.toNat / 16
      let res := pieceOf dst.width p.toNat (fun j => dst.narrow (e.mode xf 16 j) (xfInfKeep xf) (laneNum ty (e.v 0) j))
      e.upd s (fun v => (e.stepLfsr xf 16 v).writeV d.toNat (pieceMask dst.width p.toNat) res e.now 4) }

/-- The block `b` of 32 source lanes, and its E. -/
def q4Block (ty : Nat) (v : V1024) (b : Nat) : List Num := (List.range 8).map (fun j => laneNum ty v (8 * b + j))
def q4BlockScale (ty t : Nat) (v : V1024) (b : Nat) : Nat := q4Scale (fpOf ty) t (q4Block ty v b)

/-- `packs`: i the source type, j the block type. -/
def semPacks (d a : BitVec 5) (p : BitVec 3) (x : BitVec 2) (i j : BitVec 2) : Sem :=
  { ins := .packs d a p x i j, srcs := [.v a.toNat], hidden := packDst d ++ packDst (d + 1) ++ [620 + x.toNat], dsts := [.v d.toNat, .v (d.toNat + 1)],
    check := fun e _ => need (xfRound (e.xf x.toNat) != 3) fFormat ++ e.drawsLost x,
    act := fun e s =>
      let xf := e.xf x.toNat
      let ty := i.toNat
      let t := j.toNat
      let es := (List.range 4).map (q4BlockScale ty t (e.v 0))
      let codes := pieceOf 4 p.toNat (fun k => encodeQ4 (e.mode xf 32 k) t (es.getD (k / 8) 0) (laneNum ty (e.v 0) k))
      e.upd s (fun v => ((e.stepLfsr xf 32 v).writeV d.toNat (pieceMask 4 p.toNat) codes e.now 4).writeV (d.toNat + 1)
        (scaleMask p.toNat) (scaleBytes p.toNat (fun b => q4Byte t (es.getD b 0))) e.now 4) }

/-- `pkmax`: i the source type, j the block type; scale bytes alone, into d. -/
def semPkmax (d a : BitVec 5) (p : BitVec 3) (x : BitVec 2) (i j : BitVec 2) : Sem :=
  { ins := .pkmax d a p x i j, srcs := [.v a.toNat], hidden := packDst d, dsts := [.v d.toNat],
    act := fun e s =>
      e.upd s (fun v => v.writeV d.toNat (scaleMask p.toNat)
        (scaleBytes p.toNat (fun b => q4Byte j.toNat (q4BlockScale i.toNat j.toNat (e.v 0) b))) e.now 4) }

/-- `packi`: i the source type. -/
def semPacki (d a : BitVec 5) (p : BitVec 3) (x : BitVec 2) (i : BitVec 4) : Sem :=
  { ins := .packi d a p x i, srcs := [.v a.toNat], hidden := packDst d ++ [620 + x.toNat], dsts := [.v d.toNat],
    check := fun e _ => need (xfWidth (e.xf x.toNat) != 3 && xfRound (e.xf x.toNat) != 3) fFormat ++ e.drawsLost x,
    act := fun e s =>
      let xf := e.xf x.toNat
      let w := xfBits xf
      let n := pieceCount w
      let res := pieceOf w p.toNat (fun j =>
        wrapTo w ((laneNum i.toNat (e.v 0) j).toIntSat (e.mode xf n j) (xfLo xf) (xfHi xf)))
      e.upd s (fun v => (e.stepLfsr xf n v).writeV d.toNat (pieceMask w p.toNat) res e.now 4) }

end Sys2Proof.Machine
end

