-- ==== Sys2Proof/Machine/QueueInst.lean ====
section
/-! DEFINITION. Slice queues as issued (R234, R235), the deferral queue (R236), fences and value waits (R237, R238). -/

namespace Sys2Proof.Machine

/-! ### Slice queues -/

/-- The faults of a queue syllable (R234). -/
def Env.queueChecks (e : Env) (s : State) (a : Nat) : List Flt := need (a % 64 == 0) (fAlign a) ++ e.access s a 64 .write true

/-- A queue syllable: `n` entries of `lqs` are reserved, and the request goes to the home slice of Q. Its ordering is R85's; `qinit` and `qlen`,
of which R85 says nothing, take that of `mpol` (R79, R134; log entry 108). -/
def Env.sendQueue (e : Env) (s : State) (f : QueueOp) (a n : Nat) (v : W64) (ord : Nat) (scope : Nat := 2) : State :=
  e.upd (e.note s a 64) (fun x =>
    let x := if f = .len then x.preFence ord scope e.pc else x
    let entry := x.seq
    let x := if n = 2 then x.reserveLqs.reserveLqs else x.reserveLqs
    let pa := (e.phys s a 64 .write).headD 0
    let x := x.pushOp (.queue f v entry) [(pa, 0)] [] ord scope e.pc a
    if f = .deqw then { x with parks := x.parks ++ [(pa, entry)] } else x)

/-- `qinit`: v holds the capacity. -/
def semQinit (b v : BitVec 5) : Sem :=
  { ins := .qinit b v, srcs := [.s b.toNat, .s v.toNat], lqs := 1,
    check := fun e s => e.queueChecks s (e.s 0).toNat,
    act := fun e s => e.sendQueue s .init (e.s 0).toNat 1 (e.s 1) (polOrd e.ctx.mpol) (polScope e.ctx.mpol) }

/-- `qenq`: v holds the entry; a device-scope release. -/
def semQenq (b v : BitVec 5) : Sem :=
  { ins := .qenq b v, srcs := [.s b.toNat, .s v.toNat], lqs := 1,
    check := fun e s => e.queueChecks s (e.s 0).toNat,
    act := fun e s => e.sendQueue s .enq (e.s 0).toNat 1 (e.s 1) 2 }

/-- `qdeq`: a device-scope acquire where it returns OK. -/
def semQdeq (b : BitVec 5) : Sem :=
  { ins := .qdeq b, srcs := [.s b.toNat], lqs := 2,
    check := fun e s => e.queueChecks s (e.s 0).toNat,
    act := fun e s => e.sendQueue s .deq (e.s 0).toNat 2 0 1 }

/-- `qdeqw`: the context parks until the slice answers (R235). -/
def semQdeqw (b : BitVec 5) : Sem :=
  { ins := .qdeqw b, srcs := [.s b.toNat], lqs := 2,
    check := fun e s => e.queueChecks s (e.s 0).toNat,
    act := fun e s => e.sendQueue s .deqw (e.s 0).toNat 2 0 1 }

/-- `qlen` -/
def semQlen (b : BitVec 5) : Sem :=
  { ins := .qlen b, srcs := [.s b.toNat], lqs := 1,
    check := fun e s => e.queueChecks s (e.s 0).toNat,
    act := fun e s => e.sendQueue s .len (e.s 0).toNat 1 0 (polOrd e.ctx.mpol) (polScope e.ctx.mpol) }

/-! ### The deferral queue (R236) -/

def Ctx.dfCount (x : Ctx) : Nat := (x.dfq.map List.length).sum

/-- The lanes of a width with their mask bit set. -/
def dfLanes (w : BitVec 2) (m : W64) : List Nat := (List.range (widthOf w.toNat / 32)).filter (predBit m 32)

/-- `dfr` -/
def semDfr (w : BitVec 2) (v : BitVec 5) (m : BitVec 3) : Sem :=
  { ins := .dfr w v m, srcs := [.v v.toNat, .m m.toNat],
    check := fun e s =>
      let x := s.ctx e.c e.x
      let n := (dfLanes w (e.s 1)).length
      need (n == 0 || (decide (x.dfCount + n ≤ 1024) && decide (x.dfq.length + 1 ≤ 64))) fDfrOver,
    act := fun e s =>
      let new := (dfLanes w (e.s 1)).map (fun i => BitVec.ofNat 32 (lane (e.v 0) 32 i))
      if new.isEmpty then s else e.upd s (fun x => { x with dfq := x.dfq ++ [new] }) }

/-- Elements taken from the front, and what is left; an entry goes with its last element. -/
def dfTake : Nat → List (List W32) → List W32 × List (List W32)
  | _, [] => ([], [])
  | n, a :: q =>
    if n = 0 then ([], a :: q)
    else if a.length ≤ n then
      let t := dfTake (n - a.length) q
      (a ++ t.1, t.2)
    else (a.take n, a.drop n :: q)

/-- `dfpop` -/
def semDfpop (w : BitVec 2) (v : BitVec 5) (m : BitVec 3) : Sem :=
  { ins := .dfpop w v m, srcs := [.m m.toNat], hidden := [560], dsts := [.v v.toNat],
    act := fun e s =>
      let js := dfLanes w (e.s 0)
      let t := dfTake js.length (s.ctx e.c e.x).dfq
      let got := (js.take t.1.length).zip t.1
      e.upd s (fun x => { x with dfq := t.2 }.writeV v.toNat (laneMask 32 32 (fun i => got.any (fun g => g.1 == i)))
        (lanes 32 32 (fun i => ((got.find? (fun (g : Nat × W32) => g.1 == i)).elim 0 (fun g => g.2.toNat)))) e.now 4) }

/-- `dfcnt` -/
def semDfcnt : Sem :=
  { ins := .dfcnt, lqs := 1, act := fun e s => e.upd s (fun x => x.pushLqs (BitVec.ofNat 64 x.dfCount)) }

/-! ### Fences and value waits -/

/-- `fence` (R237): it is performed once the context's earlier accesses have been, and the context's next bundle waits for it; ordering 0
orders nothing. -/
def semFence (p : BitVec 5) : Sem :=
  { ins := .fence p, srcs := [.s p.toNat],
    act := fun e s =>
      let q := policyOf e.ctx p.toNat (e.s 0)
      if polOrd q = 0 then s else (e.upd s (fun x => x.pushOp .fence [] [] (polOrd q) (polScope q) e.pc 0)).settleOps e.c e.x }

/-- The word of a `waitv` at the coherence point of its scope (R238); what its die still holds dirty is written back first (R77, R138). -/
def Env.waitWord (e : Env) (s : State) (a scope : Nat) : W64 :=
  let pas := e.phys s a 8 .read
  let d := dieOf e.c
  BitVec.ofNat 64 (leNat (pas.map (fun p => if 2 ≤ scope && !(s.die d).dirty.contains p then mget s.mem p else s.dieRead d p)))

/-- The four conditions of R238. -/
def waitHolds (c : Nat) (a b : W64) : Bool :=
  match c with
  | 0 => a == b
  | 1 => a != b
  | 2 => b.ule a
  | _ => b.sle a

/-- Earlier accesses a `waitv` follows: an acquire or fence, its own accesses to the word (R138), and, for a release, every one. -/
def Ctx.waitvBlocked (x : Ctx) (pas : List Nat) (ord : Nat) : Bool :=
  x.ops.any (fun o => decide (2 ≤ ord) || o.kind == .fence || o.ord % 2 == 1 || o.touches.any pas.contains)

/-- What stands before a `waitv` in its own bundle, and must come before its read, is performed at its issue (log entry 88). -/
def Env.beforeWaitv (e : Env) (s : State) (pas : List Nat) (ord : Nat) : State :=
  if (s.ctx e.c e.x).waitvBlocked pas ord then s.performAll e.c e.x else s

/-- `waitv` (R238): c the condition, v the comparand. A store of its word that is half done is a whole for it (R133). DESIGN CHOICE: the word is read at each
attempt to issue (R11), so that a value which is written over before the next one does not end the wait (log entry 131). -/
def semWaitv (c : BitVec 3) (b v p : BitVec 5) : Sem :=
  { ins := .waitv c b v p, srcs := [.s b.toNat, .s v.toNat, .s p.toNat],
    check := fun e s =>
      let a := (e.s 0).toNat
      need (a % 8 == 0) (fAlign a) ++ e.access s a 8 .read false ++
      (match (e.phys s a 8 .read).find? s.isLost with | some q => [fMchk 14 (a / 65536 * 65536 + q % 65536) q (s.lossOf q)] | none => []),
    waits := fun e s =>
      let q := policyOf e.ctx p.toNat (e.s 2)
      let a := (e.s 0).toNat
      let pas := e.phys s a 8 .read
      e.ctx.waitvBlocked pas (polOrd q) || !(s.halves e.c e.x pas).isEmpty || !waitHolds c.toNat (e.waitWord (e.beforeWaitv s pas (polOrd q)) a (polScope q)) (e.s 1),
    act := fun e s =>
      let q := policyOf e.ctx p.toNat (e.s 2)
      let s := e.note (e.beforeWaitv s (e.phys s (e.s 0).toNat 8 .read) (polOrd q)) (e.s 0).toNat 8
      let s := if 2 ≤ polOrd q ∧ polScope q ≠ 0 then s.publish e.c (polScope q) else s
      let s := match e.phys s (e.s 0).toNat 8 .read with | pa :: _ => s.reread e.c (polScope q) pa | [] => s
      if polOrd q % 2 = 1 ∧ polScope q ≠ 0 then s.acquire e.c (polScope q) else s }

end Sys2Proof.Machine
end

