-- ==== Sys2Proof/Machine/Scalar.lean ====
section
/-! DEFINITION. The S class (13_isa_scalar.md): register and immediate arithmetic, compares, constants and special registers. -/

namespace Sys2Proof.Machine

/-! ### Arithmetic (R183 to R186) -/

/-- The high half of the exact signed product (R183). -/
def mulHigh (a b : W64) : W64 := BitVec.ofInt 64 (a.toInt * b.toInt / 2 ^ 64)
/-- The high half of the exact unsigned product (R183). -/
def mulHighU (a b : W64) : W64 := BitVec.ofNat 64 (a.toNat * b.toNat / 2 ^ 64)

def minInt64 : W64 := BitVec.ofNat 64 (2 ^ 63)

/-- Signed division toward zero; a zero divisor gives all ones, −2^63 / −1 gives −2^63 (R184). -/
def sdiv64 (a b : W64) : W64 :=
  if b = 0 then BitVec.allOnes 64 else if a = minInt64 ∧ b = BitVec.allOnes 64 then a else BitVec.ofInt 64 (a.toInt.tdiv b.toInt)
/-- Signed remainder with the sign of the dividend (R184). -/
def srem64 (a b : W64) : W64 :=
  if b = 0 then a else if a = minInt64 ∧ b = BitVec.allOnes 64 then 0 else BitVec.ofInt 64 (a.toInt - b.toInt * a.toInt.tdiv b.toInt)
def udiv64 (a b : W64) : W64 := if b = 0 then BitVec.allOnes 64 else BitVec.ofNat 64 (a.toNat / b.toNat)
def urem64 (a b : W64) : W64 := if b = 0 then a else BitVec.ofNat 64 (a.toNat % b.toNat)

/-- Shifts by the low six bits of `b` (R183). -/
def shl64 (a b : W64) : W64 := a <<< (b.toNat % 64)
def shr64 (a b : W64) : W64 := a >>> (b.toNat % 64)
def sra64 (a b : W64) : W64 := a.sshiftRight (b.toNat % 64)

def smin64 (a b : W64) : W64 := if a.sle b then a else b
def smax64 (a b : W64) : W64 := if a.sle b then b else a
def umin64 (a b : W64) : W64 := if a.ule b then a else b
def umax64 (a b : W64) : W64 := if a.ule b then b else a

/-- Zero bits above the highest one bit among the low `n` bits. -/
def leadZeros (a : W64) : Nat → Nat
  | 0 => 0
  | n + 1 => if a.getLsbD n then 0 else 1 + leadZeros a n
/-- Zero bits below the lowest one bit, counted from bit `64 - n`. -/
def trailZeros (a : W64) : Nat → Nat
  | 0 => 0
  | n + 1 => if a.getLsbD (63 - n) then 0 else 1 + trailZeros a n
def clz64 (a : W64) : W64 := BitVec.ofNat 64 (leadZeros a 64)
def ctz64 (a : W64) : W64 := BitVec.ofNat 64 (trailZeros a 64)
def popc64 (a : W64) : W64 := BitVec.ofNat 64 ((List.range 64).filter (fun i => a.getLsbD i)).length

/-- An exact sum saturated to 64 signed bits (R183). -/
def sat64 (x : Int) : W64 := BitVec.ofInt 64 (max (-(2 ^ 63)) (min x (2 ^ 63 - 1)))

/-- The field position and cut length of R185: pos = b[5:0], n = min(b[14:8], 64 − pos). -/
def bfPos (b : W64) : Nat := b.toNat % 64
def bfLen (b : W64) : Nat := min (bits b.toNat 8 7) (64 - bfPos b)
def bfx64 (a b : W64) : W64 := if bfLen b = 0 then 0 else BitVec.ofInt 64 (sbits a.toNat (bfPos b) (bfLen b))
def bfxz64 (a b : W64) : W64 := BitVec.ofNat 64 (bits a.toNat (bfPos b) (bfLen b))
def bins64 (d a b : W64) : W64 := BitVec.ofNat 64 (putBits d.toNat (bfPos b) (bfLen b) a.toNat)

/-! ### Special registers (R200 to R202) -/

/-- `pwr` as core `c` sees it (R202). -/
def State.pwr (s : State) (c : Nat) : W64 :=
  let k := s.core c
  let clk := (s.die (dieOf c)).clk
  BitVec.ofNat 64 (clk % 256 * 256 + (if k.sfDegraded then 8 else 0) + (if k.halfRate then 4 else 0) + (if clk < 200 then 2 else 0) +
    (if k.cmds.any (fun m => m.st == .permit) then 1 else 0))

/-- Special register `n` as a context reads it at issue (R201). DESIGN CHOICE: `sig` is the core's (R155), with what other units have published there,
and no start of a unit makes it 0 (log entry 127); `mpol` and `lfsr` read 0 in bits [63:32] (log entry 128). -/
def State.readSpr (s : State) (c x n : Nat) : W64 :=
  let v := s.ctx c x
  match n with
  | 0 => BitVec.ofNat 64 x
  | 1 => BitVec.ofNat 64 c
  | 2 => BitVec.ofNat 64 (dieOf c)
  | 3 => Config.chipId.setWidth 64
  | 4 => BitVec.ofNat 64 v.unit
  | 5 => BitVec.ofNat 64 (liOf (s.hdrAt c x) v 0)
  | 6 => BitVec.ofNat 64 (liOf (s.hdrAt c x) v 1)
  | 7 => BitVec.ofNat 64 (liOf (s.hdrAt c x) v 2)
  | 8 => BitVec.ofNat 64 (liOf (s.hdrAt c x) v 3)
  | 9 => BitVec.ofNat 64 (liOf (s.hdrAt c x) v 4)
  | 10 => BitVec.ofNat 64 (liOf (s.hdrAt c x) v 5)
  | 11 => v.launch
  | 12 => v.seqlen
  | 13 =>
    let b := match (s.core c).teamOf x with | some (b, _) => b | none => x
    match ((s.core c).withPubs b x).teamOf x with | some (_, t) => t.fready (hdrTags (s.hdrAt c x)) | none => 0
  | 14 => if v.evt then 1 else 0
  | 15 => v.mpol
  | 16 => v.tcause
  | 17 => v.tpc
  | 18 => v.trec
  | 19 => s.cycle
  | 20 => v.lfsr.setWidth 64
  | 21 => v.epoch
  | 22 => sigFold (s.core c).sig
  | 23 => v.budget.setWidth 64
  | _ => s.pwr c

/-- A write of a writable special register; reserved bits are ignored and read 0 (R200, R201). DESIGN CHOICE: bits [63:32] of `mpol` and `lfsr`, whose layouts
have 32 bits (R51, R79), are dropped and read 0 (log entry 128). -/
def Ctx.writeSpr (x : Ctx) (n : Nat) (v : W64) : Ctx :=
  let x := { x with lostRegs := x.mended (700 + n) }
  match n with
  | 12 => { x with seqlen := v }
  | 14 => { x with evt := v.getLsbD 0 }
  | 15 => { x with mpol := BitVec.ofNat 64 (v.toNat % 2 ^ 20) }
  | 16 => { x with tcause := BitVec.ofNat 64 (v.toNat % 256) }
  | 17 => { x with tpc := BitVec.ofNat 64 (v.toNat / 4 * 4) }
  | 18 => { x with trec := BitVec.ofNat 64 (v.toNat / 64 * 64) }
  | 20 => { x with lfsr := v.setWidth 32 }
  | 23 => { x with budget := v.setWidth 27 }
  | _ => x

/-! ### The shapes of S syllables -/

/-- `op sd, sa, sb` (R182). -/
def scalar3 (i : Instr) (d a c : BitVec 5) (bound : Nat) (f : W64 → W64 → W64) : Sem :=
  { ins := i, srcs := [.s a.toNat, .s c.toNat], dsts := [.s d.toNat],
    act := fun e s => e.upd s (fun x => x.writeS d.toNat (f (e.s 0) (e.s 1)) e.now bound) }

/-- `op sd, sa` (R183). -/
def scalar2 (i : Instr) (d a : BitVec 5) (f : W64 → W64) : Sem :=
  { ins := i, srcs := [.s a.toNat], dsts := [.s d.toNat],
    act := fun e s => e.upd s (fun x => x.writeS d.toNat (f (e.s 0)) e.now 1) }

/-- `op sd, sa, i` (R187): the immediate as a 64-bit value. -/
def scalarImm (i : Instr) (d a : BitVec 5) (imm : BitVec 19) (bound : Nat) (f : W64 → W64 → W64) : Sem :=
  { ins := i, srcs := [.s a.toNat], dsts := [.s d.toNat],
    act := fun e s => e.upd s (fun x => x.writeS d.toNat (f (e.s 0) (imm.signExtend 64)) e.now bound) }

/-- `op stk, sa, sb` (R189). -/
def compare3 (i : Instr) (k a c : BitVec 5) (r : W64 → W64 → Bool) : Sem :=
  { ins := i, srcs := [.s a.toNat, .s c.toNat], dsts := [.cond k.toNat],
    act := fun e s => e.upd s (fun x => x.writeCond k.toNat (r (e.s 0) (e.s 1)) e.now 1) }

/-- `op stk, sa, i` (R189). -/
def compareImm (i : Instr) (k a : BitVec 5) (imm : BitVec 19) (r : W64 → W64 → Bool) : Sem :=
  { ins := i, srcs := [.s a.toNat], dsts := [.cond k.toNat],
    act := fun e s => e.upd s (fun x => x.writeCond k.toNat (r (e.s 0) (imm.signExtend 64)) e.now 1) }

/-! ### The instructions -/

/-- `add` (R183): Writes d with a + b, wrapping modulo 2^64. -/
def semAdd (d : BitVec 5) (a : BitVec 5) (c : BitVec 5) : Sem := scalar3 (.add d a c) d a c 1 (· + ·)

/-- `sub` (R183): Writes d with a − b, wrapping. -/
def semSub (d : BitVec 5) (a : BitVec 5) (c : BitVec 5) : Sem := scalar3 (.sub d a c) d a c 1 (· - ·)

/-- `mul` (R183): Writes d with the low 64 bits of a × b. -/
def semMul (d : BitVec 5) (a : BitVec 5) (c : BitVec 5) : Sem := scalar3 (.mul d a c) d a c 3 (· * ·)

/-- `mulh` (R183): Writes d with the high 64 bits of the signed 128-bit product. -/
def semMulh (d : BitVec 5) (a : BitVec 5) (c : BitVec 5) : Sem := scalar3 (.mulh d a c) d a c 3 mulHigh

/-- `mulhz` (R183): Writes d with the high 64 bits of the unsigned 128-bit product. -/
def semMulhz (d : BitVec 5) (a : BitVec 5) (c : BitVec 5) : Sem := scalar3 (.mulhz d a c) d a c 3 mulHighU

/-- `div` (R184): Signed division rounding toward zero, with defined results for zero and overflow. -/
def semDiv (d : BitVec 5) (a : BitVec 5) (c : BitVec 5) : Sem := scalar3 (.div d a c) d a c 18 sdiv64

/-- `divz` (R184): Unsigned division, all ones for a zero divisor. -/
def semDivz (d : BitVec 5) (a : BitVec 5) (c : BitVec 5) : Sem := scalar3 (.divz d a c) d a c 18 udiv64

/-- `rem` (R184): Signed remainder taking the sign of the dividend. -/
def semRem (d : BitVec 5) (a : BitVec 5) (c : BitVec 5) : Sem := scalar3 (.rem d a c) d a c 18 srem64

/-- `remz` (R184): Unsigned remainder, the dividend for a zero divisor. -/
def semRemz (d : BitVec 5) (a : BitVec 5) (c : BitVec 5) : Sem := scalar3 (.remz d a c) d a c 18 urem64

/-- `and` (R183): Bitwise AND of a and b. -/
def semAnd (d : BitVec 5) (a : BitVec 5) (c : BitVec 5) : Sem := scalar3 (.and d a c) d a c 1 (· &&& ·)

/-- `or` (R183): Bitwise OR of a and b. -/
def semOr (d : BitVec 5) (a : BitVec 5) (c : BitVec 5) : Sem := scalar3 (.or d a c) d a c 1 (· ||| ·)

/-- `xor` (R183): Bitwise XOR of a and b. -/
def semXor (d : BitVec 5) (a : BitVec 5) (c : BitVec 5) : Sem := scalar3 (.xor d a c) d a c 1 (· ^^^ ·)

/-- `andn` (R183): Writes a AND NOT b. -/
def semAndn (d : BitVec 5) (a : BitVec 5) (c : BitVec 5) : Sem := scalar3 (.andn d a c) d a c 1 (fun a b => a &&& ~~~b)

/-- `shl` (R183): Shifts a left by b[5:0]. -/
def semShl (d : BitVec 5) (a : BitVec 5) (c : BitVec 5) : Sem := scalar3 (.shl d a c) d a c 1 shl64

/-- `shr` (R183): Shifts a right logically by b[5:0]. -/
def semShr (d : BitVec 5) (a : BitVec 5) (c : BitVec 5) : Sem := scalar3 (.shr d a c) d a c 1 shr64

/-- `sra` (R183): Shifts a right arithmetically by b[5:0]. -/
def semSra (d : BitVec 5) (a : BitVec 5) (c : BitVec 5) : Sem := scalar3 (.sra d a c) d a c 1 sra64

/-- `min` (R183): Signed minimum of a and b. -/
def semMin (d : BitVec 5) (a : BitVec 5) (c : BitVec 5) : Sem := scalar3 (.min d a c) d a c 1 smin64

/-- `max` (R183): Signed maximum of a and b. -/
def semMax (d : BitVec 5) (a : BitVec 5) (c : BitVec 5) : Sem := scalar3 (.max d a c) d a c 1 smax64

/-- `minz` (R183): Unsigned minimum of a and b. -/
def semMinz (d : BitVec 5) (a : BitVec 5) (c : BitVec 5) : Sem := scalar3 (.minz d a c) d a c 1 umin64

/-- `maxz` (R183): Unsigned maximum of a and b. -/
def semMaxz (d : BitVec 5) (a : BitVec 5) (c : BitVec 5) : Sem := scalar3 (.maxz d a c) d a c 1 umax64

/-- `clz` (R183): Counts leading zero bits of a. -/
def semClz (d : BitVec 5) (a : BitVec 5) : Sem := scalar2 (.clz d a) d a clz64

/-- `ctz` (R183): Counts trailing zero bits of a. -/
def semCtz (d : BitVec 5) (a : BitVec 5) : Sem := scalar2 (.ctz d a) d a ctz64

/-- `popc` (R183): Counts the one bits of a. -/
def semPopc (d : BitVec 5) (a : BitVec 5) : Sem := scalar2 (.popc d a) d a popc64

/-- `sel` (R186): Writes a or b according to a steer register's condition half. -/
def semSel (d : BitVec 5) (a : BitVec 5) (c : BitVec 5) (k : BitVec 5) : Sem := 
  { ins := .sel d a c k, srcs := [.s a.toNat, .s c.toNat, .cond k.toNat], dsts := [.s d.toNat],
    act := fun e s => e.upd s (fun x => x.writeS d.toNat (if e.b 2 then e.s 0 else e.s 1) e.now 1) }

/-- `lea` (R186): Writes a + (b << k). -/
def semLea (d : BitVec 5) (a : BitVec 5) (c : BitVec 5) (h : BitVec 5) : Sem := scalar3 (.lea d a c h) d a c 1 (fun a b => a + b <<< h.toNat)

/-- `bfx` (R185): Extracts a bit field of a and sign-extends it. -/
def semBfx (d : BitVec 5) (a : BitVec 5) (c : BitVec 5) : Sem := scalar3 (.bfx d a c) d a c 1 bfx64

/-- `bfxz` (R185): Extracts a bit field of a and zero-extends it. -/
def semBfxz (d : BitVec 5) (a : BitVec 5) (c : BitVec 5) : Sem := scalar3 (.bfxz d a c) d a c 1 bfxz64

/-- `bins` (R185): Inserts the low bits of a into a field of d. -/
def semBins (d : BitVec 5) (a : BitVec 5) (c : BitVec 5) : Sem := 
  { ins := .bins d a c, srcs := [.s d.toNat, .s a.toNat, .s c.toNat], dsts := [.s d.toNat],
    act := fun e s => e.upd s (fun x => x.writeS d.toNat (bins64 (e.s 0) (e.s 1) (e.s 2)) e.now 1) }

/-- `adds` (R183): Signed addition saturated to 64 bits. -/
def semAdds (d : BitVec 5) (a : BitVec 5) (c : BitVec 5) : Sem := scalar3 (.adds d a c) d a c 1 (fun a b => sat64 (a.toInt + b.toInt))

/-- `subs` (R183): Signed subtraction saturated to 64 bits. -/
def semSubs (d : BitVec 5) (a : BitVec 5) (c : BitVec 5) : Sem := scalar3 (.subs d a c) d a c 1 (fun a b => sat64 (a.toInt - b.toInt))

/-- `cmpeq` (R189): Writes a steer condition half with a = b. -/
def semCmpeq (k : BitVec 5) (a : BitVec 5) (c : BitVec 5) : Sem := compare3 (.cmpeq k a c) k a c relEq

/-- `cmpne` (R189): Writes a steer condition half with a ≠ b. -/
def semCmpne (k : BitVec 5) (a : BitVec 5) (c : BitVec 5) : Sem := compare3 (.cmpne k a c) k a c relNe

/-- `cmplt` (R189): Writes a steer condition half with signed a < b. -/
def semCmplt (k : BitVec 5) (a : BitVec 5) (c : BitVec 5) : Sem := compare3 (.cmplt k a c) k a c relLt

/-- `cmple` (R189): Writes a steer condition half with signed a ≤ b. -/
def semCmple (k : BitVec 5) (a : BitVec 5) (c : BitVec 5) : Sem := compare3 (.cmple k a c) k a c relLe

/-- `cmpltz` (R189): Writes a steer condition half with unsigned a < b. -/
def semCmpltz (k : BitVec 5) (a : BitVec 5) (c : BitVec 5) : Sem := compare3 (.cmpltz k a c) k a c relLtz

/-- `cmplez` (R189): Writes a steer condition half with unsigned a ≤ b. -/
def semCmplez (k : BitVec 5) (a : BitVec 5) (c : BitVec 5) : Sem := compare3 (.cmplez k a c) k a c relLez

/-- `cmpbit` (R189): Writes a steer condition half with bit b[5:0] of a. -/
def semCmpbit (k : BitVec 5) (a : BitVec 5) (c : BitVec 5) : Sem := compare3 (.cmpbit k a c) k a c relBit

/-- `cmpeqi` (R189): Immediate form of the equality compare. -/
def semCmpeqi (k : BitVec 5) (a : BitVec 5) (i : BitVec 19) : Sem := compareImm (.cmpeqi k a i) k a i relEq

/-- `cmpnei` (R189): Immediate form of the inequality compare. -/
def semCmpnei (k : BitVec 5) (a : BitVec 5) (i : BitVec 19) : Sem := compareImm (.cmpnei k a i) k a i relNe

/-- `cmplti` (R189): Immediate form of the signed less-than compare. -/
def semCmplti (k : BitVec 5) (a : BitVec 5) (i : BitVec 19) : Sem := compareImm (.cmplti k a i) k a i relLt

/-- `cmplei` (R189): Immediate form of the signed less-or-equal compare. -/
def semCmplei (k : BitVec 5) (a : BitVec 5) (i : BitVec 19) : Sem := compareImm (.cmplei k a i) k a i relLe

/-- `cmpltzi` (R189): Immediate form of the unsigned less-than compare. -/
def semCmpltzi (k : BitVec 5) (a : BitVec 5) (i : BitVec 19) : Sem := compareImm (.cmpltzi k a i) k a i relLtz

/-- `cmplezi` (R189): Immediate form of the unsigned less-or-equal compare. -/
def semCmplezi (k : BitVec 5) (a : BitVec 5) (i : BitVec 19) : Sem := compareImm (.cmplezi k a i) k a i relLez

/-- `addi` (R187): Adds a sign-extended immediate to a. -/
def semAddi (d : BitVec 5) (a : BitVec 5) (i : BitVec 19) : Sem := scalarImm (.addi d a i) d a i 1 (· + ·)

/-- `andi` (R187): Bitwise AND with an immediate. -/
def semAndi (d : BitVec 5) (a : BitVec 5) (i : BitVec 19) : Sem := scalarImm (.andi d a i) d a i 1 (· &&& ·)

/-- `ori` (R187): Bitwise OR with an immediate. -/
def semOri (d : BitVec 5) (a : BitVec 5) (i : BitVec 19) : Sem := scalarImm (.ori d a i) d a i 1 (· ||| ·)

/-- `xori` (R187): Bitwise XOR with an immediate. -/
def semXori (d : BitVec 5) (a : BitVec 5) (i : BitVec 19) : Sem := scalarImm (.xori d a i) d a i 1 (· ^^^ ·)

/-- `shli` (R187): Shifts left by an immediate amount 0–63. -/
def semShli (d : BitVec 5) (a : BitVec 5) (i : BitVec 19) : Sem := scalarImm (.shli d a i) d a i 1 shl64

/-- `shri` (R187): Shifts right logically by an immediate amount. -/
def semShri (d : BitVec 5) (a : BitVec 5) (i : BitVec 19) : Sem := scalarImm (.shri d a i) d a i 1 shr64

/-- `srai` (R187): Shifts right arithmetically by an immediate amount. -/
def semSrai (d : BitVec 5) (a : BitVec 5) (i : BitVec 19) : Sem := scalarImm (.srai d a i) d a i 1 sra64

/-- `muli` (R187): Multiplies a by an immediate, low 64 bits. -/
def semMuli (d : BitVec 5) (a : BitVec 5) (i : BitVec 19) : Sem := scalarImm (.muli d a i) d a i 3 (· * ·)

/-- `mini` (R187): Signed minimum of a and an immediate. -/
def semMini (d : BitVec 5) (a : BitVec 5) (i : BitVec 19) : Sem := scalarImm (.mini d a i) d a i 1 smin64

/-- `maxi` (R187): Signed maximum of a and an immediate. -/
def semMaxi (d : BitVec 5) (a : BitVec 5) (i : BitVec 19) : Sem := scalarImm (.maxi d a i) d a i 1 smax64

/-- `movi` (R188): Writes a sign-extended 15- or 24-bit immediate. -/
def semMovi (d : BitVec 5) (i : BitVec 24) : Sem := 
  { ins := .movi d i, dsts := [.s d.toNat],
    act := fun e s => e.upd s (fun x => x.writeS d.toNat (i.signExtend 64) e.now 1) }

/-- `movup` (R188): Places an immediate above bit 23 of d, keeping d[23:0]. -/
def semMovup (d : BitVec 5) (i : BitVec 24) : Sem := 
  { ins := .movup d i, srcs := [.s d.toNat], dsts := [.s d.toNat],
    act := fun e s => e.upd s (fun x =>
      x.writeS d.toNat (i.signExtend 64 <<< 24 ||| BitVec.ofNat 64 ((e.s 0).toNat % 2 ^ 24)) e.now 1) }

/-- `mfs` (R200): Reads a special register into a scalar register. -/
def semMfs (d : BitVec 5) (i : BitVec 24) : Sem := 
  { ins := .mfs d i, dsts := [.s d.toNat],
    act := fun e s => e.upd s (fun x => x.writeS d.toNat (e.snap.readSpr e.c e.x i.toNat) e.now 1) }

/-- `mts` (R200): Writes a writable special register from a scalar register. -/
def semMts (s : BitVec 5) (i : BitVec 24) : Sem := 
  { ins := .mts s i, srcs := [.s s.toNat], dsts := [.spr i.toNat],
    act := fun e st => e.upd st (fun x => x.writeSpr i.toNat (e.s 0)) }

end Sys2Proof.Machine
end

