-- ==== Sys2Proof/Machine/Stream.lean ====
section
/-! DEFINITION. Stream registers and engine format registers (R244 to R248): `sld`, `sset`, `sget`, `setxf`. -/

namespace Sys2Proof.Machine

/-- `setxf` (R47, R248): takes effect three cycles later, for both teams of the core. -/
def semSetxf (x : BitVec 2) (s : BitVec 5) : Sem :=
  { ins := .setxf x s, srcs := [.s s.toNat],
    check := fun e _ => need (bits (e.s 0).toNat 17 15 == 0) fFormat,
    act := fun e st => st.modCore e.c (fun k => { k with xfSets := k.xfSets ++ [(x.toNat, (e.s 0).setWidth 32, e.now)] }) }

/-- `sld` (R247): the stream is pending until its read has arrived. DESIGN CHOICE: the read is plain and of core scope whatever `mpol` holds, it comes
as two sectors, and it takes the place of a write of `sset` that is still inside its window (R245; log entry 132); a bad descriptor in the stream
raises no FORMAT here (R243; log entry 92). -/
def semSld (a : BitVec 4) (r : BitVec 5) : Sem :=
  { ins := .sld a r, srcs := [.s r.toNat], streams := [a.toNat],
    check := fun e s => need ((e.s 0).toNat % 64 == 0) (fAlign (e.s 0).toNat) ++ e.access s (e.s 0).toNat 64 .read false,
    act := fun e s =>
      let pas := (e.phys s (e.s 0).toNat 64 .read).zip (List.range 64)
      e.upd (e.note s (e.s 0).toNat 64) (fun x =>
        let x := { x with sets := x.sets.filter (fun w => !(w.reg == a.toNat && decide (w.code < 30))) }
        (x.pushOp (.sld a.toNat) (pas.take 32) [] 0 0 e.pc (e.s 0).toNat).pushOp (.sld a.toNat) (pas.drop 32) [] 0 0 e.pc ((e.s 0).toNat + 32)) }

/-- The streams an `sset` or `sget` names: codes 30 and 31 name a context register (R244). -/
def namedStream (a : BitVec 4) (c : BitVec 5) : List Nat := if 30 ≤ c.toNat then [] else [a.toNat]

/-- `sset` (R245): the write is in force three cycles later. DESIGN CHOICE: a bad descriptor in the stream raises no FORMAT here (R243; log
entry 92). -/
def semSset (a : BitVec 4) (c v : BitVec 5) : Sem :=
  { ins := .sset a c v, srcs := [.s v.toNat], streams := namedStream a c,
    dsts := if c.toNat = 30 then [.lb a.toNat] else if c.toNat = 31 then [.sg] else [],
    act := fun e s => e.upd s (fun x =>
      { x with sets := x.sets ++ [{ reg := a.toNat, code := c.toNat, val := e.s 0, at_ := e.now }] }) }

/-- The value `sget` pushes (R244). -/
def Ctx.getStream (x : Ctx) (a c : Nat) : W64 :=
  if c = 30 then vget x.lb a 0
  else if c = 31 then x.sg.setWidth 64
  else
    let v := getField (vget x.a a 0) c
    if fieldSigned c then BitVec.ofInt 64 (sbits v 0 (fieldPlace c).2) else BitVec.ofNat 64 v

/-- `sget` (R246): the value in force at its issue. DESIGN CHOICE: a bad descriptor in the stream raises no FORMAT here (R243; log entry
92). -/
def semSget (a : BitVec 4) (c : BitVec 5) : Sem :=
  { ins := .sget a c, streams := namedStream a c, hidden := if c.toNat = 30 then [600 + a.toNat] else [], lqs := 1,
    act := fun e s => e.upd s (fun x => x.pushLqs ((e.ctx.seeSets e.snap.free).getStream a.toNat c.toNat)) }

end Sys2Proof.Machine
end

