-- ==== Sys2Proof/Machine/TagInst.lean ====
section
/-! DEFINITION. Tag instructions (R239): waits (R122), clearing (R114), status (R113), and software producers (R116). -/

namespace Sys2Proof.Machine

/-- Tag `t` of the context's team, as the context reads it (R116). -/
def Env.tag (e : Env) (s : State) (t : Nat) : Tag := ((s.core e.c).withPubs e.base e.x).tagAt e.base t

def MemOp.pubs (o : MemOp) (t : Nat) : Bool := match o.kind with | .pub n .. => n == t | _ => false

/-- What a context has published of tag `t` stands before it goes on with the tag: what precedes a pub that is not yet performed is performed,
and the pub (R116; log entry 107). -/
def Env.pubsNow (e : Env) (s : State) (t : Nat) : State :=
  if (s.ctx e.c e.x).ops.any (fun o => o.pubs t) then
    let s := s.performAll e.c e.x
    (s.modCore e.c (fun k => k.withPubs e.base e.x)).modCtx e.c e.x (fun v => { v with ops := v.ops.filter (fun o => !o.pubs t) })
  else s

/-- GROUPMIS of a wait on, or a clear of, a MISMATCH tag (R97). -/
def Env.mismatch (e : Env) (s : State) (t : Nat) : List Flt := need ((e.tag s t).state != .mismatch) (fGroupMis t (e.tag s t).group)

/-- The tags of a mask. -/
def maskTags (m : W64) : List Nat := (List.range 64).filter (fun i => m.getLsbD i)

/-- RESOVER of a mask bit at or beyond the declared count (R239). -/
def Env.maskOver (e : Env) (m : W64) : List Flt := need ((maskTags m).all (fun i => decide (i < hdrTags e.hdr))) fResover

/-- When a `waitf` for `n` completes (R122). -/
def Tag.waitDone (t : Tag) (n : Nat) : Bool :=
  match t.state with
  | .bound | .halted | .ready => decide (min n t.n ≤ t.f)
  | .aborted => true
  | _ => false

/-- A `waitf` for the count `f` gives. -/
def waitFor (ins : Instr) (srcs : List Src) (t : BitVec 6) (f : Env → Nat) : Sem :=
  { ins := ins, srcs := srcs, tags := [t.toNat],
    check := fun e s => e.mismatch s t.toNat,
    waits := fun e s => !(e.tag s t.toNat).waitDone (f e) }

/-- `waitf tj, n` -/
def semWaitfImm (t : BitVec 6) (n : BitVec 22) : Sem := waitFor (.waitfImm t n) [] t (fun _ => n.toNat)

/-- `waitf tj, sk` -/
def semWaitfReg (t : BitVec 6) (s : BitVec 5) : Sem := waitFor (.waitfReg t s) [.s s.toNat] t (fun e => (e.s 0).toNat)

/-- `tany`: a mask of 0 completes at once. -/
def semTany (s : BitVec 5) : Sem :=
  { ins := .tany s, srcs := [.s s.toNat],
    check := fun e st => e.maskOver (e.s 0) ++ (maskTags (e.s 0)).foldl (fun f i => f ++ e.mismatch st i) [],
    waits := fun e st => e.s 0 != 0 && !(maskTags (e.s 0)).any (fun i => (e.tag st i).settled) }

/-- `tall` -/
def semTall (s : BitVec 5) : Sem :=
  { ins := .tall s, srcs := [.s s.toNat],
    check := fun e st => e.maskOver (e.s 0) ++ (maskTags (e.s 0)).foldl (fun f i => f ++ e.mismatch st i) [],
    waits := fun e st => !(maskTags (e.s 0)).all (fun i => (e.tag st i).settled) }

/-- `tffr`: the lowest READY or ABORTED tag of the mask at issue, or 64. -/
def semTffr (s : BitVec 5) : Sem :=
  { ins := .tffr s, srcs := [.s s.toNat], lqs := 1,
    check := fun e _ => e.maskOver (e.s 0),
    act := fun e st =>
      let n := ((maskTags (e.s 0)).find? (fun i => (e.tag e.snap i).settled)).getD 64
      e.upd st (fun x => x.pushLqs (BitVec.ofNat 64 n)) }

/-- `tclr` (R114) -/
def semTclr (t : BitVec 6) : Sem :=
  { ins := .tclr t, tags := [t.toNat],
    check := fun e s =>
      need (!((e.tag s t.toNat).state == .bound || (e.tag s t.toNat).state == .halted)) (fTagBusy t.toNat (e.tag s t.toNat).producer) ++ e.mismatch s t.toNat,
    act := fun e s =>
      let s := (e.pubsNow s t.toNat).modTag e.c e.base t.toNat (fun (g : Tag) => if g.settled then { g with state := .releasing } else g)
      s.modCore e.c (fun k => k.freeTags e.base) }

/-- `fget` -/
def semFget (t : BitVec 6) : Sem :=
  { ins := .fget t, tags := [t.toNat], lqs := 1, act := fun e s => e.upd s (fun x => x.pushLqs (e.tag s t.toNat).word) }

/-- `fpub` (R116): a release at core scope, so others see its pub once the context's earlier accesses have been performed (R134, R137); the
context itself reads the new frontier at once (`Env.tag`). -/
def semFpub (t : BitVec 6) (s : BitVec 5) : Sem :=
  { ins := .fpub t s, srcs := [.s s.toNat], tags := [t.toNat],
    check := fun e st =>
      let g := e.tag st t.toNat
      need (g.state == .bound && g.producer == 13) (fTagBusy t.toNat g.producer) ++ need (decide ((e.s 0).toNat ≤ g.n)) fBound,
    act := fun e st =>
      (e.upd st (fun x => x.pushOp (.pub t.toNat (e.tag st t.toNat).gen (e.s 0).toNat) [] [] 0 0 e.pc 0)).settleOps e.c e.x }

/-- `fbind` (R116): the stream is checked under R36, R107 and R108; it is no relay (R360). -/
def semFbind (t : BitVec 6) (a : BitVec 4) : Sem :=
  { ins := .fbind t a, streams := [a.toNat], tags := [t.toNat],
    check := fun e s => e.streamCheck s a.toNat true ++ need ((e.geo s a.toNat).space != 2) (fFormat.of (e.geo s a.toNat)) ++ (e.geo s a.toNat).windowCheck e.hdr (e.geo s a.toNat).d1 ++ e.tagFree s t.toNat,
    act := fun e s =>
      let g := e.geo s a.toNat
      e.bindTag s t.toNat 13 (g.d0 * g.d1) (some (g.tagGeo g.d1)) 0 }

end Sys2Proof.Machine
end

