-- ==== Sys2Proof/Machine/Bundle.lean ====
section
/-! DEFINITION. Bundles as fetched (R156 to R167): the meaning of a syllable inside a bundle, and the events of the issue
(R11). -/

namespace Sys2Proof.Machine

/-- The meaning of a syllable; an event is none, and is refused as ILLSYL. -/
def semOf (i : Instr) : Sem :=
  match i with
  | .add d a c => semAdd d a c
  | .sub d a c => semSub d a c
  | .mul d a c => semMul d a c
  | .mulh d a c => semMulh d a c
  | .mulhz d a c => semMulhz d a c
  | .div d a c => semDiv d a c
  | .divz d a c => semDivz d a c
  | .rem d a c => semRem d a c
  | .remz d a c => semRemz d a c
  | .and d a c => semAnd d a c
  | .or d a c => semOr d a c
  | .xor d a c => semXor d a c
  | .andn d a c => semAndn d a c
  | .shl d a c => semShl d a c
  | .shr d a c => semShr d a c
  | .sra d a c => semSra d a c
  | .min d a c => semMin d a c
  | .max d a c => semMax d a c
  | .minz d a c => semMinz d a c
  | .maxz d a c => semMaxz d a c
  | .clz d a => semClz d a
  | .ctz d a => semCtz d a
  | .popc d a => semPopc d a
  | .sel d a c k => semSel d a c k
  | .lea d a c h => semLea d a c h
  | .bfx d a c => semBfx d a c
  | .bfxz d a c => semBfxz d a c
  | .bins d a c => semBins d a c
  | .adds d a c => semAdds d a c
  | .subs d a c => semSubs d a c
  | .cmpeq k a c => semCmpeq k a c
  | .cmpne k a c => semCmpne k a c
  | .cmplt k a c => semCmplt k a c
  | .cmple k a c => semCmple k a c
  | .cmpltz k a c => semCmpltz k a c
  | .cmplez k a c => semCmplez k a c
  | .cmpbit k a c => semCmpbit k a c
  | .cmpeqi k a imm => semCmpeqi k a imm
  | .cmpnei k a imm => semCmpnei k a imm
  | .cmplti k a imm => semCmplti k a imm
  | .cmplei k a imm => semCmplei k a imm
  | .cmpltzi k a imm => semCmpltzi k a imm
  | .cmplezi k a imm => semCmplezi k a imm
  | .addi d a imm => semAddi d a imm
  | .andi d a imm => semAndi d a imm
  | .ori d a imm => semOri d a imm
  | .xori d a imm => semXori d a imm
  | .shli d a imm => semShli d a imm
  | .shri d a imm => semShri d a imm
  | .srai d a imm => semSrai d a imm
  | .muli d a imm => semMuli d a imm
  | .mini d a imm => semMini d a imm
  | .maxi d a imm => semMaxi d a imm
  | .movi d imm => semMovi d imm
  | .movup d imm => semMovup d imm
  | .mfs d imm => semMfs d imm
  | .mts r1 imm => semMts r1 imm
  | .nop => semNop
  | .prep k imm => semPrep k imm
  | .br k => semBr k
  | .brn k => semBrn k
  | .jmp imm => semJmp imm
  | .call imm => semCall imm
  | .ret => semRet
  | .prepx k r1 => semPrepx k r1
  | .nest l r r1 e => semNest l r r1 e
  | .lrot => semLrot
  | .lbrk => semLbrk
  | .exit => semExit
  | .yield => semYield
  | .wfe => semWfe
  | .sev r1 => semSev r1
  | .trap imm => semTrap imm
  | .rte r1 => semRte r1
  | .brk imm => semBrk imm
  | .bar b => semBar b
  | .barv b => semBarv b
  | .budget imm => semBudget imm
  | .vadd t w d a c m => semVadd t w d a c m
  | .vsub t w d a c m => semVsub t w d a c m
  | .vmul t w d a c m => semVmul t w d a c m
  | .vfma t w d a c m => semVfma t w d a c m
  | .vmin t w d a c m => semVmin t w d a c m
  | .vmax t w d a c m => semVmax t w d a c m
  | .vadds t w d a c m => semVadds t w d a c m
  | .vsubs t w d a c m => semVsubs t w d a c m
  | .vcmpeq t w d a c m => semVcmpeq t w d a c m
  | .vcmplt t w d a c m => semVcmplt t w d a c m
  | .vcmple t w d a c m => semVcmple t w d a c m
  | .vcvt t w d a c m => semVcvt t w d a c m
  | .vsel w d a c k => semVsel w d a c k
  | .vand w d a c m => semVand w d a c m
  | .vor w d a c m => semVor w d a c m
  | .vxor w d a c m => semVxor w d a c m
  | .vandn w d a c m => semVandn w d a c m
  | .vshl w d a c m => semVshl w d a c m
  | .vshr w d a c m => semVshr w d a c m
  | .vsra w d a c m => semVsra w d a c m
  | .vrot w d a c m => semVrot w d a c m
  | .vred t w d a c m => semVred t w d a c m
  | .vmov w d a m => semVmov w d a m
  | .vbcast w d a c m => semVbcast w d a c m
  | .vperm w d a c m => semVperm w d a c m
  | .vidx w d m => semVidx w d m
  | .vscan w d a c m => semVscan w d a c m
  | .vext w d a c m => semVext w d a c m
  | .vins w d a c m => semVins w d a c m
  | .vtest w d a m => semVtest w d a m
  | .exp2 w t d a m => semExp2 w t d a m
  | .exp w t d a m => semExp w t d a m
  | .log2 w t d a m => semLog2 w t d a m
  | .ln w t d a m => semLn w t d a m
  | .rcp w t d a m => semRcp w t d a m
  | .rsqrt w t d a m => semRsqrt w t d a m
  | .sqrt w t d a m => semSqrt w t d a m
  | .sin w t d a m => semSin w t d a m
  | .cos w t d a m => semCos w t d a m
  | .tanh w t d a m => semTanh w t d a m
  | .sigm w t d a m => semSigm w t d a m
  | .gelu w t d a m => semGelu w t d a m
  | .silu w t d a m => semSilu w t d a m
  | .erf w t d a m => semErf w t d a m
  | .unpk d a p x imm => semUnpk d a p x imm
  | .unpks d a p x imm => semUnpks d a p x imm
  | .unpki d a p x imm => semUnpki d a p x imm
  | .pack d a p x imm => semPack d a p x imm
  | .packs d a p x imm j => semPacks d a p x imm j
  | .pkmax d a p x imm j => semPkmax d a p x imm j
  | .packi d a p x imm => semPacki d a p x imm
  | .ld8s b imm => semLd8s b imm
  | .ld8z b imm => semLd8z b imm
  | .ld16s b imm => semLd16s b imm
  | .ld16z b imm => semLd16z b imm
  | .ld32s b imm => semLd32s b imm
  | .ld32z b imm => semLd32z b imm
  | .ld64 b imm => semLd64 b imm
  | .st8 r1 b imm => semSt8 r1 b imm
  | .st16 r1 b imm => semSt16 r1 b imm
  | .st32 r1 b imm => semSt32 r1 b imm
  | .st64 r1 b imm => semSt64 r1 b imm
  | .vld w b x m => semVld w b x m
  | .vst w b x m => semVst w b x m
  | .vlds w b x m => semVlds w b x m
  | .vsts w b x m => semVsts w b x m
  | .vgath w b x m => semVgath w b x m
  | .vscat w b x m => semVscat w b x m
  | .lld w d b x m => semLld w d b x m
  | .lst w d b x m => semLst w d b x m
  | .ldblk t b n => semLdblk t b n
  | .evblk t => semEvblk t
  | .gjoin g => semGjoin g
  | .gleave g => semGleave g
  | .gld g d r1 t => semGld g d r1 t
  | .pfetch p b imm => semPfetch p b imm
  | .aadd e b v p => semAadd e b v p
  | .amin e b v p => semAmin e b v p
  | .amax e b v p => semAmax e b v p
  | .aand e b v p => semAand e b v p
  | .aor e b v p => semAor e b v p
  | .axor e b v p => semAxor e b v p
  | .axchg e b v p => semAxchg e b v p
  | .acas e b v p => semAcas e b v p
  | .radd e b v p => semRadd e b v p
  | .raddf b v p => semRaddf b v p
  | .rmax e b v p => semRmax e b v p
  | .rmin e b v p => semRmin e b v p
  | .vradd b v p => semVradd b v p
  | .qinit b v => semQinit b v
  | .qenq b v => semQenq b v
  | .qdeq b => semQdeq b
  | .qdeqw b => semQdeqw b
  | .qlen b => semQlen b
  | .dfr w v m => semDfr w v m
  | .dfpop w v m => semDfpop w v m
  | .dfcnt => semDfcnt
  | .fence p => semFence p
  | .waitv c b v p => semWaitv c b v p
  | .waitfImm t n => semWaitfImm t n
  | .waitfReg t r1 => semWaitfReg t r1
  | .tany r1 => semTany r1
  | .tall r1 => semTall r1
  | .tffr r1 => semTffr r1
  | .tclr t => semTclr t
  | .fget t => semFget t
  | .fpub t r1 => semFpub t r1
  | .fbind t a => semFbind t a
  | .msend v p => semMsend v p
  | .mrecv v p => semMrecv v p
  | .cpy d r1 t f => semCpy d r1 t f
  | .cpyt d r1 t f => semCpyt d r1 t f
  | .cpyg d r1 t f => semCpyg d r1 t f
  | .cpys d r1 t f => semCpys d r1 t f
  | .cfill d v t f => semCfill d v t f
  | .mzero c => semMzero c
  | .mma c a b z => semMma c a b z
  | .mmasp c a b m z => semMmasp c a b m z
  | .drain c d t p r1 f => semDrain c d t p r1 f
  | .padj d g r t p => semPadj d g r t p
  | .hist r1 r b => semHist r1 r b
  | .chsend c r1 => semChsend c r1
  | .chrecv c r1 t => semChrecv c r1 t
  | .chred c r1 t o => semChred c r1 t o
  | .coll r r1 d t => semColl r r1 d t
  | .mcst r1 r => semMcst r1 r
  | .rdld d r t => semRdld d r t
  | .jcard c r => semJcard c r
  | .setxf x r1 => semSetxf x r1
  | .sld a r => semSld a r
  | .sset a c v => semSset a c v
  | .sget a c => semSget a c
  | .chset r => semChset r
  | .chget c => semChget c
  | .blockedBundleIssue .. => semIll
  | .issueTurnLimit .. => semIll
  | .resultLanding .. => semIll
  | .loadDataReturn .. => semIll
  | .sqEntryFill .. => semIll
  | .storePerform .. => semIll
  | .sldDataReturn .. => semIll
  | .engineCommandStart .. => semIll
  | .powerPermitGrant .. => semIll
  | .copyPieceWrite .. => semIll
  | .mmaComplete .. => semIll
  | .mzeroComplete .. => semIll
  | .drainRow .. => semIll
  | .reduceContribution .. => semIll
  | .padjRow .. => semIll
  | .histUpdate .. => semIll
  | .engineCommandCompletion .. => semIll
  | .blockFillComplete .. => semIll
  | .sliceAtomic .. => semIll
  | .sliceReduction .. => semIll
  | .sliceQueueOp .. => semIll
  | .groupRequestArrive .. => semIll
  | .groupHoldTimeout .. => semIll
  | .groupFillLand .. => semIll
  | .sevArrival .. => semIll
  | .exitDrainComplete .. => semIll
  | .teamExit .. => semIll
  | .engineHalt .. => semIll
  | .chaseAbort .. => semIll
  | .asyncTrapDelivery .. => semIll
  | .firmwareFaultService .. => semIll
  | .correctedError .. => semIll
  | .uncorrectableError .. => semIll
  | .cardWatchdogExpiry .. => semIll
  | .cardReplayStart .. => semIll
  | .cardComplete .. => semIll
  | .unitTimeLimitExpiry .. => semIll
  | .notify .. => semIll
  | .trigger .. => semIll
  | .statusClear .. => semIll
  | .hostRegisterWrite .. => semIll
  | .mapperBind .. => semIll
  | .slotRelinquish .. => semIll
  | .launch .. => semIll
  | .graph .. => semIll
  | .waitvPacket .. => semIll
  | .waitvPacketPoll .. => semIll
  | .signal .. => semIll
  | .barrier .. => semIll
  | .checkpoint .. => semIll
  | .checkpointDrainLimit => semIll
  | .checkpointComplete => semIll
  | .safeTierLoss => semIll
  | .restore .. => semIll
  | .scale .. => semIll
  | .graphNodeStart .. => semIll
  | .launchComplete .. => semIll
  | .dispatchUnit .. => semIll
  | .preload .. => semIll
  | .preemptRequest .. => semIll
  | .budgetOverrun .. => semIll
  | .budgetHintExpiry .. => semIll
  | .teamSave .. => semIll
  | .teamRestore .. => semIll
  | .moduleReset => semIll
  | .bootLinkTimeout => semIll
  | .invalidate .. => semIll
  | .tlbInvalidation => semIll
  | .powerStatus => semIll
  | .errorLogRead .. => semIll
  | .portStates => semIll
  | .attestationReport .. => semIll
  | .bootStatusQuery => semIll
  | .governorAdjust .. => semIll
  | .thermalStop .. => semIll
  | .meshSlotDepart .. => semIll
  | .meshPayloadArrive .. => semIll
  | .portDown .. => semIll
  | .modulePowerLoss => semIll
  | .transferArrive .. => semIll
  | .slotCreditReturn .. => semIll
  | .ringStep .. => semIll
  | .stackQueueStep .. => semIll
  | .reducingLoadReply .. => semIll
  | .channelTimeout .. => semIll
  | .unknownPacketKind .. => semIll
  | .ringReadFailed .. => semIll
  | .restoreComplete => semIll
  | .invalidateStatus => semIll
  | .acknowledgement .. => semIll
  | .failedBeat .. => semIll

/-- A syllable that is no instruction, or a bundle that is ill formed (R157, R158, R161, R163): ILLBUNDLE at step 1 of R166. -/
def semIllBundle : Sem := { ins := .nop, check := fun _ _ => [{ step := 1, cause := cILLBUNDLE }] }

/-- A syllable that is no instruction: ILLSYL. What its opcode would write still counts for R164. DESIGN CHOICE: it pops and reserves nothing, so
no condition of R11 (b, c) holds it back from its fault (log entry 110). -/
def semUnread : Option Instr → Sem
  | some i => { semIll with dsts := (semOf i).dsts.filter (fun d => d.named && d != .v 31) }
  | none => semIll

/-- What a syllable of an ill-formed bundle still means: what it pops, reserves and names, for the conditions that come before the checks
(R11 a, b, c), and what it writes (R164). -/
def Sem.operands (m : Sem) : Sem :=
  { ins := m.ins, srcs := m.srcs, lqs := m.lqs, lq := m.lq, takesSq := m.takesSq, queue := m.queue, streams := m.streams,
    dsts := m.dsts }

/-- The syllables of what was fetched, with their meanings. -/
def semsOf : Fetched → List (Nat × Sem)
  | .malformed h l => (h, semIllBundle) :: l.map (fun q => (q.1, (match q.2 with | .inl i => semOf i | .inr o => semUnread o).operands))
  | .bundle l => l.map (fun q => (q.1, match q.2 with | .inl i => semOf i | .inr o => semUnread o))

/-- What stands at the pc of context `x` of core `c`; where the fetch fails, `issueSems` finds that itself. -/
def State.fetched (s : State) (c x : Nat) : Fetched :=
  match s.fetchPacket c (s.rootAt c x) (s.ctx c x).pc with
  | .ok (_, pk) => fetchBundle pk ((s.ctx c x).pc / 4 % 16)
  | .error _ => .bundle []

/-- Context `y` of core `c` could issue its bundle now (R11 g, R12): a trap comes first, or its bundle faults or goes. -/
def State.able (s : State) (c y : Nat) : Bool :=
  let v := s.ctx c y
  if !(s.core c).canTry y then false
  else if v.dueTrap.isSome && v.handler.isNone then true
  else if v.pending.any (fun t => t.ask) then false
  else if !v.resend.isEmpty || v.fenced then false
  else match s.fetchPacket c (s.rootAt c y) v.pc with
    | .error _ => true
    | .ok (pa, pk) =>
      if (span (pa + v.pc % 64) 4).any s.isLost then true
      else
        let next := match nextStart pk (v.pc / 4 % 16) with
          | some j => v.pc / 64 * 64 + 4 * j
          | none => v.pc / 64 * 64 + 64
        let sems := semsOf (fetchBundle pk (v.pc / 4 % 16))
        match s.verdict c y sems (s.prepare c y v.pc next sems) with
        | .fault _ | .go => true
        | _ => false

/-- Another context of the core than `x` is able to issue. -/
def State.contested (s : State) (c x : Nat) : Bool := [0, 1, 2, 3].any (fun y => y != x && s.able c y)

/-- The cycles for which context `x` has issued in a row while another context was able to: none where its turn has not begun, or has ended (R11 g). -/
def Core.runOf (k : Core) (x : Nat) : Nat := if k.spent || k.cur != x then 0 else k.run

/-- The context has issued for 4,096 consecutive cycles while another of the core was able to (R11 g). -/
def State.turnOver (s : State) (c x : Nat) : Bool := decide (4096 ≤ (s.core c).runOf x) && s.contested c x

/-- The coming issue cycle of context `x` counts towards R11 g when another context is able to issue in it, else the count begins anew. -/
def State.contest (s : State) (c x : Nat) : State :=
  let n := if s.contested c x then (s.core c).runOf x + 1 else 0
  s.modCore c (fun k => { k with run := n })

/-- The context that tries to issue next tries the bundle `ms`. -/
def State.attempt (s : State) (c x : Nat) (ms : List (Nat × Sem)) : State :=
  if s.turnOver c x then s.blocked c x else (s.contest c x).issueSems c x ms

/-- The meaning shared by every syllable: the one-syllable bundle it makes is issued by the context that tries to issue next. -/
def issueOne (m : Sem) (s : State) : Host.Outcome State Fault Refusal :=
  if !s.powered then .fault .poweredOff
  else match s.pick with
    | some (c, x) => .next (s.attempt c x [((s.ctx c x).pc / 4 % 16, m)])
    | none => .next s.skipTurn

/-- A bundle of several syllables, decoded from memory. -/
def issueMany (ms : List (Nat × Sem)) (s : State) : Host.Outcome State Fault Refusal :=
  if !s.powered then .fault .poweredOff
  else match s.pick with
    | some (c, x) => .next (s.attempt c x ms)
    | none => .next s.skipTurn

/-- The bundle at the pc of the context that tries to issue next tries to issue; with none, the core's cycle passes. -/
def State.tryIssue (s : State) : State :=
  match s.pick with
  | some (c, x) => s.attempt c x (semsOf (s.fetched c x))
  | none => s.skipTurn

/-- At most `n` contexts of core `c` try to issue, one after the other, until one has issued or none is left (R12). -/
def searchN (c : Nat) : Nat → State → State
  | 0, s => s
  | n + 1, s =>
    let t := s.tryIssue
    if (t.core c).idle = 0 then t else searchN c n t

/-- `BLOCKED_BUNDLE_ISSUE` (R11): core `c` examines its contexts' bundles in the order of R12 and issues the first whose condition has
cleared. -/
def State.reissue (s : State) (c : Nat) : State := searchN c 4 ({ s with turn := c }).anew

def execBlockedBundleIssue (c : Nat) (s' : State) : Host.Outcome State Fault Refusal :=
  if !s'.powered then .fault .poweredOff else .next (s'.reissue c)

/-- `ISSUE_TURN_LIMIT` (R11 g, R12): the turn of the context that issued last is over. -/
def State.turnLimit (s : State) (c : Nat) : State :=
  if s.turnOver c (s.core c).cur then s.modCore c (fun k => { k with idle := 0, spent := true, run := 0 }) else s

def execIssueTurnLimit (c : Nat) (s' : State) : Host.Outcome State Fault Refusal := happen (fun s => s.turnLimit c) s'

end Sys2Proof.Machine
end

