-- ==== Sys2Proof/Machine/EngineCopy.lean ====
section
/-! DEFINITION. How an engine command moves elements: reads and writes (R36, R37, R87), places in and out of a tensor (R89, R252), halts
(R126, R127), and the copy engine's pieces (R249 to R258, R109, R110, R145 to R150). -/

namespace Sys2Proof.Machine

/-! ### What a step of a command comes to -/

/-- A fault an engine meets: its cause, address, physical byte, retirement detail, the layout record and coordinates of the
element. -/
structure Fail where
  cause : Nat
  addr : Nat := 0
  pa : Nat := 0
  detail : Nat := 0
  vzero : Bool := false
  layout : Nat := 0
  coord : List Int := []
  unit : Option ErrSite := none
  deriving DecidableEq, Repr

/-- What the next step of a command comes to: it waits, it needs an element beyond an aborted tag (R129), it meets a fault with the
state that leaves and the index at which the piece begins, or it is done. -/
inductive Stepped where
  | wait
  | aborted (tag : Nat)
  | fail (f : Fail) (piece : Nat) (left : State)
  | done (s : State)

/-- A failed translation of `a` as a fault an engine meets (R76, R103, R272). -/
def State.failXlat (s : State) (a : Nat) (q : Xlat) : Fail :=
  match q with
  | .mchk p => { cause := cMCHK, addr := a, pa := p, detail := s.lossOf p }
  | _ => { cause := q.cause, addr := a, vzero := q.isVzero }

/-- MCHK of the physical byte `p` among the bytes `pas` of an access at `va` (R265, R266). -/
def State.failLost (s : State) (va : Nat) (pas : List Nat) (p : Nat) : Fail :=
  { cause := cMCHK, addr := lostAddr va pas p, pa := p, detail := s.lossOf p }

/-- MCHK of a unit of a core (R266, R274). -/
def failUnit (site : ErrSite) : Fail := { cause := cMCHK, detail := 3, unit := some site }

/-- A chase condition as a step's hindrance. -/
def chaseHindrance (tag : Nat) : List Chase → Option Stepped
  | [] => none
  | .met :: r => chaseHindrance tag r
  | .wait :: _ => some .wait
  | .aborted :: _ => some (.aborted tag)

/-- The tag a stream chases. -/
def Geo.chaseTag (g : Geo) : Nat := match g.chase with | some (t, _) => t | none => 0

/-! ### Bits of a stream's space -/

/-- `w` bits at bit address `a` of a space, as an engine of core `c` reads them for the team at base `b`. -/
def State.engBits (s : State) (c root b space : Nat) (a : Int) (w : Nat) : Except Fail Nat :=
  let off := (Int.emod a 8).toNat
  let n := (off + w + 7) / 8
  if space = 1 then
    let o := (Int.ediv a 8).toNat
    match (s.core c).lostGranule b (span o n) with
    | some q => .error (failUnit (.localStore c q))
    | none => .ok (bits (leNat ((span o n).map (mget ((s.core c).window b)))) off w)
  else
    let va := addrOf (Int.ediv a 8)
    match s.xlatSpan c root va n .read with
    | .error (x, q) => .error (s.failXlat x q)
    | .ok pas =>
      match pas.find? s.isLost with
      | some p => .error (s.failLost va pas p)
      | none => .ok (bits (leNat (pas.map (s.engRead c))) off w)

/-- `w` bits written at bit address `a`. -/
def State.engPut (s : State) (c root b space : Nat) (a : Int) (w v : Nat) : Except Fail State :=
  let off := (Int.emod a 8).toNat
  let n := (off + w + 7) / 8
  if space = 1 then
    let o := (Int.ediv a 8).toNat
    match (s.core c).lostGranule b (span o n) with
    | some q => .error (failUnit (.localStore c q))
    | none =>
      let win := (s.core c).window b
      let old := leNat ((span o n).map (mget win))
      .ok (s.putWindow c b (winWrites win ((span o n).zip (leBytes n (putBits old off w v)))))
  else
    let va := addrOf (Int.ediv a 8)
    match s.xlatSpan c root va n .write with
    | .error (x, q) => .error (s.failXlat x q)
    | .ok pas =>
      match pas.find? s.isLost with
      | some p => .error (s.failLost va pas p)
      | none =>
        let s := s.reach c root va n
        let old := leNat (pas.map (s.dieRead (dieOf c)))
        .ok (s.tornWrites c (pas.zip (leBytes n (putBits old off w v))))

/-! ### Places (R89, R242, R252) -/

/-- Where an element lies: its bit address, its block's scale byte and its coordinates; or a zero read, a dropped write, BOUND. -/
inductive Place where
  | at_ (bit scale : Int) (coord : List Int)
  | zero
  | drop
  | bound (coord : List Int)
  deriving DecidableEq, Repr

/-- Every coordinate lies in its extent. -/
def inExtents (r : W512) (c : List Int) : Bool :=
  (List.range 6).all (fun j => decide (0 ≤ coordAt c j) && decide (coordAt c j < recExt r j))

/-- Every coordinate clamped into its extent. -/
def clampCoord (r : W512) (c : List Int) : List Int :=
  (List.range 6).map (fun j => max 0 (min (coordAt c j) ((recExt r j : Int) - 1)))

/-- The place of element (x, y) of the tile at `org`; `line` is its line where the stream names no record. -/
def Geo.place (g : Geo) (org : List Int) (x y line : Nat) (clamp zero write : Bool) : Place :=
  match g.layout with
  | none => .at_ ((g.base + (line : Int) * g.pitch) * 8 + x * g.w) (g.sbase + (line : Int) * g.sstride + (x / 8 : Nat)) [(x : Int), (y : Int)]
  | some (_, r) =>
    let c := match org with
      | o0 :: o1 :: rest => (o0 + x) :: (o1 + y) :: rest
      | _ => [(x : Int), (y : Int)]
    if inExtents r c then .at_ (g.bitAt r c) (g.scaleAt r c) c
    else if write then (if clamp || zero then .drop else .bound c)
    else if zero then .zero
    else if clamp then
      let k := clampCoord r c
      .at_ (g.bitAt r k) (g.scaleAt r k) c
    else .bound c

/-- The virtual address of an element of global memory (R265); 0 in a window. -/
def Geo.placeVa (g : Geo) : Place → Nat
  | .at_ bit _ _ => if g.space = 0 then addrOf (Int.ediv bit 8) else 0
  | _ => 0

/-- An engine comes to the bytes of a place: an element's, and its block's scale byte. -/
def State.reachPlace (s : State) (c root : Nat) (g : Geo) (p : Place) : State :=
  match p with
  | .at_ bit scale _ =>
    if g.space = 0 then
      let s := s.reach c root (addrOf (Int.ediv bit 8)) (((Int.emod bit 8).toNat + g.w + 7) / 8)
      if g.fmt = 7 then s.reach c root (addrOf scale) 1 else s
    else s
  | _ => s

/-- An engine comes to the elements of a stream with the indices `is`. -/
def State.reachElems (s : State) (c root : Nat) (g : Geo) (is : List Nat) : State :=
  is.foldl (fun s i => let p := travElem g.trav g.d0 g.d1 i; s.reachPlace c root g (g.place g.org p.1 p.2 p.2 g.clamp false false)) s

/-- The element read at a place (R36, R44). -/
def State.readPlace (s : State) (c root b : Nat) (g : Geo) (p : Place) : Except Fail Elem :=
  match p with
  | .at_ bit scale coord =>
    let dress := fun (f : Fail) => { f with layout := g.layoutAddr, coord := coord }
    match s.engBits c root b g.space bit g.w with
    | .error f => .error (dress f)
    | .ok code =>
      if g.fmt = 7 then
        match s.engBits c root b g.space (scale * 8) 8 with
        | .error f => .error (dress f)
        | .ok sc => .ok { code := code, scale := sc }
      else .ok { code := code, scale := 0 }
  | .bound coord => .error { cause := cBOUND, layout := g.layoutAddr, coord := coord }
  | _ => .ok { code := 0, scale := 0 }

/-- An element written at a place; `first`: it is the first of its q4 block, whose scale byte goes with it (R251). -/
def State.writePlace (s : State) (c root b : Nat) (g : Geo) (p : Place) (first : Bool) (e : Elem) : Except Fail State :=
  match p with
  | .at_ bit scale coord =>
    let dress := fun (f : Fail) => { f with layout := g.layoutAddr, coord := coord }
    match s.engPut c root b g.space bit g.w e.code with
    | .error f => .error (dress f)
    | .ok s =>
      if g.fmt = 7 ∧ first then
        match s.engPut c root b g.space (scale * 8) 8 e.scale with
        | .error f => .error (dress f)
        | .ok s => .ok s
      else .ok s
  | .bound coord => .error { cause := cBOUND, layout := g.layoutAddr, coord := coord }
  | _ => .ok s

/-! ### Halts (R126, R127) -/

/-- The launch of a command takes firmware-first service (R267). -/
def State.firmwareFirst (s : State) (c : Nat) (m : Cmd) : Bool :=
  match tget (s.core c).teams m.team with
  | some t => (match s.launchOf t.launch with | some l => l.firmware | none => false)
  | none => false

/-- The frontier of a command's tag; 0 without one. -/
def State.frontier (s : State) (c : Nat) (m : Cmd) : Nat :=
  match m.tag with
  | some (n, _) => ((s.core c).tagAt m.team n).f
  | none => 0

/-- A command halts on a fault: its tag is HALTED, and the engine fault trap becomes due for its context (R126, R127), after the
firmware has been asked where the launch has firmware-first service and the walk met V = 0 (R267). -/
def State.haltCmd (s : State) (c : Nat) (m : Cmd) (f : Fail) (cursor piece : Nat) : State :=
  let h : Halt := { cause := f.cause, addr := f.addr, layout := f.layout, coord := f.coord, cursor := cursor, detail := f.detail,
                    pa := f.pa, piece := piece }
  let s := s.putCmd c { m with st := .halted, halt := some h }
  let s := match m.tag with
    | some (n, g) => s.modTag c m.team n (fun (t : Tag) => if t.gen = g ∧ t.state = TagState.bound then { t with state := .halted } else t)
    | none => s
  s.post c m.ctx cXLATEA m.bundle
    { step := 0, cause := f.cause, addr := f.addr, layout := f.layout, coord := f.coord, cursor := cursor, detail := f.detail,
      tag := (m.tag.getD (0, 0)).1, kind := 1, producer := m.kind.producer, syl := m.syl, pa := f.pa, unit := f.unit }
    (some m.id) false (s.firmwareFirst c m && f.vzero)

/-- A command with no tag and no stream to resume ends on a fault (R335, R345, R381). -/
def endsOnFault (k : CmdKind) : Bool := k == .hist || k == .mma || k == .mmasp || k == .jcard || k == .mzero

/-- A command that has no tag to halt ends on a fault (R335, R345): its context takes the engine fault trap, whose `rte` has no
command to choose for. Where the firmware is to be asked first it stands halted meanwhile (R267). -/
def State.endOnFault (s : State) (c : Nat) (m : Cmd) (f : Fail) (cursor : Nat) : State :=
  let ask := s.firmwareFirst c m && f.vzero
  let s := s.post c m.ctx cXLATEA m.bundle
    { step := 0, cause := f.cause, addr := f.addr, layout := f.layout, coord := f.coord, cursor := cursor, detail := f.detail,
      kind := 1, syl := m.syl, pa := f.pa, unit := f.unit } (if ask then some m.id else none) false ask
  if ask then s.putCmd c { m with st := .halted } else s.abortCmd c m false

/-- A chaser of an aborted tag ends (R129). -/
def State.chaseEnd (s : State) (c : Nat) (m : Cmd) (tag cursor : Nat) : State :=
  let s := s.post c m.ctx cCHASEABORT m.bundle
    { step := 0, cause := cCHASEABORT, tag := tag, kind := 2, cursor := cursor, producer := m.kind.producer, syl := m.syl } none false false
  s.abortCmd c m true

/-! ### Progress -/

/-- Index `i` rounded down to a piece boundary of a tile (R109). -/
def pieceFloor (line w i n : Nat) : Nat :=
  if n ≤ i then n else if line = 0 then 0 else i - i % line + i % line / pieceMax w * pieceMax w

/-- The frontier passes to `f`; a skipped piece marks its tag (R110, R128). -/
def State.publishTo (s : State) (c : Nat) (m : Cmd) (f : Nat) (skipped : Bool) : State :=
  match m.tag with
  | some (n, g) => s.modTag c m.team n (fun (t : Tag) =>
      if t.gen = g then { t.advance f with skipped := t.skipped || skipped } else t)
  | none => s

/-! ### Tile-atomic stores and reads (R148 to R150, R255) -/

/-- The identity relation holds (R92): the copy moves no data. -/
def Cmd.identity (m : Cmd) : Bool :=
  match m.dst, m.src with
  | some d, some s =>
    let ls := copyLines m.kind d s m.n
    overlaps d s (m.kind == .cpys) (m.kind == .cpyg) ls.1 ls.2 && d.same s
  | _, _ => false

/-- The version word of a tile-atomic store or read by a stream; an identity copy, which moves nothing, has none (R259). -/
def Cmd.storeVer (m : Cmd) : Option Nat :=
  if flagTa m.flags && !m.identity then (match m.dst with
    | some g => (match g.layout with | some (_, r) => if recVersion r = 0 then none else some (recVersion r) | none => none)
    | none => none) else none

def Cmd.readVerAddr (m : Cmd) : Option Nat :=
  if flagTa m.flags && !m.identity then (match m.src with
    | some g => (match g.layout with | some (_, r) => if recVersion r = 0 then none else some (recVersion r) | none => none)
    | none => none) else none

/-- The value that opens a tile-atomic store over `v` (R149). -/
def openValue (v : Nat) : Nat := (bits v 1 62 + 1) % 2 ^ 62 * 2 + 1

/-- A word of 64 bits read at its home slice. -/
def State.readWord (s : State) (c root va : Nat) : Except Fail (State × Nat) :=
  match s.xlatSpan c root va 8 .read with
  | .error (x, q) => .error (s.failXlat x q)
  | .ok pas =>
    match pas.find? s.isLost with
    | some p => .error (s.failLost va pas p)
    | none => .ok ((s.reach c root va 8).homeRead c pas)

/-- A word of 64 bits written at its home slice. -/
def State.writeWord (s : State) (c root va v : Nat) : Except Fail State :=
  match s.xlatSpan c root va 8 .write with
  | .error (x, q) => .error (s.failXlat x q)
  | .ok pas =>
    match pas.find? s.isLost with
    | some p => .error (s.failLost va pas p)
    | none => .ok ((s.reach c root va 8).homeWrites c pas v)

/-- The acquire and release parts of an engine's access at its flag scope. -/
def State.flagAcquire (s : State) (c scope : Nat) : State := if scope = 0 then s else s.acquire c scope
def State.flagRelease (s : State) (c scope : Nat) : State := if scope = 0 then s else s.publish c scope

/-- A tile-atomic store opened at the start of a tile, unless it is open (R149); `none`: another store is in progress. -/
def State.openTile (s : State) (c root : Nat) (m : Cmd) (va scope : Nat) : Except Fail (Option (State × Cmd)) :=
  match m.opened with
  | some _ => .ok (some (s, m))
  | none =>
    match s.readWord c root va with
    | .error f => .error f
    | .ok (s, v) =>
      if v % 2 = 1 ∧ v < 2 ^ 63 then .ok none
      else match s.writeWord c root va (openValue v) with
        | .error f => .error f
        | .ok s => .ok (some (s.flagAcquire c scope, { m with opened := some (BitVec.ofNat 64 (openValue v)) }))

/-- Closed after the tile's last write: V ← n + 1 as a release write (R149). -/
def State.closeTile (s : State) (c root : Nat) (m : Cmd) (va scope : Nat) : Except Fail (State × Cmd) :=
  match m.opened with
  | none => .ok (s, m)
  | some n =>
    match s.writeWord c root va (n.toNat + 1) with
    | .error f => .error f
    | .ok s => .ok (s.flagRelease c scope, { m with opened := none })

/-- A tile-atomic read begun at the start of a tile (R150); `none`: a store is in progress. The command's own store is none: where its source
and destination are under one version word, the tile that the store opened is read again under the value that opened it (log entry 118). -/
def State.beginRead (s : State) (c root : Nat) (m : Cmd) (va scope : Nat) : Except Fail (Option (State × Cmd)) :=
  match m.readVer with
  | some _ => .ok (some (s, m))
  | none =>
    match s.readWord c root va with
    | .error f => .error f
    | .ok (s, v) =>
      if 2 ^ 63 ≤ v then .error { cause := cFORMAT, addr := va }
      else if v % 2 = 1 ∧ m.opened ≠ some (BitVec.ofNat 64 v) then .ok none
      else .ok (some (s.flagAcquire c scope, { m with readVer := some (BitVec.ofNat 64 v) }))

/-! ### Copies -/

/-- Elements of one tile, and tiles, of a copy. -/
def Cmd.tile (m : Cmd) : Nat := match m.dst with | some g => g.d0 * g.d1 | none => 0
def Cmd.total (m : Cmd) : Nat := m.tile * m.n

def isList (k : CmdKind) : Bool := k == .cpyg || k == .cpys

/-- The tile origin of a list entry for a stream (R90, R250): iterator additions are kept. -/
def Geo.tileOrg (g : Geo) (entry : List Byte) : List Int :=
  let k := fun (j : Nat) => sbits (leNat entry) (32 * j) 32
  let d := [sbits g.desc.toNat 320 32, sbits g.desc.toNat 352 32, (hbits g.desc 224 8 : Int), (hbits g.desc 232 8 : Int),
    (hbits g.desc 240 8 : Int), (hbits g.desc 248 8 : Int)]
  (List.range 6).map (fun j =>
    (if j = 0 then k 0 * g.d0 else if j = 1 then k 1 * g.d1 else k j) + (coordAt g.org j - coordAt d j))

/-- A fault at the version word of the source's, or the destination's, tile: it names that stream's record and the tile's origin (R150, R258). -/
def Cmd.atSource (m : Cmd) (f : Fail) : Fail :=
  match m.src with
  | some g => { f with layout := g.layoutAddr, coord := if m.kind = .cpyg then g.tileOrg m.buf else g.org }
  | none => f

def Cmd.atDest (m : Cmd) (f : Fail) : Fail :=
  match m.dst with
  | some g => { f with layout := g.layoutAddr, coord := if m.kind = .cpys then g.tileOrg m.buf else g.org }
  | none => f

/-- The source place of destination element (x, y) of tile `i` (R250). -/
def Cmd.srcPlace (m : Cmd) (g : Geo) (i x y : Nat) : Place :=
  let cl := flagClamp m.flags || g.clamp
  match m.kind with
  | .cpyt => g.place g.org y x x cl (flagZero m.flags) false
  | .cpyg => g.place (g.tileOrg m.buf) x y y cl (flagZero m.flags) false
  | .cpys => g.place g.org x y (i * g.d1 + y) cl (flagZero m.flags) false
  | _ => g.place g.org x y y cl (flagZero m.flags) false

/-- The destination place (R250); `cfill` ignores flag bit 6 (R254). -/
def Cmd.dstPlace (m : Cmd) (g : Geo) (i x y : Nat) : Place :=
  let cl := flagClamp m.flags || g.clamp
  match m.kind with
  | .cpyg => g.place g.org x y (i * g.d1 + y) cl (flagZero m.flags) true
  | .cpys => g.place (g.tileOrg m.buf) x y y cl (flagZero m.flags) true
  | .cfill => g.place g.org x y y cl false true
  | _ => g.place g.org x y y cl (flagZero m.flags) true

/-- The fill value of `cfill` (R254). -/
def Cmd.fill (m : Cmd) (g : Geo) : Elem :=
  if g.fmt = 7 then { code := bits m.val.toNat 0 4, scale := bits m.val.toNat 8 8 } else { code := bits m.val.toNat 0 g.w, scale := 0 }

/-- The element to write, read and converted (R251); with `skip`, a failed read gives the format's zero, and so do all of a piece whose list
entry or version word could not be read (`blank`; R128). -/
def State.copyElem (s : State) (c root : Nat) (m : Cmd) (d : Geo) (i x y : Nat) (skip blank : Bool) : Except Fail Elem :=
  match m.src with
  | none => .ok (m.fill d)
  | some g =>
    if blank then .ok { code := 0, scale := 0 } else
    let p := m.srcPlace g i x y
    let got : Except Fail Elem := match s.readPlace c root m.team g p with
      | .error f => .error f
      | .ok e =>
        if p = .zero then .ok { code := 0, scale := 0 }
        else match convertElem g.fmt d.fmt g.xf d.xf e with
          | some e => .ok e
          | none =>
            let co := match p with | .at_ _ _ co => co | _ => []
            Except.error { cause := cFORMAT, addr := g.placeVa p, layout := g.layoutAddr, coord := co : Fail }
    match got with
    | .error f => if skip then .ok { code := 0, scale := 0 } else .error f
    | .ok e => .ok e

/-- The loads and stores that may be performed now: core, context, place. -/
def State.readyOps (s : State) : List (Nat × Nat × Nat) :=
  s.cores.foldl (fun (a : List (Nat × Nat × Nat)) e =>
    [0, 1, 2, 3].foldl (fun a y => a ++ (List.range (e.2.ctx y).ops.length).filterMap (fun k =>
      match (e.2.ctx y).opReady k with
      | some o => (match o.kind with | .load .. | .store none => some (e.1, y, k) | _ => none)
      | none => none)) a) []

/-- At most `n` accesses of contexts, one by one. -/
def betweenN : Nat → Nat → State → State
  | 0, _, s => s
  | n + 1, j, s =>
    let rs := s.readyOps
    match rs[(Config.freeBits s.free (903 + 2 ^ 20 * j + 2 ^ 50 * n)).toNat % (rs.length + 1)]? with
    | none => s
    | some (c, x, k) =>
      betweenN n j (if ((s.ctx c x).opReady k).any (fun o => o.isWrite) then s.storePerform c x k
        else s.loadReturn c x k ((Config.freeBits s.free (904 + 2 ^ 20 * j + 2 ^ 50 * n)).toNat % 3))

/-- Accesses of contexts, as many as may, are performed before element `j` of a piece: each element is an access of its own (R133; log entry 38). -/
def State.between (s : State) (j : Nat) : State := betweenN s.readyOps.length j s

/-- Before the last write of a command that releases at `scope`, what it has written before it is performed at that scope (R146). -/
def State.beforeLast (s : State) (c scope : Nat) : State := if 2 ≤ scope then s.dieFlush (dieOf c) (fun _ => true) else s

/-- Elements `is` of tile `i` copied to the first failure; accesses of contexts may come before any that is written. `last`: the element that is the
command's last write, a release (R146). DESIGN CHOICE: within a piece they move in the destination's traversal order (R250; log entry 134). -/
def copyElems (c root : Nat) (m : Cmd) (d : Geo) (i : Nat) (skip blank : Bool) (last : Option Nat) : List Nat → State → Except (Fail × State) State
  | [], s => .ok s
  | j :: r, s =>
    let p := travElem d.trav d.d0 d.d1 j
    let q := m.dstPlace d i p.1 p.2
    let s := if q = .drop then s else s.between j
    let s := match m.src with | some g => if blank then s else s.reachPlace c root g (m.srcPlace g i p.1 p.2) | none => s
    match s.copyElem c root m d i p.1 p.2 skip blank with
    | .error f => .error (f, s)
    | .ok e =>
      let s := if last = some j then s.beforeLast c (flagScope m.flags) else s
      match s.writePlace c root m.team d q (p.1 % 8 == 0) e with
      | .error f => if skip then copyElems c root m d i skip blank last r s else .error (f, s)
      | .ok s => copyElems c root m d i skip blank last r s

/-- The chase condition of a source element: met for a zero read; a copy in the identity relation meets its own (R124). -/
def State.copyChase (s : State) (c : Nat) (m : Cmd) (g : Geo) (i x y : Nat) : Chase :=
  if g.chase = m.tag ∧ m.identity then .met
  else match m.srcPlace g i x y with
    | .at_ bit _ _ => (s.core c).chaseOf m.team g bit
    | _ => .met

/-- The list entry of tile `i` as memory holds it now (R253): its 32 bytes, the reserved ones 0. DESIGN CHOICE: a fault of the entry, read before any
element has coordinates, names no layout record and no coordinates (R258; log entry 119). -/
def State.listEntry (s : State) (c root : Nat) (m : Cmd) (i : Nat) : Except Fail (List Byte) :=
  let va := m.list + 32 * i
  match s.xlatSpan c root va 32 .read with
  | .error (x, q) => .error (s.failXlat x q)
  | .ok pas =>
    match pas.find? s.isLost with
    | some p => .error (s.failLost va pas p)
    | none =>
      let bs := pas.map (s.engRead c)
      if (bs.drop 24).all (fun b => b == 0) then .ok bs else .error { cause := cFORMAT, addr := va }

/-- Bytes of 8-byte words `ks` of a list entry at `va`, read word by word: accesses of contexts may come between any two (R133, R253). -/
def listWords (c root va : Nat) : List Nat → State → Except (Fail × State) (State × List Byte)
  | [], s => .ok (s, [])
  | k :: r, s =>
    let s := (s.between (2 ^ 40 + k)).reach c root (va + 8 * k) 8
    match s.xlatSpan c root (va + 8 * k) 8 .read with
    | .error (x, q) => .error (s.failXlat x q, s)
    | .ok pas =>
      match pas.find? s.isLost with
      | some p => .error (s.failLost (va + 8 * k) pas p, s)
      | none =>
        let bs := pas.map (s.engRead c)
        match listWords c root va r s with
        | .ok (t, rest) => .ok (t, bs ++ rest)
        | e => e

/-- The list entry of tile `i` read (R253): four reads of 8 bytes, the reserved bytes 0. -/
def State.readEntry (s : State) (c root : Nat) (m : Cmd) (i : Nat) : Except (Fail × State) (State × List Byte) :=
  match listWords c root (m.list + 32 * i) [0, 1, 2, 3] s with
  | .ok (t, bs) => if (bs.drop 24).all (fun b => b == 0) then .ok (t, bs) else .error ({ cause := cFORMAT, addr := m.list + 32 * i }, t)
  | e => e

/-- A halted piece's elements before the failing one may or may not have been written (R126). -/
def partly (s left : State) : State := if Config.choice s.free 900 then left else s

/-- Some element from index `k` of tile `i` on, `n` of them, is written and not dropped. -/
def Cmd.writesSome (m : Cmd) (d : Geo) (i k n : Nat) : Bool :=
  (List.range n).any (fun j => let p := travElem d.trav d.d0 d.d1 (k + j); m.dstPlace d i p.1 p.2 != .drop)

/-- Nothing is written from index `k` of tile `i` on, in that tile and the `fuel` tiles after it: every element there is dropped (R89), as far as
the list entries of a `cpys` say now. -/
def State.restDropped (s : State) (c root : Nat) (m : Cmd) (d : Geo) : Nat → Nat → Nat → Bool
  | 0, i, k => !m.writesSome d i k (m.tile - k)
  | fuel + 1, i, k =>
    !m.writesSome d i k (m.tile - k) &&
    (if m.kind = .cpys then
      match s.listEntry c root m (i + 1) with
      | .ok bs => s.restDropped c root { m with buf := bs } d fuel (i + 1) 0
      | .error _ => false
    else s.restDropped c root m d fuel (i + 1) 0)

/-- The piece up to index `upTo` holds the copy's last write (R146): the element with the highest index that is not dropped. A skipped piece counts
as written. -/
def State.lastWrite (s : State) (c root : Nat) (m : Cmd) (skip : Bool) (upTo : Nat) : Bool :=
  match m.dst with
  | none => false
  | some d =>
    if m.identity || d.layout.isNone || !(flagClamp m.flags || d.clamp || flagZero m.flags) then decide (m.total ≤ upTo)
    else
      (skip || m.writesSome d (m.prog / m.tile) (m.prog % m.tile) (upTo - m.prog)) &&
      (decide (m.total ≤ upTo) || s.restDropped c root (if upTo % m.tile = 0 then { m with buf := [] } else m) d (m.n - 1 - m.prog / m.tile)
        (m.prog / m.tile) (upTo - m.prog / m.tile * m.tile))

/-- The piece up to index `upTo` ends with the release write of the command (R146); a tile-atomic store's is that of its version word (R149). -/
def State.releases (s : State) (c root : Nat) (m : Cmd) (skip : Bool) (upTo : Nat) : Bool :=
  flagRel m.flags && m.storeVer.isNone && s.lastWrite c root m skip upTo

/-- The piece moved: the state, with the command's progress and frontier; `rel`: its last write is a release. A tile read tile-atomically is compared
with its version word, and read again where that has changed, before its own store is closed (R149, R150); with `skip`, a word that cannot be reached
is passed over. -/
def State.copyDone (s : State) (c root : Nat) (m : Cmd) (skip : Bool) (upTo : Nat) (rel : Bool) : Stepped :=
  let tileEnd := decide (upTo % m.tile = 0)
  let scope := flagScope m.flags
  let check : Except Fail (State × Bool) := if tileEnd then (match m.readVerAddr, m.readVer with
    | some va, some v => (match s.readWord c root va with
      | .error f => if skip then .ok (s, true) else .error f
      | .ok (t, w) => .ok (t.flagAcquire c scope, w == v.toNat))
    | _, _ => .ok (s, true)) else .ok (s, true)
  match check with
  | .error f => .fail (m.atSource f) m.prog s
  | .ok (s, false) => .done (s.putCmd c { m with prog := upTo - m.tile, readVer := none })
  | .ok (s, true) =>
    let ended : Except Fail (State × Cmd) := if tileEnd then (match m.storeVer with
      | some va => (match s.closeTile c root m va scope with
        | .error f => if skip then .ok (s, { m with opened := none }) else .error f
        | r => r)
      | none => .ok (s, m)) else .ok (s, m)
    match ended with
    | .error f => .fail (m.atDest f) m.prog s
    | .ok (s, m) =>
      let last := decide (m.total ≤ upTo)
      let s := if rel then s.flagRelease c scope else s
      let f := if m.readVerAddr.isSome && !tileEnd && !skip then s.frontier c m else upTo
      let m := { m with prog := upTo, readVer := if tileEnd then none else m.readVer, buf := if tileEnd then [] else m.buf
                        st := if last then .finished else m.st }
      .done ((s.putCmd c m).publishTo c m f skip)

/-- Elements `els` of tile `i`, a piece that ends at `upTo`, moved once their chases hold: the acquire of the first read comes before it (R146). -/
def State.copyPieceOf (s : State) (c root : Nat) (m : Cmd) (d : Geo) (i : Nat) (els : List Nat) (upTo : Nat) (skip blank : Bool) : Stepped :=
  let chases := match m.src with
    | some g => if blank then [] else els.map (fun k => let p := travElem d.trav d.d0 d.d1 k; s.copyChase c m g i p.1 p.2)
    | none => []
  match chaseHindrance (match m.src with | some g => g.chaseTag | none => 0) chases with
  | some h => h
  | none =>
    let opened : Except Fail (Option (State × Cmd)) := match m.storeVer with
      | some va => s.openTile c root m va (flagScope m.flags)
      | none => .ok (some (s, m))
    match opened with
    | .error f => if skip then s.copyDone c root m true upTo (s.releases c root m true upTo) else .fail (m.atDest f) m.prog s
    | .ok none => .wait
    | .ok (some (s, m)) =>
      let s := if m.prog = 0 ∧ flagAcq m.flags ∧ m.src.isSome then s.flagAcquire c (flagScope m.flags) else s
      let rel := s.releases c root m skip upTo
      if m.identity then (s.putCmd c m).copyDone c root m skip upTo rel
      else
        let last := if rel then els.reverse.find? (fun k => let p := travElem d.trav d.d0 d.d1 k; m.dstPlace d i p.1 p.2 != .drop) else none
        match copyElems c root m d i skip blank last els s with
        | .error (f, left) => .fail f m.prog (partly (s.putCmd c m) (left.putCmd c m))
        | .ok s => s.copyDone c root m skip upTo rel

/-- The next piece of a copy. DESIGN CHOICE: after a skip of a list entry that failed, the next piece of the tile reads the entry again, and
halts there where it fails again (R253; log entry 95). -/
def State.copyStep (s : State) (c : Nat) (m : Cmd) : Stepped :=
  match m.dst with
  | none => .wait
  | some d =>
    let root := s.cmdRoot c m
    let n := m.tile
    let i := m.prog / n
    let j := m.prog % n
    let e := pieceEnd (travLine d.trav d.d0 d.d1) d.w j n
    let els := (List.range (e - j)).map (fun k => j + k)
    let upTo := i * n + e
    let skip := m.skip.contains m.prog
    let entry : Except (Fail × State) (State × Cmd) := if isList m.kind && m.buf.isEmpty then
        (match s.readEntry c root m i with | .error f => .error f | .ok (t, bs) => .ok (t, { m with buf := bs }))
      else .ok (s, m)
    match entry with
    | .error (f, s) =>
      if !skip then .fail f m.prog s
      else if m.kind = .cpys then s.copyDone c root m true upTo (s.releases c root m true upTo)
      else s.copyPieceOf c root m d i els upTo true true
    | .ok (s, m) =>
      let begun : Except Fail (Option (State × Cmd)) := match m.readVerAddr with
        | some va => s.beginRead c root m va (flagScope m.flags)
        | none => .ok (some (s, m))
      match begun with
      | .error f => if skip then s.copyPieceOf c root m d i els upTo true true else .fail (m.atSource f) m.prog s
      | .ok none => .wait
      | .ok (some (s, m)) => s.copyPieceOf c root m d i els upTo skip false

end Sys2Proof.Machine
end

