-- ==== Sys2Proof/Machine/EngineMatrix.lean ====
section
/-! DEFINITION. What the matrix and projection engines do: products by k-chunks (R53, R54, R329 to R335), `mzero` (R336), drains by rows and by
contributions (R310, R320 to R322, R337 to R340), `padj` (R323, R342), `hist` (R63, R344) and job cards (R378 to R384). -/

namespace Sys2Proof.Machine

/-! ### Small things -/

/-- What a lasting error has destroyed of a command: its entry in its queue or engine, its tag, or a tag it chases (R271). -/
def State.brokenAt (s : State) (c : Nat) (m : Cmd) : Option ErrSite :=
  if m.lost then some (.command c m.id)
  else match tget (s.core c).teams m.team with
    | some t => ((m.tag.toList.map (fun q => q.1) ++ m.chases.map (fun q => q.1)).find? t.lostTags.contains).map (fun n => .tag c m.team n)
    | none => none

/-- The command a piece of engine work belongs to, while it runs; one that has lost something it reads makes no step but to halt. -/
def State.runningCmd (s : State) (c id : Nat) (p : CmdKind → Bool) : Option Cmd :=
  match (s.core c).cmd id with
  | some m => if m.st = CmdState.running ∧ p m.kind = true ∧ (s.brokenAt c m).isNone = true then some m else none
  | none => none

/-- A step taken where it can be; otherwise nothing happens. -/
def Stepped.orElse (r : Stepped) (s : State) : State := match r with | .done t => t | _ => s

/-- All values, or the first failure. -/
def allOk {α : Type} : List (Except Fail α) → Except Fail (List α)
  | [] => .ok []
  | .error f :: _ => .error f
  | .ok a :: r => (match allOk r with | .ok t => .ok (a :: t) | .error f => .error f)

/-- An accumulator's cells with one element set; +0 is not listed. -/
def cellPut (cells : Table W32) (i : Nat) (v : W32) : Table W32 := if v = 0 then tdel cells i else tput cells i v

/-- Accumulator `a` of core `c`, an element's bits. -/
def State.cell (s : State) (c a i j : Nat) : Nat := ((tget (vget (s.core c).accs a Acc.zero).cells (i * 128 + j)).getD 0).toNat

/-! ### Products (R329 to R335) -/

/-- The chase condition of an element of a source stream, at the place it is read from (R118): one that cannot be read meets it. -/
def State.elemChase (s : State) (c b : Nat) (g : Geo) (x y : Nat) : Chase :=
  match g.place g.org x y y g.clamp false false with
  | .at_ bit _ _ => (s.core c).chaseOf b g bit
  | _ => .met

/-- An operand element's exact value (R41, R44, R45, R48); FORMAT for a reserved code under substitute 2. DESIGN CHOICE: the reserved substitute 3
is used where a reserved code is decoded, and raises FORMAT there only (R47; log entry 122). -/
def State.operand (s : State) (c b : Nat) (g : Geo) (x y : Nat) : Except Fail Num :=
  let co : List Int := [(x : Int), (y : Int)]
  match s.readPlace c 0 b g (.at_ (g.bitOf x y) (g.scaleOf x y) co) with
  | .error f => .error f
  | .ok e =>
    match (if g.fmt = 7 then decodeQ4 (xfSub g.xf) e.scale e.code
      else if g.fmt = 10 then (decodeNarrow g.xf e.code).map Num.ofInt else some (elemNum g.fmt e.code)) with
    | some v => .ok v
    | none => .error { cause := cFORMAT, addr := g.placeVa (.at_ (g.bitOf x y) 0 []), coord := co }

/-- The dense positions of a group's two kept elements (R330); FORMAT for an invalid nibble. -/
def State.nibble (s : State) (c b : Nat) (g : Geo) (x y : Nat) : Except Fail (Nat × Nat) :=
  let a := (g.base + (y : Int) * g.pitch) * 8 + 4 * x
  match s.engBits c 0 b g.space a 4 with
  | .error f => .error { f with coord := [(x : Int), (y : Int)] }
  | .ok v => if v % 4 < v / 4 then .ok (v % 4, v / 4) else .error { cause := cFORMAT, addr := g.placeVa (.at_ a 0 []), coord := [(x : Int), (y : Int)] }

/-- Row `i` of A over dense positions `k0` to `k1`: +0 where `mmasp` prunes (R330). -/
def State.rowA (s : State) (c b : Nat) (a : Geo) (md : Option Geo) (i k0 k1 : Nat) : Except Fail (List Num) :=
  match md with
  | none => allOk ((List.range (k1 - k0)).map (fun t => s.operand c b a (k0 + t) i))
  | some g =>
    let quads := (List.range ((k1 - k0) / 4)).map (fun (t : Nat) =>
      let q := k0 / 4 + t
      match s.nibble c b g q i with
      | .error f => Except.error f
      | .ok p =>
        match s.operand c b a (2 * q) i, s.operand c b a (2 * q + 1) i with
        | .ok u, .ok v => .ok ((List.range 4).map (fun j => if j = p.1 then u else if j = p.2 then v else Num.fin false 0 0))
        | .error f, _ => .error f
        | _, .error f => .error f)
    match allOk quads with
    | .ok qs => .ok qs.flatten
    | .error f => .error f

/-- Column `j` of B; a q4 stream holds Bᵀ (R331). -/
def State.colB (s : State) (c b : Nat) (g : Geo) (j k0 k1 : Nat) : Except Fail (List Num) :=
  allOk ((List.range (k1 - k0)).map (fun t => if g.fmt = 7 then s.operand c b g (k0 + t) j else s.operand c b g j (k0 + t)))

/-- a ← fl32(a + fl32(S)) (R53), or the sum modulo 2^32 (R54). -/
def chunkAdd (isInt : Bool) (a : Nat) (ps : List Num) : Nat :=
  if isInt then wrapTo 32 ((a : Int) + match Num.sum ps with | .fin neg m e => scaled neg m e 0 | _ => 0)
  else fpF32.add a (fpF32.encode (Num.sum ps))

def dotTerms (xs ys : List Num) : List Num := (xs.zip ys).map (fun p => p.1.mul p.2)

/-- The chase conditions of a chunk, stream by stream. DESIGN CHOICE: A's come first, so that a product whose A waits goes on waiting where B, or
the metadata, needs an element beyond an ABORTED tag (R129; log entry 121). -/
def State.productChase (s : State) (c : Nat) (m : Cmd) (a b : Geo) (md : Option Geo) (mm n k0 k1 : Nat) : Option Stepped :=
  let pairs := fun (xs ys : List Nat) => xs.foldl (fun (l : List (Nat × Nat)) x => l ++ ys.map (fun y => (x, y))) []
  let ks := (List.range (k1 - k0)).map (fun t => k0 + t)
  let ks2 := if md.isSome then (List.range ((k1 - k0) / 2)).map (fun t => k0 / 2 + t) else ks
  let bs := if b.fmt = 7 then pairs ks (List.range n) else pairs (List.range n) ks
  match chaseHindrance a.chaseTag ((pairs ks2 (List.range mm)).map (fun p => s.elemChase c m.team a p.1 p.2)) with
  | some h => some h
  | none =>
    match chaseHindrance b.chaseTag (bs.map (fun p => s.elemChase c m.team b p.1 p.2)) with
    | some h => some h
    | none =>
      match md with
      | none => none
      | some g => chaseHindrance g.chaseTag ((pairs ((List.range ((k1 - k0) / 4)).map (fun t => k0 / 4 + t)) (List.range mm)).map
          (fun p => (s.core c).chaseOf m.team g ((g.base + (p.2 : Int) * g.pitch) * 8 + 4 * p.1)))

/-- The data of accumulator `a` was lost before its team was saved (R271): it comes back with the team, and goes when the accumulator is written
afresh. -/
def Core.accGone (k : Core) (a : Nat) : Bool :=
  match k.accOwner.bind (tget k.teams) with
  | some t => t.lostAccs.contains a
  | none => false

/-- Accumulator `a` has lost its data (R271). -/
def State.accLost (s : State) (c a : Nat) : Bool := (s.core c).lostAccs.contains a || (s.core c).accGone a

/-- Accumulator `a` written afresh. -/
def Core.accFresh (k : Core) (a : Nat) : Core :=
  match k.accOwner with
  | some b => (match tget k.teams b with
    | some t => if t.lostAccs.contains a then k.putTeam b { t with lostAccs := t.lostAccs.filter (fun i => i != a) } else k
    | none => k)
  | none => k

/-- The next k-chunk of a product; with the last one the accumulator is written and its busy bit clears. -/
def State.productStep (s : State) (c : Nat) (m : Cmd) : Stepped :=
  match m.src, m.src2, m.acc with
  | some a, some b, some acc =>
    let d := matDims (m.kind == .mmasp) a b
    let len := chunkLen (matClass a.fmt)
    let isInt := matClass a.fmt == 3
    let k0 := m.prog * len
    let k1 := min (k0 + len) d.2.2
    if (s.core c).lostAccs.contains acc || ((s.core c).accGone acc && m.flags % 2 == 0) then .fail (failUnit (.accumulator c acc)) m.prog s else
    match s.productChase c m a b m.src3 d.1 d.2.1 k0 k1 with
    | some h => h
    | none =>
      match allOk ((List.range d.1).map (fun i => s.rowA c m.team a m.src3 i k0 k1)),
            allOk ((List.range d.2.1).map (fun j => s.colB c m.team b j k0 k1)) with
      | .error f, _ => .fail f m.prog s
      | _, .error f => .fail f m.prog s
      | .ok rows, .ok cols =>
        let old := fun (i j : Nat) =>
          if m.prog = 0 then (if m.flags % 2 = 1 then 0 else s.cell c acc i j) else ((tget m.part (i * 128 + j)).getD 0).toNat
        let part : Table W32 := (List.range (d.1 * d.2.1)).map (fun (t : Nat) =>
          let i := t / d.2.1
          let j := t % d.2.1
          (i * 128 + j, BitVec.ofNat 32 (chunkAdd isInt (old i j) (dotTerms (rows.getD i []) (cols.getD j [])))))
        if k1 < d.2.2 then .done (s.putCmd c { m with prog := m.prog + 1, part := part })
        else
          let s := s.modCore c (fun k =>
            let v := vget k.accs acc Acc.zero
            { k.accFresh acc with accs := vset k.accs acc { v with isInt := isInt, cells := part.foldl (fun t e => cellPut t e.1 e.2) v.cells } })
          .done (s.dropCmd c m)
  | _, _, _ => .wait

def isProduct (k : CmdKind) : Bool := k == .mma || k == .mmasp

/-- `MMA_COMPLETE` (R329): the product's next k-chunk; it completes with the last. -/
def State.mmaComplete (s : State) (c id : Nat) : State :=
  match s.runningCmd c id isProduct with
  | some m => (s.productStep c m).orElse s
  | none => s

def execMmaComplete (c k : Nat) (s' : State) : Host.Outcome State Fault Refusal := happen (fun s => s.mmaComplete c k) s'

/-- An `mzero` writes its accumulator; in cells that are destroyed it can write nothing (R272). -/
def State.mzeroStep (s : State) (c : Nat) (m : Cmd) : Stepped :=
  match m.acc.filter (s.core c).lostAccs.contains with
  | some a => .fail (failUnit (.accumulator c a)) m.prog s
  | none =>
    .done ((s.modCore c (fun k => match m.acc with
      | some a => { k.accFresh a with accs := vset k.accs a { vget k.accs a Acc.zero with isInt := false, cells := [] } }
      | none => k)).dropCmd c m)

/-- `MZERO_COMPLETE` (R336) -/
def State.mzeroComplete (s : State) (c id : Nat) : State :=
  match s.runningCmd c id (fun k => k == .mzero) with
  | some m => (s.mzeroStep c m).orElse s
  | none => s

def execMzeroComplete (c k : Nat) (s' : State) : Host.Outcome State Fault Refusal := happen (fun s => s.mzeroComplete c k) s'

/-! ### Rows of a drain or `padj` -/

/-- How many elements, from index 0 up, lie in the first `rows` rows. -/
def leading (trav d0 d1 rows : Nat) : Nat :=
  match trav with
  | 0 => rows * d0
  | 1 => if d1 ≤ rows then d0 * d1 else rows
  | _ => if d1 ≤ rows then d0 * d1 else rows / 4 * (4 * d0)

/-- The frontier once `rows` rows are written (R109, R110). -/
def rowFrontier (g : Geo) (rows : Nat) : Nat :=
  pieceFloor (travLine g.trav g.d0 g.d1) g.w (leading g.trav g.d0 g.d1 rows) (g.d0 * g.d1)

/-- The index at which the piece of element (x, y) begins. -/
def pieceAt (g : Geo) (x y : Nat) : Nat :=
  pieceFloor (travLine g.trav g.d0 g.d1) g.w (travIndex g.trav g.d0 g.d1 x y) (g.d0 * g.d1)

/-- Where a command goes on after it has halted in the piece that begins at `p`: with the row of that piece's first element. The frontier stays
at whole rows (R338), so that no element of the row is yet published (log entry 96). -/
def restartAt (g : Geo) (p : Nat) : Nat := (travElem g.trav g.d0 g.d1 p).2 * g.d0

/-- The values of row `y`; where they cannot be had, the format's zero once every piece of the row is to be skipped (R128), else the first piece
at which the command halts. -/
def rowOr (g : Geo) (skip : List Nat) (y : Nat) : Except Fail (List Nat) → Except (Fail × Nat) (List Nat)
  | .ok row => .ok row
  | .error f => match (List.range g.d0).find? (fun x => !skip.contains (pieceAt g x y)) with
    | some x => .error (f, pieceAt g x y)
    | none => .ok (List.replicate g.d0 0)

/-- The bits a row value is written as (R338). -/
def drainCode (isInt : Bool) (g : Geo) (v : Nat) : Nat :=
  if isInt then
    match g.fmt with
    | 8 => v
    | 9 => wrapTo 16 (max (-32768) (min 32767 (sbits v 0 32)))
    | f => (fpOf f).encode (Num.ofInt (sbits v 0 32))
  else if g.fmt = 0 then v else encodeElem g.fmt g.xf (elemNum 0 v)

/-- Elements `xs` of row `y` written, accesses of contexts coming before any; an error gives the piece and the state it leaves. `last`: the element that
is the command's last write, a release, and its scope (R146). -/
def writeRow (c root b y : Nat) (g : Geo) (skip : List Nat) (row : List Nat) (last : Option (Nat × Nat)) :
    List Nat → State → Except (Fail × Nat × State) State
  | [], s => .ok s
  | x :: r, s =>
    let p := g.place g.org x y y g.clamp false true
    let s := if p = .drop then s else s.between x
    let s := match last with | some (k, scope) => if k = x then s.beforeLast c scope else s | none => s
    match s.writePlace c root b g p false { code := row.getD x 0, scale := 0 } with
    | .ok s => writeRow c root b y g skip row last r s
    | .error f => if skip.contains (pieceAt g x y) then writeRow c root b y g skip row last r s else .error (f, pieceAt g x y, s)

/-- A row has failed in the piece that begins at `p`. -/
def State.rowFailed (s left : State) (c : Nat) (m : Cmd) (g : Geo) (f : Fail) (p : Nat) : Stepped :=
  .fail f p ((partly s left).putCmd c { m with prog := restartAt g p })

/-- Every element of row `y` is dropped (R89). -/
def rowDropped (g : Geo) (y : Nat) : Bool := (List.range g.d0).all (fun x => g.place g.org x y y g.clamp false true == .drop)

/-- Row `y` holds the command's last write (R146): a support record, or an element that is not dropped, with the highest index. -/
def lastRow (m : Cmd) (g : Geo) (y : Nat) : Bool :=
  if m.flags % 2 = 1 ∨ g.layout.isNone ∨ !g.clamp then decide (g.d1 ≤ y + 1)
  else !rowDropped g y && (List.range (g.d1 - (y + 1))).all (fun k => rowDropped g (y + 1 + k))

/-- The command after row `y`: its progress, its frontier, the release of its last write. -/
def State.rowDone (s : State) (c : Nat) (m : Cmd) (g : Geo) (y : Nat) (rel : Bool) : Stepped :=
  let last := decide (g.d1 ≤ y + 1)
  let s := if lastRow m g y && rel then s.flagRelease c m.val.toNat else s
  .done ((s.putCmd c { m with prog := (y + 1) * g.d0, st := if last then .finished else m.st }).publishTo c m (rowFrontier g (y + 1))
    (!m.skip.isEmpty))

/-- 32 bytes of a support record written (R320). -/
def State.putRecord (s : State) (c root b : Nat) (g : Geo) (a : Int) (v : Nat) : Except Fail State := s.engPut c root b g.space (a * 8) 256 v

/-- The support record of row `y` written, and its size counted (R320, R322). -/
def State.support (s : State) (c root : Nat) (m : Cmd) (g : Geo) (y : Nat) (r : ProjRow) : Except (Fail × Nat) (State × Cmd) :=
  match s.putRecord c root m.team g ((g.sbase : Int) + (y : Int) * supStride g) (r.record m.pset) with
  | .ok s =>
    let part := tput m.part y (BitVec.ofNat 32 r.size)
    .ok (s, { m with part := part, sum := (part.map (fun e => e.2.toNat)).sum })
  | .error f =>
    let p := pieceAt g (g.d0 - 1) y
    if m.skip.contains p then .ok (s, m) else .error ({ f with layout := g.layoutAddr, coord := [0, (y : Int)] }, p)

/-- The next row of a drain (R310, R338); every row is computed again from the accumulator after a halt (R326). -/
def State.drainStep (s : State) (c : Nat) (m : Cmd) : Stepped :=
  match m.dst, m.acc with
  | some g, some a =>
    let root := s.cmdRoot c m
    let y := m.prog / g.d0
    let isInt := (vget (s.core c).accs a Acc.zero).isInt
    let r := projectRow m.pset m.pj ((List.range g.d0).map (fun x => s.cell c a y x))
    match rowOr g m.skip y (if s.accLost c a then .error (failUnit (.accumulator c a)) else .ok (r.y.map (drainCode isInt g))) with
    | .error (f, p) => s.rowFailed s c m g f p
    | .ok row =>
    let rel := m.flags / 8 % 2 == 1
    let sup := m.flags % 2 == 1
    let last := if rel && !sup && lastRow m g y then
        ((List.range g.d0).reverse.find? (fun x => g.place g.org x y y g.clamp false true != .drop)).map (fun x => (x, m.val.toNat))
      else none
    match writeRow c root m.team y g m.skip row last (List.range g.d0) s with
    | .error (f, p, left) => s.rowFailed left c m g f p
    | .ok t =>
      if sup && !s.accLost c a then
        match (if rel && lastRow m g y then t.beforeLast c m.val.toNat else t).support c root m g y r with
        | .error (f, p) => s.rowFailed t c m g f p
        | .ok (t, m) => t.rowDone c m g y rel
      else t.rowDone c m g y rel
  | _, _ => .wait

def isRed (m : Cmd) : Bool := m.flags / 2 % 2 == 1

/-- `DRAIN_ROW` (R310) -/
def State.drainRow (s : State) (c id : Nat) : State :=
  match s.runningCmd c id (fun k => k == .drain) with
  | some m => if isRed m then s else (s.drainStep c m).orElse s
  | none => s

def execDrainRow (c k : Nat) (s' : State) : Host.Outcome State Fault Refusal := happen (fun s => s.drainRow c k) s'

/-! ### Contributions (R339, R340) -/

/-- Contributions a slice holds. -/
def State.detUsed (s : State) (pa : Nat) : Nat :=
  ((s.det.filter (fun b => homeDie b.pa == homeDie pa && sliceOf b.pa == sliceOf pa)).map (fun b => b.got.length)).sum

/-- Contributions in the order of R59: core, context, order of issue. -/
def detBefore (a b : Nat × Nat × Nat × W32) : Bool :=
  a.1 < b.1 || (a.1 == b.1 && (a.2.1 < b.2.1 || (a.2.1 == b.2.1 && a.2.2.1 < b.2.2.1)))

def detInsert (a : Nat × Nat × Nat × W32) : List (Nat × Nat × Nat × W32) → List (Nat × Nat × Nat × W32)
  | [] => [a]
  | b :: r => if detBefore a b then a :: b :: r else b :: detInsert a r

/-- One contribution added to a value (R57, R58). -/
def contribute (isInt : Bool) (old v : Nat) : Nat := if isInt then (old + v) % 2 ^ 32 else fpF32.add old v

/-- A buffer holds a contribution of a command. -/
def DetBuf.holds (b : DetBuf) (c id : Nat) : Bool := b.who.any (fun w => w.1 == c && w.2.1 == id)

/-- The buffers of `ready` that may close now: the last write of a releasing command follows its other writes (R146), so its buffer closes with
the last of theirs, or after them. -/
def detClosing (all : List DetBuf) : Nat → List DetBuf → List DetBuf
  | 0, ready => ready
  | fuel + 1, ready => detClosing all fuel (ready.filter (fun b =>
      b.rels.all (fun r => all.all (fun o => ready.contains o || !o.holds r.1 r.2.1))))

/-- A buffer closes with the sum of R59; at a location lost since, nothing is written, and each context that contributed takes MCHK (R271 to
R273). -/
def State.detClose (s : State) (b : DetBuf) : State :=
  match (span b.pa 4).find? s.isLost with
  | some p => b.who.foldl (fun s w => s.postLoss w.1 w.2.1 (w.2.2 + (p - b.pa)) p) s
  | none =>
    let c := match b.got with | e :: _ => e.1 | [] => 0
    let r := (s.whole c 4 (span b.pa 4)).homeRead c (span b.pa 4)
    r.1.homeWrites c (span b.pa 4) (b.got.foldl (fun v e => contribute b.isInt v e.2.2.2.toNat) r.2)

/-- Every buffer that is full, and may, closes; the releases of last writes follow the writes (R146, R340; log entry 50), but for a
saved team's, whose writes were published when it was saved. -/
def State.detSettle (s : State) : State :=
  let full := s.det.filter (fun b => decide (b.count ≤ b.got.length))
  let now := detClosing s.det full.length full
  let s := { s with det := s.det.filter (fun b => !now.contains b) }
  let s := now.foldl State.detClose s
  now.foldl (fun (s : State) b => b.rels.foldl (fun s r => if r.1 < 256 then s.flagRelease r.1 r.2.2 else s) s) s

/-- A contribution accepted into the open buffer of its count; `rel` names its command where it is that command's last write, a release. -/
def State.detAccept (s : State) (va pa count : Nat) (isInt : Bool) (a : Nat × Nat × Nat × W32) (rel : Option (Nat × Nat × Nat)) : State :=
  let mine := fun (b : DetBuf) => b.pa == pa && b.count == count && decide (b.got.length < count)
  let old := (s.det.find? mine).getD { pa := pa, count := count, isInt := isInt, got := [], rels := [], who := [] }
  let me := (a.1, a.2.2.1 / 2 ^ 20, va)
  let who := if old.who.contains me then old.who else old.who ++ [me]
  { s with det := s.det.filter (fun b => !mine b) ++ [{ old with got := detInsert a old.got, rels := old.rels ++ rel.toList, who := who }] }.detSettle

/-- The first physical byte of a contribution's location; `none`: dropped under R89. -/
def State.redPlace (s : State) (c root : Nat) (g : Geo) (x y : Nat) : Except Fail (Option Nat) :=
  match g.place g.org x y y g.clamp false true with
  | .at_ bit _ co =>
    let va := addrOf (Int.ediv bit 8)
    let dress := fun (f : Fail) => { f with layout := g.layoutAddr, coord := co }
    (match s.xlatSpan c root va 4 .write with
     | .error (a, q) => .error (dress (s.failXlat a q))
     | .ok pas =>
       match pas.find? s.isLost with
       | some p => .error (dress (s.failLost va pas p))
       | none => if pas.any isHost then .error (dress { cause := cPROT, addr := va }) else .ok pas.head?)
  | .bound co => .error { cause := cBOUND, layout := g.layoutAddr, coord := co }
  | _ => .ok none

/-- One contribution performed or accepted, and then `go`; it waits at a slice whose buffers are full. A location lost since the piece began, at
address `va`, takes no contribution, and the context takes MCHK (R271). -/
def State.redSend (s : State) (c : Nat) (m : Cmd) (va pa : Nat) (isInt : Bool) (v : Nat) (last : Bool) (go : State → Stepped) : Stepped :=
  match (span pa 4).find? s.isLost with
  | some q => go (s.postLoss c m.id (va + (q - pa)) q)
  | none =>
    if m.n = 0 then
      let p := (s.whole c 4 (span pa 4)).homeRead c (span pa 4)
      go (p.1.homeWrites c (span pa 4) (contribute isInt p.2 v))
    else if 16384 ≤ s.detUsed pa then .wait
    else go (s.detAccept va pa m.n isInt (c, m.ctx, m.id * 2 ^ 20 + m.prog, BitVec.ofNat 32 v) (if last then some (c, m.id, m.val.toNat) else none))

/-- The translations of a piece's locations join the TLBs (R104). -/
def State.noteElems (s : State) (c root : Nat) (g : Geo) (is : List Nat) : State :=
  is.foldl (fun s i =>
    let p := travElem g.trav g.d0 g.d1 i
    match g.place g.org p.1 p.2 p.2 g.clamp false true with
    | .at_ bit _ _ => s.noteSpan c root (addrOf (Int.ediv bit 8)) 4
    | _ => s) s

/-- A piece's contributions, (place + 1) × 2^32 + value or 0 for none: all are translated before the first is sent (R126); with `skip`, one whose
place fails is dropped, and a value that cannot be read is 0 (R128). -/
def State.redPiece (s : State) (c root a : Nat) (g : Geo) (skip : Bool) (is : List Nat) : Except Fail (List Nat) :=
  if s.accLost c a && !skip then .error (failUnit (.accumulator c a))
  else allOk (is.map (fun i =>
    let p := travElem g.trav g.d0 g.d1 i
    match s.redPlace c root g p.1 p.2 with
    | .ok (some pa) => Except.ok ((pa + 1) * 2 ^ 32 + if s.accLost c a then 0 else s.cell c a p.2 p.1)
    | .ok none => .ok 0
    | .error f => if skip then .ok 0 else .error f))

/-- The next contribution of a reduce-drain, in the destination traversal. -/
def State.redStep (s : State) (c : Nat) (m : Cmd) : Stepped :=
  match m.dst, m.acc with
  | some g, some a =>
    let n := g.d0 * g.d1
    let i := m.prog
    let e := pieceEnd (travLine g.trav g.d0 g.d1) g.w i n
    let p := pieceFloor (travLine g.trav g.d0 g.d1) g.w i n
    let skip := m.skip.contains p
    let at_ := travElem g.trav g.d0 g.d1 i
    let s := if m.chunks.isEmpty then s.noteElems c (s.cmdRoot c m) g ((List.range (e - i)).map (fun t => i + t)) else s
    match (if m.chunks.isEmpty then s.redPiece c (s.cmdRoot c m) a g skip ((List.range (e - i)).map (fun t => i + t)) else .ok m.chunks) with
    | .error f => .fail f p s
    | .ok sends =>
      let here := sends.getD (i - p) 0
      let last := decide (n ≤ i + 1)
      let rel := last && m.flags / 8 % 2 == 1
      let go := fun (t : State) =>
        let t := if rel && (m.n == 0 || here == 0) then t.flagRelease c m.val.toNat else t
        let t := t.putCmd c { m with prog := i + 1, chunks := if i + 1 = e then [] else sends, st := if last then .finished else m.st }
        Stepped.done (if i + 1 = e then t.publishTo c m e skip else t)
      if here = 0 then go s
      else s.redSend c m (addrOf (Int.ediv (g.bitOf at_.1 at_.2) 8)) (here / 2 ^ 32 - 1) (vget (s.core c).accs a Acc.zero).isInt (here % 2 ^ 32) rel go
  | _, _ => .wait

/-- `REDUCE_CONTRIBUTION` (R339, R340) -/
def State.reduceContribution (s : State) (c id : Nat) : State :=
  match s.runningCmd c id (fun k => k == .drain) with
  | some m => if isRed m then (s.redStep c m).orElse s else s
  | none => s

def execReduceContribution (c k : Nat) (s' : State) : Host.Outcome State Fault Refusal := happen (fun s => s.reduceContribution c k) s'

/-! ### padj (R323, R342) -/

/-- A row of a stream of format 0 to 6 read as f32. -/
def State.floatRow (s : State) (c root b : Nat) (g : Geo) (y : Nat) : Except Fail (List Nat) :=
  allOk ((List.range g.d0).map (fun x =>
    match s.readPlace c root b g (g.place g.org x y y g.clamp false false) with
    | .error f => Except.error f
    | .ok e => .ok (if g.fmt = 0 then e.code else fpF32.encode (elemNum g.fmt e.code))))

/-- The address of the record of row `y`. -/
def recordBit (g : Geo) (y : Nat) : Int := (g.base + (y : Int) * recPitch g) * 8

/-- What hinders row `y`: the chase conditions of its gradient and of every element that begins in its record. -/
def State.padjChase (s : State) (c b : Nat) (g r : Geo) (y : Nat) : Option Stepped :=
  match chaseHindrance g.chaseTag ((List.range g.d0).map (fun x => s.elemChase c b g x y)) with
  | some h => some h
  | none => chaseHindrance r.chaseTag ((List.range (256 / max r.w 1)).map (fun (t : Nat) => (s.core c).chaseOf b r (recordBit r y + t * r.w)))

/-- The support record of row `y`; FORMAT for one R323 refuses. -/
def State.padjRecord (s : State) (c root : Nat) (m : Cmd) (d r : Geo) (y : Nat) : Except Fail Nat :=
  match s.engBits c root m.team r.space (recordBit r y) 256 with
  | .error f => .error { f with layout := r.layoutAddr, coord := [0, (y : Int)] }
  | .ok v => if supportOk m.pj v d.d0 then .ok v else .error { cause := cFORMAT, addr := r.placeVa (.at_ (recordBit r y) 0 []), layout := r.layoutAddr, coord := [0, (y : Int)] }

/-- The adjoint row `y` from its record, as the codes of D; the forward row is read where the record is active. -/
def State.padjRowOf (s : State) (c root : Nat) (m : Cmd) (d g : Geo) (y v : Nat) : Except Fail (List Nat) :=
  let fwd : Except Fail (List Nat) := if bits v 195 1 = 1 then s.floatRow c root m.team d y else .ok []
  match s.floatRow c root m.team g y, fwd with
  | .error f, _ => .error f
  | _, .error f => .error f
  | .ok gs, .ok ys => .ok ((adjointRow m.pj v gs ys s.free).map (drainCode false d))

/-- A row computed before a halt, which may since have been overwritten (R323, R326). -/
def Cmd.keptRow (m : Cmd) (d : Geo) (y : Nat) : Option (List Nat) :=
  if (tget m.part (y * d.d0)).isSome then some ((List.range d.d0).map (fun x => ((tget m.part (y * d.d0 + x)).getD 0).toNat)) else none

/-- The command with the values of row `y` kept. -/
def Cmd.keepRow (m : Cmd) (d : Geo) (y : Nat) (row : List Nat) : Cmd :=
  { m with part := (row.zip (List.range row.length)).foldl (fun t e => tput t (y * d.d0 + e.2) (BitVec.ofNat 32 e.1)) m.part }

/-- Row `y` of a `padj` has failed in the piece that begins at `p`. In ROW order the pieces before it are complete: the frontier has passed them,
and the command goes on with this one; in another order it goes on with the row (R126, R128). -/
def State.padjFailed (s left : State) (c : Nat) (m : Cmd) (d : Geo) (f : Fail) (p : Nat) : Stepped :=
  if d.trav = 0 then .fail f p (((partly s left).putCmd c { m with prog := p }).publishTo c m p (!m.skip.isEmpty))
  else s.rowFailed left c m d f p

/-- The columns of row `y` still to be written, and those of them before the piece that begins at `p`. -/
def Cmd.columns (m : Cmd) (d : Geo) : List Nat := (List.range d.d0).filter (fun x => d.trav != 0 || decide (m.prog % d.d0 ≤ x))
def columnsBefore (d : Geo) (y p : Nat) (xs : List Nat) : List Nat := xs.filter (fun x => d.trav == 0 && decide (pieceAt d x y < p))

/-- Row `y` written; where it cannot be computed, or written, the command halts, in ROW order after the pieces before the one that failed: a skipped
one holds zeros. -/
def State.padjWrite (s : State) (c root : Nat) (m : Cmd) (d : Geo) (y : Nat) (r : Except Fail (List Nat)) : Stepped :=
  let xs := m.columns d
  match rowOr d m.skip y r with
  | .error (f, p) =>
    (match writeRow c root m.team y d m.skip (List.replicate d.d0 0) none (columnsBefore d y p xs) s with
     | .ok t => t.padjFailed t c m d f p
     | .error (_, _, left) => left.padjFailed left c m d f p)
  | .ok row =>
    let m := m.keepRow d y row
    match writeRow c root m.team y d m.skip row none xs s with
    | .error (f, p, left) =>
      (match writeRow c root m.team y d m.skip row none (columnsBefore d y p xs) s with
       | .ok t => t.padjFailed left c m d f p
       | .error (_, _, t) => t.padjFailed left c m d f p)
    | .ok t => t.rowDone c m d y false

/-- A `padj` comes to what it reads for row `y`: its gradient, its record, the forward row. -/
def State.padjReach (s : State) (c root : Nat) (d g r : Geo) (y : Nat) : State :=
  let row := fun (s : State) (g : Geo) => (List.range g.d0).foldl (fun s x => s.reachPlace c root g (g.place g.org x y y g.clamp false false)) s
  let s := row (row s g) d
  if r.space = 0 then s.noteSpan c root (addrOf (Int.ediv (recordBit r y) 8)) 32 else s

/-- The next row of `padj`. -/
def State.padjStep (s : State) (c : Nat) (m : Cmd) : Stepped :=
  match m.dst, m.src, m.src2 with
  | some d, some g, some r =>
    let root := s.cmdRoot c m
    let y := m.prog / d.d0
    match m.keptRow d y with
    | some row => s.padjWrite c root m d y (.ok row)
    | none =>
      match s.padjChase c m.team g r y with
      | some h => h
      | none =>
        let s := s.padjReach c root d g r y
        match s.padjRecord c root m d r y with
        | .error f => s.padjWrite c root m d y (.error f)
        | .ok v =>
          match (if bits v 195 1 = 1 then chaseHindrance d.chaseTag ((List.range d.d0).map (fun x => s.elemChase c m.team d x y)) else none) with
          | some h => h
          | none => s.padjWrite c root m d y (s.padjRowOf c root m d g y v)
  | _, _, _ => .wait

/-- `PADJ_ROW` (R323) -/
def State.padjRow (s : State) (c id : Nat) : State :=
  match s.runningCmd c id (fun k => k == .padj) with
  | some m => (s.padjStep c m).orElse s
  | none => s

def execPadjRow (c k : Nat) (s' : State) : Host.Outcome State Fault Refusal := happen (fun s => s.padjRow c k) s'

/-! ### hist (R63, R344, R345) -/

/-- The bin of a value under base exponent `b` (R63). -/
def histBin (b : Int) (x : Num) : Nat :=
  match x with
  | .fin _ m e =>
    if m = 0 then 0
    else
      let k := e + (Nat.log2 m : Int)
      if k < b then 0 else if b + 29 < k then 31 else (k - b + 1).toNat
  | _ => 31

/-- The next element of a `hist`: a piece is begun once the chases of all its elements hold, so that it can be ended (R301). DESIGN CHOICE: the
reserved substitute 3 raises FORMAT once a reserved code is decoded (R47; log entry 122). -/
def State.histStep (s : State) (c : Nat) (m : Cmd) : Stepped :=
  match m.src with
  | none => .wait
  | some g =>
    let root := s.cmdRoot c m
    let n := g.d0 * g.d1
    let p := travElem g.trav g.d0 g.d1 m.prog
    let place := fun (i : Nat) => let q := travElem g.trav g.d0 g.d1 i; g.place g.org q.1 q.2 q.2 g.clamp false true
    let rest := (List.range (pieceEnd (travLine g.trav g.d0 g.d1) g.w m.prog n - m.prog)).map (fun k => match place (m.prog + k) with
      | .at_ b _ _ => (s.core c).chaseOf m.team g b
      | _ => .met)
    let next := fun (t : State) (k : Nat) =>
      Stepped.done (t.putCmd c { m with prog := m.prog + 1, sum := m.sum + k, st := if n ≤ m.prog + 1 then .finished else m.st })
    match g.place g.org p.1 p.2 p.2 g.clamp false true with
    | .at_ bit sc co =>
      (match chaseHindrance g.chaseTag rest with
       | some h => h
       | none =>
         let s := s.reachPlace c root g (.at_ bit sc co)
         match s.readPlace c root m.team g (.at_ bit sc co) with
         | .error f => .fail f 0 s
         | .ok e =>
           match (if g.fmt = 7 then decodeQ4 (xfSub g.xf) e.scale e.code else some (elemNum g.fmt e.code)) with
           | none => .fail { cause := cFORMAT, addr := g.placeVa (.at_ bit sc co), layout := g.layoutAddr, coord := co } 0 s
           | some x =>
             let va := m.list + 4 * histBin m.val.toInt x
             let dress := fun (f : Fail) => { f with layout := g.layoutAddr, coord := co }
             match s.xlatSpan c root va 4 .write with
             | .error (a, q) => .fail (dress (s.failXlat a q)) 0 s
             | .ok pas =>
               match pas.find? s.isLost with
               | some q => .fail (dress (s.failLost va pas q)) 0 s
               | none =>
                 if pas.any isHost then .fail (dress { cause := cPROT, addr := va }) 0 s else
                 let r := (s.reach c root va 4).homeRead c pas
                 next (r.1.homeWrites c pas (min (r.2 + 1) (2 ^ 32 - 1))) 1)
    | .bound co => .fail { cause := cBOUND, layout := g.layoutAddr, coord := co } 0 s
    | _ => next s 0

/-- `HIST_UPDATE` (R344) -/
def State.histUpdate (s : State) (c id : Nat) : State :=
  match s.runningCmd c id (fun k => k == .hist) with
  | some m => (s.histStep c m).orElse s
  | none => s

def execHistUpdate (c k : Nat) (s' : State) : Host.Outcome State Fault Refusal := happen (fun s => s.histUpdate c k) s'

/-! ### Job cards (R376 to R384) -/

/-- The core that runs a card: its own, or the one that replays it (R382). -/
def Cmd.cardCore (m : Cmd) (c : Nat) : Nat := if m.chan = 0 then c else m.chan - 1

/-- R53 from `a` over `ps`, in chunks of 16. -/
def dot16 (a : Nat) (ps : List Num) : Nat :=
  (List.range ((ps.length + 15) / 16)).foldl (fun v i => chunkAdd false v ((ps.drop (16 * i)).take 16)) a

/-- `n` bf16 values from byte address `va`. -/
def State.bf16Row (s : State) (c root va n : Nat) : Except Fail (List Nat) :=
  allOk ((List.range n).map (fun j => s.engBits c root 0 0 (((va + 2 * j : Nat) : Int) * 8) 16))

def bfNum (c : Nat) : Num := fpBf16.decode c

/-- A row's partial triple (R378). -/
structure Triple where
  m : Nat
  l : Nat
  o : List Nat
  deriving DecidableEq, Repr

/-- −∞ in f32. -/
def f32NegInf : Nat := 0xFF800000

/-- One block's part in a row: the query row, the block's keys and values. -/
def cardBlock (scale : Nat) (q : List Nat) (ks vs : List (List Nat)) (t : Triple) : Triple :=
  let qs := q.map bfNum
  let ss := ks.map (fun k => fpF32.mul scale (dot16 0 (dotTerms qs (k.map bfNum))))
  let m' := ss.foldl fpF32.max t.m
  let al := sfLane 1 0 false (fpF32.sub t.m m')
  let ps := ss.map (fun x => sfLane 1 0 false (fpF32.sub x m'))
  let pb := ps.map (fun p => bfNum (fpBf16.encode (fpF32.decode p)))
  { m := m', l := fpF32.add (fpF32.mul t.l al) (f32Sum ps)
    o := (List.range t.o.length).map (fun j =>
      dot16 (fpF32.mul (t.o.getD j 0) al) (dotTerms pb (vs.map (fun v => bfNum (v.getD j 0))))) }

/-- Keys or values of `v` tokens of cache block `b` (R377). -/
def State.cardTokensOf (s : State) (c root r base b v : Nat) : Except Fail (List (List Nat)) :=
  allOk ((List.range v).map (fun t =>
    s.bf16Row c root (base + ((b * cardHeads r + cardHead r) * cardTokens r + t) * 2 * cardDim r) (cardDim r)))

/-- The blocks from entry `i` on, `fuel` of them; a failure with its entry index. -/
def State.cardBlocks (s : State) (c root r : Nat) (qs : List (List Nat)) : Nat → Nat → List Triple → Except (Fail × Nat) (List Triple)
  | 0, _, ts => .ok ts
  | fuel + 1, i, ts =>
    let va := cardTable r + 4 * i
    match s.engBits c root 0 0 ((va : Int) * 8) 32 with
    | .error f => .error (f, i)
    | .ok b =>
      if cardBound r ≤ b then .error ({ cause := cBOUND, addr := va }, i)
      else
        let v := min (cardTokens r) (cardSeq r - i * cardTokens r)
        match s.cardTokensOf c root r (cardKeys r) b v, s.cardTokensOf c root r (cardValues r) b v with
        | .error f, _ => .error (f, i)
        | _, .error f => .error (f, i)
        | .ok ks, .ok vs =>
          s.cardBlocks c root r qs fuel (i + 1) ((qs.zip ts).map (fun p => cardBlock (cardScale r) p.1 ks vs p.2))

/-- The output rows written in order. -/
def cardStore (c root out d : Nat) : List (Nat × Nat × Nat) → State → Except Fail State
  | [], s => .ok s
  | (i, j, v) :: r, s =>
    match (s.between (i * d + j)).engPut c root 0 0 (((out + i * 4 * d + 4 * j : Nat) : Int) * 8) 32 v with
    | .ok s => cardStore c root out d r s
    | .error f => .error f

/-- The bytes a card's store has left, those of its version word among them, in the L1 copies of the core that issued it (R147): another core has
stored them. -/
def State.cardSeen (s : State) (c rc root ver : Nat) (pas : List Nat) : State :=
  let pas := pas ++ (match s.xlatSpan rc root ver 8 .read with | .ok ps => ps | .error _ => [])
  if rc = c then s else s.modCore c (fun k => pas.foldl (fun k pa => k.l1Update pa (s.dieRead (dieOf rc) pa)) k)

/-- The elements a card stores: row, column, value (R378). -/
def cardResult (d : Nat) (ts : List Triple) : List (Nat × Nat × Nat) :=
  (ts.zip (List.range ts.length)).foldl (fun l p => l ++ (List.range d).map (fun j => (p.2, j, f32Div (p.1.o.getD j 0) p.1.l))) []

/-- The engine of core `c` comes to what a card of `n` cache blocks reads: its query rows, its table, its keys and values. -/
def State.cardReach (s : State) (c root r n : Nat) : State :=
  let elems := fun (s : State) (va k : Nat) => (List.range k).foldl (fun s j => s.reach c root (va + 2 * j) 2) s
  let block := fun (s : State) (base b : Nat) =>
    elems s (base + (b * cardHeads r + cardHead r) * cardTokens r * 2 * cardDim r) (cardTokens r * cardDim r)
  let s := (List.range (cardRows r)).foldl (fun s i => elems s (cardQuery r + i * 2 * cardDim r) (cardDim r)) s
  (List.range n).foldl (fun (s : State) i =>
    let s := s.reach c root (cardTable r + 4 * i) 4
    match s.engBits c root 0 0 (((cardTable r + 4 * i : Nat) : Int) * 8) 32 with
    | .ok b => if cardBound r ≤ b then s else block (block s (cardKeys r) b) (cardValues r) b
    | .error _ => s) s

/-- A running card: its first read is an acquire at device scope (R379); it computes its output and stores it tile-atomically (R378); then it
completes. A run on the issuing core uses the card's accumulator (R378), a replay none (R382). -/
def State.cardStep (s : State) (c : Nat) (m : Cmd) : Stepped :=
  let r := leNat m.desc
  let rc := m.cardCore c
  let root := s.cmdRoot c m
  let d := cardDim r
  let n := (cardSeq r + cardTokens r - 1) / cardTokens r
  let s := (s.acquire rc 2).cardReach rc root r n
  match (if m.chan = 0 then m.acc.filter (s.core c).lostAccs.contains else none) with
  | some a => .fail (failUnit (.accumulator c a)) 0 s
  | none =>
  match allOk ((List.range (cardRows r)).map (fun i => s.bf16Row rc root (cardQuery r + i * 2 * d) d)) with
  | .error f => .fail f 0 s
  | .ok qs =>
    match s.cardBlocks rc root r qs n 0 (qs.map (fun _ => { m := f32NegInf, l := 0, o := List.replicate d 0 })) with
    | .error (f, i) => .fail f i s
    | .ok ts =>
      match s.xlatSpan rc root (cardOut r) (cardRows r * d * 4) .write with
      | .error (a, q) => .fail (s.failXlat a q) n s
      | .ok pas =>
        match s.openTile rc root m (cardVersion r) 2 with
        | .error f => .fail f n s
        | .ok none => .wait
        | .ok (some (t, m)) =>
          match cardStore rc root (cardOut r) d (cardResult d ts) t with
          | .error f => .fail f n (t.putCmd c m)
          | .ok t =>
            match t.closeTile rc root m (cardVersion r) 2 with
            | .error f => .fail f n (t.putCmd c m)
            | .ok (t, m) =>
              let t := (t.cardSeen c rc root (cardVersion r) pas).modCore c (fun k => match m.acc with
                | some a => { k.accFresh a with accs := vset k.accs a ((vget k.accs a Acc.zero).unspecified t.free) }
                | none => k)
              .done (t.dropCmd c m)

/-- `CARD_COMPLETE` (R379) -/
def State.cardComplete (s : State) (c id : Nat) : State :=
  match s.runningCmd c id (fun k => k == .jcard) with
  | some m => (s.cardStep c m).orElse s
  | none => s

def execCardComplete (c k : Nat) (s' : State) : Host.Outcome State Fault Refusal := happen (fun s => s.cardComplete c k) s'

/-- A team of launch `l` is resident on a core. -/
def Core.holds (k : Core) (l : Nat) : Bool := k.teams.any (fun t => t.2.launch == l)

/-- The core a re-queued card goes to (R382): not the one whose watchdog expired, which `m.n` names. -/
def State.replayCore (s : State) (c : Nat) (m : Cmd) : Option Nat :=
  match tget (s.core c).teams m.team with
  | some t => (s.cores.find? (fun e => dieOf e.1 == dieOf c && e.1 + 1 != m.n && e.2.holds t.launch)).map (fun e => e.1)
  | none => none

/-- The guest a card of core `c` is on core `t`. -/
def Core.guest (k : Core) (c id : Nat) : Option Guest := k.guests.find? (fun g => g.core == c && g.cmd == id)

/-- The core whose matrix queue or engine holds a card of core `c` as a guest. -/
def State.hostOf (s : State) (c id : Nat) : Option Nat := (s.cores.find? (fun e => (e.2.guest c id).isSome)).map (fun e => e.1)

/-- A re-queued card enters the matrix queue of the core it goes to, behind the commands there, once the queue has room (R382). -/
def State.cardQueue (s : State) (c : Nat) (m : Cmd) : State :=
  match s.replayCore c m with
  | some t =>
    if (s.core t).inQueue 1 < queueDepth 1 then
      s.modCore t (fun k => { k with guests := k.guests ++ [{ core := c, cmd := m.id, before := k.cmdSeq, running := false }] })
    else s
  | none => s

/-- `CARD_WATCHDOG_EXPIRY` (R276): the run is ended; `opened`: its store was under way, and its version word is left broken. The card
goes to another core, unless its replay count would pass 15 (R383). DESIGN CHOICE: a store under way has written none of its rows (log entry 135). -/
def State.cardWatchdog (s : State) (c id : Nat) (opened : Bool) : State :=
  match s.runningCmd c id (fun k => k == .jcard) with
  | some m =>
    let root := s.cmdRoot c m
    let s := if opened then
        (match s.openTile (m.cardCore c) root m m.versionWord 2 with
         | .ok (some (t, m)) => ((t.breakLost c m root).breakVersion (m.cardCore c) m root).cardSeen c (m.cardCore c) root m.versionWord []
         | _ => s)
      else s
    let s := s.modCore c (fun k => match m.acc with
      | some a => { k with accs := vset k.accs a ((vget k.accs a Acc.zero).unspecified s.free) }
      | none => k)
    let s := s.post c m.ctx cWATCHDOG m.bundle { step := 0, cause := cWATCHDOG, addr := m.list, detail := m.replays, kind := 3, syl := m.syl } none false false
    if 15 ≤ m.replays then s.dropCmd c m
    else
      let m := { m with st := .requeued, replays := m.replays + 1, opened := none, n := m.cardCore c + 1 }
      ((s.dropGuest c id).putCmd c m).cardQueue c m
  | none => s

def execCardWatchdogExpiry (c k : Nat) (opened : Bool) (s' : State) : Host.Outcome State Fault Refusal :=
  happen (fun s => s.cardWatchdog c k opened) s'

/-! ### The engines of the matrix queue (R17, R380) -/

/-- The command works on the projection engine; on the matrix engine. A card works on both, by turns (R380). -/
def onProjection (k : CmdKind) : Bool := k == .drain || k == .padj || k == .jcard
def onMatrix (k : CmdKind) : Bool := k == .mzero || k == .mma || k == .mmasp || k == .jcard

/-- A command a slot holds: started, and not yet gone; a card that is replayed elsewhere holds none here. -/
def Cmd.inSlot (m : Cmd) : Bool :=
  (m.st == .running || m.st == .halted || m.st == .finished) && !(m.kind == .jcard && (m.chan != 0 || m.replays != 0))

/-- A slot of the engines `p` picks is taken, by a command of the core or a card it replays. -/
def Core.engaged (k : Core) (p : CmdKind → Bool) : Bool := k.cmds.any (fun m => m.inSlot && p m.kind) || (p .jcard && k.guests.any (fun g => g.running))

/-- The matrix engine, and where the command needs it the projection engine, is free for a command of kind `j`. -/
def Core.matrixFree (k : Core) (j : CmdKind) : Bool := !((onProjection j && k.engaged onProjection) || (onMatrix j && k.engaged onMatrix))

/-- A card waits in the core's matrix queue ahead of the command named `id`. -/
def Core.guestAhead (k : Core) (id : Nat) : Bool := k.guests.any (fun g => !g.running && decide (g.before ≤ id))

/-- The guest is the head of the matrix queue of its core. -/
def Core.guestFirst (k : Core) (g : Guest) : Bool :=
  !(k.cmds.any (fun m => m.kind.queue == some 1 && m.waiting && decide (m.id < g.before))) && (k.guests.find? (fun o => !o.running)) == some g

/-- `CARD_REPLAY_START` (R382): a re-queued card that waits in a core's matrix queue starts there in its turn; one that found no core, or no room,
enters the queue. -/
def State.cardReplay (s : State) (c id : Nat) : State :=
  match (s.core c).cmd id with
  | some m =>
    if m.kind = CmdKind.jcard ∧ m.st = CmdState.requeued then
      match s.hostOf c id with
      | none => s.cardQueue c m
      | some t =>
        match (s.core t).guest c id with
        | some g =>
          if (s.core t).guestFirst g && (s.core t).matrixFree .jcard then
            (s.modCore t (fun k => { k with guests := k.guests.map (fun o => if o = g then { g with running := true } else o) })).putCmd c
              { m with st := .running, chan := t + 1, prog := 0 }
          else s
        | none => s
    else s
  | none => s

def execCardReplayStart (c k : Nat) (s' : State) : Host.Outcome State Fault Refusal := happen (fun s => s.cardReplay c k) s'

end Sys2Proof.Machine
end

