-- ==== Sys2Proof/Machine/Fabric.lean ====
section
/-! DEFINITION. What the channel engine does (R355 to R374): transfers posted and received, receive-and-reduce, relays, multicast, reducing
loads, the steps of a collective, and aborted rounds. -/

namespace Sys2Proof.Machine

/-! ### Elements as the bytes of a transfer (R37, R358; log entry 11) -/

/-- The bits of some elements, the first lowest, with their number; a q4 block's scale byte follows its eight codes. -/
def elemBits (fmt w : Nat) : List Elem → Nat → Nat × Nat
  | [], _ => (0, 0)
  | e :: r, k =>
    let t := elemBits fmt w r (k + 1)
    if fmt = 7 ∧ k % 8 = 7 then (e.code % 16 + 16 * (e.scale % 256) + t.1 * 2 ^ 12, t.2 + 12) else (e.code % 2 ^ w + t.1 * 2 ^ w, t.2 + w)

def packElems (fmt w : Nat) (es : List Elem) : List Byte :=
  let t := elemBits fmt w es 0
  leBytes ((t.2 + 7) / 8) t.1

/-- Element `i` of the bytes of a transfer. -/
def unpackElem (fmt w : Nat) (v i : Nat) : Elem :=
  if fmt = 7 then { code := bits v (i / 8 * 40 + i % 8 * 4) 4, scale := bits v (i / 8 * 40 + 32) 8 }
  else { code := bits v (i * w) w, scale := 0 }

/-- The name of the piece of a source stream that element `i` lies in: names of source pieces stand above the indices of a destination (R128). -/
def srcPiece (g : Geo) (i : Nat) : Nat := 2 ^ 32 + pieceFloor (travLine g.trav g.d0 g.d1) g.w i (g.d0 * g.d1)

/-- Elements of a stream with the indices `is`, read in its traversal; in a piece that is skipped, a failed read gives the format's zero (R128). A
failure comes with its piece. -/
def State.readElems (s : State) (c root b : Nat) (g : Geo) (skip : List Nat) : List Nat → Except (Fail × Nat) (List Elem)
  | [] => .ok []
  | i :: r =>
    let p := travElem g.trav g.d0 g.d1 i
    let zero : Elem := { code := 0, scale := 0 }
    match s.readPlace c root b g (g.place g.org p.1 p.2 p.2 g.clamp false false), s.readElems c root b g skip r with
    | .ok e, .ok es => .ok (e :: es)
    | .ok _, .error f => .error f
    | .error f, rest => if skip.contains (srcPiece g i) then rest.map (zero :: ·) else .error (f, srcPiece g i)

/-- What hinders reading the elements `is` of a stream. -/
def State.readHindered (s : State) (c b : Nat) (g : Geo) (is : List Nat) : Option Stepped :=
  chaseHindrance g.chaseTag (is.map (fun i => let p := travElem g.trav g.d0 g.d1 i; s.elemChase c b g p.1 p.2))

/-- Where element `i` of a destination lies. -/
def Geo.putAt (g : Geo) (i : Nat) : Place := let p := travElem g.trav g.d0 g.d1 i; g.place g.org p.1 p.2 p.2 g.clamp false true

/-- The last element below `n` of a destination that is written and not dropped (R89). -/
def Geo.lastPut (g : Geo) (n : Nat) : Option Nat := (List.range n).reverse.find? (fun i => g.putAt i != .drop)

/-- An engine comes to write element `i`: accesses of contexts may come before it (R133), none where it is dropped; before the command's last write,
which is a release at device scope, what it has written is performed there (R146). -/
def State.before (s : State) (c : Nat) (g : Geo) (i : Nat) (last : Option Nat) : State :=
  let s := if g.putAt i = .drop then s else s.between i
  if last = some i then s.beforeLast c 2 else s

/-- Elements written from index `i` on; `last`: the element that is the command's last write. -/
def writeElems (c root b : Nat) (g : Geo) (skip : Bool) (last : Option Nat) : Nat → List Elem → State → Except (Fail × Nat × State) State
  | _, [], s => .ok s
  | i, e :: r, s =>
    let p := travElem g.trav g.d0 g.d1 i
    let s := s.before c g i last
    match s.writePlace c root b g (g.putAt i) (p.1 % 8 == 0) e with
    | .ok s => writeElems c root b g skip last (i + 1) r s
    | .error f => if skip then writeElems c root b g skip last (i + 1) r s else .error (f, i, s)

/-! ### Channels -/

def State.modChan (s : State) (n : Nat) (f : Channel → Channel) : State :=
  match tget s.channels n with
  | some h => { s with channels := tput s.channels n (f h) }
  | none => s

/-- The channel may take another transfer (R358): fewer than depth slots of the peer hold one. -/
def Channel.credit (h : Channel) : Bool := decide (h.posted - h.freed < chDepth h.entry)

/-- The oldest pending command on a channel of `set`, with its core (R358): one that waits in its queue or stands halted among them; a core's channel
numbers are the module's (R357, R368). -/
def State.chanUser (s : State) (set : List Nat) : Option (Nat × Cmd) :=
  s.cores.findSome? (fun e => (e.2.cmds.find? (fun m => m.st != CmdState.finished && m.chanSet.any set.contains)).map (fun m => (e.1, m)))

/-- The oldest pending command on channel `n` of a saved team. -/
def State.savedUser (s : State) (n : Nat) : Option Cmd := s.saved.findSome? (fun v => v.cmds.find? (fun m => m.st != CmdState.finished && m.chanSet.contains n))

/-- The channels of the round that holds channel `n` (R365): the ring of a pending `coll`, or the channel alone. -/
def State.setOf (s : State) (n : Nat) : List Nat :=
  match (match s.chanUser [n] with | some p => some p.2 | none => s.savedUser n) with
  | some m => if m.kind = CmdKind.coll then m.chanSet else [n]
  | none => [n]

/-- CHTIMEOUT becomes due for a command's context (R266), and the command ends: its tag ABORTED. -/
def State.timeoutCmd (s : State) (c : Nat) (m : Cmd) (chan chip : Nat) : State :=
  (s.post c m.ctx cCHTIMEOUT m.bundle
    { step := 0, cause := cCHTIMEOUT, detail := chan * 2 ^ 24 + chip, tag := (m.tag.getD (0, 0)).1, kind := 3
      producer := m.kind.producer, syl := m.syl } none false false).abortCmd c m false

/-- The channels of a set become ABORTED, channel `n` and the silent peer `chip` recorded; what their senders still offer is dropped (R365,
R373). -/
def State.abortSet (s : State) (set : List Nat) (n chip : Nat) : State :=
  let s := set.foldl (fun s k => s.modChan k (fun h => { h with state := 2, silent := n * 2 ^ 24 + chip })) s
  { s with outbox := s.outbox.filter (fun t => !set.contains t.chan) }

/-- The round of channel `n` aborts (R365): its set becomes ABORTED, the silent peer is recorded, and its oldest pending command ends. -/
def State.abortRound (s : State) (n chip : Nat) : State :=
  let set := s.setOf n
  let s := s.abortSet set n chip
  match s.chanUser set with
  | some (c, m) => s.timeoutCmd c m n chip
  | none => s

/-- The done sequence of a channel rises to `v`, where it lies below, and the word is written to its image as a release at device scope (R358);
where that fails, the round aborts in this module's own name. -/
def State.raiseDone (s : State) (n v : Nat) : State :=
  match tget s.channels n with
  | none => s
  | some h =>
    if h.state = 2 ∨ v ≤ chDone h.entry then s
    else
      let own := Config.chipId.toNat
      let s := s.noteSpan h.core h.root (h.imageVa + 24) 8
      match s.xlatSpan h.core h.root (h.imageVa + 24) 8 .write with
      | .error _ => s.abortRound n own
      | .ok pas =>
        if pas.any s.isLost || pas.any isHost then s.abortRound n own
        else
          let s := s.modChan n (fun h => { h with entry := chanWord h.entry v h.posted h.state })
          (s.homeWrites h.core pas v).publish h.core 2

/-- A transfer posted on channel `n`: it takes the next id and leaves for the peer; posting releases at device scope (R356). -/
def State.postTransfer (s : State) (c n chip peer : Nat) (data : List Byte) : State :=
  match tget s.channels n with
  | none => s
  | some h =>
    let id := h.posted + 1
    let s := s.publish c 2
    let s := s.modChan n (fun h => { h with posted := id })
    { s with outbox := s.outbox ++ [{ chan := n, chip := chip, peer := peer, id := id, data := data }] }

/-- The lowest id of a channel that is not consumed. -/
def Channel.firstLeft (h : Channel) : Nat := match h.arrived with | a :: _ => a.1 | [] => h.came + 1

/-- A receive consumes transfer `id` of channel `n`: its slot is free, and the done sequence counts the transfers below the first that is left
(R358). -/
def State.consumeTransfer (s : State) (n id : Nat) : State :=
  match tget s.channels n with
  | some h =>
    let h := { h with arrived := h.arrived.filter (fun a => a.1 != id) }
    (s.modChan n (fun k => { k with arrived := h.arrived })).raiseDone n h.firstLeft
  | none => s

/-- A receive or receive-and-reduce of channel `n` has taken transfer `id`, its own (R358). -/
def Cmd.took (m : Cmd) (n id : Nat) : Bool := (m.kind == .chrecv || m.kind == .chred) && m.chan == n && m.n == id && m.st != .finished

/-- Transfer `id` of channel `n` is the own one of a command, on a core or in a saved team. -/
def State.taken (s : State) (n id : Nat) : Bool :=
  s.cores.any (fun e => e.2.cmds.any (fun m => m.took n id)) || s.saved.any (fun v => v.cmds.any (fun m => m.took n id))

/-- The oldest whole transfer of channel `n` that no receive has taken or consumed: its id and bytes. -/
def State.oldest (s : State) (n : Nat) : Option (Nat × List Byte) :=
  match tget s.channels n with
  | some h => h.arrived.find? (fun a => !s.taken n a.1)
  | none => none

/-- The transfer a receive that has none takes (R358): the oldest that no other has, once its first bytes have landed. -/
def State.freshId (s : State) (n : Nat) : Option Nat :=
  match s.oldest n, tget s.channels n with
  | some a, _ => some a.1
  | none, some h => if h.landing.isEmpty || s.taken n (h.came + 1) then none else some (h.came + 1)
  | none, none => none

/-- What has landed of transfer `id`, and whether that is all of it. -/
def Channel.landed (h : Channel) (id : Nat) : List Byte × Bool :=
  match h.arrived.find? (fun a => a.1 == id) with
  | some a => (a.2, true)
  | none => (if id = h.came + 1 then h.landing else [], false)

/-- The elements at the head of `n` bytes that lie whole in them. -/
def elemsIn (fmt w n : Nat) : Nat := if fmt = 7 then n / 5 * 8 else 8 * n / max w 1

/-- A command that is still to take a transfer of channel `n`: a receive, or a relay (R358, R360). -/
def Cmd.awaits (m : Cmd) (n : Nat) : Bool :=
  match m.kind with
  | .chrecv | .chred => m.chan == n && m.n == 0 && m.st != .finished
  | .chsend => (match m.src with | some g => g.space == 2 && g.relayChan == n | none => false) && m.sent.isEmpty && m.st != .finished
  | _ => false

/-- Command `m` is the first of its core's that await a transfer of channel `n`: the transfers go out in id order (R358, R359). -/
def Core.nextTaker (k : Core) (m : Cmd) (n : Nat) : Bool := (k.cmds.find? (fun o => o.awaits n)).any (fun o => o.id == m.id)

/-- A channel of a command stands ABORTED: the command ends too. The channel and the chip its record names. -/
def State.deadChan (s : State) (m : Cmd) : Option (Nat × Nat) :=
  (m.chanSet.find? (fun n => match tget s.channels n with | some h => h.state == 2 | none => false)).map
    (fun n => match tget s.channels n with | some h => (h.silent / 2 ^ 24, h.silent % 2 ^ 24) | none => (n, 0))

/-! ### Sends (R358, R360, R363) -/

/-- The data of a send: its stream's elements, or the transfer it relays. -/
def State.sendData (s : State) (c : Nat) (m : Cmd) (g : Geo) : Except (Fail × Nat) (List Byte) :=
  match s.readElems c (s.cmdRoot c m) m.team g m.skip (List.range (g.d0 * g.d1)) with
  | .ok es => .ok (packElems g.fmt g.w es)
  | .error f => .error f

/-- The next step of a `chsend`: it posts its transfer once its source's conditions hold and a slot is free. -/
def State.sendStep (s : State) (c : Nat) (m : Cmd) : Stepped :=
  match m.src, tget s.channels m.chan with
  | some g, some h =>
    if !m.sent.isEmpty then .wait
    else match s.readHindered c m.team g (List.range (g.d0 * g.d1)) with
      | some w => w
      | none =>
        let post := fun (t : State) (data : List Byte) =>
          Stepped.done ((t.postTransfer c m.chan (chPeer h.entry) (chPeerChan h.entry) data).putCmd c { m with sent := [(m.chan, h.posted + 1)] })
        if !h.credit then .wait
        else if g.space = 2 then
          match (s.oldest g.relayChan).filter (fun _ => (s.core c).nextTaker m g.relayChan) with
          | none => .wait
          | some (id, data) =>
            let t := s.consumeTransfer g.relayChan id
            if ((t.core c).cmd m.id).isNone then .done t else post t data
        else
          let t := s.reachElems c (s.cmdRoot c m) g (List.range (g.d0 * g.d1))
          match t.sendData c m g with
          | .error f => .fail f.1 f.2 t
          | .ok data => post t data
  | _, _ => .wait

/-- The key of the live state of a multicast member's transfers. -/
def memberKey (p : Nat × Nat) : Nat := 256 + p.1 * 256 + p.2

/-- The state of the transfers to a member no transfer has been sent to. -/
def Channel.member (c : Nat) : Channel :=
  { core := c, entry := 0, imageVa := 0, root := 0, posted := 0, acked := 0, freed := 0, arrived := [], came := 0, landing := [], state := 0, silent := 0 }

/-- The next step of a `mcst`: one transfer to every member, each with its own id (R363). -/
def State.mcstStep (s : State) (c : Nat) (m : Cmd) : Stepped :=
  match m.src with
  | none => .wait
  | some g =>
    if !m.sent.isEmpty then .wait
    else match s.readHindered c m.team g (List.range (g.d0 * g.d1)) with
      | some w => w
      | none =>
        let s := s.reachElems c (s.cmdRoot c m) g (List.range (g.d0 * g.d1))
        match s.sendData c m g with
        | .error f => .fail f.1 f.2 s
        | .ok data =>
          let r := leNat m.desc
          let ms := (List.range (bits r 0 7)).map (mcstMember r)
          let t := ms.foldl (fun (p : State × List (Nat × Nat)) q =>
            let k := memberKey q
            let s := if (tget p.1.channels k).isSome then p.1 else { p.1 with channels := tput p.1.channels k (Channel.member c) }
            let id := match tget s.channels k with | some h => h.posted + 1 | none => 1
            (s.postTransfer c k q.1 q.2 data, p.2 ++ [(k, id)])) (s, [])
          .done (t.1.putCmd c { m with sent := t.2 })

/-! ### Receives (R359) -/

/-- `op` of R359 and R362 on codes of formats f32, bf16 and s32. -/
def combine (op fmt a b : Nat) : Nat :=
  if fmt = 8 then
    match op with
    | 0 => (a + b) % 2 ^ 32
    | 1 => if sbits a 0 32 ≤ sbits b 0 32 then b else a
    | _ => if sbits a 0 32 ≤ sbits b 0 32 then a else b
  else
    match op with
    | 0 => (fpOf fmt).add a b
    | 1 => (fpOf fmt).max a b
    | _ => (fpOf fmt).min a b

/-- Element `i` of the bytes of a transfer of `n` bytes; one beyond them is nowhere stated: its bits are free (R369; log entry 94). -/
def State.recvCode (s : State) (fmt w n v i : Nat) : Elem :=
  let within := if fmt = 7 then decide (i / 8 * 5 + 5 ≤ n) else decide ((i + 1) * w ≤ 8 * n)
  if within then unpackElem fmt w v i
  else { code := (Config.freeBits s.free (6000 + 2 * i)).toNat % 2 ^ w, scale := (Config.freeBits s.free (6001 + 2 * i)).toNat % 256 }

/-- The byte of a transfer at which element `i` begins. -/
def elemByte (fmt w i : Nat) : Nat := if fmt = 7 then i / 8 * 5 + i % 8 / 2 else i * w / 8

/-- One element received into its place: converted (R251), or combined at the memory that holds it. A code that cannot be converted is named by its
byte in the transfer. -/
def State.recvElem (s : State) (c root : Nat) (m : Cmd) (g : Geo) (fmt i : Nat) (e : Elem) : Except Fail State :=
  let p := travElem g.trav g.d0 g.d1 i
  let pl := g.place g.org p.1 p.2 p.2 g.clamp false true
  if m.kind = CmdKind.chred then
    match pl with
    | .at_ bit _ co =>
      let va := addrOf (Int.ediv bit 8)
      (match s.xlatSpan c root va (g.w / 8) .write with
       | .error (a, q) => .error { s.failXlat a q with layout := g.layoutAddr, coord := co }
       | .ok pas =>
         match pas.find? s.isLost with
         | some q => .error { s.failLost va pas q with layout := g.layoutAddr, coord := co }
         | none =>
           let r := s.homeRead c pas
           .ok (r.1.homeWrites c pas (combine m.flags g.fmt r.2 e.code)))
    | .bound co => .error { cause := cBOUND, layout := g.layoutAddr, coord := co }
    | _ => .ok s
  else match convertElem fmt g.fmt g.xf g.xf e with
    | none => .error { cause := cFORMAT, addr := elemByte fmt g.w i, layout := g.layoutAddr, coord := match pl with | .at_ _ _ co => co | _ => [(p.1 : Int), (p.2 : Int)] }
    | some e => s.writePlace c root m.team g pl (p.1 % 8 == 0) e

/-- Elements `is` received in order, to the first failure; with `skip`, what fails is dropped, or is the format's zero (R128). `last`: the element
that is the command's last write. -/
def recvElems (c root : Nat) (m : Cmd) (g : Geo) (fmt w n v : Nat) (skip : Bool) (last : Option Nat) : List Nat → State → Except (Fail × State) State
  | [], s => .ok s
  | i :: r, s =>
    let s := s.before c g i last
    let s := if m.kind = CmdKind.chred then s.reachPlace c root g (g.putAt i) else s
    match s.recvElem c root m g fmt i (s.recvCode fmt w n v i) with
    | .ok s => recvElems c root m g fmt w n v skip last r s
    | .error f =>
      if skip then
        let zeroed := if f.cause = cFORMAT then
            (match s.writePlace c root m.team g (g.putAt i) ((travElem g.trav g.d0 g.d1 i).1 % 8 == 0) { code := 0, scale := 0 } with
             | .ok t => t | .error _ => s) else s
        recvElems c root m g fmt w n v skip last r zeroed
      else .error (f, s)

/-- The next piece of a receive whose data are `bytes` in format `fmt`, the byte numbered j of them at `va j`; its last write is a release at device
scope (R369). A halted piece of a `chred` has combined nothing, so that its resume combines each element once (R126, R359). -/
def State.recvPiece (s : State) (c : Nat) (m : Cmd) (g : Geo) (fmt w : Nat) (va : Nat → Nat) (bytes : List Byte) : Stepped :=
  let root := s.cmdRoot c m
  let n := g.d0 * g.d1
  let i := m.prog
  let e := pieceEnd (travLine g.trav g.d0 g.d1) g.w i n
  let skip := m.skip.contains i
  match recvElems c root m g fmt w bytes.length (leNat bytes) skip (g.lastPut n) ((List.range (e - i)).map (fun k => i + k)) s with
  | .error (f, left) =>
    .fail (if f.cause = cFORMAT then { f with addr := va f.addr } else f) i (if m.kind = CmdKind.chred then s else partly s left)
  | .ok t =>
    let last := decide (n ≤ e)
    let t := if last then t.publish c 2 else t
    .done ((t.putCmd c { m with prog := e, st := if last then .finished else m.st }).publishTo c m e skip)

/-- The bytes of its transfer that the next piece of a receive needs have landed (R359). -/
def Channel.pieceHere (h : Channel) (m : Cmd) (g : Geo) : Bool :=
  let fmt := chFmt h.entry
  let e := pieceEnd (travLine g.trav g.d0 g.d1) g.w m.prog (g.d0 * g.d1)
  (h.landed m.n).2 || (decide (e < g.d0 * g.d1) && decide (e ≤ elemsIn fmt (chanWidth fmt g.xf) (h.landed m.n).1.length))

/-- The next piece of a `chrecv` or `chred` that has its transfer: it consumes that one with its last piece. -/
def State.recvOwn (s : State) (c : Nat) (m : Cmd) (g : Geo) (h : Channel) : Stepped :=
  match s.recvPiece c m g (chFmt h.entry) (chanWidth (chFmt h.entry) g.xf)
      (fun j => chBuffer h.entry + chShape h.entry * (m.n % chDepth h.entry) + j) (h.landed m.n).1 with
  | .done t =>
    (match (t.core c).cmd m.id with
     | some m' => if m'.st = CmdState.finished then .done (t.consumeTransfer m.chan m.n) else .done t
     | none => .done t)
  | r => r

/-- The next step of a `chrecv` or `chred`: it takes its transfer, the oldest that no other has (R358), or moves the next piece of it, as that
lands (R359). DESIGN CHOICE: it takes it in a step of its own, in the order of the commands (log entry 140). -/
def State.recvStep (s : State) (c : Nat) (m : Cmd) : Stepped :=
  match m.dst, tget s.channels m.chan with
  | some g, some h =>
    if m.n = 0 then
      match (s.freshId m.chan).filter (fun _ => (s.core c).nextTaker m m.chan) with
      | some id => .done (s.putCmd c { m with n := id })
      | none => .wait
    else if h.pieceHere m g then s.recvOwn c m g h else .wait
  | _, _ => .wait

/-- The next piece of an `rdld` whose reply has come (R364). -/
def State.rdldStep (s : State) (c : Nat) (m : Cmd) : Stepped :=
  match m.dst with
  | some g => if m.buf.isEmpty then .wait else s.recvPiece c m g g.fmt g.w (fun _ => 0) m.buf
  | none => .wait

/-! ### Collectives (R362, R370, R374) -/

/-- Elements of one chunk, its bytes, and the transfers it takes on a channel. -/
def Cmd.chunkElems (m : Cmd) : Nat := match m.src with | some g => g.d0 * g.d1 / collP (leNat m.desc) | none => 0
def Cmd.chunkBytes (m : Cmd) : Nat := match m.src with | some g => xferBytes g.fmt g.w m.chunkElems | none => 0
def transfersOf (bytes shape : Nat) : Nat := if shape = 0 then 0 else (bytes + shape - 1) / shape

/-- What a chip does in a step: the channel it sends on, the channel it receives on, the chunks that move, and the chunk of its own data it
sends where it does not pass on what it holds. -/
structure CollPlan where
  send : Option Nat
  recv : Option Nat
  count : Nat
  own : Option Nat
  deriving DecidableEq, Repr

/-- The steps of a kind. The spec gives those of the ring all-reduce (R374), and with them of the reduce-scatter and the all-gather; the tree,
the broadcast and the all-to-all are this model's (log entry 15). -/
def collSteps (r : Nat) : Nat :=
  match collKind r with
  | 0 | 1 | 5 => collP r - 1
  | 2 => 2 * (collP r - 1)
  | 3 => 6
  | _ => collP r + 1

/-- `k − j` modulo P. -/
def ringBack (p k j : Nat) : Nat := (k + p * (j / p + 1) - j) % p

/-- The plan of step `s`, from 1. -/
def collPlan (r s : Nat) : CollPlan :=
  let p := collP r
  let k := collRank r
  let c1 := collC1 r
  let c2 := collC2 r
  let some_ := fun (c : Nat) => if c = 0 then none else some c
  match collKind r with
  | 0 => { send := some c1, recv := some c2, count := 1, own := if s = 1 then some k else none }
  | 1 | 2 => { send := some c1, recv := some c2, count := 1, own := if s = 1 then some (ringBack p k 1) else none }
  | 3 =>
    match s with
    | 1 => { send := none, recv := some_ c2, count := p, own := none }
    | 2 => { send := none, recv := some_ (collC3 r), count := p, own := none }
    | 3 => { send := some_ c1, recv := none, count := p, own := none }
    | 4 => { send := none, recv := some_ c1, count := p, own := none }
    | 5 => { send := some_ c2, recv := none, count := p, own := none }
    | _ => { send := some_ (collC3 r), recv := none, count := p, own := none }
  | 4 =>
    { send := if k = 0 then (if s ≤ p then some c1 else none) else if 2 ≤ s ∧ k + 1 < p then some c1 else none
      recv := if k ≠ 0 ∧ s ≤ p then some c2 else none, count := 1, own := if k = 0 ∧ s ≤ p then some (s - 1) else none }
  | _ => { send := some c1, recv := some c2, count := p, own := if s = 1 then some 0 else none }

/-- `count` chunks of S from chunk `q` on, as bytes. -/
def State.ownChunks (s : State) (c : Nat) (m : Cmd) (q count : Nat) : Except (Fail × Nat) (List Byte) :=
  match m.src with
  | none => .ok []
  | some g =>
    match s.readElems c (s.cmdRoot c m) m.team g m.skip ((List.range (count * m.chunkElems)).map (fun i => q * m.chunkElems + i)) with
    | .ok es => .ok (packElems g.fmt g.w es)
    | .error f => .error f

/-- The engine comes to the elements of those chunks. -/
def State.reachChunks (s : State) (c : Nat) (m : Cmd) (q count : Nat) : State :=
  match m.src with
  | none => s
  | some g => s.reachElems c (s.cmdRoot c m) g ((List.range (count * m.chunkElems)).map (fun i => q * m.chunkElems + i))

def State.ownHindered (s : State) (c : Nat) (m : Cmd) (q count : Nat) : Option Stepped :=
  match m.src with
  | none => none
  | some g => s.readHindered c m.team g ((List.range (count * m.chunkElems)).map (fun i => q * m.chunkElems + i))

/-- The `i`-th transfer of a step: a part of its chunk, with zero bytes after the chunk's end. -/
def stepTransfer (chunk shape i : Nat) (carry : List Byte) : List Byte :=
  let per := transfersOf chunk shape
  let q := i / per
  let a := i % per * shape
  let part := ((carry.drop (q * chunk)).take chunk).drop a |>.take shape
  part ++ List.replicate (shape - part.length) 0

/-- The chunks' bytes of a step's transfers, without the padding. -/
def stepBytes (chunk shape count : Nat) (buf : List Byte) : List Byte :=
  let per := transfersOf chunk shape * shape
  (List.range count).foldl (fun l q => l ++ ((buf.drop (q * per)).take chunk)) []

/-- Two runs of elements combined, as bytes (R362). -/
def combineBytes (op : Nat) (g : Geo) (n : Nat) (a b : List Byte) : List Byte :=
  let u := leNat a
  let v := leNat b
  packElems g.fmt g.w ((List.range n).map (fun i =>
    { code := combine op g.fmt (unpackElem g.fmt g.w u i).code (unpackElem g.fmt g.w v i).code, scale := 0 }))

/-- The next piece of the first chunk that waits to be written to D (R109, R374), and the frontier raised over what is complete from the first
element on (R110). -/
def State.putPiece (s : State) (c : Nat) (m : Cmd) (g : Geo) (q done_ : Nat) (bytes : List Byte) (rest : List (Nat × Nat × List Byte)) : Stepped :=
  let ce := m.chunkElems
  let line := travLine g.trav g.d0 g.d1
  let n := g.d0 * g.d1
  let i := q * ce + done_
  let e := min (pieceEnd line g.w i n) ((q + 1) * ce)
  let p := pieceFloor line g.w i n
  let es := (List.range (e - i)).map (fun k => unpackElem g.fmt g.w (leNat bytes) (done_ + k))
  match writeElems c (s.cmdRoot c m) m.team g (m.skip.contains p) none i es s with
  | .error (f, _, left) => .fail f p (partly s left)
  | .ok s =>
    let whole := decide ((q + 1) * ce ≤ e)
    let m := { m with
      chunks := if whole then insertNat q m.chunks else m.chunks
      puts := if whole then rest else (q, done_ + (e - i), bytes) :: rest }
    let lead := ((List.range (m.chunks.length + 1)).find? (fun k => !m.chunks.contains k)).getD 0
    let upTo := if lead = q ∧ !whole then e else lead * ce
    .done ((s.putCmd c m).publishTo c m (pieceFloor line g.w upTo n) (!m.skip.isEmpty))

/-- The entry of the routing list of another chip for its block `i`: it lies in that chip's memory, so its fields are free (log entry 15). -/
def State.peerRoute (s : State) (i : Nat) : Nat × Nat :=
  ((Config.freeBits s.free (5000 + 2 * i)).toNat % 2 ^ 13, (Config.freeBits s.free (5001 + 2 * i)).toNat % 2 ^ 13)

/-- The entry of this chip's routing list for its block `i`: destination rank and block; FORMAT for one out of range (R370, R372). A skipped one
sends its block nowhere (R128). -/
def State.ownRoute (s : State) (c : Nat) (m : Cmd) (p i : Nat) : Except (Fail × Nat) (Nat × Nat) :=
  let fails := fun (f : Fail) => if m.skip.contains (2 ^ 33 + i) then Except.ok (p, 0) else .error (f, 2 ^ 33 + i)
  match s.engBits c (s.cmdRoot c m) m.team 0 (((m.list + 4 * i : Nat) : Int) * 8) 32 with
  | .error f => fails f
  | .ok v =>
    if bits v 26 6 = 0 ∧ bits v 0 13 < p ∧ bits v 13 13 < p then .ok (bits v 0 13, bits v 13 13)
    else fails { cause := cFORMAT, addr := m.list + 4 * i }

/-- The entries of this chip's routing list from block `i` on, `n` of them. -/
def State.ownRoutes (s : State) (c : Nat) (m : Cmd) (p : Nat) : Nat → Nat → Except (Fail × Nat) (List (Nat × Nat))
  | 0, _ => .ok []
  | n + 1, i =>
    match s.ownRoute c m p i with
    | .error f => .error f
    | .ok r => (s.ownRoutes c m p n (i + 1)).map (r :: ·)

/-- The blocks of `bs` that routing entries send to rank `k`, each at its place in D. -/
def routed (k p cb : Nat) (rs : List (Nat × Nat)) (bs : List Byte) : List (Nat × List Byte) :=
  (rs.zip (List.range rs.length)).filterMap (fun r =>
    if r.1.1 = k ∧ r.1.2 < p then some (r.1.2, (bs.drop (r.2 * cb)).take cb) else none)

/-- The step's data are here: what is written to D, and what the chip holds for the next step. `got` is what it received. -/
def State.collCombine (s : State) (c : Nat) (m : Cmd) (g : Geo) (r step : Nat) (got : List Byte) :
    Except (Fail × Nat) (List (Nat × List Byte) × List Byte) :=
  let p := collP r
  let k := collRank r
  let ce := m.chunkElems
  let cb := m.chunkBytes
  let parts := fun (bs : List Byte) => (List.range p).map (fun q => (q, (bs.drop (q * cb)).take cb))
  match collKind r with
  | 0 => .ok ((if step = 1 then [(k, m.carry)] else []) ++ [(ringBack p k step, got)], got)
  | 1 | 2 =>
    let q := ringBack p k (step + 1)
    if step + 1 ≤ p then
      match s.ownChunks c m q 1 with
      | .error f => .error f
      | .ok own =>
        let v := combineBytes (collOp r) g ce got own
        .ok (if step + 1 = p then [(if collKind r = 1 then 0 else k, v)] else [], v)
    else .ok ([(q, got)], got)
  | 3 =>
    let own : Except (Fail × Nat) (List Byte) := if step = 1 then s.ownChunks c m 0 p else .ok m.carry
    match own with
    | .error f => .error f
    | .ok a =>
      let v := if got.isEmpty then a else if step = 4 then got else combineBytes (collOp r) g (p * ce) a got
      .ok (if step = 4 then parts v else [], v)
  | 4 =>
    if k = 0 then .ok (if step ≤ p then [(step - 1, m.carry)] else [], [])
    else .ok (if step ≤ p then [(step - 1, got)] else [], got)
  | _ =>
    match (if step = 1 then s.ownRoutes c m p p 0 else .ok []) with
    | .error f => .error f
    | .ok rs => .ok (routed k p cb rs m.carry ++ routed k p cb ((List.range p).map s.peerRoute) got, got)

/-- The chunks of its own that a step reads to combine them with what it has received: the first, and their number. -/
def collOwn (r step : Nat) : Option (Nat × Nat) :=
  match collKind r with
  | 1 | 2 => if step + 1 ≤ collP r then some (ringBack (collP r) (collRank r) (step + 1), 1) else none
  | 3 => if step = 1 then some (0, collP r) else none
  | _ => none

/-- The engine comes to what `collCombine` reads: chunks of its own, or the routing list of an all-to-all (R370). -/
def State.reachOwn (s : State) (c : Nat) (m : Cmd) (r step : Nat) : State :=
  match collOwn r step with
  | some (q, n) => s.reachChunks c m q n
  | none => if collKind r = 5 ∧ step = 1 then s.noteSpan c (s.cmdRoot c m) m.list (4 * collP r) else s

/-- What a step has received is here, and its own elements may be read: the chunks to write to D, and what the next step sends. -/
def State.collTake (s : State) (c : Nat) (m : Cmd) (g : Geo) (r step : Nat) (got : List Byte) : Stepped :=
  match (collOwn r step).bind (fun o => s.ownHindered c m o.1 o.2) with
  | some w => w
  | none =>
    let s := s.reachOwn c m r step
    match s.collCombine c m g r step got with
    | .error f => .fail f.1 f.2 s
    | .ok (puts, carry) => .done (s.putCmd c { m with buf := [], puts := m.puts ++ puts.map (fun q => (q.1, 0, q.2)), next := some carry })

/-- The end of a step: its sends have left, its receives have come and are written. -/
def State.collEnd (s : State) (c : Nat) (m : Cmd) (d : Geo) (r step : Nat) (carry : List Byte) : Stepped :=
  let last := decide (collSteps r ≤ step)
  let s := if last then (s.publish c 2).publishTo c m (d.d0 * d.d1) (!m.skip.isEmpty) else s
  .done (s.putCmd c { m with prog := step, n := 0, buf := [], carry := carry, next := none
                             st := if last && m.sent.isEmpty then .finished else m.st })

/-- The live state of a channel a step names, or none. -/
def State.planChan (s : State) (o : Option Nat) : Option Channel := o.bind (fun n => tget s.channels n)
def State.planShape (s : State) (o : Option Nat) : Nat := match s.planChan o with | some h => chShape h.entry | none => 0

/-- The transfers a step sends, and the bytes it receives. -/
def State.collSends (s : State) (m : Cmd) (p : CollPlan) : Nat := p.count * transfersOf m.chunkBytes (s.planShape p.send)
def State.collBytes (s : State) (m : Cmd) (p : CollPlan) : Nat := p.count * transfersOf m.chunkBytes (s.planShape p.recv) * s.planShape p.recv

/-- The next thing a collective does in its step: it reads what it sends, writes a piece of what it has received, posts a transfer, takes one,
combines what has come, or ends the step. -/
def State.collStep (s : State) (c : Nat) (m : Cmd) : Stepped :=
  match m.src, m.dst with
  | some g, some d =>
    let r := leNat m.desc
    let step := m.prog + 1
    let plan := collPlan r step
    let cb := m.chunkBytes
    if collSteps r < step then .wait else
    match (if m.carry.isEmpty then plan.own else none), m.puts with
    | some q, _ =>
      (match s.ownHindered c m q plan.count with
       | some w => w
       | none =>
         let s := s.reachChunks c m q plan.count
         match s.ownChunks c m q plan.count with
         | .error f => .fail f.1 f.2 s
         | .ok bs => .done (s.putCmd c { m with carry := bs }))
    | none, (q, k, bs) :: rest => s.putPiece c m d q k bs rest
    | none, [] =>
      let sending := match s.planChan plan.send with | some h => h.credit && decide (m.n < s.collSends m plan) | none => false
      match (if sending then plan.send.bind (fun n => (tget s.channels n).map (fun h => (n, h))) else none) with
      | some (n, h) =>
        .done ((s.postTransfer c n (chPeer h.entry) (chPeerChan h.entry) (stepTransfer cb (chShape h.entry) m.n m.carry)).putCmd c
          { m with n := m.n + 1, sent := m.sent ++ [(n, h.posted + 1)] })
      | none =>
        match m.next with
        | some carry => if m.n < s.collSends m plan then .wait else s.collEnd c m d r step carry
        | none =>
          if m.buf.length < s.collBytes m plan then
            match plan.recv, plan.recv.bind s.oldest with
            | some n, some (id, data) => .done ((s.putCmd c { m with buf := m.buf ++ data }).consumeTransfer n id)
            | _, _ => .wait
          else s.collTake c m g r step (stepBytes cb (s.planShape plan.recv) (if plan.recv.isSome then plan.count else 0) m.buf)
  | _, _ => .wait

/-- The next step of a command of the collective queue. -/
def State.chanStep (s : State) (c : Nat) (m : Cmd) : Stepped :=
  match m.kind with
  | .chsend => s.sendStep c m
  | .mcst => s.mcstStep c m
  | .chrecv | .chred => s.recvStep c m
  | .rdld => s.rdldStep c m
  | .coll => s.collStep c m
  | _ => .wait

/-- A step taken, unless its channel stands ABORTED, when the command ends under R365. -/
def State.chanMove (s : State) (c : Nat) (m : Cmd) : State :=
  match s.deadChan m with
  | some (n, chip) => s.timeoutCmd c m n chip
  | none => (s.chanStep c m).orElse s

/-- `STACK_QUEUE_STEP` (R361): a send, relay, receive or receive-and-reduce makes its next step. -/
def State.stackQueueStep (s : State) (c id : Nat) : State :=
  match s.runningCmd c id (fun k => k.queue == some 2 && k != .coll) with
  | some m => s.chanMove c m
  | none => s

def execStackQueueStep (c k : Nat) (s' : State) : Host.Outcome State Fault Refusal := happen (fun s => s.stackQueueStep c k) s'

/-- `RING_STEP` (R374) -/
def State.ringStep (s : State) (c id : Nat) : State :=
  match s.runningCmd c id (fun k => k == .coll) with
  | some m => s.chanMove c m
  | none => s

def execRingStep (c k : Nat) (s' : State) : Host.Outcome State Fault Refusal := happen (fun s => s.ringStep c k) s'

/-! ### What comes from peers -/

/-- A stack queue has room for another entry (R361). -/
def State.stackRoom (s : State) (k : Nat) : Bool := decide (((tget s.stackQ k).getD []).length < 256)

/-- Data fit what has landed of the transfer under way: they complete the channel's shape, or are payload beats of 256 bytes short of it (R355,
R359). -/
def Channel.fits (h : Channel) (n : Nat) : Bool :=
  h.landing.length + n == chShape h.entry || (decide (0 < n) && n % 256 == 0 && decide (h.landing.length + n < chShape h.entry))

/-- The next transfer has a slot (R358): none that is not consumed lies in it. -/
def Channel.slotFree (h : Channel) : Bool := h.arrived.all (fun a => decide (h.came + 1 < a.1 + chDepth h.entry))

/-- Data have landed: the transfer is here once all of it is. -/
def Channel.land (h : Channel) (data : List Byte) : Channel :=
  if h.landing.length + data.length = chShape h.entry then
    { h with arrived := h.arrived ++ [(h.came + 1, h.landing ++ data)], came := h.came + 1, landing := [] }
  else { h with landing := h.landing ++ data }

/-- `TRANSFER_ARRIVE` (R358, R359, R373): the data, a transfer or the next beats of one, are written to the next slot of channel `h`'s buffer.
Data of another size, or for an unused or ABORTED channel, are refused or discarded; where the stack queue of the buffer is full, the port holds them
back (R361). -/
def State.transferArrive (s : State) (n : Nat) (data : List Byte) : State :=
  match tget s.channels n with
  | none => s
  | some h =>
    if 256 ≤ n ∨ h.state = 2 ∨ !h.fits data.length ∨ !h.slotFree then s
    else
      let va := chBuffer h.entry + chShape h.entry * ((h.came + 1) % chDepth h.entry) + h.landing.length
      let s := s.noteSpan h.core h.root va data.length
      match s.xlatSpan h.core h.root va data.length .write with
      | .error _ => s.abortRound n Config.chipId.toNat
      | .ok pas =>
        if pas.any s.isLost || pas.any isHost then s.abortRound n Config.chipId.toNat
        else if !s.stackRoom (stackOf (pas.headD 0)) then s
        else
          ((pas.zip data).foldl (fun s w => s.homeWrite h.core w.1 w.2) s).modChan n (fun h => h.land data)

def execTransferArrive (h : Nat) (data : List Byte) (s' : State) : Host.Outcome State Fault Refusal :=
  happen (fun s => s.transferArrive h data) s'

/-- `SLOT_CREDIT_RETURN` (R358): the peer has freed the slot of one more transfer. -/
def State.slotCredit (s : State) (n : Nat) : State := s.modChan n (fun h => if h.freed < h.acked then { h with freed := h.freed + 1 } else h)

def execSlotCreditReturn (h : Nat) (s' : State) : Host.Outcome State Fault Refusal := happen (fun s => s.slotCredit h) s'

/-- A command's transfers on channel `n` up to `id` are acknowledged; with none left, a send is done, and so is a collective whose steps are. -/
def Cmd.acknowledge (m : Cmd) (n id : Nat) : Cmd :=
  if m.sent.any (fun t => t.1 == n && t.2 ≤ id) then
    let sent := m.sent.filter (fun t => !(t.1 == n && t.2 ≤ id))
    let over_ := sent.isEmpty && m.st == .running && (m.kind != .coll || decide (collSteps (leNat m.desc) ≤ m.prog))
    { m with sent := sent, st := if over_ then .finished else m.st }
  else m

/-- The id an acknowledgement of channel `n` is for: the oldest transfer still offered there. -/
def State.ackId (s : State) (n : Nat) (h : Channel) : Nat := match s.outbox.find? (fun t => t.chan == n) with | some t => t.id | none => h.acked + 1

/-- Transfers of channel `n` up to `id` acknowledged to the commands that wait for them, on cores and in saved teams (R357, R366). -/
def State.acknowledgeCmds (s : State) (n id : Nat) : State :=
  { s with
    cores := s.cores.map (fun e => (e.1, { e.2 with cmds := e.2.cmds.map (fun m => m.acknowledge n id) }))
    saved := s.saved.map (fun v => { v with cmds := v.cmds.map (fun m => m.acknowledge n id) }) }

/-- `ACKNOWLEDGEMENT` (R358, R365): one more transfer of channel `h` is complete at the peer. -/
def State.acknowledgement (s : State) (n : Nat) : State :=
  match tget s.channels n with
  | none => s
  | some h =>
    if h.state = 2 ∨ h.posted ≤ h.acked then s
    else
      let id := s.ackId n h
      let s := s.modChan n (fun h => { h with acked := id })
      let s := ({ s with outbox := s.outbox.filter (fun t => !(t.chan == n && t.id ≤ id)) }).acknowledgeCmds n id
      if n < 256 then s.raiseDone n (id + 1) else s

def execAcknowledgement (h : Nat) (s' : State) : Host.Outcome State Fault Refusal := happen (fun s => s.acknowledgement h) s'

/-- Every piece of an `rdld` whose reply has come, as far as they go. -/
def rdldPieces (c id : Nat) : Nat → State → State
  | 0, s => s
  | fuel + 1, s =>
    match s.runningCmd c id (fun k => k == .rdld) with
    | some m => (match s.rdldStep c m with | .done t => rdldPieces c id fuel t | _ => s)
    | none => s

/-- `REDUCING_LOAD_REPLY` (R364): the combination goes to the destination, piece by piece. -/
def State.rdldReply (s : State) (c id : Nat) (data : List Byte) : State :=
  match s.runningCmd c id (fun k => k == .rdld) with
  | some m =>
    match m.dst with
    | some g =>
      if m.buf.isEmpty && data.length == xferBytes g.fmt g.w (g.d0 * g.d1) then rdldPieces c id (g.d0 * g.d1) (s.putCmd c { m with buf := data }) else s
    | none => s
  | none => s

def execReducingLoadReply (c k : Nat) (data : List Byte) (s' : State) : Host.Outcome State Fault Refusal :=
  happen (fun s => s.rdldReply c k data) s'

/-- A command in progress on a core that `p` picks. -/
def Core.inProgress (k : Core) (p : Cmd → Bool) : Option Cmd := k.cmds.find? (fun m => m.st == .running && p m)

/-- A step of a command waits on the peer of channel `n` (R365): for an acknowledgement, a slot credit, or data. -/
def State.waitsOn (s : State) (m : Cmd) (n : Nat) : Bool :=
  m.sent.any (fun t => t.1 == n) ||
  (let full := match tget s.channels n with | some h => !h.credit | none => false
   let dry := (s.oldest n).isNone
   match m.kind with
   | .chsend => m.sent.isEmpty && (m.chan == n && full || (match m.src with | some g => g.space == 2 && g.relayChan == n && dry | none => false))
   | .chrecv | .chred => m.chan == n && (if m.n = 0 then (s.freshId n).isNone
       else match m.dst, tget s.channels n with | some g, some h => !h.pieceHere m g | _, _ => true)
   | .coll =>
     let plan := collPlan (leNat m.desc) (m.prog + 1)
     decide (m.prog < collSteps (leNat m.desc)) &&
       ((plan.send == some n && full && decide (m.n < s.collSends m plan) && !(m.carry.isEmpty && plan.own.isSome)) ||
        (plan.recv == some n && dry && m.next.isNone && decide (m.buf.length < s.collBytes m plan)))
   | _ => false)

/-- The channel an expiry names: the lowest of those of the command's set whose timers expire in the same cycle (R366), which is free. -/
def State.expiring (s : State) (m : Cmd) (n : Nat) : Nat :=
  (m.chanSet.filter (fun k => s.waitsOn m k && Config.choice s.free (910 + k))).foldl Nat.min n

/-- The peer of a channel. -/
def State.peerOf (s : State) (n : Nat) : Nat := match tget s.channels n with | some h => chPeer h.entry | none => 0

/-- A member of a `mcst` falls silent: its transfer is no longer offered, and the command ends (R365, R366). -/
def State.memberTimeout (s : State) (c : Nat) (m : Cmd) (n : Nat) : State :=
  ({ s with outbox := s.outbox.filter (fun t => !(t.chan == n && m.sent.contains (n, t.id))) }).timeoutCmd c m (n % 256) ((n - 256) / 256)

/-- `CHANNEL_TIMEOUT` (R365): `h` below 256 a channel; from 256 a member of a `mcst`, 256 + chip × 256 + channel; from 2^23 a member of an `rdld`,
2^23 + core × 2^14 + chip. It expires only while a step waits on that peer; of a saved team, the command ends after the restore (R366). -/
def State.channelTimeout (s : State) (h : Nat) : State :=
  if 2 ^ 23 ≤ h then
    let c := (h - 2 ^ 23) / 2 ^ 14
    let chip := (h - 2 ^ 23) % 2 ^ 14
    match (s.core c).inProgress (fun m => m.kind == .rdld && m.buf.isEmpty &&
        (List.range (bits (leNat m.desc) 0 7)).any (fun i => rdldChip (leNat m.desc) i == chip)) with
    | some m => s.timeoutCmd c m 0 chip
    | none => s
  else if 256 ≤ h then
    match s.cores.findSome? (fun e => (e.2.inProgress (fun m => m.kind == .mcst && m.sent.any (fun t => t.1 == h))).map (fun m => (e.1, m))) with
    | some (c, m) => s.memberTimeout c m h
    | none => s
  else match tget s.channels h with
    | none => s
    | some v =>
      if v.state = 2 then s
      else match (match s.chanUser [h] with | some p => some p.2 | none => s.savedUser h).filter (fun m =>
          s.waitsOn m h && (m.st == CmdState.running || (m.st == CmdState.halted && m.sent.any (fun t => t.1 == h)))) with
        | some m => s.abortRound (s.expiring m h) (s.peerOf (s.expiring m h))
        | none => s

def execChannelTimeout (h : Nat) (s' : State) : Host.Outcome State Fault Refusal := happen (fun s => s.channelTimeout h) s'

/-! ### The static mesh (R349 to R352) -/

/-- `MESH_SLOT_DEPART` (R352): the oldest payload of grant `n` of launch `l` leaves at its slot, where the receiver's buffer will have room. -/
def Grant.depart (g : Grant) : Grant :=
  match g.sendBuf with
  | p :: r => if g.moving.length + g.recvBuf.length < 2 then { g with sendBuf := r, moving := g.moving ++ [p] } else g
  | [] => g

def execMeshSlotDepart (l n : Nat) (s' : State) : Host.Outcome State Fault Refusal := happen (fun s => s.modGrant l n Grant.depart) s'

/-- `MESH_PAYLOAD_ARRIVE` (R350) -/
def Grant.arrive (g : Grant) : Grant :=
  match g.moving with
  | p :: r => { g with moving := r, recvBuf := g.recvBuf ++ [p], came := g.came + 1 }
  | [] => g

def execMeshPayloadArrive (l n : Nat) (s' : State) : Host.Outcome State Fault Refusal := happen (fun s => s.modGrant l n Grant.arrive) s'

end Sys2Proof.Machine
end

