-- ==== Sys2Proof/Machine/EngineEvents.lean ====
section
/-! DEFINITION. How engine commands start (R14, R17), wait for permits (R256, R308), halt (R126, R127), end (R129, R335) and complete; block
fills (R73); and the group loads' requests, holds and fills (R95 to R100). -/

namespace Sys2Proof.Machine

/-! ### Starting (R17, R308) -/

/-- A command has nothing to move. -/
def Cmd.empty (m : Cmd) : Bool :=
  match m.kind with
  | .cpy | .cpyt | .cpyg | .cpys | .cfill => m.total == 0
  | .padj | .chrecv | .chred | .coll | .rdld => (match m.dst with | some g => g.d0 * g.d1 == 0 | none => true)
  | .hist => (match m.src with | some g => g.d0 * g.d1 == 0 | none => true)
  | _ => false

/-- An engine has a slot for the command (R17): four copies, one product, one drain beside it, one card that holds both, one channel command. -/
def Core.slotFree (k : Core) (m : Cmd) : Bool :=
  let busy := (k.cmds.filter (fun n => n.inSlot && n.kind.queue == m.kind.queue)).length
  match m.kind.queue with
  | some 0 => decide (busy < 4)
  | some 1 => k.matrixFree m.kind && !k.guestAhead m.id
  | _ => busy == 0

/-- The command needs a power permit (R256, R308). -/
def Cmd.needsPermit (m : Cmd) : Bool :=
  match m.kind with
  | .cpy | .cpyt | .cpyg | .cpys | .cfill => (match m.dst with | some g => decide (2 ^ 27 ≤ m.total * g.w) | none => false)
  | .mma | .mmasp =>
    (match m.src, m.src2 with
     | some a, some b => let d := matDims (m.kind == .mmasp) a b; decide (2 ^ 24 ≤ d.1 * d.2.1 * d.2.2)
     | _, _ => false)
  | .coll => (match m.src with | some g => decide (2 ^ 26 ≤ xferBytes g.fmt g.w (g.d0 * g.d1)) | none => false)
  | _ => false

/-- The head of queue `q` of a core. -/
def Core.queueHead (k : Core) (q : Nat) : Option Cmd := k.cmds.find? (fun m => m.kind.queue == some q && m.waiting)

/-- The channels a command receives on: a relay's, a receive's, and those from which a step of a collective receives. -/
def Cmd.recvChans (m : Cmd) : List Nat :=
  match m.kind with
  | .chsend => (match m.src with | some g => if g.space = 2 then [g.relayChan] else [] | none => [])
  | .chrecv | .chred => [m.chan]
  | .coll => ((List.range (collSteps (leNat m.desc))).filterMap (fun i => (collPlan (leNat m.desc) (i + 1)).recv)).foldl (fun l n => insertNat n l) []
  | _ => []

/-- The stacks whose queues hold an entry for a command (R361): those its buffers, and a global destination, lie on. -/
def State.stacksOf (s : State) (c : Nat) (m : Cmd) : List Nat :=
  let at_ := fun (h root va : Nat) => match s.xlat h root va .write with
    | .ok pa => if isHost pa then none else some (stackOf pa)
    | _ => none
  let buffers := m.recvChans.filterMap (fun n => (tget s.channels n).bind (fun h => at_ h.core h.root (chBuffer h.entry)))
  let dest := match m.kind, m.dst with
    | .chrecv, some g | .chred, some g | .coll, some g | .rdld, some g =>
      if g.space = 0 then (at_ c (s.cmdRoot c m) (addrOf (Int.ediv (g.bitOf 0 0) 8))).toList else []
    | _, _ => []
  (buffers ++ dest).foldl (fun l k => insertNat k l) []

/-- The command takes its entries of the stack queues. -/
def State.joinStack (s : State) (c : Nat) (m : Cmd) : State :=
  (s.stacksOf c m).foldl (fun s k => { s with stackQ := tput s.stackQ k (((tget s.stackQ k).getD []) ++ [(c, m.id)]) }) s

/-- `ENGINE_COMMAND_START` (R17): engine `e` (0 copy, 1 matrix and projection, 2 channel) starts the head of its queue, once what its context
issued before has been performed (R147). One that needs a permit asks for it and waits at the head; one on an ABORTED channel ends
(R369); a receive waits for room in its stack queues (R361). -/
def State.engineStart (s : State) (c e : Nat) : State :=
  let k := s.core c
  match k.queueHead e with
  | none => s
  | some m =>
    if !k.slotFree m || !(k.ctx m.ctx).doneBelow m.mark then s
    else if m.needsPermit && !m.granted then
      if m.st = CmdState.permit then s
      else
        let d := s.die (dieOf c)
        (s.putCmd c { m with st := .permit }).putDie (dieOf c) { d with waiting := d.waiting ++ [(c, m.id)] }
    else match s.deadChan m with
      | some (n, chip) => s.timeoutCmd c m n chip
      | none =>
        if !(s.stacksOf c m).all s.stackRoom then s else
        (s.joinStack c m).putCmd c { m with st := if m.empty then .finished else .running }

def execEngineCommandStart (c e : Nat) (s' : State) : Host.Outcome State Fault Refusal := happen (fun s => s.engineStart c e) s'

/-- `POWER_PERMIT_GRANT` (R308): the oldest request of the die is granted while fewer than K permits are held. -/
def State.permitGrant (s : State) (d : Nat) : State :=
  let k := s.die d
  match k.waiting with
  | [] => s
  | (c, id) :: r =>
    if k.permits ≤ k.holding.length then s
    else
      let s := s.putDie d { k with waiting := r, holding := k.holding ++ [(c, id)] }
      match (s.core c).cmd id with
      | some m => s.putCmd c { m with granted := true, st := .queued }
      | none => s

def execPowerPermitGrant (d : Nat) (s' : State) : Host.Outcome State Fault Refusal := happen (fun s => s.permitGrant d) s'

/-! ### Block fills (R73, R228) -/

/-- The physical lines of a block, each translated; with the failure, how many are present before it. -/
def State.blockFillLines (s : State) (c root va : Nat) : Nat → Nat → List Nat → Except (Fail × Nat) (List Nat)
  | 0, _, ls => .ok ls
  | fuel + 1, i, ls =>
    let a := va + 128 * i
    match s.xlat c root a .read with
    | .ok pa =>
      (match (span pa 128).find? s.isLost with
       | some q => .error (s.failLost a (span pa 128) q, i)
       | none => s.blockFillLines c root va fuel (i + 1) (ls ++ [lineOf pa]))
    | q => .error (s.failXlat a q, i)

/-- The fill of a load-block: all its lines, then its tag is READY; skipped, only its lines that translate. -/
def State.blockStep (s : State) (c : Nat) (m : Cmd) : Stepped :=
  let root := s.cmdRoot c m
  if !((s.core c).ctx m.ctx).doneBelow m.mark then .wait
  else
    let fill := fun (s : State) (ls : List Nat) => s.fillLines c ls
    let ended := fun (s : State) (skip : Bool) => Stepped.done ((s.publishTo c m m.n skip).dropCmd c m)
    let s := (List.range m.n).foldl (fun s i => s.noteSpan c root (m.list + 128 * i) 128) s
    match s.blockFillLines c root m.list m.n 0 [] with
    | .error (f, i) => if m.skip.isEmpty then .fail f i s else
        ended (fill s ((List.range m.n).filterMap (fun j => match s.xlat c root (m.list + 128 * j) .read with
          | .ok pa => if (span pa 128).any s.isLost then none else some (lineOf pa)
          | _ => none))) true
    | .ok ls =>
      let named := fun (b : Block) => b.tag == (m.tag.getD (0, 0)).1 && b.gen == (m.tag.getD (0, 0)).2
      let s := s.modCore c (fun k => match tget k.teams m.team with
        | some t => k.putTeam m.team { t with blocks := t.blocks.map (fun b => if named b then { b with lines := ls } else b) }
        | none => k)
      ended (fill s ls) false

/-- `BLOCK_FILL_COMPLETE` (R73) -/
def State.blockFill (s : State) (c id : Nat) : State :=
  match s.runningCmd c id (fun k => k == .ldblk) with
  | some m => (s.blockStep c m).orElse s
  | none => s

def execBlockFillComplete (c k : Nat) (s' : State) : Host.Outcome State Fault Refusal := happen (fun s => s.blockFill c k) s'

/-! ### Group loads (R95 to R100) -/

/-- The hold of sequence number `n` of a group. -/
def Group.hold? (g : Group) (n : Nat) : Option Hold := g.holds.find? (fun h => h.seq == n)

def Group.putHold (g : Group) (h : Hold) : Group :=
  { g with holds := if (g.hold? h.seq).isSome then g.holds.map (fun k => if k.seq = h.seq then h else k) else g.holds ++ [h] }

/-- The launch, key and group of a group load's command. -/
def State.groupOf (s : State) (c : Nat) (m : Cmd) : Option (Nat × Nat × Group) :=
  match tget (s.core c).teams m.team with
  | some t => (s.launchOf t.launch).map (fun l => (t.launch, groupKey c m.chan, l.group (groupKey c m.chan)))
  | none => none

/-- Two requests name the same source, and destinations that differ in base at most (R97). -/
def sameRequest (h : Hold) (src dst : Geo) : Bool :=
  h.src.same src && h.dst.d0 == dst.d0 && h.dst.d1 == dst.d1 && h.dst.pitch == dst.pitch && h.dst.fmt == dst.fmt &&
  h.dst.trav == dst.trav && h.dst.sbase == dst.sbase && h.dst.sstride == dst.sstride

/-- A member's tag is MISMATCH, and nothing more is owed to it. -/
def State.mismatchCmd (s : State) (c id : Nat) : State :=
  match (s.core c).cmd id with
  | some m =>
    let s := match m.tag with
      | some (n, g) => s.modTag c m.team n (fun (t : Tag) => if t.gen = g ∧ t.state = TagState.bound then { t with state := .mismatch } else t)
      | none => s
    s.dropCmd c m
  | none => s.modSaved c id (SavedTeam.endCmd .mismatch)

/-- The slice a hold stands at, by die and index: that of its source's first byte. -/
def State.holdSlice (s : State) (c root : Nat) (g : Geo) : Option (Nat × Nat) :=
  match s.xlat c root (addrOf (Int.ediv (g.bitOf 0 0) 8)) .read with
  | .ok pa => some (homeDie pa, sliceOf pa)
  | _ => none

/-- The hold entries in use at a slice. -/
def State.holdsAt (s : State) (c : Nat) (sl : Option (Nat × Nat)) : Nat :=
  (s.launches.map (fun l => (l.2.groups.map (fun g => (g.2.holds.filter (fun h =>
    !(h.released && g.2.complete h) && s.holdSlice c l.2.root h.src == sl)).length)).sum)).sum

/-- `GROUP_REQUEST_ARRIVE` (R95, R97): the request joins its hold, once its member's earlier accesses have been performed; they are published at
die scope (R100), once (R153). It waits where its slice's table of 256 entries is full. -/
def State.groupRequest (s : State) (c id : Nat) : State :=
  match s.runningCmd c id (fun k => k == .gld) with
  | none => s
  | some m =>
    match s.groupOf c m, m.src, m.dst with
    | some (l, key, g), some src, some dst =>
      let ask : GroupAsk := { core := c, ctx := m.ctx, cmd := id, served := false }
      if g.holds.any (fun h => h.holds c id) || !((s.core c).ctx m.ctx).doneBelow m.mark then s
      else
        match g.hold? m.n with
        | none =>
          if 256 ≤ s.holdsAt c (s.holdSlice c (s.cmdRoot c m) src) then s
          else
            let s := s.publish c 1
            let h : Hold := { seq := m.n, released := false, timedOut := false, mismatch := false, src := src, dst := dst, asks := [ask], data := [],
                              halted := false }
            s.putGroup l key (g.putHold h).settle
        | some h =>
          let s := s.publish c 1
          if h.mismatch then
            (s.putGroup l key (g.putHold { h with asks := h.asks ++ [{ ask with served := true }] }).settle).mismatchCmd c id
          else if sameRequest h src dst then
            let s := s.putCmd c { m with flags := if h.released then 1 else 0 }
            s.putGroup l key (g.putHold { h with asks := h.asks ++ [ask] }).settle
          else if h.released then
            (s.putGroup l key (g.putHold { h with asks := h.asks ++ [{ ask with served := true }] }).settle).mismatchCmd c id
          else
            let s := (s.putGroup l key (g.putHold { h with mismatch := true, asks := (h.asks ++ [ask]).map (fun a => { a with served := true }) }).settle)
            (h.asks ++ [ask]).foldl (fun s a => s.mismatchCmd a.core a.cmd) s
    | _, _, _ => s

def execGroupRequestArrive (c k : Nat) (s' : State) : Host.Outcome State Fault Refusal := happen (fun s => s.groupRequest c k) s'

/-- `GROUP_HOLD_TIMEOUT` (R95): group `key` (die × 16 + number) of launch `l`, sequence number `n`. -/
def State.groupTimeout (s : State) (l key n : Nat) : State :=
  match s.launchOf l with
  | none => s
  | some v =>
    let g := v.group key
    match g.hold? n with
    | some h => if h.released then s else s.putGroup l key (g.putHold { h with released := true, timedOut := true }).settle
    | none => s

def execGroupHoldTimeout (l g n : Nat) (s' : State) : Host.Outcome State Fault Refusal := happen (fun s => s.groupTimeout l g n) s'

/-- The core of a member that has asked: of one whose team is saved, the core it left. -/
def State.askCore (s : State) (a : GroupAsk) : Nat :=
  match s.saved.find? (fun v => savedCore v.launch v.unit == a.core) with
  | some v => (match (s.launchOf v.launch).bind (fun l => tget l.units v.unit) with
    | some r => (match r.state with | .saved c => c | _ => a.core)
    | none => a.core)
  | none => a.core

/-- The lowest core id × 4 + context among some members. -/
def State.lowestAsk (s : State) (as : List GroupAsk) : Option GroupAsk :=
  as.foldl (fun (b : Option GroupAsk) a => match b with
    | some o => if s.askCore a * 4 + a.ctx < s.askCore o * 4 + o.ctx then some a else b
    | none => some a) none

/-- The member that leads a hold (R98): the lowest among those still owed a fill, on a core or saved. -/
def State.leader (s : State) (h : Hold) : Option GroupAsk := s.lowestAsk (h.asks.filter (fun a => !a.served))

/-- The member whose command reads the source for the slice: the lowest resident one. -/
def State.reader (s : State) (h : Hold) : Option GroupAsk := s.lowestAsk (h.asks.filter (fun a => !a.served && decide (a.core < 256)))

/-- The end of the destination piece that begins at index `i` (R109). -/
def Geo.pieceEndAt (g : Geo) (i : Nat) : Nat := pieceEnd (travLine g.trav g.d0 g.d1) g.w i (g.d0 * g.d1)

/-- The places in the source of the elements of the destination piece at `i`. -/
def holdPlaces (src dst : Geo) (i : Nat) : List Place :=
  (List.range (dst.pieceEndAt i - i)).map (fun k =>
    let p := travElem dst.trav dst.d0 dst.d1 (i + k)
    src.place src.org p.1 p.2 p.2 src.clamp false false)

/-- The source elements of the next destination piece read for a hold, after the elements `data`: with a skip, what cannot be read is the format's
zero (R128). -/
def State.holdRead (s : State) (c : Nat) (m : Cmd) (src dst : Geo) (data : List Nat) : Except Fail (List Nat) :=
  let i := data.length
  (holdPlaces src dst i).foldl (fun (acc : Except Fail (List Nat)) p =>
    match acc with
    | .error f => .error f
    | .ok l =>
      match s.readPlace c (s.cmdRoot c m) m.team src p with
      | .ok q => .ok (l ++ [q.code + 2 ^ 32 * q.scale])
      | .error f => if m.skip.contains i then .ok (l ++ [0]) else .error f) (.ok data)

/-- Element `i` of the data read. -/
def holdElem (data : List Nat) (i : Nat) : Elem := { code := data.getD i 0 % 2 ^ 32, scale := data.getD i 0 / 2 ^ 32 }

/-- The elements of a member's next piece have all been read. -/
def fillReady (dst : Geo) (data : List Nat) (i : Nat) : Bool := decide (dst.pieceEndAt i ≤ data.length)

/-- Another asking member whose next piece has been read but has not landed. -/
def State.fillOwed (s : State) (c id : Nat) (h : Hold) : Bool :=
  h.asks.any (fun a => !a.served && !(a.core == c && a.cmd == id) &&
    (match s.runningCmd a.core a.cmd (fun k => k == .gld) with
     | some q => (match q.dst with | some d => fillReady d (if q.flags = 1 then q.chunks else h.data) q.prog | none => false)
     | none => false))

/-- The frontier of the tag of a member that has asked, on its core or in its saved team. -/
def State.askFrontier (s : State) (a : GroupAsk) : Option Nat :=
  match (s.core a.core).cmd a.cmd with
  | some q => some (s.frontier a.core q)
  | none => (s.saved.find? (fun v => savedCore v.launch v.unit == a.core)).bind (fun v =>
      (v.cmds.find? (fun m => m.id == a.cmd)).bind (fun m => m.tag.map (fun t => (v.team.tag t.1).f)))

/-- The lowest frontier among the tags of the members that have asked (R98). -/
def State.groupCursor (s : State) (h : Hold) : Nat :=
  match (h.asks.filter (fun a => !a.served)).filterMap s.askFrontier with
  | f :: r => r.foldl Nat.min f
  | [] => 0

/-- A piece read: the hold holds it, or, for a fill of a late member's own, the member's command does (R96); the hold is halted no longer, and a skip
applies to every member still owed a fill (R128). -/
def State.holdFilled (s : State) (c l key : Nat) (g : Group) (h : Hold) (m : Cmd) (late : Bool) (i : Nat) (data : List Nat) : State :=
  let s := if m.skip.contains i then
      (h.asks.filter (fun a => !a.served && !(a.core == c && a.cmd == m.id))).foldl (fun (s : State) a => match (s.core a.core).cmd a.cmd with
        | some q => s.putCmd a.core { q with skip := i :: q.skip }
        | none => s.modSaved a.core a.cmd (fun v q => { v with cmds := v.cmds.map (fun n => if n.id = q.id then { n with skip := i :: n.skip } else n) })) s
    else s
  if late then (s.putCmd c { m with chunks := data }).putGroup l key (g.putHold { h with halted := false })
  else s.putGroup l key (g.putHold { h with data := data, halted := false })

/-- The next thing that happens to a member's group load once the hold is released: a piece that has been read lands in its window; or what the next
piece needs is read, by the lowest resident member for all that asked before the release, by a late member for itself (R96). A fault of the
source is the leader's (R98): the others wait, though the leader's team be saved. The halted piece is that of the cursor, which a skip passes
(R128). -/
def State.groupStep (s : State) (c : Nat) (m : Cmd) : Stepped :=
  match s.groupOf c m, m.src, m.dst with
  | some (l, key, g), some src, some dst =>
    (match g.holds.find? (fun h => h.holds c m.id) with
     | none => .wait
     | some h =>
       let n := dst.d0 * dst.d1
       let late := m.flags == 1
       let got := if late then m.chunks else h.data
       let leads := (s.leader h).map (fun a => (a.core, a.cmd)) == some (c, m.id)
       let reads := (s.reader h).map (fun a => (a.core, a.cmd)) == some (c, m.id)
       if !h.released then .wait
       else if !fillReady dst got m.prog then
         if leads || (!h.halted && (late || reads)) then
           let s := (holdPlaces src dst got.length).foldl (fun s p => s.reachPlace c (s.cmdRoot c m) src p) s
           match s.holdRead c m src dst got with
           | .error f =>
             if !leads || s.fillOwed c m.id h then .wait
             else .fail f got.length (s.putGroup l key (g.putHold { h with halted := true }))
           | .ok data => .done (s.holdFilled c l key g h m late got.length data)
         else .wait
       else
         let s := if h.status m = 1 ∧ m.prog = 0 then s.acquire c 1 else s
         let i := m.prog
         let e := dst.pieceEndAt i
         let es := (List.range (e - i)).map (fun k => holdElem got (i + k))
         match writeElems c (s.cmdRoot c m) m.team dst (m.skip.contains i) none i es s with
         | .error (f, _, left) => .fail f i (partly s left)
         | .ok t =>
           if e < n then .done ((t.putCmd c { m with prog := e }).publishTo c m e (!m.skip.isEmpty))
           else
             let h := { h with asks := h.asks.map (fun a => if a.core = c ∧ a.cmd = m.id then { a with served := true } else a) }
             .done (((t.publishTo c m n (!m.skip.isEmpty)).putGroup l key (g.putHold h).settle).dropCmd c m))
  | _, _, _ => .wait

/-- `GROUP_FILL_LAND` (R96) -/
def State.groupFill (s : State) (c id : Nat) : State :=
  match s.runningCmd c id (fun k => k == .gld) with
  | some m => (s.groupStep c m).orElse s
  | none => s

def execGroupFillLand (c k : Nat) (s' : State) : Host.Outcome State Fault Refusal := happen (fun s => s.groupFill c k) s'

/-! ### Pieces, halts, ends, completion -/

/-- A copy that moves pieces. -/
def isCopy (k : CmdKind) : Bool := k == .cpy || k == .cpyt || k == .cpyg || k == .cpys || k == .cfill

/-- `COPY_PIECE_WRITE` (R110) -/
def State.copyPiece (s : State) (c id : Nat) : State :=
  match s.runningCmd c id isCopy with
  | some m => (s.copyStep c m).orElse s
  | none => s

def execCopyPieceWrite (c k : Nat) (s' : State) : Host.Outcome State Fault Refusal := happen (fun s => s.copyPiece c k) s'

/-- What the next step of a running command comes to. -/
def State.cmdStep (s : State) (c : Nat) (m : Cmd) : Stepped :=
  match m.kind with
  | .cpy | .cpyt | .cpyg | .cpys | .cfill => s.copyStep c m
  | .hist => s.histStep c m
  | .mma | .mmasp => s.productStep c m
  | .mzero => s.mzeroStep c m
  | .drain => if isRed m then s.redStep c m else s.drainStep c m
  | .padj => s.padjStep c m
  | .jcard => s.cardStep c m
  | .gld => s.groupStep c m
  | .ldblk => s.blockStep c m
  | .chsend | .chrecv | .chred | .coll | .mcst | .rdld => s.chanStep c m

/-- `ENGINE_HALT` (R126, R127): a running command whose next step meets a fault, or that has lost something it reads (R271), halts, or ends. The cursor
is the frontier; for a load-block the lines present; for a group load the lowest frontier of those asking; for a product the chunks done, for a
card its entry. -/
def State.engineHalt (s : State) (c id : Nat) : State :=
  match (s.core c).cmd id with
  | none => s
  | some m =>
    if m.st ≠ CmdState.running then s else
    match (match s.brokenAt c m with | some site => Stepped.fail (failUnit site) m.prog s | none => s.cmdStep c m) with
    | .fail f piece left =>
      (match (left.core c).cmd id with
       | none => left
       | some m =>
         if endsOnFault m.kind then left.endOnFault c m f piece
         else
           let cursor := match m.kind with
             | .ldblk => piece
             | .gld => (match (left.groupOf c m).bind (fun g => g.2.2.holds.find? (fun h => h.halted && h.holds c id)) with
               | some h => left.groupCursor h
               | none => left.frontier c m)
             | _ => left.frontier c m
           left.haltCmd c m f cursor piece)
    | _ => s

def execEngineHalt (c k : Nat) (s' : State) : Host.Outcome State Fault Refusal := happen (fun s => s.engineHalt c k) s'

/-- `CHASE_ABORT` (R129): a running chaser that needs an element beyond an aborted tag ends. -/
def State.chaseAbort (s : State) (c id : Nat) : State :=
  match s.runningCmd c id (fun _ => true) with
  | none => s
  | some m =>
    match s.cmdStep c m with
    | .aborted tag => s.chaseEnd c m tag (if isProduct m.kind then m.prog else s.frontier c m)
    | _ => s

def execChaseAbort (c k : Nat) (s' : State) : Host.Outcome State Fault Refusal := happen (fun s => s.chaseAbort c k) s'

/-- `ENGINE_COMMAND_COMPLETION` (R17): it fills the entry it owes (R322, R345), its edges leave the graph, its busy bit and permit are freed. A
deterministic drain is incomplete while a buffer with a contribution of it is open (R340). -/
def State.engineComplete (s : State) (c id : Nat) : State :=
  match (s.core c).cmd id with
  | some m =>
    if m.st = CmdState.finished ∧ s.det.any (fun b => b.holds c id) = false then
      let s := match m.entry with
        | some e => s.modCtx c m.ctx (fun x => if m.lost then x.loseEntry e 0 0 noByte else x.fillLqs e (BitVec.ofNat 64 m.sum))
        | none => s
      s.dropCmd c m
    else s
  | none => s

def execEngineCommandCompletion (c k : Nat) (s' : State) : Host.Outcome State Fault Refusal := happen (fun s => s.engineComplete c k) s'

end Sys2Proof.Machine
end

