-- ==== Sys2Proof/Machine/UnitEvents.lean ====
section
/-! DEFINITION. How contexts and teams end (R30, R31, R306), events and asynchronous traps reach contexts (R34, R127, R263, R267), the
unit watchdog (R277), and errors of storage (R269 to R274). -/

namespace Sys2Proof.Machine

/-! ### Events -/

/-- `SEV_ARRIVAL` (R34): the first `sev` on its way to context `x` arrives. -/
def Core.sevArrive (k : Core) (x : Nat) : Core :=
  match k.sevs.find? (fun e => e.ctx == x) with
  | some e => { k with sevs := k.sevs.erase e }.setLatch x
  | none => k

def execSevArrival (c x : Nat) (s' : State) : Host.Outcome State Fault Refusal := happen (fun s => s.modCore c (fun k => k.sevArrive x)) s'

/-! ### Exit -/

/-- Every barrier in whose phase somebody has arrived is looked at again (R32). -/
def Core.settleBarriers (k : Core) : Core :=
  (k.barriers.filter (fun b => !b.2.arrived.isEmpty)).foldl (fun k b => k.settleBarrier b.1) k

/-- The tags a context bound as a software producer, and not published whole, are ABORTED when it exits (R114). -/
def Team.orphan (t : Team) (x : Nat) : Team :=
  { t with tags := t.tags.map (fun e =>
      if e.2.state = TagState.bound ∧ e.2.producer = 13 ∧ e.2.binder = x then (e.1, { e.2 with state := .aborted }) else e) }

/-- A context stops for good (R30): its entries are discarded, it leaves its groups, and it counts as arrived in every barrier. DESIGN CHOICE: a tag it
bound and has not published whole becomes ABORTED here, after the drain, and not as `exit` is executed; a command of its own that chases such a tag
holds the exit (R116; log entry 120). -/
def State.stopCtx (s : State) (c x : Nat) : State :=
  let s := (s.ctx c x).groups.foldl (fun s g => s.leaveGroup c x g.1) s
  let s := s.modCtx c x (fun v => { v.landAll with status := .exited, lq := [], lqs := [], sq := [], dfq := [], nest := [] })
  s.modCore c (fun k =>
    let k := match k.teamOf x with | some (b, t) => k.putTeam b (t.orphan x) | none => k
    k.settleBarriers)

/-- `EXIT_DRAIN_COMPLETE` (R30): nothing that the context issued is still under way, and no trap of it is due. -/
def State.exitDrain (s : State) (c x : Nat) : State :=
  let v := s.ctx c x
  if v.status = CtxStatus.exiting ∧ !s.undrained c x ∧ (v.pending = [] ∨ v.handler.isSome) then s.stopCtx c x else s

def execExitDrainComplete (c x : Nat) (s' : State) : Host.Outcome State Fault Refusal := happen (fun s => s.exitDrain c x) s'

/-! ### The end of a team -/

/-- The contexts of a team. -/
def Team.members (t : Team) (b : Nat) : List Nat := span b t.size

/-- The core that still counts on channel `n`, whose live state is `h`, when core `c` runs no team any more (R303, R357): one that a team of the launch
has been restored on, or the name of a saved team of it. -/
def State.chanKeeper (s : State) (c n : Nat) (h : Channel) : Option Nat :=
  match s.cores.find? (fun e => e.1 != c && !e.2.teams.isEmpty && (tget e.2.chans n).isSome &&
      e.2.teams.any (fun t => match s.launchOf t.2.launch with | some l => l.root == h.root | none => false)) with
  | some e => some e.1
  | none => (s.saved.find? (fun v => (tget v.chans n).isSome &&
      match s.launchOf v.launch with | some l => l.root == h.root | none => false)).map (fun v => savedCore v.launch v.unit)

/-- The channels of a core that runs no team any more are given up, or go with a saved team. -/
def State.dropChans (s : State) (c : Nat) : State :=
  if (s.core c).teams.isEmpty then
    { s with channels := s.channels.filterMap (fun h =>
        if h.2.core ≠ c ∨ 256 ≤ h.1 then some h
        else (s.chanKeeper c h.1 h.2).map (fun k => (h.1, { h.2 with core := k }))) }
  else s

/-- A team leaves its core: its contexts, window, tags, barriers and accumulators, with their busy bits, are released (R31, R71); the core has run
its launch (R151). A register that a lasting error has destroyed stays so. -/
def State.removeTeam (s : State) (c b : Nat) : State :=
  match tget (s.core c).teams b with
  | none => s
  | some t =>
    (s.modCore c (fun k =>
      let mine := decide (k.accOwner = some b)
      let k := { k with
        teams := tdel k.teams b, accOwner := if mine then none else k.accOwner, ran := insertNat t.launch k.ran
        accs := if mine then k.accs.map (fun (a : Acc) => { a with busy := none }) else k.accs }
      let k := (t.members b).foldl (fun (k : Core) x => k.putCtx x { Ctx.fresh with lostRegs := (k.ctx x).deadRegs, deadRegs := (k.ctx x).deadRegs }) k
      let shared := k.teams.any (fun e => e.2.barKey == t.barKey)
      if shared then k.settleBarriers
      else { k with barriers := k.barriers.filter (fun e => e.1 / 16 != t.barKey) })).dropChans c

/-- What is recorded of unit `u` of a launch. -/
def Launch.unitRec (l : Launch) (u : Nat) : UnitRec :=
  (tget l.units u).getD { state := .waiting, reruns := 0, die := 0, expired := false }

/-- Unit `u` of launch `l` has run to its end: done; or, where its time limit expired in this run, rerun while the rerun limit allows,
else abandoned (R306). -/
def Launch.finish (l : Launch) (u : Nat) : Launch :=
  let r := l.unitRec u
  if r.expired then
    if r.reruns < l.rerunLimit then
      { l with units := tput l.units u { r with state := .waiting, reruns := r.reruns + 1, expired := false } }
    else
      let l := { l with units := tput l.units u { r with state := .abandoned } }
      if l.status = 0 then { l with status := 3, cause := cWATCHDOG } else l
  else { l with units := tput l.units u { r with state := .done } }

/-! ### Asynchronous traps -/

/-- A trap can be delivered to a context: it runs, or is blocked, a bundle that the firmware is asked about among its blocks (R127, R267). -/
def CtxStatus.takesTraps : CtxStatus → Bool
  | .ready | .exiting => true
  | .service t => !t.ask
  | _ => false

/-- `ASYNC_TRAP_DELIVERY` (R127, R262, R263): the oldest trap due for the context, but for those the firmware is asked about, is taken at its bundle
boundary; a context parked in `qdeqw` withdraws first. Held while it is in its handler and while its team is stopped. -/
def State.asyncTrap (s : State) (c x : Nat) : State :=
  let v := s.ctx c x
  let stopped := match (s.core c).teamOf x with | some (_, t) => t.stopping | none => true
  if v.dueTrap.isSome && v.handler.isNone && v.status.takesTraps && !stopped then (s.withdraw c x).deliverTrap c x else s

def execAsyncTrapDelivery (c x : Nat) (s' : State) : Host.Outcome State Fault Refusal := happen (fun s => s.asyncTrap c x) s'

/-- `FIRMWARE_FAULT_SERVICE` (R267): for a context that waits, its bundle issues again, or the trap is taken; for one whose record has no place, the
trap is taken, or the context stops; for a halted command, it resumes its piece, or its trap is due and a command with no tag to halt ends. `mapped`:
the firmware has made the entry valid. DESIGN CHOICE: the record of a fault that is declined keeps the cycle of the walk that failed (R265; log
entry 136). -/
def State.faultService (s : State) (c x : Nat) (mapped : Bool) : State :=
  let v := s.ctx c x
  match v.status with
  | .service t =>
    let s := s.modCtx c x (fun v => { v with status := .ready })
    if t.ask then
      match mapped, s.recordPlace c x with
      | false, .error e => s.recordFailed c x v.pc e
      | _, _ => s.takeTrap c x t.cause t.record v.pc t.cmd t.unitWd
    else if mapped then s else s.takeTrap c x t.cause t.record v.pc t.cmd t.unitWd
  | _ =>
    match v.pending.find? (fun t => t.ask) with
    | none => s
    | some t =>
      if mapped then
        let s := s.modCtx c x (fun v => { v with pending := v.pending.erase t })
        match t.cmd.bind (s.core c).cmd with
        | some m => if m.st = CmdState.halted then s.resumeCmd c m 0 else s
        | none => s
      else
        let told := fun (q : Trap) => { q with ask := false }
        match t.cmd.bind (s.core c).cmd with
        | some m =>
          if endsOnFault m.kind then (s.modCtx c x (fun v => { v with pending := v.pending.map (fun q => if q = t then { told q with cmd := none } else q) })).abortCmd c m false
          else s.modCtx c x (fun v => { v with pending := v.pending.map (fun q => if q = t then told q else q) })
        | none => s.modCtx c x (fun v => { v with pending := v.pending.map (fun q => if q = t then told q else q) })

def execFirmwareFaultService (c x : Nat) (mapped : Bool) (s' : State) : Host.Outcome State Fault Refusal :=
  happen (fun s => s.faultService c x mapped) s'

/-! ### The unit watchdog -/

/-- `UNIT_TIME_LIMIT_EXPIRY` (R277): every engine command of the unit ends as by abort, and each of its contexts takes WATCHDOG. -/
def State.unitExpiry (s : State) (c b : Nat) : State :=
  match tget (s.core c).teams b with
  | none => s
  | some t =>
    match s.launchOf t.launch with
    | none => s
    | some l =>
      if l.unitLimit = 0 ∨ l.ended ∨ t.stopping ∨ (l.unitRec t.unit).expired then s
      else
        let s := s.modLaunch t.launch (fun l => { l with units := tput l.units t.unit { l.unitRec t.unit with expired := true, expiredAt := s.cycle.toNat } })
        let s := ((s.core c).cmds.filter (fun m => m.team == b)).foldl (fun s m => s.abortCmd c m false) s
        (t.members b).foldl (fun s x =>
          match (s.ctx c x).status with
          | .exited | .dead => s
          | _ => s.post c x cWATCHDOG 0 { step := 0, cause := cWATCHDOG, detail := 2 ^ 31, kind := 3 } none true false) s

def execUnitTimeLimitExpiry (c b : Nat) (s' : State) : Host.Outcome State Fault Refusal := happen (fun s => s.unitExpiry c b) s'

/-! ### Errors -/

def State.modPlatform (s : State) (f : Platform → Platform) : State := { s with platform := f s.platform }

/-- An entry of the error log (R274). -/
def State.logError (s : State) (kind : Nat) (site : ErrSite) : State :=
  s.modPlatform (fun p => { p with log := p.log ++ [{ kind := kind, site := site, cycle := s.cycle }] })

/-- The location of an error (R270): a line of its unit, a TLB's by its page, whatever it holds; an `xf` register, which a core's contexts share, as
context 0's. -/
def siteLocation : ErrSite → ErrSite
  | .cacheLine u a _ => .cacheLine u (match u with | .tlb _ | .dieTlb _ => a / 65536 * 65536 | _ => a / 128 * 128) false
  | .register c x r => .register c (if 620 ≤ r ∧ r < 624 then 0 else x) r
  | site => site

/-- Retirement (R273), logged. -/
def State.retire (s : State) (site : ErrSite) : State :=
  let s := s.logError 2 site
  match site with
  | .cacheLine .. => s.modPlatform (fun p => { p with retiredLines := p.retiredLines + 1 })
  | .hbm a => s.modPlatform (fun p => { p with retiredPages := insertNat (a / 65536) p.retiredPages })
  | .localStore c g => s.modCore c (fun k => { k with granules := insertNat g k.granules })
  | .matrixHalf c => s.modCore c (fun k => { k with halfRate := true })
  | .sfBank c => s.modCore c (fun k => { k with sfDegraded := true })
  | .register c _ _ => s.modCore c (fun k => { k with retiring := true })
  | .accumulator c _ | .command c _ | .tag c _ _ | .channel c _ | .barrier c _ _ | .coreUnit c => s.modCore c (fun k => { k with retiring := true })
  | .meshBuffer l i _ => match (s.launchOf l).bind (fun v => v.grants[i]?) with
    | some g => s.modCore (grantReceiver g.word) (fun k => { k with retiring := true })
    | none => s

/-- The entries of a context that stand in broken cells, `dead`, are lost (R271): cells of `lqs` from 500 on, of `lq` from 520, of `sq` from 540. -/
def Ctx.intoCells (v : Ctx) (dead : List Nat) : Ctx :=
  let gone := fun (k : Nat) (e : PortEntry) => if dead.contains (k + e.cell) then { e with lost := some (0, 0, noByte) } else e
  { v with
    lqs := v.lqs.map (gone 500), lq := v.lq.map (gone 520)
    sq := v.sq.map (fun e => if dead.contains (540 + e.cell) then { e with lost := true } else e) }

/-- Register or queue cell `r` of a context is destroyed (R270 to R272): the entry it holds, and every one it is to hold, is found lost by its pop;
a register's loss is found by its reader. -/
def Ctx.loseReg (v : Ctx) (r : Nat) : Ctx :=
  let v := { v with deadRegs := insertNat r v.deadRegs }
  if 500 ≤ r ∧ r < 560 then v.intoCells [r] else { v with lostRegs := insertNat r v.lostRegs }

/-- The base whose barrier storage the team at `b` uses: that of the first team of its pair (R33). -/
def Core.barBase (k : Core) (b : Nat) : Nat :=
  match tget k.teams b with
  | some t => ((k.teams.filter (fun e => e.2.barKey == t.barKey)).map (fun e => e.1)).headD b
  | none => b

/-- What a lasting error destroys (R270 to R272): a dirty line's data, a granule, a register or queue cell, an accumulator, a command's entry, a tag, an
entry of the channel table, a payload buffer of a mesh grant, a barrier; a page's data is lost with its retirement. A unit without storage of a
program's values loses none (log entry 117). -/
def State.lose (s : State) (site : ErrSite) : State :=
  match site with
  | .localStore c g => s.modCore c (fun k => { k with deadGranules := insertNat g k.deadGranules })
  | .channel c n => s.modCore c (fun k => { k with lostChans := insertNat n k.lostChans, deadChans := insertNat n k.deadChans })
  | .meshBuffer l i n => s.modGrant l i (fun g => { g with dead := insertNat n g.dead })
  | .barrier c b n => s.modCore c (fun k => { k with deadBars := insertNat (k.barBase b * 16 + n) k.deadBars })
  | .cacheLine _ a true => s.modPlatform (fun p => { p with lost := (span (a / 128 * 128) 128).foldl (fun l b => insertNat b l) p.lost })
  | .register c x r =>
    if 620 ≤ r ∧ r < 624 then [0, 1, 2, 3].foldl (fun (s : State) y => s.modCtx c y (fun v => v.loseReg r)) s
    else s.modCtx c x (fun v => v.loseReg r)
  | .accumulator c a => s.modCore c (fun k => { k with lostAccs := insertNat a k.lostAccs })
  | .command c i => s.modCore c (fun k => { k with cmds := k.cmds.map (fun m => if m.id = i then { m with lost := true } else m) })
  | .tag c b n => s.modCore c (fun k => match tget k.teams b with
    | some t => k.putTeam b { t with lostTags := insertNat n t.lostTags }
    | none => k)
  | _ => s

/-- The unit exists: 256 cores, four dies of 48 slices. -/
def unitExists : CacheUnit → Bool
  | .l1 c | .icache c | .tlb c => decide (c < 256)
  | .slice d i => decide (d < 4) && decide (i < 48)
  | .dieTlb d => decide (d < 4)

/-- Only a slice's line can hold data that live nowhere else: an L1 is write-through, and an instruction cache and a TLB hold copies (R72, R75, R77). -/
def holdsDirty : CacheUnit → Bool
  | .slice .. => true
  | _ => false

/-- The storage exists (R1): its unit, 48-bit physical addresses, 128 granules and four accumulators a core, 256 channel entries, 16 barriers of a team,
two payload buffers of a grant, queue cells 0 to 15. -/
def siteExists : ErrSite → Bool
  | .cacheLine u a dirty => unitExists u && decide (a < 2 ^ 48) && (!dirty || holdsDirty u)
  | .channel c n => decide (c < 256) && decide (n < 256)
  | .meshBuffer _ i n => decide (i < 4096) && decide (n < 2)
  | .barrier c b n => decide (c < 256) && decide (b < 4) && decide (n < 16)
  | .hbm a => decide (a < Config.deviceTop)
  | .localStore c g => decide (c < 256) && decide (g < 128)
  | .matrixHalf c | .sfBank c | .coreUnit c => decide (c < 256)
  | .register c x r => decide (c < 256) && decide (x < 4) && decide (r < 1024)
  | .command c _ => decide (c < 256)
  | .tag c b n => decide (c < 256) && decide (b < 4) && decide (n < 64)
  | .accumulator c a => decide (c < 256) && decide (a < 4)

/-- `CORRECTED_ERROR` (R269): no value changes; the firmware counts it. -/
def State.correctedError (s : State) (site : ErrSite) : State :=
  if !siteExists site then s else (s.logError 0 site).modPlatform (fun p => { p with corrected := p.corrected + 1 })

def execCorrectedError (site : ErrSite) (s' : State) : Host.Outcome State Fault Refusal := happen (fun s => s.correctedError site) s'

/-- A transient error (R270): logged; the third at one location within 2^32 cycles retires the location, and nothing is lost. -/
def State.transientError (s : State) (site : ErrSite) : State :=
  let s := s.logError 1 site
  let now := s.cycle.toNat
  let here := s.platform.transients.filter (fun t => t.1 == siteLocation site && decide (now - t.2 < 2 ^ 32))
  let s := s.modPlatform (fun p => { p with transients := p.transients.filter (fun t => decide (now - t.2 < 2 ^ 32)) ++ [(siteLocation site, now)] })
  if 2 ≤ here.length then s.retire site else s

/-- `UNCORRECTABLE_ERROR` (R270): the retry succeeds, or the error is lasting. A lasting error of a line that is not dirty loses nothing: it
is transient after its refetch, and the line is retired. -/
def State.uncorrectable (s : State) (site : ErrSite) (lasting : Bool) : State :=
  if !siteExists site then s
  else if !lasting then s.transientError site
  else match site with
    | .cacheLine _ _ false => (s.logError 1 site).retire site
    | _ => (s.lose site).retire site

def execUncorrectableError (site : ErrSite) (lasting : Bool) (s' : State) : Host.Outcome State Fault Refusal :=
  happen (fun s => s.uncorrectable site lasting) s'

end Sys2Proof.Machine
end

