-- ==== Sys2Proof/Machine/HostQueues.lean ====
section
/-! DEFINITION. The host queues (R281 to R287, R291, R292): their registers, the mapper's slots, the packet at a queue's head, and completion records; and
memory as the management complex reads and writes it (R76, R152). -/

namespace Sys2Proof.Machine

/-! ### Memory as the management complex sees it -/

/-- A physical address that exists (R76). -/
def physExists (pa : Nat) : Bool := decide (pa < Config.deviceTop) || (isHost pa && decide (pa < 2 ^ 48))

/-- `n` bytes at a physical address, or `none` where the read fails: no such memory, or lost data. -/
def State.sysRead (s : State) (pa n : Nat) : Option (List Byte) :=
  if (span pa n).all (fun a => physExists a && !s.isLost a) then some (mread s.mem pa n) else none

/-- A little-endian number at a physical address. -/
def State.sysNat (s : State) (pa n : Nat) : Option Nat := (s.sysRead pa n).map leNat

/-- Bytes written by the firmware, the mapper or the dispatcher as a system-scope release (R152, R291): performed at their home slices, and
the signature of their lines published to every die. Bytes that do not exist, or are lost, are not written. -/
def State.sysWrite (s : State) (pa : Nat) (bs : List Byte) : State :=
  let ws := ((span pa bs.length).zip bs).filter (fun w => physExists w.1 && !s.isLost w.1)
  let g := signature (ws.map (fun w => lineOf w.1))
  let s := ws.foldl (fun s w => { s with mem := mput s.mem w.1 w.2 }.queueClobber w.1) s
  { s with dies := s.dies.map (fun d => { d with sigs := d.sigs ++ [g] }) }

/-- A translation by the dispatcher or the mapper, under a launch's root. -/
def State.sysXlat (s : State) (root va : Nat) (acc : Access) : Xlat :=
  if 2 ^ 52 ≤ va then .xlate false
  else pageCheck va acc (s.walk root va)

/-! ### Registers -/

def State.queue (s : State) (q : Nat) : HostQueue := (tget s.queues q).getD HostQueue.reset
def State.putQueue (s : State) (q : Nat) (v : HostQueue) : State := { s with queues := tput s.queues q v }
def State.modQueue (s : State) (q : Nat) (f : HostQueue → HostQueue) : State := s.putQueue q (f (s.queue q))

def HostQueue.enabled (v : HostQueue) : Bool := v.control.getLsbD 12
def HostQueue.prio (v : HostQueue) : Nat := bits v.control.toNat 8 2
def HostQueue.size (v : HostQueue) : Nat := 2 ^ bits v.control.toNat 0 5

/-- Ring control that the enable bit may stand in (R282, R284). -/
def controlOk (w : W64) : Bool :=
  decide (4 ≤ bits w.toNat 0 5) && decide (bits w.toNat 0 5 ≤ 16) && bits w.toNat 5 3 == 0 && bits w.toNat 10 2 == 0 && bits w.toNat 13 51 == 0

/-- The queue becomes FAULTED, and its host interrupt is raised (R284); a queue FAULTED already keeps its first reason (log entry 16). -/
def HostQueue.fail (v : HostQueue) (reason : Nat) : HostQueue :=
  if v.reason = 0 then { v with reason := reason, interrupts := v.interrupts + 1 } else v

/-- A run of its graph that has not begun (R285, R296). -/
def HostQueue.triggered (v : HostQueue) : Bool := v.runs.any (fun r => !r.begun)

/-- Eligible for a slot (R285). -/
def HostQueue.eligible (v : HostQueue) : Bool :=
  v.enabled && v.reason == 0 && (decide (v.readIndex < v.notify) || v.triggered || v.waiting.isSome || !v.signals.isEmpty)

/-- A bound queue that is no longer eligible, and has no packet waiting under R293 (a WAITV, a BARRIER, a SIGNAL), gives its slot back
(R285). -/
def HostQueue.settle (v : HostQueue) : HostQueue :=
  if v.slot.isSome && !v.eligible && v.waiting.isNone && v.signals.isEmpty then { v with slot := none } else v

def State.settleQueue (s : State) (q : Nat) : State := s.modQueue q HostQueue.settle

/-- The status register (R283). -/
def HostQueue.status (v : HostQueue) : W64 :=
  BitVec.ofNat 64 ((match v.slot with | some n => n * 2 ^ 16 + 2 ^ 15 | none => 0) + v.reason)

/-- A host read of a queue's page (R281). -/
def State.queueRead (s : State) (q off : Nat) : W64 :=
  let v := s.queue q
  match off with
  | 0x000 => BitVec.ofNat 64 v.notify
  | 0x010 => v.ringBase
  | 0x018 => v.control
  | 0x020 => BitVec.ofNat 64 v.readIndex
  | 0x028 => v.status
  | _ => 0

/-- `NOTIFY` (R284): the write index rises; a value below the read index, or beyond it by more than the ring's size, is ignored and makes
the queue FAULTED with reason 3. -/
def State.notify (s : State) (q : Nat) (w : W64) : State :=
  if 1024 ≤ q then s
  else (s.modQueue q (fun v =>
    if w.toNat < v.readIndex ∨ v.readIndex + v.size < w.toNat then v.fail 3 else { v with notify := w.toNat })).settleQueue q

def execNotify (q : Nat) (v : W64) (s' : State) : Host.Outcome State Fault Refusal := happen (fun s => s.notify q v) s'

/-- `TRIGGER` (R296): a run of the installed graph starts, or waits; with none installed, or four waiting, it is dropped and the queue is
FAULTED with reason 5. -/
def State.trigger (s : State) (q : Nat) (w : W64) : State :=
  if 1024 ≤ q then s
  else (s.modQueue q (fun v =>
    if v.graph.isNone || decide (5 ≤ v.runs.length) then v.fail 5
    else { v with runs := v.runs ++ [{ trigger := w, begun := false, started := [], done := [] }] })).settleQueue q

def execTrigger (q : Nat) (v : W64) (s' : State) : Host.Outcome State Fault Refusal := happen (fun s => s.trigger q v) s'

/-- `STATUS_CLEAR` (R283): any write clears the reason. Ring control is not checked again: a queue whose control is still invalid with the
enable bit set may be bound (DESIGN CHOICE, log entry 100). -/
def State.statusClear (s : State) (q : Nat) : State :=
  if 1024 ≤ q then s else s.modQueue q (fun v => { v with reason := 0 })

def execStatusClear (q : Nat) (s' : State) : Host.Outcome State Fault Refusal := happen (fun s => s.statusClear q) s'

/-- `HOST_REGISTER_WRITE` (R281, R282, R284): ring base and ring control; every other offset without a behaviour of its own ignores it. -/
def State.registerWrite (s : State) (q off : Nat) (w : W64) : State :=
  if 1024 ≤ q then s
  else (s.modQueue q (fun v =>
    match off with
    | 0x010 => { v with ringBase := w }
    | 0x018 =>
      let v := { v with control := w }
      if v.enabled && !controlOk w then v.fail 4 else v
    | _ => v)).settleQueue q

def execHostRegisterWrite (q off : Nat) (v : W64) (s' : State) : Host.Outcome State Fault Refusal :=
  happen (fun s => s.registerWrite q off v) s'

/-! ### The mapper (R285) -/

/-- Eligible queues that hold no slot, in queue order. -/
def State.wanting (s : State) : List (Nat × HostQueue) := s.queues.filter (fun e => decide (e.1 < 1024) && e.2.eligible && e.2.slot.isNone)

/-- The slots in use. -/
def State.slotsUsed (s : State) : List Nat := s.queues.filterMap (fun e => e.2.slot)

/-- The queue the next free slot goes to: the highest priority, round robin in queue number from after the last one bound at it. -/
def State.nextBound (s : State) : Option Nat :=
  let w := s.wanting
  match ([3, 2, 1, 0]).find? (fun p => w.any (fun e => e.2.prio == p)) with
  | none => none
  | some p =>
    let c := (w.filter (fun e => e.2.prio == p)).map (fun e => e.1)
    let last := vget s.lastBound p 0
    match c.find? (fun q => decide (last < q)) with
    | some q => some q
    | none => c.head?

/-- `MAPPER_BIND` (R285): the lowest free slot (log entry 16) goes to the queue whose turn it is. -/
def State.mapperBind (s : State) (q : Nat) : State :=
  if s.nextBound = some q then
    match (List.range 32).find? (fun n => !s.slotsUsed.contains n) with
    | some n =>
      let p := (s.queue q).prio
      { s.modQueue q (fun v => { v with slot := some n }) with lastBound := vset s.lastBound p q }
    | none => s
  else s

def execMapperBind (q : Nat) (s' : State) : Host.Outcome State Fault Refusal := happen (fun s => s.mapperBind q) s'

/-- `SLOT_RELINQUISH` (R285): a bound queue gives up its slot to an eligible queue of equal or higher priority that finds none free. -/
def State.slotRelinquish (s : State) (q : Nat) : State :=
  let v := s.queue q
  if v.slot.isSome && decide (32 ≤ s.slotsUsed.length) && s.wanting.any (fun e => decide (v.prio ≤ e.2.prio)) then
    s.modQueue q (fun v => { v with slot := none })
  else s

def execSlotRelinquish (q : Nat) (s' : State) : Host.Outcome State Fault Refusal := happen (fun s => s.slotRelinquish q) s'

/-! ### Packets (R286 to R288, R292) -/

def pkKind (p : W512) : Nat := hbits p 0 8
def pkBarrier (p : W512) : Bool := hbits p 8 1 == 1
def pkInterrupt (p : W512) : Bool := hbits p 9 1 == 1
def pkSelector (p : W512) : Nat := hbits p 10 2
def pkCompletion (p : W512) : Nat := hbits p 160 48
def pkResult (p : W512) : Nat := hbits p 208 48
def pkValue (p : W512) : Nat := hbits p 384 64
def pkAddress (p : W512) : Nat := hbits p 464 48

/-- Where the packet of index `i` lies (R281). -/
def HostQueue.place (v : HostQueue) (i : Nat) : Nat := v.ringBase.toNat + 64 * (i % v.size)

/-- The packet at the head of a queue from which the mapper may take one now (R284, R287). -/
def State.headPacket (s : State) (q : Nat) : Option W512 :=
  let v := s.queue q
  if v.slot.isSome && v.reason == 0 && v.enabled && v.waiting.isNone && decide (v.readIndex < v.notify) then
    (s.sysNat (v.place v.readIndex) 64).map (BitVec.ofNat 512)
  else none

/-- The head packet, if its kind is `kind` and a barrier bit allows its start (R287). -/
def State.takeable (s : State) (q kind : Nat) : Option W512 :=
  match s.headPacket q with
  | some p => if pkKind p = kind ∧ (pkBarrier p = false ∨ (s.queue q).open_ = []) then some p else none
  | none => none

/-- The mapper takes the head packet: the read index rises, and the packet is open until it completes. -/
def HostQueue.take (v : HostQueue) : HostQueue := { v with readIndex := v.readIndex + 1, open_ := v.open_ ++ [v.readIndex] }

/-- A completion record (R291). -/
def record (cycle tpc epoch : W64) (status cause : Nat) : List Byte :=
  leBytes 32 (cycle.toNat * 2 ^ 192 + tpc.toNat * 2 ^ 128 + epoch.toNat * 2 ^ 64 + status % 256 * 2 ^ 56 + cause % 256 * 2 ^ 48)

/-- A completion record is written at an address, its bits [4:0] cleared; none where the field is 0 (R288, R289). -/
def State.writeRecord (s : State) (addr : Nat) (tpc epoch : W64) (status cause : Nat) : State :=
  if addr = 0 then s else s.sysWrite (addr / 32 * 32) (record s.cycle tpc epoch status cause)

/-- Packet `i` of queue `q` completes: its record, then its interrupt (R286, R291). -/
def State.packetDone (s : State) (q i : Nat) (p : W512) (status cause : Nat) (tpc epoch : W64) : State :=
  (((s.writeRecord (pkCompletion p) tpc epoch status cause).modQueue q (fun v => { v with
    open_ := v.open_.filter (fun j => j != i)
    waiting := match v.waiting with | some (j, w) => if j = i then none else some (j, w) | none => none
    interrupts := if pkInterrupt p then v.interrupts + 1 else v.interrupts }))).settleQueue q

/-- Nonzero reserved fields, or a completion address out of place, of a packet other than LAUNCH and BARRIER (R292). -/
def packetOk (p : W512) : Bool :=
  hbits p 448 16 == 0 && hbits p 256 128 == 0 && hbits p 12 148 == 0 && pkCompletion p % 32 == 0

/-- The same for a BARRIER packet. -/
def barrierOk (p : W512) : Bool :=
  hbits p 12 148 == 0 && pkCompletion p % 32 == 0 && ([0, 1, 2, 3]).all (fun j => hbits p (256 + 64 * j + 48) 5 == 0)

/-- `UNKNOWN_PACKET_KIND` (R286) -/
def State.unknownKind (s : State) (q : Nat) : State :=
  match s.headPacket q with
  | some p => if 1 ≤ pkKind p ∧ pkKind p ≤ 6 then s else (s.modQueue q (fun v => v.fail 2)).settleQueue q
  | none => s

def execUnknownPacketKind (q : Nat) (s' : State) : Host.Outcome State Fault Refusal := happen (fun s => s.unknownKind q) s'

/-- `RING_READ_FAILED` (R284): the mapper's read of the next packet of a bound queue fails; the read index stays. -/
def State.ringFailed (s : State) (q : Nat) : State :=
  let v := s.queue q
  if v.slot.isSome && v.reason == 0 && v.waiting.isNone && decide (v.readIndex < v.notify) then (s.modQueue q (fun v => v.fail 1)).settleQueue q
  else s

def execRingReadFailed (q : Nat) (s' : State) : Host.Outcome State Fault Refusal := happen (fun s => s.ringFailed q) s'

/-! ### WAITV, SIGNAL and BARRIER (R293) -/

/-- A waiting WAITV packet reads its word again, by a system-scope acquire; it completes once its condition holds. -/
def State.pollWaitv (s : State) (q : Nat) : State :=
  let v := s.queue q
  match v.waiting with
  | some (i, p) =>
    if pkKind p = 3 ∧ v.slot.isSome then
      match s.sysNat (pkAddress p) 8 with
      | some w => if waitHolds (pkSelector p) (BitVec.ofNat 64 w) (BitVec.ofNat 64 (pkValue p)) then s.packetDone q i p 0 0 0 0 else s
      | none => s
    else s
  | none => s

/-- A packet of a kind that stops the taking of later ones is taken (R287). -/
def State.takeWaiting (s : State) (q : Nat) (p : W512) : State :=
  s.modQueue q (fun v => { v.take with waiting := some (v.readIndex, p) })

/-- A packet is taken and completes REFUSED with reason 2 (R292). -/
def State.refusePacket (s : State) (q : Nat) (p : W512) : State :=
  let i := (s.queue q).readIndex
  (s.modQueue q HostQueue.take).packetDone q i p 2 2 0 0

/-- `WAITV_PACKET` (R293): the packet is taken, and its word is read a first time. -/
def State.waitvTake (s : State) (q : Nat) : State :=
  match s.takeable q 3 with
  | some p => if packetOk p then (s.takeWaiting q p).pollWaitv q else s.refusePacket q p
  | none => s

def execWaitvPacket (q : Nat) (s' : State) : Host.Outcome State Fault Refusal := happen (fun s => s.waitvTake q) s'

/-- `WAITV_PACKET_POLL` (R293) -/
def execWaitvPacketPoll (q : Nat) (s' : State) : Host.Outcome State Fault Refusal := happen (fun s => s.pollWaitv q) s'

/-- A SIGNAL packet all of whose earlier packets have completed writes its value, and completes (R293, R152). -/
def State.signalReady (s : State) (q : Nat) : State :=
  let v := s.queue q
  match v.signals with
  | (i, p) :: r =>
    if v.open_.all (fun j => decide (i ≤ j)) then
      ((s.sysWrite (pkAddress p) (leBytes 8 (pkValue p))).modQueue q (fun v => { v with signals := r })).packetDone q i p 0 0 0 0
    else s
  | [] => s

/-- `SIGNAL` (R293): the oldest waiting SIGNAL packet is performed once its earlier packets have completed; else one at the head is taken, and
performed at once if it may be. -/
def State.signalStep (s : State) (q : Nat) : State :=
  let t := s.signalReady q
  if t != s then t
  else match s.takeable q 4 with
    | some p =>
      if packetOk p then (s.modQueue q (fun v => { v.take with signals := v.signals ++ [(v.readIndex, p)] })).signalReady q
      else s.refusePacket q p
    | none => s

def execSignal (q : Nat) (s' : State) : Host.Outcome State Fault Refusal := happen (fun s => s.signalStep q) s'

/-- Every packet of queue `r` with an index below `pos` has completed (R293). -/
def State.reached (s : State) (r pos : Nat) : Bool :=
  let v := s.queue r
  decide (pos ≤ v.readIndex) && v.open_.all (fun j => decide (pos ≤ j))

/-- The condition of a BARRIER packet of queue `q`. -/
def State.barrierHolds (s : State) (q : Nat) (p : W512) : Bool :=
  ([0, 1, 2, 3]).all (fun j =>
    let lo := 256 + 64 * j
    hbits p (lo + 63) 1 == 0 || hbits p (lo + 53) 10 == q || s.reached (hbits p (lo + 53) 10) (hbits p lo 48))

/-- A waiting BARRIER packet completes once its condition holds. -/
def State.pollBarrier (s : State) (q : Nat) : State :=
  match (s.queue q).waiting with
  | some (i, p) => if pkKind p = 5 ∧ s.barrierHolds q p = true then s.packetDone q i p 0 0 0 0 else s
  | none => s

/-- `BARRIER` (R293): a BARRIER packet at the head is taken, and one that waits is looked at. -/
def State.barrierStep (s : State) (q : Nat) : State :=
  match s.takeable q 5 with
  | some p => if barrierOk p then (s.takeWaiting q p).pollBarrier q else s.refusePacket q p
  | none => s.pollBarrier q

def execBarrier (q : Nat) (s' : State) : Host.Outcome State Fault Refusal := happen (fun s => s.barrierStep q) s'

end Sys2Proof.Machine
end

