-- ==== Sys2Proof/Machine/Placement.lean ====
section
/-! DEFINITION. What a launch needs to run: the kernel header's form (R26, R27, R390), its units and their dies (R19, R20), its slot table (R350,
R351), its local-store image (R68, R391), and where teams fit on cores (R22 to R24, R33, R273, R297). -/

namespace Sys2Proof.Machine

/-! ### The header (R27) -/

/-- A level of a header keeps to R27. -/
def levelOk (h : W512) (j : Nat) : Bool :=
  let k := hdrKind h j
  (decide (j < hdrDepth h) == (k != 0)) && ((decide (2 ≤ k)) == (hdrExtent h j != 0))

/-- R27, the group table apart. -/
def headerOk (h : W512) : Bool :=
  hbits h 448 12 == 0 && hbits h 384 12 == 0 && hbits h 320 12 == 0 && hbits h 256 12 == 0 && hbits h 0 2 == 0 &&
  hdrEntry h % 64 == 0 && hdrTrap h % 64 == 0 && decide (1 ≤ hdrDepth h ∧ hdrDepth h ≤ 6) && (List.range 6).all (levelOk h) &&
  hdrScalars h != 0 && decide (hdrTags h ≤ 64) && decide (hdrStreams h ≤ 16) && decide (hdrBarriers h ≤ 16) &&
  decide (hdrGroups h ≤ 16) && decide (hbits h 3 8 ≤ 128) && (!hdrPaired h || decide (hdrTeam h ≤ 2)) && hdrClass h != 3

/-- A word of the group table keeps to R390. -/
def groupWordOk (w : W32) : Bool :=
  decide (1 ≤ bits w.toNat 0 9 ∧ bits w.toNat 0 9 ≤ 256) && bits w.toNat 9 7 == 0 && bits w.toNat 16 16 != 0

/-- The number of units (R19). -/
def hdrUnits (h : W512) : Nat := (spatialLevels h).foldl (fun a j => a * hdrExtent h j) 1

/-- The allotted dies, in increasing number (R20). -/
def allotted (mask : BitVec 4) : List Nat := ([0, 1, 2, 3]).filter (fun d => mask.getLsbD d)

/-- Unit `u` may run on die `d` (R20): with die-spatial levels, on one die alone. -/
def unitOn (h : W512) (mask : BitVec 4) (u d : Nat) : Bool :=
  let ls := (spatialLevels h).filter (fun j => hdrKind h j == 3)
  let ds := allotted mask
  if ls.isEmpty then ds.contains d
  else ds.getD (ls.foldl (fun a j => a * hdrExtent h j + unitIndex h u j) 0 % ds.length) 4 == d

/-! ### The slot table (R350, R351) -/

/-- The links of a walk of `n` hops from `at_` by `step`, each with its time; a link is (die, position, direction), with the bridges as
directions 4 (up) and 5 (down). -/
def walkLinks (d dir : Nat) (step : Int) : Nat → Nat → Nat → List ((Nat × Nat × Nat) × Nat)
  | 0, _, _ => []
  | n + 1, at_, t => ((d, at_, dir), t) :: walkLinks d dir step n (Int.toNat (at_ + step)) (t + 1)

/-- The row-first route on one die from position `a` to position `b`, from time `t` on. -/
def dieRoute (d a b t : Nat) : List ((Nat × Nat × Nat) × Nat) :=
  let ax := a % 8
  let bx := b % 8
  let nx := if ax ≤ bx then bx - ax else ax - bx
  let mid := a / 8 * 8 + bx
  let ny := if a / 8 ≤ b / 8 then b / 8 - a / 8 else a / 8 - b / 8
  walkLinks d (if ax ≤ bx then 0 else 1) (if ax ≤ bx then 1 else -1) nx a t ++
    walkLinks d (if a / 8 ≤ b / 8 then 2 else 3) (if a / 8 ≤ b / 8 then 8 else -8) ny mid (t + nx)

/-- The route of a grant (R350): on each die from the source's die on, the row-first route; between dies a bridge, which takes 16 cycles
(log entry 17). -/
def grantRoute (w : W64) : List ((Nat × Nat × Nat) × Nat) :=
  let a := grantSrc w
  let b := grantDst w
  let s := grantSrcDie w
  let e := grantDstDie w
  let hops := (dieRoute 0 a b 0).length
  let n := if s ≤ e then e - s else s - e
  (List.range (n + 1)).foldl (fun acc i =>
    let d := if s ≤ e then s + i else s - i
    let t := grantSlot w + i * (hops + 16)
    acc ++ dieRoute d a b t ++ (if i < n then [((d, b, if s ≤ e then 4 else 5), t + hops)] else [])) []

/-- The links a grant occupies, by cycle of the revolution. -/
def grantUse256 (w : W64) : List ((Nat × Nat × Nat) × Nat) := (grantRoute w).map (fun p => (p.1, p.2 % 256))

/-- Grants of a well-formed image (R351). -/
def grantsOk (gs : List W64) : Bool :=
  gs.all (fun w => bits w.toNat 42 22 == 0 && bits w.toNat 16 16 == 0 && grantUse w != 3 &&
    !(grantSrc w == grantDst w && grantSrcDie w == grantDstDie w)) &&
  (let us := gs.foldl (fun a w => a ++ grantUse256 w) []
   decide us.Nodup)

/-! ### Reads at launch -/

/-- Bytes at a virtual address under a launch's root, a page at a time; `none` where a translation fails or data is lost. -/
def State.sysVirt (s : State) (root va n : Nat) : Option (List Byte) :=
  let room := 65536 - va % 65536
  match s.sysXlat root va .read with
  | .ok pa =>
    if n ≤ room then s.sysRead pa n
    else match s.sysXlat root (va + room) .read with
      | .ok pb => (s.sysRead pa room).bind (fun a => (s.sysRead pb (n - room)).map (fun b => a ++ b))
      | _ => none
  | _ => none

/-- A lost byte among the `n` from `pa` up. -/
def State.lostIn (s : State) (pa n : Nat) : Option Nat :=
  match s.platform.lost.find? (fun a => decide (pa ≤ a) && decide (a < pa + n)) with
  | some a => some a
  | none => (s.platform.retiredPages.find? (fun p => decide (pa < (p + 1) * 65536) && decide (p * 65536 < pa + n))).map (fun p => max pa (p * 65536))

/-- The bytes of a local-store image from offset `off` on, each with its offset; the cause of the failure, and for MCHK its byte, where a page
cannot be read (R68). -/
def State.imagePages (s : State) (root va w : Nat) : Nat → Nat → Except (Nat × Nat) Memory
  | 0, _ => .ok []
  | fuel + 1, off =>
    if w ≤ off then .ok []
    else
      let a := va + off
      let n := min (65536 - a % 65536) (w - off)
      match s.sysXlat root a .read with
      | .ok pa =>
        match s.lostIn pa n with
        | some p => .error (cMCHK, p)
        | none => match s.imagePages root va w fuel (off + n) with
          | .ok r => .ok ((s.mem.filter (fun b => decide (pa ≤ b.1) && decide (b.1 < pa + n))).map (fun b => (off + (b.1 - pa), b.2)) ++ r)
          | e => e
      | .mchk p => .error (cMCHK, p)
      | e => .error (e.cause, 0)

/-- The window a kernel's image gives, by window offset (R24, R391); all zero where the header names none. -/
def State.imageRead (s : State) (root : Nat) (h : W512) : Except (Nat × Nat) Memory :=
  let w := hdrWindow h
  if hdrImage h = 0 then .ok []
  else match s.imagePages root (hdrImage h) w (w / 65536 + 2) 0 with
    | .ok m => .ok (m.map (fun b => (b.1 / (w / 4) * 0x80000 + b.1 % (w / 4), b.2)))
    | e => e

/-! ### Clocks (R349) -/

/-- Two dies are joined across a bridge by a grant of a slot table whose launch is resident (R349). -/
def State.joined (s : State) (d e : Nat) : Bool :=
  s.launches.any (fun l => s.cores.any (fun k => k.2.teams.any (fun t => t.2.launch == l.1)) && l.2.grants.any (fun g =>
    let a := grantSrcDie g.word
    let b := grantDstDie g.word
    decide (min a b ≤ d ∧ d ≤ max a b) && decide (min a b ≤ e ∧ e ≤ max a b) && a != b))

/-- The dies that are set together with die `d`. -/
def State.clockSet (s : State) (d : Nat) : List Nat :=
  (List.range 4).foldl (fun ds _ => ([0, 1, 2, 3]).filter (fun e => ds.contains e || ds.any (fun a => s.joined a e))) [d]

/-- Dies that a launch's grants join run at one frequency from the moment it becomes resident (R349). DESIGN CHOICE: the lowest of theirs (log
entry 78). -/
def State.joinClocks (s : State) : State :=
  let clk := fun (d : Nat) => (s.clockSet d).foldl (fun a e => min a (s.die e).clk) (s.die d).clk
  ([0, 1, 2, 3].map (fun d => (d, clk d))).foldl (fun (s : State) p => s.putDie p.1 { s.die p.1 with clk := p.2 }) s

/-! ### Room on a core -/

/-- The contexts a team of `size` may begin at (R22). -/
def teamBases (size : Nat) : List Nat := if 3 ≤ size then [0] else if size = 2 then [0, 2] else [0, 1, 2, 3]

/-- A team of `size` finds its contexts free at base `b`. -/
def Core.ctxsFree (k : Core) (b size : Nat) : Bool :=
  (teamBases size).contains b && (span b size).all (fun x => (k.teamOf x).isNone)

/-- The first place, in 4 KiB units, for a window whose quarters are `len` units, that meets no team's window, whose quarters are `other` of that team,
and no retired granule (R23, R24, R273). -/
def Core.windowPlace (k : Core) (len : Nat) (other : Team → Nat) : Option Nat :=
  if len = 0 then some 0
  else (List.range (129 - len)).find? (fun p =>
    k.teams.all (fun t => decide (p + len ≤ t.2.place) || decide (t.2.place + other t.2 ≤ p)) &&
    k.granules.all (fun g => decide (p + len ≤ g % 32 * 4) || decide (g % 32 * 4 + 4 ≤ p)))

/-- The limits of R23 with one team more, of a kernel with header `h`; `shared`: it shares the barriers of the team beside it. -/
def Core.roomFor (k : Core) (h : W512) (shared : Bool) : Bool :=
  let n := k.teams.length
  decide (n < 2) && decide ((n + 1) * hdrTags h ≤ 64) && (shared || decide ((n + 1) * hdrBarriers h ≤ 16))

/-- Where a team of launch `l` would stand on core `c` at base `b`: its window's place (R23, R297). -/
def State.fit (s : State) (l : Nat) (h : W512) (c b : Nat) (shared : Bool) : Option Nat :=
  let k := s.core c
  if !k.retired && k.teams.all (fun t => t.2.launch == l) && k.ctxsFree b (hdrTeam h) && k.roomFor h shared then k.windowPlace (hdrWindow h / 16384) (fun _ => hdrWindow h / 16384)
  else none

/-- The cores of a die. -/
def dieCores (d : Nat) : List Nat := span (d * 64) 64

/-- The rank of unit `u` among the units of its die (R351). -/
def dieRank (h : W512) (mask : BitVec 4) (u d : Nat) : Nat := ((List.range u).filter (fun w => unitOn h mask w d)).length

/-- A header has die-spatial levels. -/
def dieSpatial (h : W512) : Bool := (spatialLevels h).any (fun j => hdrKind h j == 3)

/-- The cores of die `d` that unit `u` may be placed on: with a slot table, the one of its rank (R351); without die-spatial levels the units then
fill the allotted dies one after another. -/
def Launch.coresFor (v : Launch) (u d : Nat) : List Nat :=
  if !unitOn v.hdr v.dieMask u d then []
  else if hdrSlots v.hdr = 0 then dieCores d
  else if dieSpatial v.hdr then (let r := dieRank v.hdr v.dieMask u d
                                 if r < 64 then [d * 64 + r] else [])
  else if (allotted v.dieMask).getD (u / 64) 4 = d then [d * 64 + u % 64] else []

/-- Unit `u` shares its barriers with the unit beside it in its pair (R33). -/
def pairOf (h : W512) (u : Nat) : Option Nat :=
  if hdrPaired h then (let w := if u % 2 = 0 then u + 1 else u - 1
                       if w < hdrUnits h then some w else none) else none

/-- The base the second team of a pair takes beside the first at `b`. -/
def Core.secondBase (k : Core) (b size : Nat) : Option Nat :=
  (teamBases size).find? (fun y => k.ctxsFree y size && (decide (y + size ≤ b) || decide (b + size ≤ y)))

/-- The first place on cores `cs` for a team of launch `l`: core and base. -/
def State.findFit (s : State) (l : Nat) (h : W512) (cs : List Nat) (shared : Bool) : Option (Nat × Nat) :=
  cs.findSome? (fun c => ((teamBases (hdrTeam h)).find? (fun b => (s.fit l h c b shared).isSome)).map (fun b => (c, b)))

end Sys2Proof.Machine
end

