-- ==== Sys2Proof/Machine/Launching.lean ====
section
/-! DEFINITION. Launches and task graphs: units placed on cores (R22, R290, R303), a LAUNCH packet taken and checked (R288 to R290), graphs and their
runs (R294 to R296), and the end of a launch (R291). -/

namespace Sys2Proof.Machine

/-! ### A unit placed on a core -/

/-- A context of a unit as it starts (R22, R290): unit `u`, member `m`. DESIGN CHOICE: R201 gives `sig` 0 at context start, and R155 the core's last
published signature: `sig` is the core's, whoever runs there, and a start does not change it (log entry 127). -/
def Launch.startCtx (v : Launch) (u m : Nat) (lost : List Nat) : Ctx :=
  let n := u * hdrTeam v.hdr + m
  { Ctx.fresh with
    status := .ready, pc := hdrEntry v.hdr, unit := u, launch := v.params, epoch := v.epoch
    trec := BitVec.ofNat 64 (v.recBase + 64 * n), lfsr := v.seed + BitVec.ofNat 32 (n * 0x9E3779B9), lostRegs := lost, deadRegs := lost }

/-- A core with no resident team takes a unit: its `xf` registers and channel table read 0 (R303, R357). -/
def Core.clearShared (k : Core) : Core := { k with xf := Vector.replicate 4 0, xfSets := [], chans := [], chanImage := none, chanRoot := 0, lostChans := k.deadChans }

/-- Unit `u` of launch `l` starts on core `c` at base `b`, its window at `place` (R22, R68, R151, R290). -/
def State.startUnit (s : State) (l : Nat) (v : Launch) (u c b place key : Nat) : State :=
  let alone := (s.core c).teams.isEmpty
  let s := s.purgeSevs c
  let s := if alone then (s.modCore c Core.clearShared).dropChans c else s
  let s := s.acquire c 2
  let t : Team := { launch := l, unit := u, size := hdrTeam v.hdr, place := place, win := v.image, tags := [], blocks := [], barKey := key,
                    stopping := false, deferred := false, since := (s.core c).clock, lostWin := [], lostAccs := [], lostTags := [], lostBars := [] }
  let s := s.modCore c (fun k =>
    let k := k.putTeam b t
    let k := (List.range t.size).foldl (fun (k : Core) m => k.putCtx (b + m) (v.startCtx u m (k.ctx (b + m)).deadRegs)) k
    { k with preload := if k.preload = some (l, u) then none else k.preload })
  s.modLaunch l (fun w => { w with units := tput w.units u { w.unitRec u with state := .resident c b, die := dieOf c, expired := false, preempted := false, gaveWay := false } })

/-- A unit of a class 2 launch that has run out of time and is to be rerun starts again at once where it ran, for such a launch never waits partly
resident (R304, R306); the team is stopped where it was being stopped. -/
def State.rerunHere (s : State) (c b : Nat) (t : Team) : State :=
  match s.launchOf t.launch with
  | none => s
  | some v =>
    if hdrClass v.hdr = 2 ∧ v.ended = false ∧ (v.unitRec t.unit).state = .waiting then
      (({ s with barKeys := s.barKeys + 1 }).startUnit t.launch v t.unit c b t.place s.barKeys).modCore c (fun k =>
        k.putTeam b { (tget k.teams b).getD t with stopping := t.stopping, deferred := t.deferred })
    else s

/-- `TEAM_EXIT` (R31): every context of the team has exited, and the last engine command of the team has drained; the team is gone, or its unit runs
again (R306). -/
def State.teamExit (s : State) (c b : Nat) : State :=
  match tget (s.core c).teams b with
  | none => s
  | some t =>
    let k := s.core c
    if (t.members b).all (fun x => (k.ctx x).status == .exited) && k.cmds.all (fun m => m.team != b) then
      ((s.modLaunch t.launch (fun l => l.finish t.unit)).removeTeam c b).rerunHere c b t
    else s

def execTeamExit (c b : Nat) (s' : State) : Host.Outcome State Fault Refusal := happen (fun s => s.teamExit c b) s'

/-- Unit `u`, and with it the other unit of its pair where that one waits too, starts at base `b` of core `c` (R33); each start takes a barrier
key of its own, which a pair shares. DESIGN CHOICE: the pair stays together where R20 would send its units to different dies, and a unit rerun
while its partner is resident runs alone (log entry 98). -/
def State.startAt (s : State) (l : Nat) (v : Launch) (u c b : Nat) : Option State :=
  match s.fit l v.hdr c b false with
  | none => none
  | some place =>
    let key := s.barKeys
    let s := { s with barKeys := key + 1 }
    match (pairOf v.hdr u).filter (fun w => (v.unitRec w).state == .waiting) with
    | none => some (s.startUnit l v u c b place key)
    | some w =>
      if (s.core c).teams.isEmpty then
        let s := s.startUnit l v u c b place key
        match (s.core c).secondBase b (hdrTeam v.hdr) with
        | none => none
        | some y => (s.fit l v.hdr c y true).map (fun q => s.startUnit l v w c y q key)
      else none

/-- The first place for unit `u` on the cores of die `d`, in increasing order. -/
def State.placeFor (s : State) (l : Nat) (v : Launch) (u d : Nat) : Option (Nat × Nat) :=
  (v.coresFor u d).findSome? (fun c =>
    ((teamBases (hdrTeam v.hdr)).find? (fun b => (s.startAt l v u c b).isSome)).map (fun b => (c, b)))

/-- Every unit from `u` on that waits starts, each on the first place it finds; `none` where one finds none (R304). -/
def startAll (l : Nat) (v : Launch) : Nat → Nat → State → Option State
  | 0, _, s => some s
  | n + 1, u, s =>
    match s.launchOf l with
    | none => none
    | some w =>
      if (w.unitRec u).state != .waiting then startAll l v n (u + 1) s
      else
        match ([0, 1, 2, 3]).findSome? (fun d => s.placeFor l w u d) with
        | some (c, b) => (match s.startAt l w u c b with
          | some t => startAll l v n (u + 1) t
          | none => none)
        | none => none

/-- The state with every core empty, retired parts apart. -/
def State.emptied (s : State) : State :=
  { s with cores := s.cores.map (fun e => (e.1, { Core.fresh with retired := e.2.retired, granules := e.2.granules })) }

/-- A class 2 launch fits on its allotted dies at all (R289). More units than cores have contexts never fit. -/
def State.canFit (s : State) (l : Nat) (v : Launch) : Bool :=
  decide (hdrUnits v.hdr ≤ 1024) && (startAll l v (hdrUnits v.hdr) 0 (s.emptied.putLaunch l v)).isSome

/-! ### LAUNCH (R288 to R290) -/

/-- Reserved fields of a LAUNCH packet that are not 0, or a field out of alignment (R289, reason 2). -/
def launchAligned (p : W512) : Bool :=
  hbits p 448 12 == 0 && hbits p 384 12 == 0 && hbits p 256 12 == 0 && hbits p 24 104 == 0 && hbits p 12 4 == 0 && hbits p 10 1 == 0 &&
  hbits p 208 17 == 0 && hbits p 268 52 % 64 == 0 && pkCompletion p % 32 == 0

/-- What a LAUNCH packet names, before its header is read. -/
def Launch.ofPacket (p : W512) (epoch : W64) (queue packet : Nat) (node : Option Nat) : Launch :=
  { epoch := epoch, queue := queue, packet := packet, node := node, hdrVa := hbits p 460 52, hdr := 0, groupWords := [],
    params := BitVec.ofNat 64 (hbits p 396 52), recBase := hbits p 268 52, root := hbits p 208 48, completion := pkCompletion p,
    seed := BitVec.ofNat 32 (hbits p 128 32), dieMask := BitVec.ofNat 4 (hbits p 16 4), firmware := hbits p 11 1 == 1,
    unitLimit := hbits p 352 32, budget := hbits p 320 32, rerunLimit := hbits p 20 4,
    interrupt := pkInterrupt p, image := [], grants := [], units := [], groups := [], status := 0, cause := 0, tpc := 0, ended := false }

/-- The header, group table, slot table and local-store image of a launch, read once as it is taken (R68, R289 reason 1, R351). DESIGN CHOICE: a header
address that is not 64-byte aligned, as R26 has it, is refused with reason 1 too, though R27 and R289 list no such condition (log entry 112). -/
def State.readKernel (s : State) (v : Launch) : Option Launch :=
  match s.sysVirt v.root v.hdrVa 64 with
  | none => none
  | some hb =>
    let h : W512 := BitVec.ofNat 512 (leNat hb)
    if v.hdrVa % 64 ≠ 0 ∨ headerOk h = false then none
    else
      let words := if hdrGroups h = 0 then some [] else
        (s.sysVirt v.root (v.hdrVa + 64) (4 * hdrGroups h)).map (fun bs => (wordsOf bs).map (BitVec.ofNat 32))
      let grants := if hdrSlots h = 0 then some [] else
        if hdrClass h ≠ 2 ∨ hdrSlots h % 64 ≠ 0 then none
        else (s.sysVirt v.root (hdrSlots h) 64).bind (fun g =>
          let n := leNat g
          if 1 ≤ n ∧ n ≤ 4096 then
            (s.sysVirt v.root (hdrSlots h + 64) (8 * n)).map (fun bs => (List.range n).map (fun i => BitVec.ofNat 64 (leNat ((bs.drop (8 * i)).take 8))))
          else none)
      match words, grants, s.imageRead v.root h with
      | some ws, some gs, .ok img =>
        if ws.all groupWordOk && grantsOk gs then
          some { v with hdr := h, groupWords := ws, image := img, grants := gs.map (fun w => { word := w, sendBuf := [], moving := [], recvBuf := [] }) }
        else none
      | _, _, _ => none

/-- A die all of whose cores are retired (R273). -/
def State.dieRetired (s : State) (d : Nat) : Bool := (dieCores d).all (fun c => (s.core c).retired)

/-- The conditions of R289, in their order: the launch, or the reason of the first that fails. -/
def State.checkLaunch (s : State) (p : W512) (v : Launch) : Except Nat Launch :=
  match s.readKernel v with
  | none => .error 1
  | some v =>
    if launchAligned p = false then .error 2
    else if v.dieMask = 0 ∨ (allotted v.dieMask).any s.dieRetired = true then .error 3
    else if hdrPrio v.hdr ≠ 0 ∧ v.budget = 0 then .error 4
    else if hdrClass v.hdr = 2 ∧ s.canFit v.epoch.toNat v = false then .error 5
    else .ok v

/-- What a launch of a queue, or of a run's node, comes to: taken under the epoch it draws (R290), or refused with its reason. -/
def State.newLaunch (s : State) (p : W512) (queue packet : Nat) (node : Option Nat) : State × Except Nat Nat :=
  let e := s.epochs
  let v := Launch.ofPacket p (BitVec.ofNat 64 e) queue packet node
  let s := { s with epochs := e + 1 }
  match s.checkLaunch p v with
  | .ok v => ((s.putLaunch e v).openRoot v.root, .ok e)
  | .error r => (s, .error r)

/-- `LAUNCH` (R288 to R290): none is taken during a checkpoint or restore (R278). -/
def State.takeLaunch (s : State) (q : Nat) : State :=
  match s.takeable q 1 with
  | some p =>
    if s.platform.ckpt.isSome then s
    else
      let i := (s.queue q).readIndex
      let e := s.epochs
      let s := s.modQueue q HostQueue.take
      (match s.newLaunch p q i none with
       | (s, .ok _) => s.settleQueue q
       | (s, .error r) => s.packetDone q i p 2 r 0 (BitVec.ofNat 64 e))
  | none => s

def execLaunch (q : Nat) (s' : State) : Host.Outcome State Fault Refusal := happen (fun s => s.takeLaunch q) s'

/-! ### Task graphs (R294 to R296) -/

/-- Nodes from which `n` steps along the edges lead on: with more steps than nodes, those of a cycle remain. -/
def graphLive (edges : List (Nat × Nat)) : Nat → List Nat → List Nat
  | 0, ns => ns
  | n + 1, ns => graphLive edges n (ns.filter (fun a => edges.any (fun e => e.1 == a && ns.contains e.2)))

/-- A graph image, or `none` where it is malformed (R294). -/
def State.readGraph (s : State) (pa : Nat) : Option Graph :=
  if pa % 64 ≠ 0 then none
  else (s.sysNat pa 64).bind (fun h =>
    let n := bits h 0 16
    let e := bits h 32 16
    if bits h 16 16 ≠ 0 ∨ bits h 48 16 ≠ 0 ∨ bits h 128 384 ≠ 0 ∨ n = 0 ∨ 4096 < n ∨ 16384 < e then none
    else
      match s.sysRead (pa + 64) (64 * n), s.sysRead (pa + 64 + 64 * n) (4 * e) with
      | some nb, some eb =>
        let nodes := (List.range n).map (fun i => BitVec.ofNat 512 (leNat ((nb.drop (64 * i)).take 64)))
        let edges := (wordsOf eb).map (fun w => (w % 65536, w / 65536))
        if nodes.all (fun p => pkKind p == 1) && edges.all (fun d => decide (d.1 < n) && decide (d.2 < n)) &&
            (graphLive edges (n + 1) (List.range n)).isEmpty then
          some { nodes := nodes, edges := edges, completion := bits h 64 64, bytes := 64 + 64 * n + 4 * e }
        else none
      | _, _ => none)

/-- The bytes of scheduler memory a queue's graph takes, now or once one that waits replaces it: the larger (R294). -/
def HostQueue.graphBytes (v : HostQueue) : Nat :=
  (v.nextGraphs.map (fun g => g.2.2.bytes)).foldl max (match v.graph with | some g => g.bytes | none => 0)

/-- The bytes of scheduler memory the other queues' graphs take, beside which a graph of queue `q` is installed: the graph it replaces does not
count, whose place it takes (R294; DESIGN CHOICE, log entry 101: a graph with runs left, and one that waits for them, count as the larger). -/
def State.graphBytes (s : State) (q : Nat) : Nat := ((s.queues.filter (fun e => e.1 != q)).map (fun e => e.2.graphBytes)).sum

/-- Graphs that wait are installed once the queue has no run of the earlier one, and their packets complete (R294). -/
def State.installGraphs (s : State) (q : Nat) : State :=
  if (s.queue q).runs ≠ [] then s
  else (s.queue q).nextGraphs.foldl (fun s g =>
    (s.modQueue q (fun v => { v with graph := some g.2.2, nextGraphs := v.nextGraphs.drop 1 })).packetDone q g.1 g.2.1 0 0 0 0) s

/-- `GRAPH` (R294) -/
def State.takeGraph (s : State) (q : Nat) : State :=
  match s.takeable q 2 with
  | some p =>
    let i := (s.queue q).readIndex
    if packetOk p = false then s.refusePacket q p
    else match s.readGraph (pkAddress p) with
      | none => s.refusePacket q p
      | some g =>
        let s := s.modQueue q HostQueue.take
        if 8388608 < s.graphBytes q + g.bytes then s.packetDone q i p 2 5 0 0
        else ((s.modQueue q (fun v => { v with nextGraphs := v.nextGraphs ++ [(i, p, g)] })).installGraphs q).settleQueue q
  | none => s

def execGraph (q : Nat) (s' : State) : Host.Outcome State Fault Refusal := happen (fun s => s.takeGraph q) s'

/-- The first run of a queue ends, its completion record written (R291, R295); graphs that waited for it are installed. -/
def State.runDone (s : State) (q : Nat) (g : Graph) (e : NodeEnd) : State :=
  ((s.writeRecord g.completion e.tpc 0 e.status e.cause).modQueue q (fun v => { v with runs := v.runs.drop 1 })).installGraphs q |>.settleQueue q

/-- How the run ends (R295): OK, or as the first node in node order that did not complete OK, with that node's cause and `tpc` (log entry 80). -/
def GraphRun.verdict (r : GraphRun) (n : Nat) : NodeEnd :=
  ((List.range n).findSome? (fun i => (tget r.done i).filter (fun e => e.status != 0))).getD { status := 0, cause := 0, tpc := 0 }

/-- Node `n` of the queue's running run has completed (R295). -/
def State.nodeDone (s : State) (q n : Nat) (e : NodeEnd) : State :=
  let v := s.queue q
  match v.graph, v.runs with
  | some g, r :: rs =>
    let r := { r with done := tput r.done n e }
    let s := s.modQueue q (fun v => { v with runs := r :: rs })
    if r.done.length = g.nodes.length then s.runDone q g (r.verdict g.nodes.length) else s
  | _, _ => s

/-- The patch entries of a trigger: node, byte offset, value (R296); `none` where the list cannot be read. -/
def State.patches (s : State) (w : W64) : Option (List (Nat × Nat × Nat)) :=
  (s.sysRead (bits w.toNat 0 52) (16 * bits w.toNat 52 12)).map (fun bs =>
    (List.range (bits w.toNat 52 12)).map (fun i =>
      let e := leNat ((bs.drop (16 * i)).take 16)
      (bits e 0 16, bits e 16 20, bits e 64 64)))

/-- A patch written at its node's parameter block (R296); dropped where its address does not translate (log entry 16). -/
def State.patch (s : State) (g : Graph) (e : Nat × Nat × Nat) : State :=
  let p : W512 := g.nodes.getD e.1 0
  match s.sysXlat (hbits p 208 48) (hbits p 396 52 + e.2.1) .write with
  | .ok pa => s.sysWrite pa (leBytes 8 e.2.2)
  | _ => s

/-- The first run of a queue begins: its patches are written, in list order, or it completes REFUSED with reason 2 (R296). DESIGN CHOICE: so does one whose
patch list cannot be read, for which the spec gives no outcome (log entry 137). -/
def State.beginRun (s : State) (q : Nat) (g : Graph) (r : GraphRun) : State :=
  match s.patches r.trigger with
  | some l =>
    if l.all (fun e => decide (e.1 < g.nodes.length) && e.2.1 % 8 == 0) then
      (l.foldl (fun s e => s.patch g e) s).modQueue q (fun v => { v with runs := { r with begun := true } :: v.runs.drop 1 })
    else s.runDone q g { status := 2, cause := 2, tpc := 0 }
  | none => s.runDone q g { status := 2, cause := 2, tpc := 0 }

/-- `GRAPH_NODE_START` (R295): the first run of a queue begins, if it has not; then its node `n` starts once its predecessors have completed. -/
def State.nodeStart (s : State) (q n : Nat) : State :=
  let v := s.queue q
  match v.graph, v.runs with
  | some g, r :: _ =>
    if s.platform.ckpt.isSome then s
    else if !r.begun then
      if v.slot.isSome || v.reason != 0 then (s.beginRun q g r).settleQueue q else s
    else if n < g.nodes.length ∧ r.started.contains n = false ∧
        (g.edges.all (fun e => e.2 != n || (tget r.done e.1).isSome)) = true then
      let s := s.modQueue q (fun v => { v with runs := { r with started := r.started ++ [n] } :: v.runs.drop 1 })
      let p := g.nodes.getD n 0
      let e := s.epochs
      (match s.newLaunch p q 0 (some n) with
       | (s, .ok _) => s
       | (s, .error c) => (s.writeRecord (pkCompletion p) 0 (BitVec.ofNat 64 e) 2 c).nodeDone q n { status := 2, cause := c, tpc := 0 })
    else s
  | _, _ => s

def execGraphNodeStart (q n : Nat) (s' : State) : Host.Outcome State Fault Refusal := happen (fun s => s.nodeStart q n) s'

/-! ### The end of a launch (R291) -/

/-- The bases of the teams of launch `l` on core `c`. -/
def State.basesOf (s : State) (l c : Nat) : List Nat := ((s.core c).teams.filter (fun t => t.2.launch == l)).map (fun t => t.1)

/-- No team of the launch runs on; nothing of it is still under way. -/
def State.drained (s : State) (l : Nat) : Bool :=
  s.cores.all (fun e =>
    let bs := s.basesOf l e.1
    e.2.cmds.all (fun m => !bs.contains m.team) &&
    bs.all (fun b => match tget e.2.teams b with
      | some t => (t.members b).all (fun x => (e.2.ctx x).ops.isEmpty && ((e.2.ctx x).status == .dead || (e.2.ctx x).status == .exited))
      | none => true))

/-- Every unit has exited or been abandoned, or the launch has ended; and every engine command of it has drained. -/
def State.launchOver (s : State) (l : Nat) (v : Launch) : Bool :=
  (v.ended || (decide ((v.units.filter (fun u => u.2.state == .done || u.2.state == .abandoned)).length = hdrUnits v.hdr))) && s.drained l &&
  s.saved.all (fun t => t.launch != l)

/-- Cores whose retirement waited for a kernel boundary are retired (R273). -/
def State.retireCores (s : State) : State :=
  { s with cores := s.cores.map (fun e => (e.1, { e.2 with retired := e.2.retired || e.2.retiring, retiring := false })) }

/-- `LAUNCH_COMPLETE` (R291): after its kernel boundary its record is written, and what follows on it may go on. -/
def State.launchDone (s : State) (l : Nat) : State :=
  match s.launchOf l with
  | none => s
  | some v =>
    if s.launchOver l v then
      let s := s.cores.foldl (fun (s : State) (e : Nat × Core) => (s.basesOf l e.1).foldl (fun (s : State) b => s.removeTeam e.1 b) s) s
      let s := (s.boundary l).retireCores
      let s := { s with launches := tdel s.launches l }
      let s := s.writeRecord v.completion v.tpc v.epoch v.status v.cause
      match v.node with
      | some n => s.nodeDone v.queue n { status := v.status, cause := v.cause, tpc := v.tpc }
      | none => (s.modQueue v.queue (fun q => { q with
          open_ := q.open_.filter (fun j => j != v.packet)
          interrupts := if v.interrupt then q.interrupts + 1 else q.interrupts })).settleQueue v.queue
    else s

def execLaunchComplete (l : Nat) (s' : State) : Host.Outcome State Fault Refusal := happen (fun s => s.launchDone l) s'

end Sys2Proof.Machine
end

