-- ==== Sys2Proof/Machine/Dispatching.lean ====
section
/-! DEFINITION. Dispatch and pre-emption (R297 to R305, R309): which unit a die's dispatcher serves next, stopping a team, saving and restoring
it. -/

namespace Sys2Proof.Machine

/-! ### Who waits (R297, R304) -/

/-- Unit `u` waits and may run on die `d`: one that was pre-empted resumes on the die that ran it (R297). -/
def Launch.mayStart (v : Launch) (u d : Nat) : Bool :=
  (v.unitRec u).state == .waiting && unitOn v.hdr v.dieMask u d && (!(v.unitRec u).preempted || (v.unitRec u).die == d)

/-- The lowest waiting unit of a launch that may run on die `d`, from unit `u` on. -/
def Launch.nextFrom (v : Launch) (d : Nat) : Nat → Nat → Option Nat
  | 0, _ => none
  | n + 1, u => if v.mayStart u d then some u else v.nextFrom d n (u + 1)

def Launch.nextUnit (v : Launch) (d : Nat) : Option Nat := if v.ended then none else v.nextFrom d (hdrUnits v.hdr) 0

/-- The units of a launch that were pre-empted and have not resumed, each with its die: the saved ones, and class 1 units that run again (R304,
R305). -/
def State.toResume (s : State) (l : Nat) (v : Launch) : List (Nat × Nat) :=
  (s.saved.filter (fun t => t.launch == l)).map (fun t => (t.unit, t.die)) ++
  (v.units.filter (fun e => e.2.preempted && e.2.state == .waiting)).map (fun e => (e.1, e.2.die))

/-- Cores can take unit `u` of launch `l` on die `d` now; of a class 2 launch, all its waiting units at once (R304). -/
def State.hasRoom (s : State) (l : Nat) (v : Launch) (u d : Nat) : Bool :=
  if hdrClass v.hdr = 2 then (startAll l v (hdrUnits v.hdr) 0 s).isSome else (s.placeFor l v u d).isSome

/-- Launch `l` has a unit waiting that die `d` can take now. A launch with a pre-empted unit below it starts no unit (R305). -/
def State.canStart (s : State) (l : Nat) (v : Launch) (d : Nat) : Bool :=
  match v.nextUnit d with
  | none => false
  | some u => (s.toResume l v).all (fun t => !decide (t.1 < u)) && s.hasRoom l v u d

/-- Unit `u` of a launch was pre-empted at its budget and gives way; so do those that stopped with it. -/
def Launch.yields (v : Launch) (u : Nat) : Bool :=
  v.units.any (fun e => e.2.gaveWay && (hdrClass v.hdr == 2 || e.1 == u || (hdrPaired v.hdr && e.1 / 2 == u / 2)))

/-- A unit of launch `l` has had its turn on die `d`: those of other launches that gave way there do so no longer. -/
def State.turnTaken (s : State) (l d : Nat) : State :=
  { s with launches := s.launches.map (fun e => if e.1 = l then e else
      (e.1, { e.2 with units := e.2.units.map (fun u => if u.2.gaveWay && u.2.die == d then (u.1, { u.2 with gaveWay := false }) else u) })) }

/-- Launch `v` is served before launch `w` (R297). -/
def Launch.before (v w : Launch) : Bool :=
  decide (hdrPrio w.hdr < hdrPrio v.hdr) || (hdrPrio v.hdr == hdrPrio w.hdr && decide (v.epoch.toNat < w.epoch.toNat))

/-! ### Restoring (R302, R303) -/

/-- The entries of a channel table, without their live state (R303). -/
def staticEntries (t : Table ChanEntry) : Table ChanEntry := t.map (fun e => (e.1, chanWord e.2 0 0 0))

/-- The core's engines have room for the commands a saved team has under way (R17, R380; log entry 123). -/
def Core.enginesFor (k : Core) (v : SavedTeam) : Bool :=
  let saved := fun (q : Nat) => v.cmds.filter (fun m => m.inSlot && m.kind.queue == some q)
  let busy := fun (q : Nat) => (k.cmds.filter (fun m => m.inSlot && m.kind.queue == some q)).length
  decide (busy 0 + (saved 0).length ≤ 4) && (saved 1).all (fun m => k.matrixFree m.kind) && ((saved 2).isEmpty || busy 2 == 0)

/-- The core's shared values allow the saved team (R303), and so do its accumulators (R71) and engines. -/
def Core.admits (k : Core) (v : SavedTeam) : Bool :=
  k.enginesFor v &&
  (k.teams.isEmpty ||
    ((vget k.xf 0 0 == vget v.xf 0 0 && vget k.xf 1 0 == vget v.xf 1 0 && vget k.xf 2 0 == vget v.xf 2 0 && vget k.xf 3 0 == vget v.xf 3 0) &&
     k.xfSets.isEmpty && staticEntries k.chans == staticEntries v.chans)) &&
  (v.accs.isNone || k.accOwner.isNone)

/-- The other saved team of a pair that shares its barriers (R33). -/
def State.savedPair (s : State) (v : SavedTeam) : Option SavedTeam :=
  match s.launchOf v.launch with
  | some l =>
    if hdrPaired l.hdr then s.saved.find? (fun w => w.launch == v.launch && w.unit != v.unit && w.unit / 2 == v.unit / 2 && w.die == v.die) else none
  | none => none

/-- The place for a saved team's window on core `c`, where it may be restored: the contexts it had, of a core of its die. -/
def State.restoreFit (s : State) (v : SavedTeam) (c : Nat) : Option Nat :=
  match s.launchOf v.launch with
  | none => none
  | some l =>
    if l.ended || dieOf c != v.die || !(l.coresFor v.unit v.die).contains c || !(s.core c).admits v then none
    else s.fit v.launch l.hdr c v.base ((s.core c).teams.any (fun t => t.2.barKey == v.team.barKey))

/-- The commands that a reduction buffer names, renamed. -/
def DetBuf.rename (b : DetBuf) (f : Nat × Nat → Nat × Nat) : DetBuf :=
  { b with
    rels := b.rels.map (fun r => let p := f (r.1, r.2.1); (p.1, p.2, r.2.2))
    who := b.who.map (fun r => let p := f (r.1, r.2.1); (p.1, p.2, r.2.2)) }

/-- Contexts, commands and the launch's groups, permits, reduction buffers and stack queues name core `c` with command names raised by `up`, where they named
`c0`. -/
def State.rename (s : State) (l c0 c up : Nat) : State :=
  let pair := fun (p : Nat × Nat) => if p.1 = c0 then (c, p.2 + up) else p
  let ctx := fun (p : Nat × Nat) => if p.1 = c0 then (c, p.2) else p
  let s := s.modLaunch l (fun v => { v with groups := v.groups.map (fun g => (g.1, { g.2 with
    joined := g.2.joined.map ctx
    holds := g.2.holds.map (fun h => { h with asks := h.asks.map (fun a => if a.core = c0 then { a with core := c, cmd := a.cmd + up } else a) }) })) })
  { s with
    dies := s.dies.map (fun d => { d with waiting := d.waiting.map pair, holding := d.holding.map pair })
    stackQ := s.stackQ.map (fun q => (q.1, q.2.map pair))
    det := s.det.map (fun b => b.rename (fun p => pair p))
    channels := s.channels.map (fun h => if h.2.core = c0 then (h.1, { h.2 with core := c }) else h) }

/-- A saved team is back on core `c`, its window at `place` (R302, R303): on an empty core its shared values are loaded. -/
def State.restoreOne (s : State) (v : SavedTeam) (c place : Nat) : State :=
  let k := s.core c
  let up := k.cmdSeq
  let top := v.cmds.foldl (fun a m => max a (m.id + 1)) 0
  let alone := k.teams.isEmpty
  let s := s.purgeSevs c
  let s := s.modCore c (fun k =>
    let k := if alone then { k with xf := v.xf, xfSets := [], chans := v.chans, chanImage := v.chanImage, chanRoot := v.chanRoot
                                    lostChans := k.deadChans.foldl (fun l n => insertNat n l) v.lostChans } else k
    let k := k.putTeam v.base { v.team with place := place, stopping := false, deferred := false, since := k.clock }
    let k := (v.ctxs.zip (List.range v.ctxs.length)).foldl (fun (k : Core) p =>
      let dead := (k.ctx (v.base + p.2)).deadRegs
      let x := p.1.intoCells dead
      k.putCtx (v.base + p.2) { x with
        lostRegs := x.lostRegs ++ dead
        deadRegs := dead
        handler := x.handler.map (fun h => { h with cmd := h.cmd.map (fun i => i + up) })
        pending := x.pending.map (fun t => { t with cmd := t.cmd.map (fun i => i + up) }) }) k
    let k := match v.accs with
      | some a => { k with accs := a.map (fun (q : Acc) => { q with busy := q.busy.map (fun i => i + up) }), accOwner := some v.base }
      | none => k
    let k := { k with
      barriers := v.barriers.foldl (fun (t : Table Barrier) (b : Nat × Barrier) => tput t b.1 b.2) k.barriers
      cmds := k.cmds ++ v.cmds.map (fun (m : Cmd) => { m with id := m.id + up })
      cmdSeq := up + top }
    k.l1Drop (fun _ => true))
  let s := s.fillLines c (s.core c).blockLines
  let s := s.rename v.launch (savedCore v.launch v.unit) c up
  let s := { s with saved := s.saved.filter (fun w => !(w.launch == v.launch && w.unit == v.unit)) }
  s.modLaunch v.launch (fun l => { l with units := tput l.units v.unit { l.unitRec v.unit with state := .resident c v.base, gaveWay := false } })

/-- A saved team, with the other of its pair, restored on core `c`; `none` where that core cannot take it. -/
def State.restoreOn (s : State) (v : SavedTeam) (c : Nat) : Option State :=
  match s.restoreFit v c with
  | none => none
  | some p =>
    let t := s.restoreOne v c p
    match s.savedPair v with
    | none => some t
    | some w => (t.restoreFit w c).map (fun q => t.restoreOne w c q)

/-- Every saved team of a class 2 launch restored, each on the first core that takes it (R304). -/
def restoreAll (l : Nat) : Nat → State → Option State
  | 0, s => some s
  | n + 1, s =>
    match s.saved.find? (fun v => v.launch == l) with
    | none => some s
    | some v =>
      match (dieCores v.die).findSome? (fun c => s.restoreOn v c) with
      | some t => restoreAll l n t
      | none => none

/-- The saved team of unit `u` of launch `l`. -/
def State.savedUnit (s : State) (l u : Nat) : Option SavedTeam := s.saved.find? (fun v => v.launch == l && v.unit == u)

/-- The state with pre-empted unit `u` of launch `l` resumed on its die `d`; `none` where it finds no room. -/
def State.resumed (s : State) (l u d : Nat) : Option State :=
  match s.launchOf l with
  | none => none
  | some w =>
    match s.savedUnit l u with
    | some v => if hdrClass w.hdr = 2 then restoreAll l (s.saved.length + 1) s else (dieCores v.die).findSome? (fun c => s.restoreOn v c)
    | none => if w.ended then none else (s.placeFor l w u d).bind (fun p => s.startAt l w u p.1 p.2)

/-- A saved team can be resumed now. -/
def State.canResume (s : State) (v : SavedTeam) : Bool := (s.resumed v.launch v.unit v.die).isSome

/-- A unit of launch `v`, waiting or saved, waits on die `d`. -/
def State.waitsAt (s : State) (l : Nat) (v : Launch) (d : Nat) : Bool :=
  !v.ended && ((v.nextUnit d).isSome || s.saved.any (fun t => t.launch == l && t.die == d))

/-- A unit of a priority above that of launch `v` can start on die `d` now, and could not in state `t`, in which a unit of `v` has resumed: it would
evict that unit again (R300). -/
def State.outranked (s t : State) (v : Launch) (d : Nat) : Bool :=
  s.launches.any (fun e => decide (hdrPrio v.hdr < hdrPrio e.2.hdr) && s.canStart e.1 e.2 d && !t.canStart e.1 e.2 d)

/-- A unit of a launch other than `l`, one that does not give way itself, can start or be resumed on die `d`. -/
def State.othersReady (s : State) (l d : Nat) : Bool :=
  s.launches.any (fun e => e.1 != l &&
    ((s.canStart e.1 e.2 d && (match e.2.nextUnit d with | some u => !e.2.yields u | none => false)) ||
     (s.toResume e.1 e.2).any (fun u => u.2 == d && !e.2.yields u.1 && (s.resumed e.1 u.1 d).isSome)))

/-- The pre-empted units of die `d` that find room and that no waiting unit outranks: launch, its record, unit. One that was pre-empted at its budget
gives way to the units of other launches first (R299, R305; log entry 124). -/
def State.resumable (s : State) (d : Nat) : List (Nat × Launch × Nat) :=
  s.launches.foldl (fun a e => a ++ ((s.toResume e.1 e.2).filter (fun u => u.2 == d && !(e.2.yields u.1 && s.othersReady e.1 d) && (match s.resumed e.1 u.1 d with
    | some t => !s.outranked t e.2 d
    | none => false))).map (fun u => (e.1, e.2, u.1))) []

/-- The pre-empted unit of die `d` that is resumed next, before any other is served (R297), by priority, epoch and unit: launch, unit. DESIGN
CHOICE: one that would take the room of a waiting unit of higher priority waits (log entry 74). -/
def State.nextResume (s : State) (d : Nat) : Option (Nat × Nat) :=
  ((s.resumable d).foldl (fun (b : Option (Nat × Launch × Nat)) v => match b with
    | none => some v
    | some w => if v.2.1.before w.2.1 || (v.1 == w.1 && decide (v.2.2 < w.2.2)) then some v else b) none).map (fun v => (v.1, v.2.2))

/-- `TEAM_RESTORE` (R302, R303): unit `u` of launch `l` resumes on core `c` with its contexts from `b` on; a class 2 launch as a whole, where its
first unit finds its place. -/
def State.teamRestore (s : State) (l u c b : Nat) : State :=
  match s.savedUnit l u, s.launchOf l with
  | some v, some w =>
    if s.nextResume (dieOf c) = some (l, u) ∧ v.base = b then
      (if hdrClass w.hdr = 2 then ((restoreAll l (s.saved.length + 1) s).getD s).joinClocks else (s.restoreOn v c).getD s).turnTaken l (dieOf c)
    else s
  | _, _ => s

def execTeamRestore (l u c b : Nat) (s' : State) : Host.Outcome State Fault Refusal := happen (fun s => s.teamRestore l u c b) s'

/-! ### Dispatch (R297) -/

/-- `DISPATCH_UNIT` (R297, R304): unit `u` of launch `l` starts on core `c` at base `b`, if it is the one the die's dispatcher serves now, a class 1
unit that was pre-empted among those resumed; a class 2 launch, all its units at once. -/
def State.dispatch (s : State) (l u c b : Nat) : State :=
  let d := dieOf c
  match s.launchOf l with
  | none => s
  | some v =>
    let others := s.launches.any (fun e => e.1 != l && e.2.before v && s.canStart e.1 e.2 d)
    let served := match s.nextResume d with
      | some p => p == (l, u) && (s.savedUnit l u).isNone
      | none => v.nextUnit d == some u && s.canStart l v d && !others
    if !served then s
    else if hdrClass v.hdr = 2 then (((startAll l v (hdrUnits v.hdr) 0 s).getD s).joinClocks).turnTaken l d
    else if (v.coresFor u d).contains c then ((s.startAt l v u c b).getD s).turnTaken l d
    else s

def execDispatchUnit (l u c b : Nat) (s' : State) : Host.Outcome State Fault Refusal := happen (fun s => s.dispatch l u c b) s'

/-- A pre-empted unit other than `u` of launch `l` is to be resumed on die `d`, with room or without, and does not give way: it is served before any other
(R297, R305). -/
def State.resumesFirst (s : State) (l u d : Nat) : Bool :=
  s.launches.any (fun e => !e.2.ended && (s.toResume e.1 e.2).any (fun t => t.2 == d && !(e.1 == l && t.1 == u) && !e.2.yields t.1))

/-- Unit `u` of launch `l` is the next that core `c` will run (R298): the next of its launch on the core's die, no pre-empted unit and no other launch
before it, and contexts and a window are free for it. -/
def State.nextFor (s : State) (l : Nat) (v : Launch) (u c : Nat) : Bool :=
  let d := dieOf c
  let held := fun (t : Team) => match s.launchOf t.launch with | some w => hdrWindow w.hdr / 16384 | none => 0
  v.nextUnit d == some u && s.nextResume d == none && !s.resumesFirst l u d && (s.toResume l v).all (fun t => !decide (t.1 < u)) && (v.coresFor u d).contains c &&
  !s.launches.any (fun e => e.1 != l && e.2.before v && (e.2.nextUnit d).isSome) &&
  (teamBases (hdrTeam v.hdr)).any (fun b => (s.core c).ctxsFree b (hdrTeam v.hdr)) && ((s.core c).windowPlace (hdrWindow v.hdr / 16384) held).isSome

/-- `PRELOAD` (R298): the unit a core runs next is preloaded into free contexts and a free window. A later read of the local-store image that fails ends the
launch FAULTED (R68). -/
def State.preloadUnit (s : State) (l u c : Nat) : State :=
  match s.launchOf l with
  | none => s
  | some v =>
    if s.nextFor l v u c && !(s.core c).retired then
      match s.imageRead v.root v.hdr with
      | .ok _ => s.modCore c (fun k => { k with preload := some (l, u) })
      | .error e => (s.logFault c { step := 0, cause := e.1, pa := e.2, detail := s.lossOf e.2 }).endLaunch l 1 e.1 0
    else s

def execPreload (l u c : Nat) (s' : State) : Host.Outcome State Fault Refusal := happen (fun s => s.preloadUnit l u c) s'

/-! ### Stopping a team (R300, R301) -/

/-- The teams of core `c` that stop together with the one at `b`: those that share its barriers. -/
def Core.together (k : Core) (b : Nat) : List Nat :=
  match tget k.teams b with
  | some t => (k.teams.filter (fun e => e.2.barKey == t.barKey)).map (fun e => e.1)
  | none => []

/-- The teams at `bs` of core `c` stop at a bundle boundary: parked contexts withdraw (R301, R235). -/
def State.stopTeams (s : State) (c : Nat) (bs : List Nat) : State :=
  bs.foldl (fun (s : State) b =>
    match tget (s.core c).teams b with
    | some t =>
      let s := (t.members b).foldl (fun (s : State) x => s.withdraw c x) s
      s.modCore c (fun k => k.putTeam b { (tget k.teams b).getD t with stopping := true, deferred := false })
    | none => s) s

/-- The pre-emption of the team at `b`: a class 2 launch stops as a whole (R304). -/
def State.stopAt (s : State) (c b : Nat) : State :=
  match tget (s.core c).teams b with
  | none => s
  | some t =>
    match s.launchOf t.launch with
    | none => s
    | some v =>
      if hdrClass v.hdr = 2 then
        s.cores.foldl (fun (s : State) (e : Nat × Core) => s.stopTeams e.1 (s.basesOf t.launch e.1)) s
      else s.stopTeams c ((s.core c).together b)

/-- The teams that a pre-emption of the one at `b` of core `c` stops, by core and base: those that share its barriers, or all of a class 2 launch
(R304). -/
def State.stopsWith (s : State) (c b : Nat) : List (Nat × Nat) :=
  match tget (s.core c).teams b with
  | none => []
  | some t =>
    if (s.launchOf t.launch).any (fun v => hdrClass v.hdr == 2) then
      s.cores.foldl (fun a e => a ++ (s.basesOf t.launch e.1).map (fun b => (e.1, b))) []
    else ((s.core c).together b).map (fun b => (c, b))

/-- A context of the team at `b` of core `c` holds a budget hint that has not run out (R199, R300). -/
def State.hinted (s : State) (c b : Nat) : Bool :=
  (tget (s.core c).teams b).any (fun t => (t.members b).any (fun x => ((s.core c).ctx x).budget != 0))

/-- A request for pre-emption (R300): while a context of a team that would stop holds a budget hint, it is deferred. -/
def State.askStop (s : State) (c b : Nat) : State :=
  match tget (s.core c).teams b with
  | none => s
  | some t =>
    if (s.stopsWith c b).any (fun p => s.hinted p.1 p.2) then s.modCore c (fun k => k.putTeam b { t with deferred := true })
    else s.stopAt c b

/-- The resident teams of a die that no request stops yet: core, base, team, launch. -/
def State.teamsOn (s : State) (d : Nat) : List (Nat × Nat × Team × Launch) :=
  (s.cores.filter (fun e => dieOf e.1 == d)).foldl (fun acc e => acc ++ e.2.teams.filterMap (fun t =>
    if t.2.stopping then none else (s.launchOf t.2.launch).map (fun v => (e.1, t.1, t.2, v)))) []

/-- A team of die `d` is being stopped: the room it leaves is looked at before another is. -/
def State.stoppingOn (s : State) (d : Nat) : Bool := s.cores.any (fun e => dieOf e.1 == d && e.2.teams.any (fun t => t.2.stopping))

/-- A unit of launch `l` waits on die `d`, and no core can take it; one that only a unit to be resumed before it holds back (R305) is not meant. -/
def State.roomless (s : State) (l : Nat) (v : Launch) (d : Nat) : Bool :=
  !v.ended && ((match v.nextUnit d with | some u => !s.hasRoom l v u d | none => false) ||
    s.saved.any (fun w => w.launch == l && w.die == d && !s.canResume w)) &&
  s.saved.all (fun w => !(w.launch == l && w.die == d && s.canResume w))

/-- Priority (R300): a unit of higher priority waits and no core can take it, and this team is the next to be evicted: lowest priority first, then
highest epoch, then highest unit. -/
def State.evictable (s : State) (d c b : Nat) (t : Team) (v : Launch) : Bool :=
  s.launches.any (fun e => decide (hdrPrio v.hdr < hdrPrio e.2.hdr) && s.roomless e.1 e.2 d) &&
  (s.teamsOn d).all (fun o => (o.1 == c && o.2.1 == b) || !(v.before o.2.2.2) && (o.2.2.1.launch != t.launch || decide (o.2.2.1.unit < t.unit)))

/-- Resumption (R305): a pre-empted unit of the launch, with a lower index, finds no room on the die, and this team is the resident one of the
launch with the highest. -/
def State.displaced (s : State) (d : Nat) (t : Team) (v : Launch) : Bool :=
  (s.toResume t.launch v).any (fun w => w.2 == d && decide (w.1 < t.unit) && (s.resumed t.launch w.1 d).isNone) &&
  (s.teamsOn d).all (fun o => o.2.2.1.launch != t.launch || decide (o.2.2.1.unit ≤ t.unit))

/-- `PREEMPT_REQUEST` (R300) -/
def State.preempt (s : State) (c b : Nat) : State :=
  match tget (s.core c).teams b with
  | none => s
  | some t =>
    match s.launchOf t.launch with
    | some v => if !s.stoppingOn (dieOf c) && (s.evictable (dieOf c) c b t v || s.displaced (dieOf c) t v) then s.askStop c b else s
    | none => s

def execPreemptRequest (c b : Nat) (s' : State) : Host.Outcome State Fault Refusal := happen (fun s => s.preempt c b) s'

/-- `BUDGET_OVERRUN` (R300): while a team of another launch waits on the die; where the unit's time limit expires at the same time, the watchdog is
taken instead (R309). -/
def State.budgetOverrun (s : State) (c b : Nat) : State :=
  match tget (s.core c).teams b with
  | none => s
  | some t =>
    match s.launchOf t.launch with
    | some v =>
      let r := v.unitRec t.unit
      if v.budget ≠ 0 ∧ t.stopping = false ∧ (r.expired && decide (s.cycle.toNat ≤ r.expiredAt + 1)) = false ∧
          (s.launches.any (fun e => e.1 != t.launch && s.waitsAt e.1 e.2 (dieOf c))) = true then
        (s.askStop c b).modLaunch t.launch (fun l => { l with units := tput l.units t.unit { l.unitRec t.unit with gaveWay := true } })
      else s
    | none => s

def execBudgetOverrun (c b : Nat) (s' : State) : Host.Outcome State Fault Refusal := happen (fun s => s.budgetOverrun c b) s'

/-- `BUDGET_HINT_EXPIRY` (R300): a deferred request is made. -/
def State.hintExpiry (s : State) (c b : Nat) : State :=
  match tget (s.core c).teams b with
  | some t => if t.deferred then s.stopAt c b else s
  | none => s

def execBudgetHintExpiry (c b : Nat) (s' : State) : Host.Outcome State Fault Refusal := happen (fun s => s.hintExpiry c b) s'

/-! ### Saving (R302 to R304) -/

/-- The accesses the contexts of a team have outstanding are performed, pending `sld`s among them (R247, R304; log entry 99), and a parked `qdeqw`
withdraws. -/
def State.drainTeam (s : State) (c b : Nat) (t : Team) : State := (t.members b).foldl (fun s x => (s.performAll c x).withdraw c x) s

/-- A restartable unit that is pre-empted runs again (R304); one whose time limit has expired is rerun, or abandoned, under R306. -/
def Launch.restart (l : Launch) (u : Nat) : Launch :=
  if (l.unitRec u).expired then
    let l := l.finish u
    if (l.unitRec u).state = .waiting then { l with units := tput l.units u { l.unitRec u with preempted := true } } else l
  else { l with units := tput l.units u { l.unitRec u with state := .waiting, preempted := true } }

/-- A restartable team leaves: its commands end as by abort, what it issued is performed, and its unit waits again (R304). -/
def State.restartTeam (s : State) (c b : Nat) (t : Team) : State :=
  let s := ((s.core c).cmds.filter (fun m => m.team == b)).foldl (fun s m => s.abortCmd c m false) s
  let s := ((t.members b).foldl (fun (s : State) x => s.modCtx c x Ctx.landAll) s).drainTeam c b t
  let s := (t.members b).foldl (fun (s : State) x => (s.ctx c x).groups.foldl (fun s g => s.leaveGroup c x g.1) s) s
  let s := s.publish c 2
  (s.modLaunch t.launch (fun l => l.restart t.unit)).removeTeam c b

/-- The first row with an element whose index is `f` or above. -/
def firstRow (g : Geo) (f : Nat) : Nat :=
  ((List.range g.d1).find? (fun y => (List.range g.d0).any (fun x => decide (f ≤ travIndex g.trav g.d0 g.d1 x y)))).getD g.d1

/-- A command as it is saved at frontier `f` (R301, R309): it asks for its permit again; a card's replay starts anew on the core it then goes to (R380,
R382); rows of a drain or `padj`, and elements of a tile that is read tile-atomically, are written again from the frontier on (R130, R326). -/
def Cmd.suspended (m : Cmd) (f : Nat) : Cmd :=
  if m.st = CmdState.permit then { m with st := .queued }
  else if m.kind = CmdKind.jcard ∧ m.st = CmdState.running ∧ m.chan ≠ 0 then { m with st := .requeued, chan := 0 }
  else if m.kind = CmdKind.jcard ∧ m.st = CmdState.halted then { m with chan := 0 }
  else if m.st = CmdState.finished then m
  else match m.kind, m.dst with
    | .drain, some g => if isRed m then m else { m with prog := min m.prog (firstRow g f * g.d0) }
    | .padj, some g => { m with prog := min m.prog (if g.trav = 0 then f else firstRow g f * g.d0) }
    | _, _ => if m.readVerAddr.isSome then { m with prog := min m.prog f, readVer := none } else m

/-- The granules of a window whose data is lost (R271, R273). -/
def Core.lostGranules (k : Core) (t : Team) : List Nat :=
  (List.range 128).filter (fun g => t.lostWin.contains g ||
    ([0, 4096, 8192, 12288]).any (fun o => k.deadGranules.contains (granuleOf t.place (g * 16384 + o))))

/-- A stopped context as it is saved: what it has in flight, and `sset` writes, have landed (R301). -/
def Ctx.saved (x : Ctx) (now : Nat) : Ctx := (x.landAll).landSets (now + 3)

/-- A team is saved (R302, R303): its permit requests are withdrawn (R309); what it has outstanding is performed, and what its core wrote published;
its core's values stay for a team beside it; data that is lost stays so (R271). -/
def State.saveOne (s : State) (c b : Nat) (t : Team) : State :=
  let s := (s.drainTeam c b t).publish c 2
  let k := s.core c
  let mine := k.cmds.filter (fun m => m.team == b)
  let s := mine.foldl (fun (s : State) m => s.dropGuest c m.id) s
  let name := savedCore t.launch t.unit
  let d := s.die (dieOf c)
  let s := s.putDie (dieOf c) { d with waiting := d.waiting.filter (fun w => !(w.1 == c && mine.any (fun m => m.id == w.2))) }
  let v : SavedTeam :=
    { launch := t.launch, unit := t.unit, die := dieOf c, base := b
      team := { (tget k.teams b).getD t with
        lostWin := k.lostGranules t, lostBars := k.barsLost t, lostAccs := if k.accOwner = some b then t.lostAccs ++ k.lostAccs else t.lostAccs }
      ctxs := (t.members b).map (fun x => (k.ctx x).saved k.clock)
      cmds := mine.map (fun m => m.suspended (match m.tag with | some (n, _) => (k.tagAt b n).f | none => m.prog))
      accs := if k.accOwner = some b then some k.accs else none
      barriers := k.barriers.filter (fun e => e.1 / 16 == t.barKey)
      xf := (k.landXf (k.clock + 3)).xf, chans := k.chans, chanImage := k.chanImage, chanRoot := k.chanRoot, lostChans := k.lostChans }
  let s := s.modCore c (fun k => { k.landXf (k.clock + 3) with cmds := k.cmds.filter (fun m => m.team != b) })
  let own := fun (p : Nat × Nat) => if p.1 = c ∧ mine.any (fun m => m.id == p.2) = true then (name, p.2) else p
  let s : State := { s with
    saved := s.saved ++ [v]
    dies := s.dies.map (fun d => { d with holding := d.holding.map own })
    stackQ := s.stackQ.map (fun q => (q.1, q.2.map own))
    det := s.det.map (fun b => b.rename own)
    channels := s.channels.map (fun h => if 256 ≤ h.1 ∧ h.2.core = c ∧ mine.any (fun m => m.sent.any (fun q => q.1 == h.1)) = true then
      (h.1, { h.2 with core := name }) else h) }
  let s := s.modLaunch t.launch (fun l => { l with
    units := tput l.units t.unit { l.unitRec t.unit with state := .saved c }
    groups := l.groups.map (fun g => (g.1, { g.2 with
      joined := g.2.joined.map (fun j => if j.1 = c ∧ (t.members b).contains j.2 = true then (name, j.2) else j)
      holds := g.2.holds.map (fun h => { h with asks := h.asks.map (fun a =>
        if a.core = c ∧ (t.members b).contains a.ctx = true then { a with core := name } else a) }) })) })
  (s.removeTeam c b).modCore c (fun q => if q.teams.any (fun e => e.2.barKey == t.barKey) then { q with barriers := k.barriers } else q)

/-- Teams of launch `l` on any core that are not asked to stop. -/
def State.running (s : State) (l : Nat) : Bool := s.cores.any (fun e => e.2.teams.any (fun t => t.2.launch == l && !t.2.stopping))

/-- A reduce-drain or a `hist` is in the midst of a piece: engines suspend at piece boundaries (R130, R301). -/
def Cmd.inPiece (m : Cmd) : Bool :=
  m.st == .running &&
    ((m.kind == .drain && !m.chunks.isEmpty) ||
     (m.kind == .hist && (match m.src with | some g => m.prog != pieceFloor (travLine g.trav g.d0 g.d1) g.w m.prog (g.d0 * g.d1) | none => false)))

/-- The teams that leave core `c` with the one at `b`, by core and base (R304). -/
def State.leaving (s : State) (c b : Nat) (t : Team) (v : Launch) : List (Nat × Nat) :=
  if hdrClass v.hdr = 1 then [(c, b)]
  else if hdrClass v.hdr = 2 then s.cores.foldl (fun a e => a ++ (s.basesOf t.launch e.1).map (fun b => (e.1, b))) []
  else ((s.core c).together b).map (fun b => (c, b))

/-- `TEAM_SAVE` (R302, R304): by the pre-emption class of the header, at a piece boundary of the reduce-drains and `hist`s of every team that leaves. -/
def State.teamSave (s : State) (c b : Nat) : State :=
  match tget (s.core c).teams b with
  | none => s
  | some t =>
    match s.launchOf t.launch with
    | none => s
    | some v =>
      let save := fun (s : State) (c b : Nat) => match tget (s.core c).teams b with
        | some t => s.saveOne c b t
        | none => s
      let teams := s.leaving c b t v
      if !t.stopping || v.ended || teams.any (fun p => (s.core p.1).cmds.any (fun m => m.team == p.2 && m.inPiece)) then s
      else if hdrClass v.hdr = 1 then s.restartTeam c b t
      else if hdrClass v.hdr = 2 ∧ s.running t.launch = true then s
      else teams.foldl (fun s p => save s p.1 p.2) s

def execTeamSave (c b : Nat) (s' : State) : Host.Outcome State Fault Refusal := happen (fun s => s.teamSave c b) s'

end Sys2Proof.Machine
end

