-- ==== Sys2Proof/Machine/Firmware.lean ====
section
/-! DEFINITION. What the management firmware does for the host: FIRMWARE packets, that is checkpoint, restore and scale (R64, R278 to R280, R292, R293),
and TLB invalidation (R268, R401 to R403). -/

namespace Sys2Proof.Machine

/-- The firmware runs (R398, R401). -/
def State.firmwareUp (s : State) : Bool := s.platform.boot == 4

/-- What the firmware's program leaves in the management cores and their SRAM: free values (R1; log entry 103). -/
def Platform.worked (f : Platform) (free : Nat) : Platform :=
  let w := fun (key : Nat) => (Config.freeBits free (2 ^ 52 + key)).setWidth 64
  { f with
    mgmt := Vector.ofFn (fun (i : Fin 8) =>
      { pc := w (100 * i), x := Vector.ofFn (fun (r : Fin 32) => if r = 0 then 0 else w (100 * i + r)), f := Vector.ofFn (fun (r : Fin 32) => w (100 * i + 32 + r)),
        fcsr := (w (100 * i + 64)).setWidth 32 })
    sram := (List.range Config.sramBytes).filterMap (fun a =>
      let b : Byte := (Config.freeBits free (2 ^ 53 + a)).setWidth 8
      if b = 0 then none else some (a, b)) }

/-- An event that the firmware carries out comes after the boot, if one is under way (R398). -/
def firmwareDoes (f : State → State) (s' : State) : Host.Outcome State Fault Refusal :=
  happen (fun s => (f (s.modPlatform Platform.booted)).modPlatform (fun p => p.worked s.free)) s'

/-! ### Checkpoint and restore -/

/-- The fields of a FIRMWARE packet keep to R292, by its selector. -/
def firmwareOk (p : W512) : Bool :=
  packetOk p &&
  (match pkSelector p with
   | 0 => decide (pkValue p < 2 ^ 32)
   | 1 => pkValue p == 0
   | 2 => decide (pkValue p < 2 ^ 44) && decide (bits (pkValue p) 40 4 ≤ 6)
   | _ => false)

/-- A checkpoint or restore is asked for: the packet is taken, and no launch is taken from any queue until it ends (R278). One at a time. -/
def State.quiesce (s : State) (q : Nat) (p : W512) (restore : Bool) : State :=
  if s.platform.ckpt.isSome || !s.firmwareUp then s
  else
    let i := (s.queue q).readIndex
    (s.takeWaiting q p).modPlatform (fun f => { f with ckpt := some { queue := q, packet := i, desc := p, restore := restore, stage := 0 } })

/-- `CHECKPOINT` (R278): selector 0; a FIRMWARE packet that breaks R292 completes REFUSED. -/
def State.checkpoint (s : State) (q : Nat) : State :=
  match s.takeable q 6 with
  | some p => if !firmwareOk p then s.refusePacket q p else if pkSelector p = 0 then s.quiesce q p false else s
  | none => s

def execCheckpoint (q : Nat) (s' : State) : Host.Outcome State Fault Refusal := firmwareDoes (fun s => s.checkpoint q) s'

/-- `RESTORE` (R280): selector 1. -/
def State.restore (s : State) (q : Nat) : State :=
  match s.takeable q 6 with
  | some p => if !firmwareOk p then s.refusePacket q p else if pkSelector p = 1 then s.quiesce q p true else s
  | none => s

def execRestore (q : Nat) (s' : State) : Host.Outcome State Fault Refusal := firmwareDoes (fun s => s.restore q) s'

/-- The checkpoint or restore under way ends with a status; dispatch resumes. -/
def State.ckptEnd (s : State) (k : Checkpoint) (status : Nat) : State :=
  (s.modPlatform (fun f => { f with ckpt := none })).packetDone k.queue k.packet k.desc status 0 0 0

/-- `CHECKPOINT_DRAIN_LIMIT` (R278): a launch still runs when the limit expires: FAILED, and everything goes on. -/
def State.drainLimit (s : State) : State :=
  match s.platform.ckpt with
  | some k => if k.stage = 0 ∧ s.launches ≠ [] then s.ckptEnd k 5 else s
  | none => s

def execCheckpointDrainLimit (s' : State) : Host.Outcome State Fault Refusal := happen State.drainLimit s'

/-- `SAFE_TIER_LOSS` (R279): FAILED, memory unchanged. -/
def State.safeTierLoss (s : State) : State :=
  match s.platform.ckpt with
  | some k => if k.stage = 1 then s.ckptEnd k 5 else s
  | none => s

def execSafeTierLoss (s' : State) : Host.Outcome State Fault Refusal := happen State.safeTierLoss s'

/-- Step 3 of R278, once no launch runs: every L1 and slice writes back. -/
def State.writeBack (s : State) (k : Checkpoint) : State :=
  if s.launches = [] then (s.boundary 0).modPlatform (fun f => { f with ckpt := some { k with stage := 1 } }) else s

/-- The safe tier a packet names by its descriptor (R278, R292); `none` where the descriptor cannot be read. DESIGN CHOICE: the spec gives no
descriptor's layout, so its length, and the tier its bytes name, are the implementation's (log entry 102). -/
def State.tierOf (s : State) (p : W512) : Option Nat := (s.sysRead (pkAddress p) Config.tierBytes).map Config.tierName

/-! ### Scale-out queue pairs (R406) -/

/-- The bytes of a transfer reach device memory, or the remote host; `none` where those that go out cannot be read (R271). -/
def State.rdmaMove (s : State) (n : Nat) (w : Rdma) : Option State :=
  if w.into then some (s.sysWrite w.pa w.data)
  else (s.sysRead w.pa w.size).map (fun bs => s.modPlatform (fun f => { f with remote := tput f.remote n ((tget f.remote n).getD [] ++ [bs]) }))

/-- The oldest transfer of queue pair `n` is done; then the firmware writes its completion, a system-scope release (log entry 113). -/
def State.rdmaNext (s : State) (n : Nat) : State :=
  match tget s.platform.pairs n with
  | some (w :: r) =>
    let s := s.modPlatform (fun f => { f with pairs := tput f.pairs n r })
    (match s.rdmaMove n w with
     | some t => t.sysWrite w.completion (leBytes 8 w.word.toNat)
     | none => s)
  | _ => s

/-- 2 MiB chunks of device memory (R279). -/
def chunkBytes : Nat := 2097152
def chunkCount : Nat := 491520

/-- The SHA-256 digest of chunk `k` of some memory (R279). -/
def chunkDigest (byte : Nat → Byte) (k : Nat) : BitVec 256 :=
  BitVec.ofNat 256 (beNat (sha256 ((span (k * chunkBytes) chunkBytes).map byte)))

/-- The 64 KiB pages of device memory that are retired or hold a lost byte (R273, R279). -/
def State.lostPages (s : State) : List Nat :=
  (s.platform.lost.filter (fun a => !isHost a)).foldl (fun l a => insertNat (a / 65536) l) s.platform.retiredPages

/-- The image of the module (R279); a lost page is not part of it as data. -/
def State.image (s : State) : SafeImage :=
  let mem := s.mem.filter (fun b => decide (b.1 < Config.deviceTop) && !s.platform.retiredPages.contains (b.1 / 65536) &&
    !s.platform.lost.any (fun a => a / 65536 == b.1 / 65536))
  { mem := mem
    epoch := s.epochs
    queues := s.queues.map (fun e => (e.1, (e.2.notify, e.2.readIndex)))
    graphs := s.queues.filterMap (fun e => e.2.graph.map (fun g => (e.1, g)))
    digests := (List.range chunkCount).map (chunkDigest (mget mem))
    lost := s.lostPages }

/-- `CHECKPOINT_COMPLETE` (R278, R279): the write-back, then the stream to the safe tier: OK, or PARTIAL with a page lost. -/
def State.checkpointComplete (s : State) : State :=
  match s.platform.ckpt with
  | some k =>
    if k.restore then s
    else if k.stage = 0 then s.writeBack k
    else match s.tierOf k.desc with
      | none => s.ckptEnd k 5
      | some t => (s.modPlatform (fun f => { f with safe := tput f.safe t s.image })).ckptEnd k (if s.lostPages.isEmpty then 0 else 4)
  | none => s

def execCheckpointComplete (s' : State) : Host.Outcome State Fault Refusal := happen State.checkpointComplete s'

/-- The byte of an image that the safe tier gives back at an address: a free value, which the digest judges. -/
def SafeImage.back (m : SafeImage) (n a : Nat) : Byte := Config.tierBack n a (mget m.mem a)

/-- Chunk `k` as it comes back matches its digest, and no page of it is listed as lost: a restore writes it (R280). -/
def SafeImage.keeps (m : SafeImage) (n k : Nat) : Bool := !m.lost.any (fun p => p / 32 == k) && m.digests[k]? == some (chunkDigest (m.back n) k)

/-- Device memory as a restore leaves it (R280): a chunk that is not written is left zero. -/
def SafeImage.device (m : SafeImage) (n : Nat) : Memory :=
  (List.range Config.deviceTop).filterMap (fun a => if m.keeps n (a / chunkBytes) && m.back n a != 0 then some (a, m.back n a) else none)

/-- The chunks that a restore leaves zero. -/
def SafeImage.zeros (m : SafeImage) (n : Nat) : List Nat := (List.range chunkCount).filter (fun k => !m.keeps n k)

/-- Position and graph of queue `q` as the manifest gives them (R280); a queue that it does not list stood at its reset position. -/
def HostQueue.reload (v : HostQueue) (m : SafeImage) (q : Nat) : HostQueue :=
  let p := (tget m.queues q).getD (0, 0)
  { v with notify := p.1, readIndex := p.2, graph := tget m.graphs q }

/-- Device memory, queue positions and graphs as the image gives them, the chunks left zero listed for the completion. A slice queue's entries are
overwritten with its bytes (R81). -/
def State.reload (s : State) (m : SafeImage) : State :=
  let n := s.free
  let s := s.sliceQueues.foldl (fun (s : State) (e : Nat × SliceQueue) => if isHost e.1 then s else s.queueClobber e.1) s
  let names := m.queues.foldl (fun (l : List Nat) e => insertNat e.1 l) (s.queues.map (fun e => e.1))
  let s := names.foldl (fun (s : State) q => s.modQueue q (fun v => v.reload m q)) s
  { s with
    mem := m.device n ++ s.mem.filter (fun b => decide (Config.deviceTop ≤ b.1))
    epochs := m.epoch
    platform := { s.platform with lost := s.platform.lost.filter isHost, zeroed := m.zeros n } }

/-- `RESTORE_COMPLETE` (R280): the module is quiesced, then reloaded: OK, or PARTIAL where a chunk was left zero, those listed. With no image on the safe
tier it ends FAILED. DESIGN CHOICE: the completion record has no room for the list (R291), which the platform holds (log entry 102). -/
def State.restoreComplete (s : State) : State :=
  match s.platform.ckpt with
  | some k =>
    if !k.restore then s
    else if k.stage = 0 then s.writeBack k
    else match (s.tierOf k.desc).bind (tget s.platform.safe) with
      | none => s.ckptEnd k 5
      | some m => (s.reload m).ckptEnd k (if (m.zeros s.free).isEmpty then 0 else 4)
  | none => s

def execRestoreComplete (s' : State) : Host.Outcome State Fault Refusal := happen State.restoreComplete s'

/-! ### Scale (R64) -/

/-- The exponent of a format's largest finite value, by its code (R64). -/
def topExp (fmt : Nat) : Int :=
  match fmt with
  | 0 | 1 => 127
  | 2 | 4 => 15
  | 3 => 8
  | 5 => 4
  | _ => 2

/-- The bin j* (R64): from bin `n - 1` down, the first at which the count so far exceeds the fraction. -/
def topBin (counts : List Nat) (p total : Nat) : Nat → Nat → Nat
  | 0, _ => 0
  | n + 1, c =>
    let c := c + counts.getD n 0
    if p * total < c * 2 ^ 32 then n else topBin counts p total n c

/-- σ of R64. -/
def scaleOf (counts : List Nat) (p : Nat) (b : Int) (fmt : Nat) : Int :=
  let total := counts.foldl (fun a c => a + c) 0
  if total = 0 then 0 else topExp fmt - (b + (min (max (topBin counts p total 32 0) 1) 30 : Nat) - 1)

/-- `SCALE` (R293): selector 2; σ is written before the completion record. -/
def State.scale (s : State) (q : Nat) : State :=
  match s.takeable q 6 with
  | none => s
  | some p =>
    if !firmwareOk p then s.refusePacket q p
    else if pkSelector p ≠ 2 ∨ s.firmwareUp = false then s
    else
      let i := (s.queue q).readIndex
      let s := s.modQueue q HostQueue.take
      match s.sysRead (pkAddress p) 128 with
      | none => s.packetDone q i p 5 0 0 0
      | some bs =>
        let v := pkValue p
        let σ := scaleOf (wordsOf bs) (bits v 0 32) (sbits v 32 8) (bits v 40 4)
        (s.sysWrite (pkResult p) (leBytes 8 (ofInt 64 σ).toNat)).packetDone q i p 0 0 0 0

def execScale (q : Nat) (s' : State) : Host.Outcome State Fault Refusal := firmwareDoes (fun s => s.scale q) s'

/-! ### TLB invalidation (R268, R401 to R403) -/

/-- `INVALIDATE` (R401, R403): a 17th pending request is dropped. -/
def Platform.invalidate (p : Platform) (v : W64) : Platform :=
  if 16 ≤ p.inval.length then { p with dropped := true } else { p with inval := p.inval ++ [v] }

def execInvalidate (v : W64) (s' : State) : Host.Outcome State Fault Refusal := happen (fun s => s.modPlatform (fun p => p.invalidate v)) s'

/-- The invalidate status register (R401). -/
def Platform.invalStatus (p : Platform) : W64 := BitVec.ofNat 64 (p.inval.length + (if p.dropped then 256 else 0))

/-- `INVALIDATE_STATUS` (R401): the host reads it (reply 0), and the dropped bit is cleared. -/
def Platform.readInval (p : Platform) : Platform := { p with replies := p.replies ++ [{ command := 0, words := [p.invalStatus] }], dropped := false }

def execInvalidateStatus (s' : State) : Host.Outcome State Fault Refusal := happen (fun s => s.modPlatform Platform.readInval) s'

/-- A well-formed request record (R402). -/
def requestOk (a r : Nat) : Bool :=
  a % 32 == 0 && bits r 192 12 == 0 && bits r 128 12 == 0 && bits r 64 16 == 0 && bits r 0 16 == 0 && bits r 16 48 % 8 == 0 &&
  decide (bits r 204 52 ≤ bits r 140 52)

/-- A TLB entry that a request removes (R268). -/
def requestHits (r : Nat) (e : TlbEntry) : Bool :=
  e.root == bits r 80 48 && decide (e.va ≤ bits r 140 52) && decide (bits r 204 52 < e.va + e.size)

/-- The entries of the module's TLBs that a request removes. -/
def State.hitEntries (s : State) (r : Nat) : List TlbEntry :=
  s.cores.foldl (fun a e => a ++ e.2.tlb.filter (requestHits r)) [] ++ s.tlbs.foldl (fun a e => a ++ e.2.filter (requestHits r)) []

/-- An entry maps physical byte `a`. -/
def TlbEntry.maps (t : TlbEntry) (a : Nat) : Bool := decide (t.pa ≤ a) && decide (a < t.pa + t.size)

/-- What is under way through entries that a request removes: accesses of the root's contexts already translated, and commands in the midst of a
piece, whose places are (R126). -/
def State.underWay (s : State) (r : Nat) : InvalCut :=
  let es := s.hitEntries r
  let mine := fun (c x : Nat) => s.rootAt c x == bits r 80 48
  { record := r
    ops := s.cores.foldl (fun a e => a ++ ([0, 1, 2, 3]).foldl (fun a x =>
      a ++ ((e.2.ctx x).ops.filter (fun o => mine e.1 x && o.touches.any (fun b => es.any (fun t => t.maps b)))).map (fun o => (e.1, x, o.id))) []) []
    cmds := s.cores.foldl (fun a e => a ++ (e.2.cmds.filter (fun m => mine e.1 m.ctx && m.inPiece)).map (fun m => (e.1, m.id, m.prog))) [] }

/-- Access `o` of a context is a `qdeqw` that its slice holds among its waiters: it has reached its queue (R83). -/
def State.parkedOp (s : State) (c x : Nat) (o : MemOp) : Bool := match o.kind with | .queue .deqw _ e => s.parkedAt c x e | _ => false

/-- Something of it is not yet performed; a `qdeqw` that has parked at its slice is not waited for. -/
def State.stillUnderWay (s : State) (w : InvalCut) : Bool :=
  w.ops.any (fun o => (s.ctx o.1 o.2.1).ops.any (fun p => p.id == o.2.2 && !s.parkedOp o.1 o.2.1 p)) ||
  w.cmds.any (fun m => (s.core m.1).cmds.any (fun p => p.id == m.2.1 && p.prog == m.2.2 && p.inPiece))

/-- Every entry that a request names leaves the TLBs of the cores and dies (R268), and the entries of the tables that map its range are in force as
they are now (R104). -/
def State.removeEntries (s : State) (r : Nat) : State :=
  let s := s.keepTables (bits r 80 48) (bits r 204 52) (bits r 140 52 + 1) 38
  { s with
    cores := s.cores.map (fun e => (e.1, { e.2 with tlb := e.2.tlb.filter (fun t => !requestHits r t) }))
    tlbs := s.tlbs.map (fun e => (e.1, e.2.filter (fun t => !requestHits r t))) }

/-- The firmware serves a fault of the context (R267). -/
def Ctx.served (v : Ctx) : Bool := (match v.status with | .service _ => true | _ => false) || v.pending.any (fun t => t.ask)

/-- A fault service of the same root is under way (R410), of a context on a core or of a saved one. -/
def State.serving (s : State) (root : Nat) : Bool :=
  s.cores.any (fun e => ([0, 1, 2, 3]).any (fun x => s.rootAt e.1 x == root && (e.2.ctx x).served)) ||
  s.saved.any (fun v => (s.launchOf v.launch).any (fun l => l.root == root) && v.ctxs.any Ctx.served)

/-- The oldest request is done: its word is written (R403). -/
def State.invalDone (s : State) (r : Nat) (word : Nat) : State :=
  (s.modPlatform (fun p => { p with inval := p.inval.drop 1, cut := none })).sysWrite (bits r 16 48 / 8 * 8) (leBytes 8 word)

/-- The second and third steps of R268: the request is done once what was under way through its entries has been performed. -/
def State.finishInval (s : State) (w : InvalCut) : State := if s.stillUnderWay w then s else s.invalDone w.record 1

/-- `TLB_INVALIDATION` (R268, R403): the oldest pending request is performed, once no fault service of its root is under way (R410): its entries are
removed; the accesses translated before are waited for; its word is written: 1, or 2 where the record was malformed. -/
def State.invalidation (s : State) : State :=
  if !s.firmwareUp then s
  else match s.platform.inval, s.platform.cut with
  | [], _ => s
  | _ :: _, some w => s.finishInval w
  | a :: _, none =>
    match s.sysNat (a.toNat / 32 * 32) 32 with
    | none => s.modPlatform (fun p => { p with inval := p.inval.drop 1 })
    | some r =>
      if !requestOk a.toNat r then s.invalDone r 2
      else if s.serving (bits r 80 48) then s
      else
        let w := s.underWay r
        ((s.removeEntries r).modPlatform (fun p => { p with cut := some w })).finishInval w

def execTlbInvalidation (s' : State) : Host.Outcome State Fault Refusal := firmwareDoes State.invalidation s'

end Sys2Proof.Machine
end

