-- ==== Sys2Proof/Machine/Management.lean ====
section
/-! DEFINITION. The platform around the cores: telemetry (R409), attestation (R404, R405), the power governors (R308, R407, R408), and the module's edge
(R355). -/

namespace Sys2Proof.Machine

/-! ### Telemetry (R409) -/

def State.reply (s : State) (command : Nat) (words : List W64) : State :=
  s.modPlatform (fun p => { p with replies := p.replies ++ [{ command := command, words := words }] })

/-- `POWER_STATUS`: power and four temperatures from sensors, then clock and K of each die, then the dies at whose limit the module has stopped (R408;
log entry 7). -/
def State.powerStatus (s : State) : State :=
  s.reply 1 ((List.range 5).map (fun i => Config.sensor (s.free * 8 + i)) ++
    ([0, 1, 2, 3]).foldl (fun a d => a ++ [BitVec.ofNat 64 (s.die d).clk, BitVec.ofNat 64 (s.die d).permits]) [] ++
    s.platform.thermal.map (BitVec.ofNat 64))

def execPowerStatus (s' : State) : Host.Outcome State Fault Refusal := happen State.powerStatus s'

/-- The unit of an error's site, its physical address or core, and which part of the core it is (R274). -/
def siteWords : ErrSite → List Nat
  | .cacheLine (.l1 c) a _ => [0, a, c]
  | .cacheLine (.slice d i) a _ => [0, a, 256 + d * 48 + i]
  | .cacheLine (.icache c) a _ => [0, a, 512 + c]
  | .cacheLine (.tlb c) a _ => [0, a, 768 + c]
  | .cacheLine (.dieTlb d) a _ => [0, a, 1024 + d]
  | .channel c n => [10, c, n]
  | .meshBuffer l i n => [11, l, i * 2 + n]
  | .barrier c b n => [12, c, b * 16 + n]
  | .hbm a => [1, a, 0]
  | .localStore c g => [2, c, g]
  | .matrixHalf c => [3, c, 0]
  | .sfBank c => [4, c, 0]
  | .register c x r => [5, c, x * 1024 + r]
  | .accumulator c a => [6, c, a]
  | .command c i => [8, c, i]
  | .tag c b n => [9, c, b * 64 + n]
  | .coreUnit c => [7, c, 0]

/-- An entry of the log as five words: its kind, its unit, physical address or core, and part, and `cycle` (R274). -/
def LogEntry.words (e : LogEntry) : List W64 := BitVec.ofNat 64 e.kind :: (siteWords e.site).map (BitVec.ofNat 64) ++ [e.cycle]

/-- `ERROR_LOG_READ`: the entries from index `n` on. -/
def State.logRead (s : State) (n : Nat) : State := s.reply 2 ((s.platform.log.drop n).foldl (fun a e => a ++ e.words) [])

def execErrorLogRead (n : Nat) (s' : State) : Host.Outcome State Fault Refusal := happen (fun s => s.logRead n) s'

/-- `PORT_STATES`: one bit for each TW port that is down, then one for each Ethernet port with its link. -/
def State.portStates (s : State) : State :=
  let p := s.platform
  s.reply 3 [BitVec.ofNat 64 ((List.range 16).foldl (fun a i => if p.portsDown.contains i then a + 2 ^ i else a) 0),
    BitVec.ofNat 64 ((if Config.linkUp 0 p.bootRetries then 1 else 0) + (if Config.linkUp 1 p.bootRetries then 2 else 0))]

def execPortStates (s' : State) : Host.Outcome State Fault Refusal := happen State.portStates s'

/-- The boot status register (R401). -/
def Platform.bootStatus (p : Platform) : W64 := BitVec.ofNat 64 (p.boot % 256)

/-- What the host reads at an offset of BAR2's control page (R401): an offset that is not listed reads 0. -/
def Platform.controlRead (p : Platform) (off : Nat) : W64 :=
  match off with
  | 0x008 => p.invalStatus
  | 0x010 => p.bootStatus
  | _ => 0

/-- A host write to BAR2's control page (R401): one register is writable, and every other offset ignores it. -/
def Platform.controlWrite (p : Platform) (off : Nat) (v : W64) : Platform := if off = 0 then p.invalidate v else p

/-- `BOOT_STATUS_QUERY` -/
def State.bootQuery (s : State) : State := s.reply 5 [s.platform.bootStatus, s.platform.version.setWidth 64]

def execBootStatusQuery (s' : State) : Host.Outcome State Fault Refusal := happen State.bootQuery s'

/-! ### Attestation (R404, R405) -/

/-- Retired units of each kind of R273. -/
def State.retiredCounts (s : State) : List Nat :=
  let n := fun (f : Core → Nat) => (s.cores.map (fun e => f e.2)).sum
  [s.platform.retiredLines, s.platform.retiredPages.length, n (fun k => k.granules.length), n (fun k => if k.halfRate then 1 else 0),
   n (fun k => if k.sfDegraded then 1 else 0), n (fun k => if k.retired then 1 else 0)]

/-- The bytes that are signed (R405). -/
def State.reportBytes (s : State) (nonce : BitVec 256) (leaf : Nat) : List Byte :=
  leBytes 32 nonce.toNat ++ leBytes 32 s.platform.digest.toNat ++ leBytes 4 s.platform.version.toNat ++ leBytes 4 Config.minVersion.toNat ++
    leBytes 8 Config.serial.toNat ++ s.retiredCounts.foldl (fun a n => a ++ leBytes 8 n) [] ++ leBytes 4 leaf

/-- `ATTESTATION_REPORT`: the leaf counter rises, and is durable, before the report is signed with the leaf, as `signNext` does; after 2^20 signatures
none is signed (R404). -/
def State.attest (s : State) (nonce : BitVec 256) : State :=
  let leaf := s.platform.leaf
  if !s.firmwareUp then s
  else s.modPlatform (fun p => { p with
    leaf := if leaf < 2 ^ 20 then leaf + 1 else leaf
    signing := p.signing ++ [(nonce, if leaf < 2 ^ 20 then some leaf else none)] })

/-- The oldest request for a report is signed, or answered EXHAUSTED (R404, R405); without power before it, its leaf is skipped. -/
def State.signNext (s : State) : State :=
  match s.platform.signing with
  | [] => s
  | (nonce, leaf) :: rest =>
    let r : Report :=
      { nonce := nonce, digest := s.platform.digest, version := s.platform.version, retired := s.retiredCounts, leaf := leaf
        signature := (leaf.map (fun n => Config.lmsSign n (s.reportBytes nonce n))).getD [] }
    s.modPlatform (fun p => { p with signing := rest, reports := p.reports ++ [r] })

def execAttestationReport (nonce : BitVec 256) (s' : State) : Host.Outcome State Fault Refusal := firmwareDoes (fun s => s.attest nonce) s'

/-! ### Power and cooling (R408) -/

/-- `GOVERNOR_ADJUST` (R408): the clock in 10 MHz, up to the nominal 2.0 GHz, of the dies set together; and the permit count of one die, 1 to 32. -/
def State.governor (s : State) (d clk n : Nat) : State :=
  if d < 4 ∧ 1 ≤ clk ∧ clk ≤ 200 ∧ 1 ≤ n ∧ n ≤ 32 then
    let s := (s.clockSet d).foldl (fun (s : State) e => s.putDie e { s.die e with clk := clk }) s
    s.putDie d { s.die d with permits := n }
  else s

def execGovernorAdjust (d clk n : Nat) (s' : State) : Host.Outcome State Fault Refusal := happen (fun s => s.governor d clk n) s'

/-- `THERMAL_STOP` (R408, R410): every launch ends FAILED, and so does a checkpoint; the cause is reported. -/
def State.thermalStop (s : State) (d : Nat) : State :=
  let s := s.launches.foldl (fun (s : State) e => s.endLaunch e.1 5 0 0) s
  let s := match s.platform.ckpt with
    | some k => s.ckptEnd k 5
    | none => s
  s.modPlatform (fun p => { p with thermal := p.thermal ++ [d] })

def execThermalStop (d : Nat) (s' : State) : Host.Outcome State Fault Refusal := happen (fun s => s.thermalStop d) s'

/-! ### The module's edge (R355) -/

/-- `PORT_DOWN`: traffic then uses the remaining ports; nothing that a program sees changes. -/
def execPortDown (p : Nat) (s' : State) : Host.Outcome State Fault Refusal :=
  happen (fun s => if p < 16 then s.modPlatform (fun f => { f with portsDown := insertNat p f.portsDown }) else s) s'

/-- `FAILED_BEAT`: the beat is repeated; a retried beat changes no value. -/
def execFailedBeat (p : Nat) (s' : State) : Host.Outcome State Fault Refusal :=
  happen (fun s => if p < 16 then s.modPlatform (fun f => { f with repeats := tput f.repeats p ((tget f.repeats p).getD 0 + 1) }) else s) s'

/-- A core as new, but for the units of it that have been retired or destroyed. -/
def Core.scars (k : Core) : Core :=
  { Core.fresh with
    sfDegraded := k.sfDegraded, halfRate := k.halfRate, granules := k.granules, retired := k.retired || k.retiring, lostAccs := k.lostAccs
    deadGranules := k.deadGranules, deadChans := k.deadChans, lostChans := k.deadChans, deadBars := k.deadBars
    ctxs := k.ctxs.map (fun x => { Ctx.fresh with lostRegs := x.deadRegs, deadRegs := x.deadRegs }) }

/-- What a reset, or a loss of power, leaves: host memory, the non-volatile leaf counter, the safe tier, and what has been retired for good; with `device`, device
memory too (log entry 18). -/
def State.afterLoss (s : State) (device : Bool) : State :=
  let r := State.reset
  { r with
    mem := s.mem.filter (fun b => device || isHost b.1)
    agenda := s.agenda
    cores := (s.cores.map (fun e => (e.1, e.2.scars))).filter (fun e => e.2 != Core.fresh)
    free := s.free
    platform := { r.platform with
      leaf := s.platform.leaf, safe := s.platform.safe, retiredPages := s.platform.retiredPages, retiredLines := s.platform.retiredLines
      lost := s.platform.lost.filter (fun a => device || isHost a), portsDown := s.platform.portsDown } }

/-- What had left of a transfer when power went (R355): whole fabric packets of 4 KiB of payload, the last one shorter; how many is free. -/
def Transfer.cut (t : Transfer) (n : Nat) : Transfer :=
  { t with data := t.data.take (4096 * (n % ((t.data.length + 4095) / 4096 + 1))) }

/-- `MODULE_POWER_LOSS`: the module stops at once, and what it held is lost. The fabric packets that had left its ports whole are delivered (R355), and
nothing of a transfer of which none had. -/
def State.powerLoss (s : State) : State :=
  { s.afterLoss false with
    powered := false
    outbox := ((s.outbox.zip (List.range s.outbox.length)).map (fun p => p.1.cut (Config.freeBits s.free (920 + 2 ^ 20 * p.2)).toNat)).filter
      (fun t => !t.data.isEmpty) }

def execModulePowerLoss (s' : State) : Host.Outcome State Fault Refusal := happen State.powerLoss s'

/-! ### Module reset (R398) -/

/-- `MODULE_RESET` (R398): the module is as after reset, and the ROM boots over port 0 if it has its link, as far as it has gone when the host next
looks; pending invalidations are lost (R410). It also brings a module without power back. -/
def State.moduleReset (s : State) : State := (s.afterLoss true).modPlatform (fun f => f.bootAlong (Config.bootPace s.free % (bootStages + 1)))

def execModuleReset (s' : State) : Host.Outcome State Fault Refusal := .next s'.moduleReset

/-- `BOOT_LINK_TIMEOUT` (R398): port 0 has no link within 2 s, and the ROM goes on with port 1. -/
def State.bootTimeout (s : State) : State :=
  let f := s.platform
  if f.boot = 0 ∧ Config.linkUp 0 0 = false then
    s.modPlatform (fun f => { f with bootPort := 1 }.bootAlong (Config.bootPace s.free % (bootStages + 1)))
  else s

def execBootLinkTimeout (s' : State) : Host.Outcome State Fault Refusal := happen State.bootTimeout s'

/-- The ROM goes on by a stage of its own (R398). -/
def State.bootStage (s : State) : State := s.modPlatform Platform.bootNext

end Sys2Proof.Machine
end

