-- ==== Sys2Proof/Machine/Syllables.lean ====
section
/-! DEFINITION. The meaning of each syllable: the one-syllable bundle it makes is issued. -/

namespace Sys2Proof.Machine

/-! ### Those of `Machine/Scalar.lean` -/

def execAdd (d : BitVec 5) (a : BitVec 5) (c : BitVec 5) (s' : State) : Host.Outcome State Fault Refusal := issueOne (semAdd d a c) s'

def execSub (d : BitVec 5) (a : BitVec 5) (c : BitVec 5) (s' : State) : Host.Outcome State Fault Refusal := issueOne (semSub d a c) s'

def execMul (d : BitVec 5) (a : BitVec 5) (c : BitVec 5) (s' : State) : Host.Outcome State Fault Refusal := issueOne (semMul d a c) s'

def execMulh (d : BitVec 5) (a : BitVec 5) (c : BitVec 5) (s' : State) : Host.Outcome State Fault Refusal := issueOne (semMulh d a c) s'

def execMulhz (d : BitVec 5) (a : BitVec 5) (c : BitVec 5) (s' : State) : Host.Outcome State Fault Refusal := issueOne (semMulhz d a c) s'

def execDiv (d : BitVec 5) (a : BitVec 5) (c : BitVec 5) (s' : State) : Host.Outcome State Fault Refusal := issueOne (semDiv d a c) s'

def execDivz (d : BitVec 5) (a : BitVec 5) (c : BitVec 5) (s' : State) : Host.Outcome State Fault Refusal := issueOne (semDivz d a c) s'

def execRem (d : BitVec 5) (a : BitVec 5) (c : BitVec 5) (s' : State) : Host.Outcome State Fault Refusal := issueOne (semRem d a c) s'

def execRemz (d : BitVec 5) (a : BitVec 5) (c : BitVec 5) (s' : State) : Host.Outcome State Fault Refusal := issueOne (semRemz d a c) s'

def execAnd (d : BitVec 5) (a : BitVec 5) (c : BitVec 5) (s' : State) : Host.Outcome State Fault Refusal := issueOne (semAnd d a c) s'

def execOr (d : BitVec 5) (a : BitVec 5) (c : BitVec 5) (s' : State) : Host.Outcome State Fault Refusal := issueOne (semOr d a c) s'

def execXor (d : BitVec 5) (a : BitVec 5) (c : BitVec 5) (s' : State) : Host.Outcome State Fault Refusal := issueOne (semXor d a c) s'

def execAndn (d : BitVec 5) (a : BitVec 5) (c : BitVec 5) (s' : State) : Host.Outcome State Fault Refusal := issueOne (semAndn d a c) s'

def execShl (d : BitVec 5) (a : BitVec 5) (c : BitVec 5) (s' : State) : Host.Outcome State Fault Refusal := issueOne (semShl d a c) s'

def execShr (d : BitVec 5) (a : BitVec 5) (c : BitVec 5) (s' : State) : Host.Outcome State Fault Refusal := issueOne (semShr d a c) s'

def execSra (d : BitVec 5) (a : BitVec 5) (c : BitVec 5) (s' : State) : Host.Outcome State Fault Refusal := issueOne (semSra d a c) s'

def execMin (d : BitVec 5) (a : BitVec 5) (c : BitVec 5) (s' : State) : Host.Outcome State Fault Refusal := issueOne (semMin d a c) s'

def execMax (d : BitVec 5) (a : BitVec 5) (c : BitVec 5) (s' : State) : Host.Outcome State Fault Refusal := issueOne (semMax d a c) s'

def execMinz (d : BitVec 5) (a : BitVec 5) (c : BitVec 5) (s' : State) : Host.Outcome State Fault Refusal := issueOne (semMinz d a c) s'

def execMaxz (d : BitVec 5) (a : BitVec 5) (c : BitVec 5) (s' : State) : Host.Outcome State Fault Refusal := issueOne (semMaxz d a c) s'

def execClz (d : BitVec 5) (a : BitVec 5) (s' : State) : Host.Outcome State Fault Refusal := issueOne (semClz d a) s'

def execCtz (d : BitVec 5) (a : BitVec 5) (s' : State) : Host.Outcome State Fault Refusal := issueOne (semCtz d a) s'

def execPopc (d : BitVec 5) (a : BitVec 5) (s' : State) : Host.Outcome State Fault Refusal := issueOne (semPopc d a) s'

def execSel (d : BitVec 5) (a : BitVec 5) (c : BitVec 5) (k : BitVec 5) (s' : State) : Host.Outcome State Fault Refusal := issueOne (semSel d a c k) s'

def execLea (d : BitVec 5) (a : BitVec 5) (c : BitVec 5) (h : BitVec 5) (s' : State) : Host.Outcome State Fault Refusal := issueOne (semLea d a c h) s'

def execBfx (d : BitVec 5) (a : BitVec 5) (c : BitVec 5) (s' : State) : Host.Outcome State Fault Refusal := issueOne (semBfx d a c) s'

def execBfxz (d : BitVec 5) (a : BitVec 5) (c : BitVec 5) (s' : State) : Host.Outcome State Fault Refusal := issueOne (semBfxz d a c) s'

def execBins (d : BitVec 5) (a : BitVec 5) (c : BitVec 5) (s' : State) : Host.Outcome State Fault Refusal := issueOne (semBins d a c) s'

def execAdds (d : BitVec 5) (a : BitVec 5) (c : BitVec 5) (s' : State) : Host.Outcome State Fault Refusal := issueOne (semAdds d a c) s'

def execSubs (d : BitVec 5) (a : BitVec 5) (c : BitVec 5) (s' : State) : Host.Outcome State Fault Refusal := issueOne (semSubs d a c) s'

def execCmpeq (k : BitVec 5) (a : BitVec 5) (c : BitVec 5) (s' : State) : Host.Outcome State Fault Refusal := issueOne (semCmpeq k a c) s'

def execCmpne (k : BitVec 5) (a : BitVec 5) (c : BitVec 5) (s' : State) : Host.Outcome State Fault Refusal := issueOne (semCmpne k a c) s'

def execCmplt (k : BitVec 5) (a : BitVec 5) (c : BitVec 5) (s' : State) : Host.Outcome State Fault Refusal := issueOne (semCmplt k a c) s'

def execCmple (k : BitVec 5) (a : BitVec 5) (c : BitVec 5) (s' : State) : Host.Outcome State Fault Refusal := issueOne (semCmple k a c) s'

def execCmpltz (k : BitVec 5) (a : BitVec 5) (c : BitVec 5) (s' : State) : Host.Outcome State Fault Refusal := issueOne (semCmpltz k a c) s'

def execCmplez (k : BitVec 5) (a : BitVec 5) (c : BitVec 5) (s' : State) : Host.Outcome State Fault Refusal := issueOne (semCmplez k a c) s'

def execCmpbit (k : BitVec 5) (a : BitVec 5) (c : BitVec 5) (s' : State) : Host.Outcome State Fault Refusal := issueOne (semCmpbit k a c) s'

def execCmpeqi (k : BitVec 5) (a : BitVec 5) (i : BitVec 19) (s' : State) : Host.Outcome State Fault Refusal := issueOne (semCmpeqi k a i) s'

def execCmpnei (k : BitVec 5) (a : BitVec 5) (i : BitVec 19) (s' : State) : Host.Outcome State Fault Refusal := issueOne (semCmpnei k a i) s'

def execCmplti (k : BitVec 5) (a : BitVec 5) (i : BitVec 19) (s' : State) : Host.Outcome State Fault Refusal := issueOne (semCmplti k a i) s'

def execCmplei (k : BitVec 5) (a : BitVec 5) (i : BitVec 19) (s' : State) : Host.Outcome State Fault Refusal := issueOne (semCmplei k a i) s'

def execCmpltzi (k : BitVec 5) (a : BitVec 5) (i : BitVec 19) (s' : State) : Host.Outcome State Fault Refusal := issueOne (semCmpltzi k a i) s'

def execCmplezi (k : BitVec 5) (a : BitVec 5) (i : BitVec 19) (s' : State) : Host.Outcome State Fault Refusal := issueOne (semCmplezi k a i) s'

def execAddi (d : BitVec 5) (a : BitVec 5) (i : BitVec 19) (s' : State) : Host.Outcome State Fault Refusal := issueOne (semAddi d a i) s'

def execAndi (d : BitVec 5) (a : BitVec 5) (i : BitVec 19) (s' : State) : Host.Outcome State Fault Refusal := issueOne (semAndi d a i) s'

def execOri (d : BitVec 5) (a : BitVec 5) (i : BitVec 19) (s' : State) : Host.Outcome State Fault Refusal := issueOne (semOri d a i) s'

def execXori (d : BitVec 5) (a : BitVec 5) (i : BitVec 19) (s' : State) : Host.Outcome State Fault Refusal := issueOne (semXori d a i) s'

def execShli (d : BitVec 5) (a : BitVec 5) (i : BitVec 19) (s' : State) : Host.Outcome State Fault Refusal := issueOne (semShli d a i) s'

def execShri (d : BitVec 5) (a : BitVec 5) (i : BitVec 19) (s' : State) : Host.Outcome State Fault Refusal := issueOne (semShri d a i) s'

def execSrai (d : BitVec 5) (a : BitVec 5) (i : BitVec 19) (s' : State) : Host.Outcome State Fault Refusal := issueOne (semSrai d a i) s'

def execMuli (d : BitVec 5) (a : BitVec 5) (i : BitVec 19) (s' : State) : Host.Outcome State Fault Refusal := issueOne (semMuli d a i) s'

def execMini (d : BitVec 5) (a : BitVec 5) (i : BitVec 19) (s' : State) : Host.Outcome State Fault Refusal := issueOne (semMini d a i) s'

def execMaxi (d : BitVec 5) (a : BitVec 5) (i : BitVec 19) (s' : State) : Host.Outcome State Fault Refusal := issueOne (semMaxi d a i) s'

def execMovi (d : BitVec 5) (i : BitVec 24) (s' : State) : Host.Outcome State Fault Refusal := issueOne (semMovi d i) s'

def execMovup (d : BitVec 5) (i : BitVec 24) (s' : State) : Host.Outcome State Fault Refusal := issueOne (semMovup d i) s'

def execMfs (d : BitVec 5) (i : BitVec 24) (s' : State) : Host.Outcome State Fault Refusal := issueOne (semMfs d i) s'

def execMts (s : BitVec 5) (i : BitVec 24) (s' : State) : Host.Outcome State Fault Refusal := issueOne (semMts s i) s'

/-! ### Those of `Machine/Vector.lean` -/

def execVadd (t : BitVec 3) (w : BitVec 2) (d a c : BitVec 5) (m : BitVec 3) (s' : State) : Host.Outcome State Fault Refusal :=
  issueOne (semVadd t w d a c m) s'

def execVsub (t : BitVec 3) (w : BitVec 2) (d a c : BitVec 5) (m : BitVec 3) (s' : State) : Host.Outcome State Fault Refusal :=
  issueOne (semVsub t w d a c m) s'

def execVmul (t : BitVec 3) (w : BitVec 2) (d a c : BitVec 5) (m : BitVec 3) (s' : State) : Host.Outcome State Fault Refusal :=
  issueOne (semVmul t w d a c m) s'

def execVfma (t : BitVec 3) (w : BitVec 2) (d a c : BitVec 5) (m : BitVec 3) (s' : State) : Host.Outcome State Fault Refusal :=
  issueOne (semVfma t w d a c m) s'

def execVmin (t : BitVec 3) (w : BitVec 2) (d a c : BitVec 5) (m : BitVec 3) (s' : State) : Host.Outcome State Fault Refusal :=
  issueOne (semVmin t w d a c m) s'

def execVmax (t : BitVec 3) (w : BitVec 2) (d a c : BitVec 5) (m : BitVec 3) (s' : State) : Host.Outcome State Fault Refusal :=
  issueOne (semVmax t w d a c m) s'

def execVadds (t : BitVec 3) (w : BitVec 2) (d a c : BitVec 5) (m : BitVec 3) (s' : State) : Host.Outcome State Fault Refusal :=
  issueOne (semVadds t w d a c m) s'

def execVsubs (t : BitVec 3) (w : BitVec 2) (d a c : BitVec 5) (m : BitVec 3) (s' : State) : Host.Outcome State Fault Refusal :=
  issueOne (semVsubs t w d a c m) s'

def execVcmpeq (t : BitVec 3) (w : BitVec 2) (d : BitVec 3) (a c : BitVec 5) (m : BitVec 3) (s' : State) : Host.Outcome State Fault Refusal :=
  issueOne (semVcmpeq t w d a c m) s'

def execVcmplt (t : BitVec 3) (w : BitVec 2) (d : BitVec 3) (a c : BitVec 5) (m : BitVec 3) (s' : State) : Host.Outcome State Fault Refusal :=
  issueOne (semVcmplt t w d a c m) s'

def execVcmple (t : BitVec 3) (w : BitVec 2) (d : BitVec 3) (a c : BitVec 5) (m : BitVec 3) (s' : State) : Host.Outcome State Fault Refusal :=
  issueOne (semVcmple t w d a c m) s'

def execVcvt (t : BitVec 3) (w : BitVec 2) (d a c : BitVec 5) (m : BitVec 3) (s' : State) : Host.Outcome State Fault Refusal :=
  issueOne (semVcvt t w d a c m) s'

def execVsel (w : BitVec 2) (d a c : BitVec 5) (k : BitVec 3) (s' : State) : Host.Outcome State Fault Refusal :=
  issueOne (semVsel w d a c k) s'

def execVand (w : BitVec 2) (d a c : BitVec 5) (m : BitVec 3) (s' : State) : Host.Outcome State Fault Refusal :=
  issueOne (semVand w d a c m) s'

def execVor (w : BitVec 2) (d a c : BitVec 5) (m : BitVec 3) (s' : State) : Host.Outcome State Fault Refusal :=
  issueOne (semVor w d a c m) s'

def execVxor (w : BitVec 2) (d a c : BitVec 5) (m : BitVec 3) (s' : State) : Host.Outcome State Fault Refusal :=
  issueOne (semVxor w d a c m) s'

def execVandn (w : BitVec 2) (d a c : BitVec 5) (m : BitVec 3) (s' : State) : Host.Outcome State Fault Refusal :=
  issueOne (semVandn w d a c m) s'

def execVshl (w : BitVec 2) (d a c : BitVec 5) (m : BitVec 3) (s' : State) : Host.Outcome State Fault Refusal :=
  issueOne (semVshl w d a c m) s'

def execVshr (w : BitVec 2) (d a c : BitVec 5) (m : BitVec 3) (s' : State) : Host.Outcome State Fault Refusal :=
  issueOne (semVshr w d a c m) s'

def execVsra (w : BitVec 2) (d a c : BitVec 5) (m : BitVec 3) (s' : State) : Host.Outcome State Fault Refusal :=
  issueOne (semVsra w d a c m) s'

def execVrot (w : BitVec 2) (d a c : BitVec 5) (m : BitVec 3) (s' : State) : Host.Outcome State Fault Refusal :=
  issueOne (semVrot w d a c m) s'

def execVred (t : BitVec 3) (w : BitVec 2) (d a c : BitVec 5) (m : BitVec 3) (s' : State) : Host.Outcome State Fault Refusal :=
  issueOne (semVred t w d a c m) s'

def execVscan (w : BitVec 2) (d a c : BitVec 5) (m : BitVec 3) (s' : State) : Host.Outcome State Fault Refusal :=
  issueOne (semVscan w d a c m) s'

def execVmov (w : BitVec 2) (d a : BitVec 5) (m : BitVec 3) (s' : State) : Host.Outcome State Fault Refusal :=
  issueOne (semVmov w d a m) s'

def execVbcast (w : BitVec 2) (d a c : BitVec 5) (m : BitVec 3) (s' : State) : Host.Outcome State Fault Refusal :=
  issueOne (semVbcast w d a c m) s'

def execVperm (w : BitVec 2) (d a c : BitVec 5) (m : BitVec 3) (s' : State) : Host.Outcome State Fault Refusal :=
  issueOne (semVperm w d a c m) s'

def execVidx (w : BitVec 2) (d : BitVec 5) (m : BitVec 3) (s' : State) : Host.Outcome State Fault Refusal :=
  issueOne (semVidx w d m) s'

def execVext (w : BitVec 2) (d a c : BitVec 5) (m : BitVec 3) (s' : State) : Host.Outcome State Fault Refusal :=
  issueOne (semVext w d a c m) s'

def execVins (w : BitVec 2) (d a c : BitVec 5) (m : BitVec 3) (s' : State) : Host.Outcome State Fault Refusal :=
  issueOne (semVins w d a c m) s'

def execVtest (w : BitVec 2) (d : BitVec 5) (a m : BitVec 3) (s' : State) : Host.Outcome State Fault Refusal :=
  issueOne (semVtest w d a m) s'

/-! ### Those of `Machine/SpecialFn.lean` -/

def execExp2 (w t : BitVec 2) (d a : BitVec 5) (m : BitVec 3) (s' : State) : Host.Outcome State Fault Refusal :=
  issueOne (semExp2 w t d a m) s'

def execExp (w t : BitVec 2) (d a : BitVec 5) (m : BitVec 3) (s' : State) : Host.Outcome State Fault Refusal :=
  issueOne (semExp w t d a m) s'

def execLog2 (w t : BitVec 2) (d a : BitVec 5) (m : BitVec 3) (s' : State) : Host.Outcome State Fault Refusal :=
  issueOne (semLog2 w t d a m) s'

def execLn (w t : BitVec 2) (d a : BitVec 5) (m : BitVec 3) (s' : State) : Host.Outcome State Fault Refusal :=
  issueOne (semLn w t d a m) s'

def execRcp (w t : BitVec 2) (d a : BitVec 5) (m : BitVec 3) (s' : State) : Host.Outcome State Fault Refusal :=
  issueOne (semRcp w t d a m) s'

def execRsqrt (w t : BitVec 2) (d a : BitVec 5) (m : BitVec 3) (s' : State) : Host.Outcome State Fault Refusal :=
  issueOne (semRsqrt w t d a m) s'

def execSqrt (w t : BitVec 2) (d a : BitVec 5) (m : BitVec 3) (s' : State) : Host.Outcome State Fault Refusal :=
  issueOne (semSqrt w t d a m) s'

def execSin (w t : BitVec 2) (d a : BitVec 5) (m : BitVec 3) (s' : State) : Host.Outcome State Fault Refusal :=
  issueOne (semSin w t d a m) s'

def execCos (w t : BitVec 2) (d a : BitVec 5) (m : BitVec 3) (s' : State) : Host.Outcome State Fault Refusal :=
  issueOne (semCos w t d a m) s'

def execTanh (w t : BitVec 2) (d a : BitVec 5) (m : BitVec 3) (s' : State) : Host.Outcome State Fault Refusal :=
  issueOne (semTanh w t d a m) s'

def execSigm (w t : BitVec 2) (d a : BitVec 5) (m : BitVec 3) (s' : State) : Host.Outcome State Fault Refusal :=
  issueOne (semSigm w t d a m) s'

def execGelu (w t : BitVec 2) (d a : BitVec 5) (m : BitVec 3) (s' : State) : Host.Outcome State Fault Refusal :=
  issueOne (semGelu w t d a m) s'

def execSilu (w t : BitVec 2) (d a : BitVec 5) (m : BitVec 3) (s' : State) : Host.Outcome State Fault Refusal :=
  issueOne (semSilu w t d a m) s'

def execErf (w t : BitVec 2) (d a : BitVec 5) (m : BitVec 3) (s' : State) : Host.Outcome State Fault Refusal :=
  issueOne (semErf w t d a m) s'

/-! ### Those of `Machine/Pack.lean` -/

def execUnpk (d a : BitVec 5) (p : BitVec 3) (x : BitVec 2) (i : BitVec 6) (s' : State) : Host.Outcome State Fault Refusal :=
  issueOne (semUnpk d a p x i) s'

def execUnpks (d a : BitVec 5) (p : BitVec 3) (x : BitVec 2) (i : BitVec 2) (s' : State) : Host.Outcome State Fault Refusal :=
  issueOne (semUnpks d a p x i) s'

def execUnpki (d a : BitVec 5) (p : BitVec 3) (x : BitVec 2) (i : BitVec 4) (s' : State) : Host.Outcome State Fault Refusal :=
  issueOne (semUnpki d a p x i) s'

def execPack (d a : BitVec 5) (p : BitVec 3) (x : BitVec 2) (i : BitVec 6) (s' : State) : Host.Outcome State Fault Refusal :=
  issueOne (semPack d a p x i) s'

def execPacks (d a : BitVec 5) (p : BitVec 3) (x : BitVec 2) (i j : BitVec 2) (s' : State) : Host.Outcome State Fault Refusal :=
  issueOne (semPacks d a p x i j) s'

def execPkmax (d a : BitVec 5) (p : BitVec 3) (x : BitVec 2) (i j : BitVec 2) (s' : State) : Host.Outcome State Fault Refusal :=
  issueOne (semPkmax d a p x i j) s'

def execPacki (d a : BitVec 5) (p : BitVec 3) (x : BitVec 2) (i : BitVec 4) (s' : State) : Host.Outcome State Fault Refusal :=
  issueOne (semPacki d a p x i) s'

/-! ### Those of `Machine/MemInst.lean` -/

def execLd8s (b : BitVec 5) (i : BitVec 19) (s' : State) : Host.Outcome State Fault Refusal := issueOne (semLd8s b i) s'

def execLd8z (b : BitVec 5) (i : BitVec 19) (s' : State) : Host.Outcome State Fault Refusal := issueOne (semLd8z b i) s'

def execLd16s (b : BitVec 5) (i : BitVec 19) (s' : State) : Host.Outcome State Fault Refusal := issueOne (semLd16s b i) s'

def execLd16z (b : BitVec 5) (i : BitVec 19) (s' : State) : Host.Outcome State Fault Refusal := issueOne (semLd16z b i) s'

def execLd32s (b : BitVec 5) (i : BitVec 19) (s' : State) : Host.Outcome State Fault Refusal := issueOne (semLd32s b i) s'

def execLd32z (b : BitVec 5) (i : BitVec 19) (s' : State) : Host.Outcome State Fault Refusal := issueOne (semLd32z b i) s'

def execLd64 (b : BitVec 5) (i : BitVec 19) (s' : State) : Host.Outcome State Fault Refusal := issueOne (semLd64 b i) s'

def execSt8 (s b : BitVec 5) (i : BitVec 19) (s' : State) : Host.Outcome State Fault Refusal := issueOne (semSt8 s b i) s'

def execSt16 (s b : BitVec 5) (i : BitVec 19) (s' : State) : Host.Outcome State Fault Refusal := issueOne (semSt16 s b i) s'

def execSt32 (s b : BitVec 5) (i : BitVec 19) (s' : State) : Host.Outcome State Fault Refusal := issueOne (semSt32 s b i) s'

def execSt64 (s b : BitVec 5) (i : BitVec 19) (s' : State) : Host.Outcome State Fault Refusal := issueOne (semSt64 s b i) s'

def execVld (w : BitVec 2) (b x : BitVec 5) (m : BitVec 3) (s' : State) : Host.Outcome State Fault Refusal :=
  issueOne (semVld w b x m) s'

def execVst (w : BitVec 2) (b x : BitVec 5) (m : BitVec 3) (s' : State) : Host.Outcome State Fault Refusal :=
  issueOne (semVst w b x m) s'

def execVlds (w : BitVec 2) (b x : BitVec 5) (m : BitVec 3) (s' : State) : Host.Outcome State Fault Refusal :=
  issueOne (semVlds w b x m) s'

def execVsts (w : BitVec 2) (b x : BitVec 5) (m : BitVec 3) (s' : State) : Host.Outcome State Fault Refusal :=
  issueOne (semVsts w b x m) s'

def execVgath (w : BitVec 2) (b x : BitVec 5) (m : BitVec 3) (s' : State) : Host.Outcome State Fault Refusal :=
  issueOne (semVgath w b x m) s'

def execVscat (w : BitVec 2) (b x : BitVec 5) (m : BitVec 3) (s' : State) : Host.Outcome State Fault Refusal :=
  issueOne (semVscat w b x m) s'

def execLld (w : BitVec 2) (d : BitVec 5) (b : BitVec 4) (x : BitVec 5) (m : BitVec 3) (s' : State) : Host.Outcome State Fault Refusal :=
  issueOne (semLld w d b x m) s'

def execLst (w : BitVec 2) (d : BitVec 5) (b : BitVec 4) (x : BitVec 5) (m : BitVec 3) (s' : State) : Host.Outcome State Fault Refusal :=
  issueOne (semLst w d b x m) s'

def execLdblk (t : BitVec 6) (b : BitVec 5) (n : BitVec 7) (s' : State) : Host.Outcome State Fault Refusal :=
  issueOne (semLdblk t b n) s'

def execEvblk (t : BitVec 6) (s' : State) : Host.Outcome State Fault Refusal := issueOne (semEvblk t) s'

def execPfetch (p b : BitVec 5) (i : BitVec 19) (s' : State) : Host.Outcome State Fault Refusal := issueOne (semPfetch p b i) s'

def execGjoin (g : BitVec 4) (s' : State) : Host.Outcome State Fault Refusal := issueOne (semGjoin g) s'

def execGleave (g : BitVec 4) (s' : State) : Host.Outcome State Fault Refusal := issueOne (semGleave g) s'

def execGld (g d a : BitVec 4) (t : BitVec 6) (s' : State) : Host.Outcome State Fault Refusal := issueOne (semGld g d a t) s'

/-! ### Those of `Machine/Atomic.lean` -/

def execAadd (e : BitVec 1) (b v p : BitVec 5) (s' : State) : Host.Outcome State Fault Refusal := issueOne (semAadd e b v p) s'

def execAmin (e : BitVec 1) (b v p : BitVec 5) (s' : State) : Host.Outcome State Fault Refusal := issueOne (semAmin e b v p) s'

def execAmax (e : BitVec 1) (b v p : BitVec 5) (s' : State) : Host.Outcome State Fault Refusal := issueOne (semAmax e b v p) s'

def execAand (e : BitVec 1) (b v p : BitVec 5) (s' : State) : Host.Outcome State Fault Refusal := issueOne (semAand e b v p) s'

def execAor (e : BitVec 1) (b v p : BitVec 5) (s' : State) : Host.Outcome State Fault Refusal := issueOne (semAor e b v p) s'

def execAxor (e : BitVec 1) (b v p : BitVec 5) (s' : State) : Host.Outcome State Fault Refusal := issueOne (semAxor e b v p) s'

def execAxchg (e : BitVec 1) (b v p : BitVec 5) (s' : State) : Host.Outcome State Fault Refusal := issueOne (semAxchg e b v p) s'

def execAcas (e b v p : BitVec 5) (s' : State) : Host.Outcome State Fault Refusal := issueOne (semAcas e b v p) s'

def execRadd (e : BitVec 1) (b v p : BitVec 5) (s' : State) : Host.Outcome State Fault Refusal := issueOne (semRadd e b v p) s'

def execRaddf (b v p : BitVec 5) (s' : State) : Host.Outcome State Fault Refusal := issueOne (semRaddf b v p) s'

def execRmax (e : BitVec 1) (b v p : BitVec 5) (s' : State) : Host.Outcome State Fault Refusal := issueOne (semRmax e b v p) s'

def execRmin (e : BitVec 1) (b v p : BitVec 5) (s' : State) : Host.Outcome State Fault Refusal := issueOne (semRmin e b v p) s'

def execVradd (b v p : BitVec 5) (s' : State) : Host.Outcome State Fault Refusal := issueOne (semVradd b v p) s'

/-! ### Those of `Machine/QueueInst.lean` -/

def execQinit (b v : BitVec 5) (s' : State) : Host.Outcome State Fault Refusal := issueOne (semQinit b v) s'

def execQenq (b v : BitVec 5) (s' : State) : Host.Outcome State Fault Refusal := issueOne (semQenq b v) s'

def execQdeq (b : BitVec 5) (s' : State) : Host.Outcome State Fault Refusal := issueOne (semQdeq b) s'

def execQdeqw (b : BitVec 5) (s' : State) : Host.Outcome State Fault Refusal := issueOne (semQdeqw b) s'

def execQlen (b : BitVec 5) (s' : State) : Host.Outcome State Fault Refusal := issueOne (semQlen b) s'

def execDfr (w : BitVec 2) (v : BitVec 5) (m : BitVec 3) (s' : State) : Host.Outcome State Fault Refusal :=
  issueOne (semDfr w v m) s'

def execDfpop (w : BitVec 2) (v : BitVec 5) (m : BitVec 3) (s' : State) : Host.Outcome State Fault Refusal :=
  issueOne (semDfpop w v m) s'

def execDfcnt (s' : State) : Host.Outcome State Fault Refusal := issueOne semDfcnt s'

def execFence (p : BitVec 5) (s' : State) : Host.Outcome State Fault Refusal := issueOne (semFence p) s'

def execWaitv (c : BitVec 3) (b v p : BitVec 5) (s' : State) : Host.Outcome State Fault Refusal := issueOne (semWaitv c b v p) s'

/-! ### Those of `Machine/TagInst.lean` -/

def execWaitfImm (t : BitVec 6) (n : BitVec 22) (s' : State) : Host.Outcome State Fault Refusal := issueOne (semWaitfImm t n) s'

def execWaitfReg (t : BitVec 6) (s : BitVec 5) (s' : State) : Host.Outcome State Fault Refusal := issueOne (semWaitfReg t s) s'

def execTany (s : BitVec 5) (s' : State) : Host.Outcome State Fault Refusal := issueOne (semTany s) s'

def execTall (s : BitVec 5) (s' : State) : Host.Outcome State Fault Refusal := issueOne (semTall s) s'

def execTffr (s : BitVec 5) (s' : State) : Host.Outcome State Fault Refusal := issueOne (semTffr s) s'

def execTclr (t : BitVec 6) (s' : State) : Host.Outcome State Fault Refusal := issueOne (semTclr t) s'

def execFget (t : BitVec 6) (s' : State) : Host.Outcome State Fault Refusal := issueOne (semFget t) s'

def execFpub (t : BitVec 6) (s : BitVec 5) (s' : State) : Host.Outcome State Fault Refusal := issueOne (semFpub t s) s'

def execFbind (t : BitVec 6) (a : BitVec 4) (s' : State) : Host.Outcome State Fault Refusal := issueOne (semFbind t a) s'

/-! ### Those of `Machine/Stream.lean` -/

def execSetxf (x : BitVec 2) (s : BitVec 5) (s' : State) : Host.Outcome State Fault Refusal := issueOne (semSetxf x s) s'

def execSld (a : BitVec 4) (r : BitVec 5) (s' : State) : Host.Outcome State Fault Refusal := issueOne (semSld a r) s'

def execSset (a : BitVec 4) (c v : BitVec 5) (s' : State) : Host.Outcome State Fault Refusal := issueOne (semSset a c v) s'

def execSget (a : BitVec 4) (c : BitVec 5) (s' : State) : Host.Outcome State Fault Refusal := issueOne (semSget a c) s'

/-! ### Those of `Machine/Control.lean` -/

def execNop (s' : State) : Host.Outcome State Fault Refusal := issueOne semNop s'

def execPrep (k : BitVec 4) (i : BitVec 27) (s' : State) : Host.Outcome State Fault Refusal := issueOne (semPrep k i) s'

def execPrepx (k : BitVec 4) (s : BitVec 5) (s' : State) : Host.Outcome State Fault Refusal := issueOne (semPrepx k s) s'

def execBr (k : BitVec 4) (s' : State) : Host.Outcome State Fault Refusal := issueOne (semBr k) s'

def execBrn (k : BitVec 4) (s' : State) : Host.Outcome State Fault Refusal := issueOne (semBrn k) s'

def execJmp (i : BitVec 27) (s' : State) : Host.Outcome State Fault Refusal := issueOne (semJmp i) s'

def execCall (i : BitVec 27) (s' : State) : Host.Outcome State Fault Refusal := issueOne (semCall i) s'

def execRet (s' : State) : Host.Outcome State Fault Refusal := issueOne semRet s'

def execNest (l : BitVec 3) (r : BitVec 1) (k : BitVec 5) (n : BitVec 22) (s' : State) : Host.Outcome State Fault Refusal :=
  issueOne (semNest l r k n) s'

def execLrot (s' : State) : Host.Outcome State Fault Refusal := issueOne semLrot s'

def execLbrk (s' : State) : Host.Outcome State Fault Refusal := issueOne semLbrk s'

def execExit (s' : State) : Host.Outcome State Fault Refusal := issueOne semExit s'

def execYield (s' : State) : Host.Outcome State Fault Refusal := issueOne semYield s'

def execWfe (s' : State) : Host.Outcome State Fault Refusal := issueOne semWfe s'

def execSev (k : BitVec 5) (s' : State) : Host.Outcome State Fault Refusal := issueOne (semSev k) s'

def execTrap (i : BitVec 27) (s' : State) : Host.Outcome State Fault Refusal := issueOne (semTrap i) s'

def execRte (k : BitVec 5) (s' : State) : Host.Outcome State Fault Refusal := issueOne (semRte k) s'

def execBrk (i : BitVec 27) (s' : State) : Host.Outcome State Fault Refusal := issueOne (semBrk i) s'

def execBar (b : BitVec 4) (s' : State) : Host.Outcome State Fault Refusal := issueOne (semBar b) s'

def execBarv (b : BitVec 4) (s' : State) : Host.Outcome State Fault Refusal := issueOne (semBarv b) s'

def execBudget (i : BitVec 27) (s' : State) : Host.Outcome State Fault Refusal := issueOne (semBudget i) s'

/-! ### Those of `Machine/Copy.lean` -/

def execCpy (d s : BitVec 4) (t : BitVec 6) (f : BitVec 7) (s' : State) : Host.Outcome State Fault Refusal :=
  issueOne (semCpy d s t f) s'

def execCpyt (d s : BitVec 4) (t : BitVec 6) (f : BitVec 7) (s' : State) : Host.Outcome State Fault Refusal :=
  issueOne (semCpyt d s t f) s'

def execCpyg (d s : BitVec 4) (t : BitVec 6) (f : BitVec 7) (s' : State) : Host.Outcome State Fault Refusal :=
  issueOne (semCpyg d s t f) s'

def execCpys (d s : BitVec 4) (t : BitVec 6) (f : BitVec 7) (s' : State) : Host.Outcome State Fault Refusal :=
  issueOne (semCpys d s t f) s'

def execCfill (d v : BitVec 4) (t : BitVec 6) (f : BitVec 7) (s' : State) : Host.Outcome State Fault Refusal :=
  issueOne (semCfill d v t f) s'

/-! ### Those of `Machine/Projection.lean` -/



/-! ### Those of `Machine/Matrix.lean` -/

def execMma (c : BitVec 2) (a b : BitVec 4) (z : BitVec 1) (s' : State) : Host.Outcome State Fault Refusal :=
  issueOne (semMma c a b z) s'

def execMmasp (c : BitVec 2) (a b m : BitVec 4) (z : BitVec 1) (s' : State) : Host.Outcome State Fault Refusal :=
  issueOne (semMmasp c a b m z) s'

def execMzero (c : BitVec 2) (s' : State) : Host.Outcome State Fault Refusal := issueOne (semMzero c) s'

def execDrain (c : BitVec 2) (d : BitVec 4) (t : BitVec 6) (p : BitVec 2) (s : BitVec 3) (f : BitVec 4) (s' : State) : Host.Outcome State Fault Refusal :=
  issueOne (semDrain c d t p s f) s'

def execPadj (d g r : BitVec 4) (t : BitVec 6) (p : BitVec 2) (s' : State) : Host.Outcome State Fault Refusal :=
  issueOne (semPadj d g r t p) s'

def execHist (s : BitVec 4) (r b : BitVec 5) (s' : State) : Host.Outcome State Fault Refusal := issueOne (semHist s r b) s'

def execJcard (c : BitVec 2) (r : BitVec 5) (s' : State) : Host.Outcome State Fault Refusal := issueOne (semJcard c r) s'

/-! ### Those of `Machine/Channel.lean` -/

def execMsend (v : BitVec 5) (p : BitVec 6) (s' : State) : Host.Outcome State Fault Refusal := issueOne (semMsend v p) s'

def execMrecv (v : BitVec 5) (p : BitVec 6) (s' : State) : Host.Outcome State Fault Refusal := issueOne (semMrecv v p) s'

def execChset (r : BitVec 5) (s' : State) : Host.Outcome State Fault Refusal := issueOne (semChset r) s'

def execChget (c : BitVec 8) (s' : State) : Host.Outcome State Fault Refusal := issueOne (semChget c) s'

def execChsend (c : BitVec 8) (s : BitVec 4) (s' : State) : Host.Outcome State Fault Refusal := issueOne (semChsend c s) s'

def execChrecv (c : BitVec 8) (s : BitVec 4) (t : BitVec 6) (s' : State) : Host.Outcome State Fault Refusal :=
  issueOne (semChrecv c s t) s'

def execChred (c : BitVec 8) (s : BitVec 4) (t : BitVec 6) (o : BitVec 3) (s' : State) : Host.Outcome State Fault Refusal :=
  issueOne (semChred c s t o) s'

def execColl (r : BitVec 5) (s d : BitVec 4) (t : BitVec 6) (s' : State) : Host.Outcome State Fault Refusal :=
  issueOne (semColl r s d t) s'

def execMcst (s : BitVec 4) (r : BitVec 5) (s' : State) : Host.Outcome State Fault Refusal := issueOne (semMcst s r) s'

def execRdld (d : BitVec 4) (r : BitVec 5) (t : BitVec 6) (s' : State) : Host.Outcome State Fault Refusal :=
  issueOne (semRdld d r t) s'

end Sys2Proof.Machine
end

