-- ==== Sys2Proof/Machine/Dispatch.lean ====
section
/-! DEFINITION. What each instruction does: one arm per constructor, each a direct call of its meaning. -/

namespace Sys2Proof.Machine

def exec (i : Instr) (s : State) : Host.Outcome State Fault Refusal :=
  match i with
  | .add d a c => Sys2Proof.Machine.execAdd d a c s
  | .sub d a c => Sys2Proof.Machine.execSub d a c s
  | .mul d a c => Sys2Proof.Machine.execMul d a c s
  | .mulh d a c => Sys2Proof.Machine.execMulh d a c s
  | .mulhz d a c => Sys2Proof.Machine.execMulhz d a c s
  | .div d a c => Sys2Proof.Machine.execDiv d a c s
  | .divz d a c => Sys2Proof.Machine.execDivz d a c s
  | .rem d a c => Sys2Proof.Machine.execRem d a c s
  | .remz d a c => Sys2Proof.Machine.execRemz d a c s
  | .and d a c => Sys2Proof.Machine.execAnd d a c s
  | .or d a c => Sys2Proof.Machine.execOr d a c s
  | .xor d a c => Sys2Proof.Machine.execXor d a c s
  | .andn d a c => Sys2Proof.Machine.execAndn d a c s
  | .shl d a c => Sys2Proof.Machine.execShl d a c s
  | .shr d a c => Sys2Proof.Machine.execShr d a c s
  | .sra d a c => Sys2Proof.Machine.execSra d a c s
  | .min d a c => Sys2Proof.Machine.execMin d a c s
  | .max d a c => Sys2Proof.Machine.execMax d a c s
  | .minz d a c => Sys2Proof.Machine.execMinz d a c s
  | .maxz d a c => Sys2Proof.Machine.execMaxz d a c s
  | .clz d a => Sys2Proof.Machine.execClz d a s
  | .ctz d a => Sys2Proof.Machine.execCtz d a s
  | .popc d a => Sys2Proof.Machine.execPopc d a s
  | .sel d a c k => Sys2Proof.Machine.execSel d a c k s
  | .lea d a c h => Sys2Proof.Machine.execLea d a c h s
  | .bfx d a c => Sys2Proof.Machine.execBfx d a c s
  | .bfxz d a c => Sys2Proof.Machine.execBfxz d a c s
  | .bins d a c => Sys2Proof.Machine.execBins d a c s
  | .adds d a c => Sys2Proof.Machine.execAdds d a c s
  | .subs d a c => Sys2Proof.Machine.execSubs d a c s
  | .cmpeq k a c => Sys2Proof.Machine.execCmpeq k a c s
  | .cmpne k a c => Sys2Proof.Machine.execCmpne k a c s
  | .cmplt k a c => Sys2Proof.Machine.execCmplt k a c s
  | .cmple k a c => Sys2Proof.Machine.execCmple k a c s
  | .cmpltz k a c => Sys2Proof.Machine.execCmpltz k a c s
  | .cmplez k a c => Sys2Proof.Machine.execCmplez k a c s
  | .cmpbit k a c => Sys2Proof.Machine.execCmpbit k a c s
  | .cmpeqi k a imm => Sys2Proof.Machine.execCmpeqi k a imm s
  | .cmpnei k a imm => Sys2Proof.Machine.execCmpnei k a imm s
  | .cmplti k a imm => Sys2Proof.Machine.execCmplti k a imm s
  | .cmplei k a imm => Sys2Proof.Machine.execCmplei k a imm s
  | .cmpltzi k a imm => Sys2Proof.Machine.execCmpltzi k a imm s
  | .cmplezi k a imm => Sys2Proof.Machine.execCmplezi k a imm s
  | .addi d a imm => Sys2Proof.Machine.execAddi d a imm s
  | .andi d a imm => Sys2Proof.Machine.execAndi d a imm s
  | .ori d a imm => Sys2Proof.Machine.execOri d a imm s
  | .xori d a imm => Sys2Proof.Machine.execXori d a imm s
  | .shli d a imm => Sys2Proof.Machine.execShli d a imm s
  | .shri d a imm => Sys2Proof.Machine.execShri d a imm s
  | .srai d a imm => Sys2Proof.Machine.execSrai d a imm s
  | .muli d a imm => Sys2Proof.Machine.execMuli d a imm s
  | .mini d a imm => Sys2Proof.Machine.execMini d a imm s
  | .maxi d a imm => Sys2Proof.Machine.execMaxi d a imm s
  | .movi d imm => Sys2Proof.Machine.execMovi d imm s
  | .movup d imm => Sys2Proof.Machine.execMovup d imm s
  | .mfs d imm => Sys2Proof.Machine.execMfs d imm s
  | .mts r1 imm => Sys2Proof.Machine.execMts r1 imm s
  | .nop => Sys2Proof.Machine.execNop s
  | .prep k imm => Sys2Proof.Machine.execPrep k imm s
  | .br k => Sys2Proof.Machine.execBr k s
  | .brn k => Sys2Proof.Machine.execBrn k s
  | .jmp imm => Sys2Proof.Machine.execJmp imm s
  | .call imm => Sys2Proof.Machine.execCall imm s
  | .ret => Sys2Proof.Machine.execRet s
  | .prepx k r1 => Sys2Proof.Machine.execPrepx k r1 s
  | .nest l r r1 e => Sys2Proof.Machine.execNest l r r1 e s
  | .lrot => Sys2Proof.Machine.execLrot s
  | .lbrk => Sys2Proof.Machine.execLbrk s
  | .exit => Sys2Proof.Machine.execExit s
  | .yield => Sys2Proof.Machine.execYield s
  | .wfe => Sys2Proof.Machine.execWfe s
  | .sev r1 => Sys2Proof.Machine.execSev r1 s
  | .trap imm => Sys2Proof.Machine.execTrap imm s
  | .rte r1 => Sys2Proof.Machine.execRte r1 s
  | .brk imm => Sys2Proof.Machine.execBrk imm s
  | .bar b => Sys2Proof.Machine.execBar b s
  | .barv b => Sys2Proof.Machine.execBarv b s
  | .budget imm => Sys2Proof.Machine.execBudget imm s
  | .vadd t w d a c m => Sys2Proof.Machine.execVadd t w d a c m s
  | .vsub t w d a c m => Sys2Proof.Machine.execVsub t w d a c m s
  | .vmul t w d a c m => Sys2Proof.Machine.execVmul t w d a c m s
  | .vfma t w d a c m => Sys2Proof.Machine.execVfma t w d a c m s
  | .vmin t w d a c m => Sys2Proof.Machine.execVmin t w d a c m s
  | .vmax t w d a c m => Sys2Proof.Machine.execVmax t w d a c m s
  | .vadds t w d a c m => Sys2Proof.Machine.execVadds t w d a c m s
  | .vsubs t w d a c m => Sys2Proof.Machine.execVsubs t w d a c m s
  | .vcmpeq t w d a c m => Sys2Proof.Machine.execVcmpeq t w d a c m s
  | .vcmplt t w d a c m => Sys2Proof.Machine.execVcmplt t w d a c m s
  | .vcmple t w d a c m => Sys2Proof.Machine.execVcmple t w d a c m s
  | .vcvt t w d a c m => Sys2Proof.Machine.execVcvt t w d a c m s
  | .vsel w d a c k => Sys2Proof.Machine.execVsel w d a c k s
  | .vand w d a c m => Sys2Proof.Machine.execVand w d a c m s
  | .vor w d a c m => Sys2Proof.Machine.execVor w d a c m s
  | .vxor w d a c m => Sys2Proof.Machine.execVxor w d a c m s
  | .vandn w d a c m => Sys2Proof.Machine.execVandn w d a c m s
  | .vshl w d a c m => Sys2Proof.Machine.execVshl w d a c m s
  | .vshr w d a c m => Sys2Proof.Machine.execVshr w d a c m s
  | .vsra w d a c m => Sys2Proof.Machine.execVsra w d a c m s
  | .vrot w d a c m => Sys2Proof.Machine.execVrot w d a c m s
  | .vred t w d a c m => Sys2Proof.Machine.execVred t w d a c m s
  | .vmov w d a m => Sys2Proof.Machine.execVmov w d a m s
  | .vbcast w d a c m => Sys2Proof.Machine.execVbcast w d a c m s
  | .vperm w d a c m => Sys2Proof.Machine.execVperm w d a c m s
  | .vidx w d m => Sys2Proof.Machine.execVidx w d m s
  | .vscan w d a c m => Sys2Proof.Machine.execVscan w d a c m s
  | .vext w d a c m => Sys2Proof.Machine.execVext w d a c m s
  | .vins w d a c m => Sys2Proof.Machine.execVins w d a c m s
  | .vtest w d a m => Sys2Proof.Machine.execVtest w d a m s
  | .exp2 w t d a m => Sys2Proof.Machine.execExp2 w t d a m s
  | .exp w t d a m => Sys2Proof.Machine.execExp w t d a m s
  | .log2 w t d a m => Sys2Proof.Machine.execLog2 w t d a m s
  | .ln w t d a m => Sys2Proof.Machine.execLn w t d a m s
  | .rcp w t d a m => Sys2Proof.Machine.execRcp w t d a m s
  | .rsqrt w t d a m => Sys2Proof.Machine.execRsqrt w t d a m s
  | .sqrt w t d a m => Sys2Proof.Machine.execSqrt w t d a m s
  | .sin w t d a m => Sys2Proof.Machine.execSin w t d a m s
  | .cos w t d a m => Sys2Proof.Machine.execCos w t d a m s
  | .tanh w t d a m => Sys2Proof.Machine.execTanh w t d a m s
  | .sigm w t d a m => Sys2Proof.Machine.execSigm w t d a m s
  | .gelu w t d a m => Sys2Proof.Machine.execGelu w t d a m s
  | .silu w t d a m => Sys2Proof.Machine.execSilu w t d a m s
  | .erf w t d a m => Sys2Proof.Machine.execErf w t d a m s
  | .unpk d a p x imm => Sys2Proof.Machine.execUnpk d a p x imm s
  | .unpks d a p x imm => Sys2Proof.Machine.execUnpks d a p x imm s
  | .unpki d a p x imm => Sys2Proof.Machine.execUnpki d a p x imm s
  | .pack d a p x imm => Sys2Proof.Machine.execPack d a p x imm s
  | .packs d a p x imm j => Sys2Proof.Machine.execPacks d a p x imm j s
  | .pkmax d a p x imm j => Sys2Proof.Machine.execPkmax d a p x imm j s
  | .packi d a p x imm => Sys2Proof.Machine.execPacki d a p x imm s
  | .ld8s b imm => Sys2Proof.Machine.execLd8s b imm s
  | .ld8z b imm => Sys2Proof.Machine.execLd8z b imm s
  | .ld16s b imm => Sys2Proof.Machine.execLd16s b imm s
  | .ld16z b imm => Sys2Proof.Machine.execLd16z b imm s
  | .ld32s b imm => Sys2Proof.Machine.execLd32s b imm s
  | .ld32z b imm => Sys2Proof.Machine.execLd32z b imm s
  | .ld64 b imm => Sys2Proof.Machine.execLd64 b imm s
  | .st8 r1 b imm => Sys2Proof.Machine.execSt8 r1 b imm s
  | .st16 r1 b imm => Sys2Proof.Machine.execSt16 r1 b imm s
  | .st32 r1 b imm => Sys2Proof.Machine.execSt32 r1 b imm s
  | .st64 r1 b imm => Sys2Proof.Machine.execSt64 r1 b imm s
  | .vld w b x m => Sys2Proof.Machine.execVld w b x m s
  | .vst w b x m => Sys2Proof.Machine.execVst w b x m s
  | .vlds w b x m => Sys2Proof.Machine.execVlds w b x m s
  | .vsts w b x m => Sys2Proof.Machine.execVsts w b x m s
  | .vgath w b x m => Sys2Proof.Machine.execVgath w b x m s
  | .vscat w b x m => Sys2Proof.Machine.execVscat w b x m s
  | .lld w d b x m => Sys2Proof.Machine.execLld w d b x m s
  | .lst w d b x m => Sys2Proof.Machine.execLst w d b x m s
  | .ldblk t b n => Sys2Proof.Machine.execLdblk t b n s
  | .evblk t => Sys2Proof.Machine.execEvblk t s
  | .gjoin g => Sys2Proof.Machine.execGjoin g s
  | .gleave g => Sys2Proof.Machine.execGleave g s
  | .gld g d r1 t => Sys2Proof.Machine.execGld g d r1 t s
  | .pfetch p b imm => Sys2Proof.Machine.execPfetch p b imm s
  | .aadd e b v p => Sys2Proof.Machine.execAadd e b v p s
  | .amin e b v p => Sys2Proof.Machine.execAmin e b v p s
  | .amax e b v p => Sys2Proof.Machine.execAmax e b v p s
  | .aand e b v p => Sys2Proof.Machine.execAand e b v p s
  | .aor e b v p => Sys2Proof.Machine.execAor e b v p s
  | .axor e b v p => Sys2Proof.Machine.execAxor e b v p s
  | .axchg e b v p => Sys2Proof.Machine.execAxchg e b v p s
  | .acas e b v p => Sys2Proof.Machine.execAcas e b v p s
  | .radd e b v p => Sys2Proof.Machine.execRadd e b v p s
  | .raddf b v p => Sys2Proof.Machine.execRaddf b v p s
  | .rmax e b v p => Sys2Proof.Machine.execRmax e b v p s
  | .rmin e b v p => Sys2Proof.Machine.execRmin e b v p s
  | .vradd b v p => Sys2Proof.Machine.execVradd b v p s
  | .qinit b v => Sys2Proof.Machine.execQinit b v s
  | .qenq b v => Sys2Proof.Machine.execQenq b v s
  | .qdeq b => Sys2Proof.Machine.execQdeq b s
  | .qdeqw b => Sys2Proof.Machine.execQdeqw b s
  | .qlen b => Sys2Proof.Machine.execQlen b s
  | .dfr w v m => Sys2Proof.Machine.execDfr w v m s
  | .dfpop w v m => Sys2Proof.Machine.execDfpop w v m s
  | .dfcnt => Sys2Proof.Machine.execDfcnt s
  | .fence p => Sys2Proof.Machine.execFence p s
  | .waitv c b v p => Sys2Proof.Machine.execWaitv c b v p s
  | .waitfImm t n => Sys2Proof.Machine.execWaitfImm t n s
  | .waitfReg t r1 => Sys2Proof.Machine.execWaitfReg t r1 s
  | .tany r1 => Sys2Proof.Machine.execTany r1 s
  | .tall r1 => Sys2Proof.Machine.execTall r1 s
  | .tffr r1 => Sys2Proof.Machine.execTffr r1 s
  | .tclr t => Sys2Proof.Machine.execTclr t s
  | .fget t => Sys2Proof.Machine.execFget t s
  | .fpub t r1 => Sys2Proof.Machine.execFpub t r1 s
  | .fbind t a => Sys2Proof.Machine.execFbind t a s
  | .msend v p => Sys2Proof.Machine.execMsend v p s
  | .mrecv v p => Sys2Proof.Machine.execMrecv v p s
  | .cpy d r1 t f => Sys2Proof.Machine.execCpy d r1 t f s
  | .cpyt d r1 t f => Sys2Proof.Machine.execCpyt d r1 t f s
  | .cpyg d r1 t f => Sys2Proof.Machine.execCpyg d r1 t f s
  | .cpys d r1 t f => Sys2Proof.Machine.execCpys d r1 t f s
  | .cfill d v t f => Sys2Proof.Machine.execCfill d v t f s
  | .mzero c => Sys2Proof.Machine.execMzero c s
  | .mma c a b z => Sys2Proof.Machine.execMma c a b z s
  | .mmasp c a b m z => Sys2Proof.Machine.execMmasp c a b m z s
  | .drain c d t p r1 f => Sys2Proof.Machine.execDrain c d t p r1 f s
  | .padj d g r t p => Sys2Proof.Machine.execPadj d g r t p s
  | .hist r1 r b => Sys2Proof.Machine.execHist r1 r b s
  | .chsend c r1 => Sys2Proof.Machine.execChsend c r1 s
  | .chrecv c r1 t => Sys2Proof.Machine.execChrecv c r1 t s
  | .chred c r1 t o => Sys2Proof.Machine.execChred c r1 t o s
  | .coll r r1 d t => Sys2Proof.Machine.execColl r r1 d t s
  | .mcst r1 r => Sys2Proof.Machine.execMcst r1 r s
  | .rdld d r t => Sys2Proof.Machine.execRdld d r t s
  | .jcard c r => Sys2Proof.Machine.execJcard c r s
  | .setxf x r1 => Sys2Proof.Machine.execSetxf x r1 s
  | .sld a r => Sys2Proof.Machine.execSld a r s
  | .sset a c v => Sys2Proof.Machine.execSset a c v s
  | .sget a c => Sys2Proof.Machine.execSget a c s
  | .chset r => Sys2Proof.Machine.execChset r s
  | .chget c => Sys2Proof.Machine.execChget c s
  | .blockedBundleIssue c => Sys2Proof.Machine.execBlockedBundleIssue c s
  | .issueTurnLimit c => Sys2Proof.Machine.execIssueTurnLimit c s
  | .resultLanding c x => Sys2Proof.Machine.execResultLanding c x s
  | .loadDataReturn c x k lvl => Sys2Proof.Machine.execLoadDataReturn c x k lvl s
  | .sqEntryFill c x => Sys2Proof.Machine.execSqEntryFill c x s
  | .storePerform c x k => Sys2Proof.Machine.execStorePerform c x k s
  | .sldDataReturn c x a => Sys2Proof.Machine.execSldDataReturn c x a s
  | .engineCommandStart c e => Sys2Proof.Machine.execEngineCommandStart c e s
  | .powerPermitGrant d => Sys2Proof.Machine.execPowerPermitGrant d s
  | .copyPieceWrite c k => Sys2Proof.Machine.execCopyPieceWrite c k s
  | .mmaComplete c k => Sys2Proof.Machine.execMmaComplete c k s
  | .mzeroComplete c k => Sys2Proof.Machine.execMzeroComplete c k s
  | .drainRow c k => Sys2Proof.Machine.execDrainRow c k s
  | .reduceContribution c k => Sys2Proof.Machine.execReduceContribution c k s
  | .padjRow c k => Sys2Proof.Machine.execPadjRow c k s
  | .histUpdate c k => Sys2Proof.Machine.execHistUpdate c k s
  | .engineCommandCompletion c k => Sys2Proof.Machine.execEngineCommandCompletion c k s
  | .blockFillComplete c k => Sys2Proof.Machine.execBlockFillComplete c k s
  | .sliceAtomic c x k => Sys2Proof.Machine.execSliceAtomic c x k s
  | .sliceReduction c x k => Sys2Proof.Machine.execSliceReduction c x k s
  | .sliceQueueOp c x k => Sys2Proof.Machine.execSliceQueueOp c x k s
  | .groupRequestArrive c k => Sys2Proof.Machine.execGroupRequestArrive c k s
  | .groupHoldTimeout l g n => Sys2Proof.Machine.execGroupHoldTimeout l g n s
  | .groupFillLand c k => Sys2Proof.Machine.execGroupFillLand c k s
  | .sevArrival c x => Sys2Proof.Machine.execSevArrival c x s
  | .exitDrainComplete c x => Sys2Proof.Machine.execExitDrainComplete c x s
  | .teamExit c b => Sys2Proof.Machine.execTeamExit c b s
  | .engineHalt c k => Sys2Proof.Machine.execEngineHalt c k s
  | .chaseAbort c k => Sys2Proof.Machine.execChaseAbort c k s
  | .asyncTrapDelivery c x => Sys2Proof.Machine.execAsyncTrapDelivery c x s
  | .firmwareFaultService c x mapped => Sys2Proof.Machine.execFirmwareFaultService c x mapped s
  | .correctedError where_ => Sys2Proof.Machine.execCorrectedError where_ s
  | .uncorrectableError where_ lasting => Sys2Proof.Machine.execUncorrectableError where_ lasting s
  | .cardWatchdogExpiry c k opened => Sys2Proof.Machine.execCardWatchdogExpiry c k opened s
  | .cardReplayStart c k => Sys2Proof.Machine.execCardReplayStart c k s
  | .cardComplete c k => Sys2Proof.Machine.execCardComplete c k s
  | .unitTimeLimitExpiry c b => Sys2Proof.Machine.execUnitTimeLimitExpiry c b s
  | .notify q v => Sys2Proof.Machine.execNotify q v s
  | .trigger q v => Sys2Proof.Machine.execTrigger q v s
  | .statusClear q => Sys2Proof.Machine.execStatusClear q s
  | .hostRegisterWrite q off v => Sys2Proof.Machine.execHostRegisterWrite q off v s
  | .mapperBind q => Sys2Proof.Machine.execMapperBind q s
  | .slotRelinquish q => Sys2Proof.Machine.execSlotRelinquish q s
  | .launch q => Sys2Proof.Machine.execLaunch q s
  | .graph q => Sys2Proof.Machine.execGraph q s
  | .waitvPacket q => Sys2Proof.Machine.execWaitvPacket q s
  | .waitvPacketPoll q => Sys2Proof.Machine.execWaitvPacketPoll q s
  | .signal q => Sys2Proof.Machine.execSignal q s
  | .barrier q => Sys2Proof.Machine.execBarrier q s
  | .checkpoint q => Sys2Proof.Machine.execCheckpoint q s
  | .checkpointDrainLimit => Sys2Proof.Machine.execCheckpointDrainLimit s
  | .checkpointComplete => Sys2Proof.Machine.execCheckpointComplete s
  | .safeTierLoss => Sys2Proof.Machine.execSafeTierLoss s
  | .restore q => Sys2Proof.Machine.execRestore q s
  | .scale q => Sys2Proof.Machine.execScale q s
  | .graphNodeStart q n => Sys2Proof.Machine.execGraphNodeStart q n s
  | .launchComplete l => Sys2Proof.Machine.execLaunchComplete l s
  | .dispatchUnit l u c b => Sys2Proof.Machine.execDispatchUnit l u c b s
  | .preload l u c => Sys2Proof.Machine.execPreload l u c s
  | .preemptRequest c b => Sys2Proof.Machine.execPreemptRequest c b s
  | .budgetOverrun c b => Sys2Proof.Machine.execBudgetOverrun c b s
  | .budgetHintExpiry c b => Sys2Proof.Machine.execBudgetHintExpiry c b s
  | .teamSave c b => Sys2Proof.Machine.execTeamSave c b s
  | .teamRestore l u c b => Sys2Proof.Machine.execTeamRestore l u c b s
  | .moduleReset => Sys2Proof.Machine.execModuleReset s
  | .bootLinkTimeout => Sys2Proof.Machine.execBootLinkTimeout s
  | .invalidate v => Sys2Proof.Machine.execInvalidate v s
  | .tlbInvalidation => Sys2Proof.Machine.execTlbInvalidation s
  | .powerStatus => Sys2Proof.Machine.execPowerStatus s
  | .errorLogRead n => Sys2Proof.Machine.execErrorLogRead n s
  | .portStates => Sys2Proof.Machine.execPortStates s
  | .attestationReport nonce => Sys2Proof.Machine.execAttestationReport nonce s
  | .bootStatusQuery => Sys2Proof.Machine.execBootStatusQuery s
  | .governorAdjust d clk n => Sys2Proof.Machine.execGovernorAdjust d clk n s
  | .thermalStop d => Sys2Proof.Machine.execThermalStop d s
  | .meshSlotDepart l n => Sys2Proof.Machine.execMeshSlotDepart l n s
  | .meshPayloadArrive l n => Sys2Proof.Machine.execMeshPayloadArrive l n s
  | .portDown p => Sys2Proof.Machine.execPortDown p s
  | .modulePowerLoss => Sys2Proof.Machine.execModulePowerLoss s
  | .transferArrive h data => Sys2Proof.Machine.execTransferArrive h data s
  | .slotCreditReturn h => Sys2Proof.Machine.execSlotCreditReturn h s
  | .ringStep c k => Sys2Proof.Machine.execRingStep c k s
  | .stackQueueStep c k => Sys2Proof.Machine.execStackQueueStep c k s
  | .reducingLoadReply c k data => Sys2Proof.Machine.execReducingLoadReply c k data s
  | .channelTimeout h => Sys2Proof.Machine.execChannelTimeout h s
  | .unknownPacketKind q => Sys2Proof.Machine.execUnknownPacketKind q s
  | .ringReadFailed q => Sys2Proof.Machine.execRingReadFailed q s
  | .restoreComplete => Sys2Proof.Machine.execRestoreComplete s
  | .invalidateStatus => Sys2Proof.Machine.execInvalidateStatus s
  | .acknowledgement h => Sys2Proof.Machine.execAcknowledgement h s
  | .failedBeat p => Sys2Proof.Machine.execFailedBeat p s

end Sys2Proof.Machine
end

