-- ==== Sys2Proof/Machine/Arbiter.lean ====
section
/-! DEFINITION. What moves next when no agenda says it (log entry 2): the bundle of the context whose turn it is (R11, R12), or, after bundles have
blocked and from time to time, one of the module's own events that stand open. -/

namespace Sys2Proof.Machine

/-- An event with its parameters, ready to happen. -/
abbrev Act := State → Host.Outcome State Fault Refusal

/-! ### Events that stand open -/

/-- The events that perform the access at place `k` of a context (R15, R77, R78, R234, R247), or some of its bytes (R133). -/
def State.opEvent (s : State) (c x k : Nat) (o : MemOp) : List Act :=
  let lvl := (Config.freeBits s.free 902).toNat % 3
  let part := fun (f : State → State) => if o.touches.length < 2 then [] else [happen f]
  match o.kind with
  | .load .. => execLoadDataReturn c x k lvl :: part (fun s => s.loadPart c x k lvl)
  | .sld a => execSldDataReturn c x a :: part (fun s => s.loadPart c x k lvl)
  | .store none => execStorePerform c x k :: part (fun s => s.storePart c x k)
  | .store (some _) => [execSqEntryFill c x]
  | .atomic .. => [execSliceAtomic c x k]
  | .reduce .. => [execSliceReduction c x k]
  | .queue .. => [execSliceQueueOp c x k]
  | .fence | .lst _ | .pub .. | .arrive _ => []

/-- Open events of context `x` of core `c`. -/
def State.openCtx (s : State) (v : Ctx) (c x : Nat) : List Act :=
  (v.ops.zip (List.range v.ops.length)).foldl (fun a p => a ++ s.opEvent c x p.2 p.1) [] ++
  (if v.flight.isEmpty then [] else [execResultLanding c x]) ++
  (if v.sq.all (fun e => e.filled) then [] else [execSqEntryFill c x]) ++
  (if v.status = CtxStatus.exiting then [execExitDrainComplete c x] else []) ++
  (if v.pending.isEmpty then [] else [execAsyncTrapDelivery c x]) ++
  (match v.status with | .service _ => [execFirmwareFaultService c x false] | _ => []) ++
  (if v.pending.any (fun t => t.ask) then [execFirmwareFaultService c x false] else [])

/-- The event that carries a running command on. -/
def Cmd.onward (m : Cmd) (c : Nat) : List Act :=
  match m.kind with
  | .cpy | .cpyt | .cpyg | .cpys | .cfill => [execCopyPieceWrite c m.id]
  | .hist => [execHistUpdate c m.id]
  | .mma | .mmasp => [execMmaComplete c m.id]
  | .mzero => [execMzeroComplete c m.id]
  | .drain => [execDrainRow c m.id, execReduceContribution c m.id]
  | .padj => [execPadjRow c m.id]
  | .jcard => [execCardComplete c m.id]
  | .gld => [execGroupRequestArrive c m.id, execGroupFillLand c m.id]
  | .ldblk => [execBlockFillComplete c m.id]
  | .chsend | .chrecv | .chred | .mcst | .rdld => [execStackQueueStep c m.id]
  | .coll => [execRingStep c m.id]

/-- Open events of a command. -/
def Cmd.open_ (m : Cmd) (c : Nat) : List Act :=
  match m.st with
  | .queued | .permit => (match m.kind.queue with | some e => [execEngineCommandStart c e] | none => [])
  | .running => m.onward c ++ [execEngineHalt c m.id, execChaseAbort c m.id]
  | .halted => []
  | .finished => [execEngineCommandCompletion c m.id]
  | .requeued => [execCardReplayStart c m.id]

/-- Open events of a core. -/
def State.openCore (s : State) (k : Core) (c : Nat) : List Act :=
  ([0, 1, 2, 3]).foldl (fun a x => a ++ s.openCtx (k.ctx x) c x) [] ++
  k.sevs.map (fun e => execSevArrival c e.1) ++
  k.cmds.foldl (fun a m => a ++ m.open_ c) [] ++
  k.teams.foldl (fun a t => a ++ (if t.2.stopping then [execTeamSave c t.1] else [execPreemptRequest c t.1]) ++ [execTeamExit c t.1]) []

/-- Open events of a launch: groups, mesh, dispatch, completion. -/
def State.openLaunch (s : State) (l : Nat) (v : Launch) : List Act :=
  (v.grants.zip (List.range v.grants.length)).foldl (fun a g =>
    a ++ (if g.1.sendBuf.isEmpty then [] else [execMeshSlotDepart l g.2]) ++ (if g.1.moving.isEmpty then [] else [execMeshPayloadArrive l g.2])) [] ++
  ([0, 1, 2, 3]).filterMap (fun d => (v.nextUnit d).bind (fun u => (s.placeFor l v u d).map (fun p => execDispatchUnit l u p.1 p.2))) ++
  [execLaunchComplete l]

/-- Open events of a host queue. -/
def State.openQueue (s : State) (q : Nat) (v : HostQueue) : List Act :=
  (match s.headPacket q with
   | some p => (match pkKind p, pkSelector p with
     | 1, _ => [execLaunch q]
     | 2, _ => [execGraph q]
     | 3, _ => [execWaitvPacket q]
     | 4, _ => [execSignal q]
     | 5, _ => [execBarrier q]
     | 6, 0 => [execCheckpoint q]
     | 6, 1 => [execRestore q]
     | 6, _ => [execScale q]
     | _, _ => [execUnknownPacketKind q])
   | none => []) ++
  (match v.waiting with | some (_, p) => if pkKind p = 3 then [execWaitvPacketPoll q] else if pkKind p = 5 then [execBarrier q] else [] | none => []) ++
  (if v.signals.isEmpty then [] else [execSignal q]) ++
  (match v.graph, v.runs with
   | some g, r :: _ => (if r.begun then (List.range g.nodes.length).filter (fun n => !r.started.contains n) else [0]).map (fun n => execGraphNodeStart q n)
   | _, _ => [])

/-- The event that resumes a die's next pre-empted unit: a saved team restored, where it finds room, or a class 1 unit started again (R297). -/
def State.openResume (s : State) (d : Nat) : List Act :=
  match s.nextResume d with
  | none => []
  | some (l, u) =>
    match s.savedUnit l u, s.launchOf l with
    | some v, some w =>
      (match (dieCores d).find? (fun c => hdrClass w.hdr == 2 || (s.restoreOn v c).isSome) with
       | some c => [execTeamRestore l u c v.base]
       | none => [])
    | none, some w => (match s.placeFor l w u d with | some p => [execDispatchUnit l u p.1 p.2] | none => [])
    | _, none => []

/-- Every event that stands open, cores first. -/
def State.openEvents (s : State) : List Act :=
  s.cores.foldl (fun a e => a ++ s.openCore e.2 e.1) [] ++
  ([0, 1, 2, 3]).filterMap (fun d => if (s.die d).waiting.isEmpty then none else some (execPowerPermitGrant d)) ++
  ([0, 1, 2, 3]).foldl (fun a d => a ++ s.openResume d) [] ++
  s.launches.foldl (fun a e => a ++ s.openLaunch e.1 e.2) [] ++
  (match s.nextBound with | some q => [execMapperBind q] | none => []) ++
  s.queues.foldl (fun a e => a ++ s.openQueue e.1 e.2) [] ++
  (match s.platform.ckpt with | some k => [if k.restore then execRestoreComplete else execCheckpointComplete] | none => []) ++
  (if s.platform.inval.isEmpty then [] else [execTlbInvalidation]) ++
  (if s.platform.boot ≤ 3 then [happen State.bootStage] else []) ++
  (if s.platform.signing.isEmpty then [] else [firmwareDoes State.signNext]) ++
  s.platform.pairs.filterMap (fun e => if e.2.isEmpty then none else some (firmwareDoes (fun s => s.rdmaNext e.1)))

/-- Group requests whose hold may run out (R94): events of time, which the arbiter lets come late. -/
def State.lateEvents (s : State) : List Act :=
  s.launches.foldl (fun a e => a ++ e.2.groups.foldl (fun a g =>
    a ++ (g.2.holds.filter (fun h => !h.released)).map (fun h => execGroupHoldTimeout e.1 g.1 h.seq)) []) []

/-- The event the arbiter picks: the open ones in turn, and now and then a late one. -/
def State.pickEvent (s : State) : Option Act :=
  let late := if s.beat % 256 < 255 then [] else s.lateEvents
  if late.isEmpty then s.openEvents[s.beat % s.openEvents.length]? else late[s.beat / 256 % late.length]?

/-- An event is due: bundles have blocked for a while, or eight steps have passed. -/
def State.eventDue (s : State) : Bool := decide (4 * (s.cores.length + 1) ≤ s.stall) || s.free % 8 == 7

/-! ### The bundle of the context whose turn it is -/

/-- The one instruction of a bundle of one syllable that stands at `p`. -/
def soleInstr (p : Nat) : Fetched → Option Instr
  | .bundle [(q, .inl i)] => if q = p then some i else none
  | _ => none

/-- The instruction at the pc of the context whose turn it is, where its bundle holds no other. -/
def State.nextInstr (s : State) : Option Instr :=
  match s.pick with
  | some (c, x) => soleInstr ((s.ctx c x).pc / 4 % 16) (s.fetched c x)
  | none => none

/-- The bundle of the context whose turn it is: a single instruction through `exec`, a larger bundle as a whole. -/
def State.issueStep (s : State) : Host.Outcome State Fault Refusal :=
  match s.nextInstr with
  | some i => exec i s
  | none => if !s.powered then .fault .poweredOff else .next s.tryIssue

/-- A step with no agenda: between the contexts that a core tries in one cycle no event comes (R12). -/
def State.arbitrate (s : State) : Host.Outcome State Fault Refusal :=
  if s.eventDue && (s.core s.turn).idle == 0 then
    match s.pickEvent with
    | some e => e { s with stall := 0, beat := s.beat + 1 }
    | none => s.issueStep
  else s.issueStep

/-- What the agenda says moves next: an event; a syllable, which is no event, is passed over. -/
def State.follow (s : State) (i : Instr) (r : List Instr) : Host.Outcome State Fault Refusal :=
  if (encode i).isNone then exec i ({ s with agenda := r }).anew else .next { s with agenda := r }.tick

end Sys2Proof.Machine
end

