-- ==== Sys2Proof/Machine/Step.lean ====
section
/-! DEFINITION. One step of the module, and an instruction placed where the next step fetches. -/

namespace Sys2Proof.Machine

/-- One step: what the agenda says, or else what the module's arbiter picks. -/
def step (s : State) : Host.Outcome State Fault Refusal :=
  match s.agenda with
  | i :: r => s.follow i r
  | [] => s.arbitrate

/-! ### A program of one instruction, in place of the launch that would bring it (log entry 20) -/

/-- Where the launch's tables, code, record and handler stand, physically and virtually. -/
def slotRoot : Nat := 0x20000
def slotLevel1 : Nat := 0x40000
def slotCode : Nat := 0x50000
def slotRecord : Nat := 0x60000
def slotHandler : Nat := 0x70000

/-- A header with every count at its most, six temporal levels, and one context. -/
def slotHeader : W512 :=
  BitVec.ofNat 512 (slotCode * 2 ^ 460 + slotHandler * 2 ^ 396 + 6 * 2 ^ 57 + 0x555 * 2 ^ 45 + 31 * 2 ^ 38 + 31 * 2 ^ 33 + 64 * 2 ^ 26 + 16 * 2 ^ 21 +
    16 * 2 ^ 16 + 16 * 2 ^ 11 + 128 * 2 ^ 3)

/-- The launch, under a number no launch of a queue draws (R290: the counter begins at 1). -/
def slotLaunch : Launch :=
  { Launch.ofPacket 0 0 0 0 none with
    hdr := slotHeader, groupWords := List.replicate 16 0x00400004, recBase := slotRecord, root := slotRoot, dieMask := 1
    units := [(0, { state := .resident 0 0, reruns := 0, die := 0, expired := false })] }

/-- A page table that maps the lowest 512 MiB to themselves, writable and executable. -/
def slotTables (m : Memory) : Memory := mwrite (mwrite m slotRoot (leBytes 8 (slotLevel1 + 1))) slotLevel1 (leBytes 8 15)

/-- The packet: the word, opening its bundle, and pads. -/
def slotPacket (w : Nat) : List Byte :=
  leBytes 4 (w % 2 ^ 31 + 2 ^ 31) ++ (List.replicate 15 (leBytes 4 0x7FFFFFFF)).flatten

/-- `s` with the instruction of `nbits` bits `w` where `step` fetches next: core 0 runs one context of a launch whose first packet holds it. -/
def State.withFetchWord (s : State) (nbits w : Nat) : State :=
  let t : Team := { launch := 0, unit := 0, size := 1, place := 0, win := [], tags := [], blocks := [], barKey := 0, stopping := false,
                    deferred := false, since := 0, lostWin := [], lostAccs := [], lostTags := [], lostBars := [] }
  let k := (Core.fresh.putTeam 0 t).putCtx 0 (slotLaunch.startCtx 0 0 [])
  { s with
    powered := true, agenda := [], turn := 0, stall := 0, free := (s.free + 7) / 8 * 8
    mem := mwrite (slotTables s.mem) slotCode (slotPacket (if nbits = 32 then w else 0x7FFFFFFF))
    tlbs := s.tlbs.map (fun e => (e.1, e.2.filter (fun t => t.root != slotRoot))), tables := tdel s.tables slotRoot
    cores := tput s.cores 0 k, launches := tput s.launches 0 slotLaunch }

end Sys2Proof.Machine
end

