-- ==== Sys2Proof/Safety.lean ====
section
/-! DEFINITION. What counts as a safe run of the module, and the terms in which the statements speak of one bundle's issue. -/

namespace Sys2Proof.Safety

open Sys2Proof.Machine

/-- The states a run from `s` passes through: what `n` steps lead to, if none of them stops. -/
def after : Nat → State → Option State
  | 0, s => some s
  | n + 1, s => match step s with | .next t => after n t | _ => none

/-- The run of `n` steps from `s` is safe: it stops nowhere. -/
def Safe (n : Nat) (s : State) : Prop := (after n s).isSome = true

end Sys2Proof.Safety

namespace Sys2Proof.Claim

open Sys2Proof.Machine

/-! ### A context about to issue -/

/-- The packet position of the context's next bundle (R156). -/
def posOf (s : State) (c x : Nat) : Nat := (s.ctx c x).pc / 4 % 16

/-- The bundle after the one at the context's pc (R159), in a packet `pk`. -/
def nextPc (s : State) (c x : Nat) (pk : List Nat) : Nat :=
  match nextStart pk (posOf s c x) with
  | some j => (s.ctx c x).pc / 64 * 64 + 4 * j
  | none => (s.ctx c x).pc / 64 * 64 + 64

/-- Nothing stands between context `x` of core `c` and its next bundle: it has the turn (R11, R12), no trap, fence or withdrawn
`qdeqw` comes first (R127, R235, R237), nothing that the core performs itself is due before it (R137), and the packet at its pc, `pk` at physical address `pa`, can be fetched (R75, R103, R271). -/
structure Ready (s : State) (c x pa : Nat) (pk : List Nat) : Prop where
  power : s.powered = true
  turn : s.pick = some (c, x)
  noTrap : (s.ctx c x).pending = []
  noResend : (s.ctx c x).resend = []
  noFence : (s.ctx c x).fenced = false
  settled : (s.ctx c x).innerReady = none
  inTurn : s.turnOver c x = false
  fetch : s.fetchPacket c (s.rootAt c x) (s.ctx c x).pc = .ok (pa, pk)
  intact : (span (pa + (s.ctx c x).pc % 64) 4).find? s.isLost = none

/-- The state once the packet is fetched: its copy and its translation are kept (R75, R104), and the cycle counts towards R11 g. -/
def fetched (s : State) (c x pa : Nat) : State := ((s.contest c x).noteFetch c pa).noteTlb c (s.rootAt c x) (s.ctx c x).pc

/-- The context as its bundle sees it: results whose bound has passed have landed (R169). -/
def view (s : State) (c x pa : Nat) : Ctx := ((fetched s c x pa).landed c x).ctx c x

/-- The values of source fields at issue, in their order; field 31 takes the oldest port entry (R165, R168). -/
def args (s : State) (c x pa : Nat) (srcs : List Src) : List V1024 :=
  (takeSrcs (view s c x pa) s.free srcs (view s c x pa).lq (view s c x pa).lqs).1

/-- Source value `i` as a vector, a scalar or mask, a condition. -/
def argV (s : State) (c x pa : Nat) (srcs : List Src) (i : Nat) : V1024 := ((args s c x pa srcs)[i]?).getD 0
def arg (s : State) (c x pa : Nat) (srcs : List Src) (i : Nat) : W64 := (argV s c x pa srcs i).setWidth 64

/-- The context once the ports have been popped for the source fields. -/
def popped (s : State) (c x pa : Nat) (srcs : List Src) : Ctx :=
  let v := view s c x pa
  { v with lq := (takeSrcs v s.free srcs v.lq v.lqs).2.1, lqs := (takeSrcs v s.free srcs v.lq v.lqs).2.2 }

/-- The core's clock at issue: the cycle from which latency bounds count (R170). -/
def now (s : State) (c : Nat) : Nat := (s.core c).clock

/-- The state in which the syllable is performed: the packet fetched, due results landed, the ports of its sources popped. -/
def base (s : State) (c x pa : Nat) (srcs : List Src) : State :=
  ((fetched s c x pa).landed c x).putCtx c x (popped s c x pa srcs)

/-- What the syllable `m`, alone in its bundle, sees at issue (R165). -/
def env (s : State) (c x pa : Nat) (pk : List Nat) (m : Sem) : Env :=
  { snap := base s c x pa m.srcs, c := c, x := x, pc := (s.ctx c x).pc, pos := posOf s c x, next := nextPc s c x pk,
    now := ((fetched s c x pa).landed c x |>.core c).clock, vals := args s c x pa m.srcs,
    sprs := m.dsts.filterMap (fun d => match d with | .spr n => some n | _ => none) }

/-- Engine format register `k` as a syllable with those sources reads it (R47). -/
def xfAt (s : State) (c x pa : Nat) (srcs : List Src) (k : Nat) : W32 := ((base s c x pa srcs).core c).readXf s.free (now s c) k

/-- The first context of the context's team (R22). -/
def teamBase (s : State) (c x : Nat) : Nat := match (s.core c).teamOf x with | some (b, _) => b | none => x

/-- The operands of a syllable can be read and written: the header declares its registers (R28), the ports it pops hold data that has
arrived and is not lost (R11 b, R15, R271), an `sq` entry it reserves or takes is there (R11 c, R16), no register it reads is
destroyed (R271). -/
structure Usable (s : State) (c x pa : Nat) (m : Sem) : Prop where
  declared : m.over (s.hdrAt c x) = false
  lqs : portReady (view s c x pa).lqs (popCount (fun r => r == .s 31) [(0, m)]) = true
  lq : portReady (view s c x pa).lq (popCount (fun r => r == .v 31) [(0, m)]) = true
  sq : sqReady (view s c x pa).sq.length [(0, m)] = true
  arrived : lostPop s c x 0 [(0, m)] (view s c x pa).lq (view s c x pa).lqs = []
  intact : lostReads c x (popped s c x pa m.srcs) (s.lostTagsAt c x) (popped s c x pa m.srcs).sq m = []

/-- No condition of R11 blocks the bundle of the syllable `m`, and no check of R166 finds a fault. -/
structure Clear (s : State) (c x pa : Nat) (pk : List Nat) (m : Sem) : Prop where
  usable : Usable s c x pa m
  /-- its engine queue, `lqs`, `lq` and `sq` have room, and its streams are not pending (R11 a, b, c, R247) -/
  room : blocksBefore (s.core c) (view s c x pa) (teamBase s c x) [(0, m)] = false
  wf : m.ins.wf = true
  /-- its streams hold no lost data (R247, R271) -/
  streams : ∀ a ∈ m.streams, tget (popped s c x pa m.srcs).lostA a = none
  checks : m.check (env s c x pa pk m) (base s c x pa m.srcs) = []
  /-- a target it transfers control to can be fetched and opens a bundle (R160) -/
  target : flowFaults (base s c x pa m.srcs) c x 0 (m.flow (env s c x pa pk m) (base s c x pa m.srcs)) = []
  /-- it waits for nothing (R11 d, e), and no command of its team holds its accumulator (R11 f) -/
  free : m.waits (env s c x pa pk m) (base s c x pa m.srcs) = false
  acc : (s.core c).accBusy (teamBase s c x) m = false

/-- What is left once the bundle of one syllable has been performed (R165, R193): its effects, what the core then performs itself, and control gone
on. -/
def done (s : State) (c x pa : Nat) (pk : List Nat) (m : Sem) : State :=
  let e := env s c x pa pk m
  let f := m.flow e (base s c x pa m.srcs)
  let t := ((m.act e (base s c x pa m.srcs)).modCtx c x (fun w => { w with preps := nextPreps w [(posOf s c x, m)] })).settleOps c x
  (t.goOn c x (s.ctx c x).pc (nextPc s c x pk) 0 f).issued c x (bubblesOf (s.ctx c x) m.ins f) (m.ins == .yield)

/-- `v` with control gone on to the next bundle, or back to the body of a nest that ends here (R159, R193). -/
def onward (s : State) (c x : Nat) (pk : List Nat) (i : Instr) (v : Ctx) : Ctx :=
  let d := passDecision (s.ctx c x).pc (nextPc s c x pk) v.nest
  { v with pc := d.2, nest := d.1, preps := nextPreps v [(posOf s c x, semOf i)] }

/-- The bundle at `t` can be the target of a taken transfer (R160): the address is aligned and below 2^52, its packet can be fetched, and
a bundle opens there. -/
def opens (s : State) (c x t : Nat) : Prop :=
  t % 4 = 0 ∧ t < 2 ^ 52 ∧ ∃ qa qk, s.fetchPacket c (s.rootAt c x) t = .ok (qa, qk) ∧
    (span (qa + t % 64) 4).find? s.isLost = none ∧ startsBundle (qk.getD (t / 4 % 16) 0) = true

/-! ### What stays -/

/-- What lies outside the cores is as it was: memory, dies, launches, queues, channels, the platform. -/
structure SameOutside (s t : State) : Prop where
  powered : t.powered = s.powered
  agenda : t.agenda = s.agenda
  barKeys : t.barKeys = s.barKeys
  mem : t.mem = s.mem
  dies : t.dies = s.dies
  launches : t.launches = s.launches
  epochs : t.epochs = s.epochs
  saved : t.saved = s.saved
  sliceQueues : t.sliceQueues = s.sliceQueues
  det : t.det = s.det
  queues : t.queues = s.queues
  lastBound : t.lastBound = s.lastBound
  channels : t.channels = s.channels
  outbox : t.outbox = s.outbox
  stackQ : t.stackQ = s.stackQ
  platform : t.platform = s.platform

/-- A core is as it was but for its contexts, what its caches hold of the fetched packet, its clock and turn, and the `xf` writes and
`sev`s whose time has come (R34, R47, R75, R104). -/
structure KeptCore (k k' : Core) : Prop where
  teams : k'.teams = k.teams
  barriers : k'.barriers = k.barriers
  accs : k'.accs = k.accs
  accOwner : k'.accOwner = k.accOwner
  cmds : k'.cmds = k.cmds
  cmdSeq : k'.cmdSeq = k.cmdSeq
  guests : k'.guests = k.guests
  chans : k'.chans = k.chans
  chanImage : k'.chanImage = k.chanImage
  chanRoot : k'.chanRoot = k.chanRoot
  l1 : k'.l1 = k.l1
  l1Sectors : k'.l1Sectors = k.l1Sectors
  ran : k'.ran = k.ran
  written : k'.written = k.written
  sig : k'.sig = k.sig
  sfDegraded : k'.sfDegraded = k.sfDegraded
  halfRate : k'.halfRate = k.halfRate
  granules : k'.granules = k.granules
  deadGranules : k'.deadGranules = k.deadGranules
  retired : k'.retired = k.retired
  retiring : k'.retiring = k.retiring
  lostAccs : k'.lostAccs = k.lostAccs
  lostChans : k'.lostChans = k.lostChans
  deadChans : k'.deadChans = k.deadChans
  deadBars : k'.deadBars = k.deadBars
  preload : k'.preload = k.preload

/-- Only context `x` of core `c` has changed: every other context of the core is as it was but for its event latch, which a `sev` on
its way may set (R34), and every other core is as it was. -/
structure OnlyCtx (s t : State) (c x : Nat) : Prop where
  outside : SameOutside s t
  core : KeptCore (s.core c) (t.core c)
  others : ∀ y, y ≠ x → { t.ctx c y with evt := false } = { s.ctx c y with evt := false }
  cores : ∀ c', c' ≠ c → t.core c' = s.core c'

/-- The bundle of `i` alone completes: its context becomes `v` with control gone on to the next bundle, and nothing else changes. -/
def Performs (s : State) (c x : Nat) (pk : List Nat) (i : Instr) (v : Ctx) : Prop :=
  ∃ t, exec i s = .next t ∧ OnlyCtx s t c x ∧ t.ctx c x = onward s c x pk i v

/-- The module once a fence of core `c` is performed: its release part, then its acquire part, at a scope beyond the context (R153, R154). -/
def fencedState (s : State) (c ord scope : Nat) : State :=
  let p := if scope ≠ 0 ∧ 2 ≤ ord then s.publish c scope else s
  if scope ≠ 0 ∧ ord % 2 = 1 then p.acquire c scope else p

/-- The bundle of `i` alone completes and its fence, which nothing earlier holds back, is performed with it: the context becomes `v` with
control gone on, memory, the dies and the core's L1 and signatures are as the fence leaves them, and every other core and context stays. -/
def Fences (s : State) (c x ord scope : Nat) (pk : List Nat) (i : Instr) (v : Ctx) : Prop :=
  ∃ t, exec i s = .next t ∧ t.ctx c x = onward s c x pk i v ∧
    let p := fencedState s c ord scope
    t.mem = p.mem ∧ t.dies = p.dies ∧ (t.core c).l1 = (p.core c).l1 ∧ (t.core c).l1Sectors = (p.core c).l1Sectors ∧
    (t.core c).written = (p.core c).written ∧ (t.core c).sig = (p.core c).sig ∧ (t.core c).sigSeen = (p.core c).sigSeen ∧
    (∀ y, y ≠ x → { t.ctx c y with evt := false } = { s.ctx c y with evt := false }) ∧ (∀ c', c' ≠ c → t.core c' = s.core c')

/-- Every byte memory of the module is in its canonical form, so that equal memories are equal data: home memory, each die's copies of lines homed
elsewhere, each core's L1 copies, the tables in force, the management complex's SRAM, and the images of the safe tiers, which hold device memory alone. -/
def Canonical (s : State) : Prop :=
  s.mem.wf = true ∧ (∀ d, (s.die d).copies.wf = true) ∧ (∀ c, (s.core c).l1.wf = true) ∧
    (∀ r h k, tget s.tables r = some h → k ∈ h → k.mem.wf = true) ∧ s.platform.sram.wf = true ∧
    ∀ t m, tget s.platform.safe t = some m → m.mem.wf = true ∧ ∀ a b, (a, b) ∈ m.mem → a < Config.deviceTop

end Sys2Proof.Claim
end

