-- ==== Sys2Proof/Certificates/Slice0/Obligations.lean ====
section
/-! DEFINITION. The statements about the machine, for the provers. -/

section

open Sys2Proof Sys2Proof.Machine Sys2Proof.Claim

/-! ### The S class -/

/-- R183, R187: wrapping sums, differences and products, the high halves of the exact products, and the bitwise operations. Each tuple
holds an instruction, its latency bound (R170) and the value its destination receives; `s0` discards it. -/
def Obligations.ScalarArithmeticResults : Prop :=
  ∀ (s : State) (c x pa : Nat) (pk : List Nat) (d a b : BitVec 5) (i : BitVec 19),
    Ready s c x pa pk → d ≠ 31 →
    (let A := arg s c x pa [.s a.toNat, .s b.toNat] 0
     let B := arg s c x pa [.s a.toNat, .s b.toNat] 1
     ∀ q ∈ ([(.add d a b, 1, BitVec.ofNat 64 (A.toNat + B.toNat)), (.sub d a b, 1, BitVec.ofInt 64 (A.toInt - B.toInt)),
             (.mul d a b, 3, BitVec.ofNat 64 (A.toNat * B.toNat)), (.mulh d a b, 3, BitVec.ofInt 64 (Int.fdiv (A.toInt * B.toInt) (2 ^ 64))),
             (.mulhz d a b, 3, BitVec.ofNat 64 (A.toNat * B.toNat / 2 ^ 64)), (.and d a b, 1, A &&& B), (.or d a b, 1, A ||| B),
             (.xor d a b, 1, A ^^^ B), (.andn d a b, 1, A &&& ~~~B)] : List (Instr × Nat × W64)),
       Usable s c x pa (semOf q.1) →
       Performs s c x pk q.1 ((popped s c x pa [.s a.toNat, .s b.toNat]).writeS d.toNat q.2.2 (now s c) q.2.1)) ∧
    (let A := arg s c x pa [.s a.toNat] 0
     let I := i.signExtend 64
     ∀ q ∈ ([(.addi d a i, 1, BitVec.ofInt 64 (A.toInt + i.toInt)), (.andi d a i, 1, A &&& I), (.ori d a i, 1, A ||| I),
             (.xori d a i, 1, A ^^^ I), (.muli d a i, 3, BitVec.ofInt 64 (A.toInt * i.toInt))] : List (Instr × Nat × W64)),
       Usable s c x pa (semOf q.1) →
       Performs s c x pk q.1 ((popped s c x pa [.s a.toNat]).writeS d.toNat q.2.2 (now s c) q.2.1))

/-- R183, R184, R185, R186, R187, R188: shifts, minima and maxima, saturating sums and `sel` give the value of their table row; bit counts, bit fields at
position B[5:0] of length min(B[14:8], 64 − position), and constants. -/
def Obligations.ScalarShiftAndFieldResults : Prop :=
  (∀ (s : State) (c x pa : Nat) (pk : List Nat) (d a b h k : BitVec 5) (i : BitVec 19),
      Ready s c x pa pk → d ≠ 31 →
      (let A := arg s c x pa [.s a.toNat, .s b.toNat] 0
       let B := arg s c x pa [.s a.toNat, .s b.toNat] 1
       ∀ q ∈ ([(.shl d a b, BitVec.ofNat 64 (A.toNat * 2 ^ (B.toNat % 64))), (.shr d a b, BitVec.ofNat 64 (A.toNat / 2 ^ (B.toNat % 64))),
               (.sra d a b, BitVec.ofInt 64 (Int.fdiv A.toInt (2 ^ (B.toNat % 64)))),
               (.min d a b, if A.toInt ≤ B.toInt then A else B), (.max d a b, if A.toInt ≤ B.toInt then B else A),
               (.minz d a b, if A.toNat ≤ B.toNat then A else B), (.maxz d a b, if A.toNat ≤ B.toNat then B else A),
               (.adds d a b, BitVec.ofInt 64 (max (-(2 ^ 63)) (min (A.toInt + B.toInt) (2 ^ 63 - 1)))),
               (.subs d a b, BitVec.ofInt 64 (max (-(2 ^ 63)) (min (A.toInt - B.toInt) (2 ^ 63 - 1)))),
               (.lea d a b h, BitVec.ofNat 64 (A.toNat + B.toNat * 2 ^ h.toNat))] : List (Instr × W64)),
         Usable s c x pa (semOf q.1) →
         Performs s c x pk q.1 ((popped s c x pa [.s a.toNat, .s b.toNat]).writeS d.toNat q.2 (now s c) 1)) ∧
      (let A := arg s c x pa [.s a.toNat] 0
       ∀ q ∈ ([(.shli d a i, BitVec.ofNat 64 (A.toNat * 2 ^ i.toNat)), (.shri d a i, BitVec.ofNat 64 (A.toNat / 2 ^ i.toNat)),
               (.srai d a i, BitVec.ofInt 64 (Int.fdiv A.toInt (2 ^ i.toNat)))] : List (Instr × W64)),
         i.toNat ≤ 63 → Usable s c x pa (semOf q.1) →
         Performs s c x pk q.1 ((popped s c x pa [.s a.toNat]).writeS d.toNat q.2 (now s c) 1)) ∧
      (let A := arg s c x pa [.s a.toNat] 0
       ∀ q ∈ ([(.mini d a i, if A.toInt ≤ i.toInt then A else i.signExtend 64), (.maxi d a i, if A.toInt ≤ i.toInt then i.signExtend 64 else A)] :
           List (Instr × W64)),
         Usable s c x pa (semOf q.1) →
         Performs s c x pk q.1 ((popped s c x pa [.s a.toNat]).writeS d.toNat q.2 (now s c) 1)) ∧
      (let r : List Src := [.s a.toNat, .s b.toNat, .cond k.toNat]
       k.toNat ≤ 11 → Usable s c x pa (semOf (.sel d a b k)) →
       Performs s c x pk (.sel d a b k) ((popped s c x pa r).writeS d.toNat
         (if (argV s c x pa r 2).getLsbD 0 then arg s c x pa r 0 else arg s c x pa r 1) (now s c) 1))) ∧
  (∀ (s : State) (c x pa : Nat) (pk : List Nat) (d a b : BitVec 5) (i : BitVec 24),
      Ready s c x pa pk → d ≠ 31 →
      (let A := arg s c x pa [.s a.toNat] 0
       ∀ q ∈ ([(.clz d a, BitVec.ofNat 64 (if A = 0 then 64 else 63 - Nat.log2 A.toNat)),
               (.ctz d a, BitVec.ofNat 64 (((List.range 64).find? (fun j => A.getLsbD j)).getD 64)),
               (.popc d a, BitVec.ofNat 64 ((List.range 64).countP (fun j => A.getLsbD j)))] : List (Instr × W64)),
         Usable s c x pa (semOf q.1) →
         Performs s c x pk q.1 ((popped s c x pa [.s a.toNat]).writeS d.toNat q.2 (now s c) 1)) ∧
      (let A := arg s c x pa [.s a.toNat, .s b.toNat] 0
       let B := arg s c x pa [.s a.toNat, .s b.toNat] 1
       let pos := B.toNat % 64
       let n := min (B.toNat / 256 % 128) (64 - pos)
       ∀ q ∈ ([(.bfx d a b, ((A >>> pos).setWidth n).signExtend 64), (.bfxz d a b, ((A >>> pos).setWidth n).setWidth 64)] : List (Instr × W64)),
         Usable s c x pa (semOf q.1) →
         Performs s c x pk q.1 ((popped s c x pa [.s a.toNat, .s b.toNat]).writeS d.toNat q.2 (now s c) 1)) ∧
      (let r : List Src := [.s d.toNat, .s a.toNat, .s b.toNat]
       let pos := (arg s c x pa r 2).toNat % 64
       let m : W64 := ((BitVec.allOnes (min ((arg s c x pa r 2).toNat / 256 % 128) (64 - pos))).setWidth 64) <<< pos
       Usable s c x pa (semOf (.bins d a b)) →
       Performs s c x pk (.bins d a b) ((popped s c x pa r).writeS d.toNat
         ((arg s c x pa r 0 &&& ~~~m) ||| (arg s c x pa r 1 <<< pos &&& m)) (now s c) 1)) ∧
      (Usable s c x pa (semOf (.movi d i)) →
       Performs s c x pk (.movi d i) ((popped s c x pa []).writeS d.toNat (i.signExtend 64) (now s c) 1)) ∧
      (let D := arg s c x pa [.s d.toNat] 0
       Usable s c x pa (semOf (.movup d i)) →
       Performs s c x pk (.movup d i) ((popped s c x pa [.s d.toNat]).writeS d.toNat
         ((i.signExtend 64 <<< 24) ||| (D &&& 0xFFFFFF)) (now s c) 1)))

/-- R184: division rounds toward zero; a zero divisor gives all ones, and the remainder is then the dividend; −2^63 / −1 wraps. -/
def Obligations.ScalarDivisionResults : Prop :=
  ∀ (s : State) (c x pa : Nat) (pk : List Nat) (d a b : BitVec 5),
    Ready s c x pa pk → d ≠ 31 →
    (let A := arg s c x pa [.s a.toNat, .s b.toNat] 0
     let B := arg s c x pa [.s a.toNat, .s b.toNat] 1
     ∀ q ∈ ([(.div d a b, if B = 0 then BitVec.allOnes 64 else BitVec.ofInt 64 (A.toInt.tdiv B.toInt)),
             (.divz d a b, if B = 0 then BitVec.allOnes 64 else BitVec.ofNat 64 (A.toNat / B.toNat)),
             (.rem d a b, if B = 0 then A else BitVec.ofInt 64 (A.toInt.tmod B.toInt)),
             (.remz d a b, if B = 0 then A else BitVec.ofNat 64 (A.toNat % B.toNat))] : List (Instr × W64)),
       Usable s c x pa (semOf q.1) →
       Performs s c x pk q.1 ((popped s c x pa [.s a.toNat, .s b.toNat]).writeS d.toNat q.2 (now s c) 18))

/-- R189: a compare writes the condition half of its steer register, and the immediate forms compare with the sign-extended immediate. -/
def Obligations.ScalarCompareResults : Prop :=
  ∀ (s : State) (c x pa : Nat) (pk : List Nat) (k a b : BitVec 5) (i : BitVec 19),
    Ready s c x pa pk → k.toNat ≤ 11 →
    (let A := arg s c x pa [.s a.toNat, .s b.toNat] 0
     let B := arg s c x pa [.s a.toNat, .s b.toNat] 1
     ∀ q ∈ ([(.cmpeq k a b, decide (A = B)), (.cmpne k a b, decide (A ≠ B)), (.cmplt k a b, decide (A.toInt < B.toInt)),
             (.cmple k a b, decide (A.toInt ≤ B.toInt)), (.cmpltz k a b, decide (A.toNat < B.toNat)),
             (.cmplez k a b, decide (A.toNat ≤ B.toNat)), (.cmpbit k a b, A.getLsbD (B.toNat % 64))] : List (Instr × Bool)),
       Usable s c x pa (semOf q.1) →
       Performs s c x pk q.1 ((popped s c x pa [.s a.toNat, .s b.toNat]).writeCond k.toNat q.2 (now s c) 1)) ∧
    (let A := arg s c x pa [.s a.toNat] 0
     let I : W64 := i.signExtend 64
     ∀ q ∈ ([(.cmpeqi k a i, decide (A = I)), (.cmpnei k a i, decide (A ≠ I)), (.cmplti k a i, decide (A.toInt < i.toInt)),
             (.cmplei k a i, decide (A.toInt ≤ i.toInt)), (.cmpltzi k a i, decide (A.toNat < I.toNat)),
             (.cmplezi k a i, decide (A.toNat ≤ I.toNat))] : List (Instr × Bool)),
       Usable s c x pa (semOf q.1) →
       Performs s c x pk q.1 ((popped s c x pa [.s a.toNat]).writeCond k.toNat q.2 (now s c) 1))

/-- R199, R200, R201: `mfs` reads each special register as it stands at issue, register 3 the module's chip id, which the spec leaves to the fabric
(log entry 5 for `cycle`), `fready` with what the context has published itself (log entry 107), `sig` whatever unit published it (log entry 127), `mpol`
and `lfsr` with 0 in bits [63:32] (log entry 128); `mts` writes each writable special register, its reserved bits reading 0, which ends a loss of its data (R271); `budget` writes register 23. -/
def Obligations.SpecialRegisterResults : Prop :=
  (∀ (s : State) (c x pa : Nat) (pk : List Nat) (d : BitVec 5), Ready s c x pa pk → d ≠ 31 →
      let v := view s c x pa
      let li := fun j => BitVec.ofNat 64 (liOf (s.hdrAt c x) v j)
      ∀ q ∈ ([(0, BitVec.ofNat 64 x), (1, BitVec.ofNat 64 c), (2, BitVec.ofNat 64 (c / 64)), (3, Config.chipId.setWidth 64),
              (4, BitVec.ofNat 64 v.unit), (5, li 0), (6, li 1), (7, li 2), (8, li 3), (9, li 4), (10, li 5), (11, v.launch), (12, v.seqlen),
              (13, match ((s.core c).withPubs (teamBase s c x) x).teamOf x with | some (_, t) => t.fready (hdrTags (s.hdrAt c x)) | none => 0),
              (14, if v.evt then 1 else 0), (15, v.mpol), (16, v.tcause), (17, v.tpc), (18, v.trec), (19, s.cycle), (20, v.lfsr.setWidth 64),
              (21, v.epoch), (22, sigFold (s.core c).sig), (23, v.budget.setWidth 64), (24, s.pwr c)] : List (BitVec 24 × W64)),
        Usable s c x pa (semOf (.mfs d q.1)) →
        Performs s c x pk (.mfs d q.1) ((popped s c x pa []).writeS d.toNat q.2 (now s c) 1)) ∧
  (∀ (s : State) (c x pa : Nat) (pk : List Nat) (a : BitVec 5) (i : BitVec 27), Ready s c x pa pk →
      (let A := arg s c x pa [.s a.toNat] 0
       let u := popped s c x pa [.s a.toNat]
       ∀ q ∈ ([(12, fun v => { v with seqlen := A }), (14, fun v => { v with evt := A.getLsbD 0 }), (15, fun v => { v with mpol := A &&& 0xFFFFF }),
               (16, fun v => { v with tcause := A &&& 0xFF }), (17, fun v => { v with tpc := A &&& ~~~3 }), (18, fun v => { v with trec := A &&& ~~~63 }),
               (20, fun v => { v with lfsr := A.setWidth 32 }), (23, fun v => { v with budget := A.setWidth 27 })] : List (BitVec 24 × (Ctx → Ctx))),
         Usable s c x pa (semOf (.mts a q.1)) → Performs s c x pk (.mts a q.1) (q.2 { u with lostRegs := u.mended (700 + q.1.toNat) })) ∧
      (Usable s c x pa (semOf (.budget i)) → Performs s c x pk (.budget i) { popped s c x pa [] with budget := i }))
/-! ### The C class -/

/-- R190, R191, R196: `nop` does nothing, `prep` and `prepx` set a target half and its flags, and a branch whose condition half does not
read as it wants goes on to the next bundle. After `yield` the context that tries next on the core is the first able to, in the order ctx+1, ctx+2,
ctx+3, ctx (R11, R12). -/
def Obligations.StraightControlResults : Prop :=
  ∀ (s : State) (c x pa : Nat) (pk : List Nat) (k : BitVec 4) (i : BitVec 27) (a : BitVec 5), Ready s c x pa pk →
    (let at_ := (s.ctx c x).pc / 64 * 64 + 4 * posOf s c x
     let aimed := fun (v : Ctx) (t : Nat) =>
       { v with st := vset v.st k.toNat { vget v.st k.toNat Steer.zero with
                  tgt := BitVec.ofNat 32 (t / 4), mis := decide (t % 4 ≠ 0), far := decide (t / 2 ^ 34 ≠ at_ / 2 ^ 34) } }
     (Usable s c x pa (semOf .nop) → Performs s c x pk .nop (popped s c x pa [])) ∧
     (k.toNat ≤ 11 → Usable s c x pa (semOf (.prep k i)) →
       Performs s c x pk (.prep k i) (aimed (popped s c x pa []) (BitVec.ofInt 64 ((at_ : Int) + 4 * i.toInt)).toNat)) ∧
     (k.toNat ≤ 11 → Usable s c x pa (semOf (.prepx k a)) →
       Performs s c x pk (.prepx k a) (aimed (popped s c x pa [.s a.toNat]) (arg s c x pa [.s a.toNat] 0).toNat)) ∧
     (k.toNat ≤ 11 → Usable s c x pa (semOf (.br k)) → (argV s c x pa [.cond k.toNat] 0).getLsbD 0 = false →
       Performs s c x pk (.br k) (popped s c x pa [.cond k.toNat])) ∧
     (k.toNat ≤ 11 → Usable s c x pa (semOf (.brn k)) → (argV s c x pa [.cond k.toNat] 0).getLsbD 0 = true →
       Performs s c x pk (.brn k) (popped s c x pa [.cond k.toNat])) ∧
     (Usable s c x pa (semOf .yield) →
       ∃ t, exec .yield s = .next t ∧ OnlyCtx s t c x ∧ t.ctx c x = onward s c x pk .yield (popped s c x pa []) ∧
         ((t.core c).search (t.core c).idle).map (t.core c).inOrder = [(x + 1) % 4, (x + 2) % 4, (x + 3) % 4, x].find? (t.core c).canTry))

/-- R160, R190, R191: a taken branch, `jmp`, `call` and `ret` send the pc to their target, and `call` writes `s30` with the address of the
next bundle, within a bound of 1, which is the model's reading (R170 lists none; log entry 24). -/
def Obligations.TransferResults : Prop :=
  ∀ (s : State) (c x pa : Nat) (pk : List Nat) (k : BitVec 4) (i : BitVec 27), Ready s c x pa pk →
    let at_ := (s.ctx c x).pc / 64 * 64 + 4 * posOf s c x
    let jump := (BitVec.ofInt 64 ((at_ : Int) + 4 * i.toInt)).toNat
    let goes := fun (j : Instr) (v : Ctx) (t : Nat) =>
      ∃ u, exec j s = .next u ∧ OnlyCtx s u c x ∧ u.ctx c x = { v with pc := t, preps := nextPreps v [(posOf s c x, semOf j)] }
    (∀ q ∈ ([(.br k, true), (.brn k, false)] : List (Instr × Bool)),
      let v := popped s c x pa [.cond k.toNat]
      let h := vget v.st k.toNat Steer.zero
      let t := (s.ctx c x).pc / 2 ^ 34 * 2 ^ 34 + h.tgt.toNat * 4
      k.toNat ≤ 11 → Usable s c x pa (semOf q.1) → (argV s c x pa [.cond k.toNat] 0).getLsbD 0 = q.2 →
      h.mis = false → h.far = false → opens (base s c x pa [.cond k.toNat]) c x t → goes q.1 v t) ∧
    (Usable s c x pa (semOf (.jmp i)) → opens (base s c x pa []) c x jump → goes (.jmp i) (popped s c x pa []) jump) ∧
    (Usable s c x pa (semOf (.call i)) → opens (base s c x pa []) c x jump →
      goes (.call i) ((popped s c x pa []).writeS 30 (BitVec.ofNat 64 (nextPc s c x pk)) (now s c) 1) jump) ∧
    (let r := arg s c x pa [.s 30] 0
     Usable s c x pa (semOf .ret) → opens (base s c x pa [.s 30]) c x r.toNat → goes .ret (popped s c x pa [.s 30]) r.toNat)

/-- R192, R193, R194, R195: `nest` with a trip count and extra passes opens a level whose body begins at the next bundle, and with no
passes goes past the end bundle; `lrot` rotates the bases and stage predicates; `lbrk` leaves the innermost level for the bundle after its
end. No `sset` may be in its window here (log entry 30 says what the model does then). At the end bundle of the innermost level control goes
back to the body while passes are left, and out of the level after the last, which is stated of `nop`. -/
def Obligations.NestResults : Prop :=
  (∀ (s : State) (c x pa : Nat) (pk : List Nat) (l : BitVec 3) (r : BitVec 1) (k : BitVec 5) (n : BitVec 22), Ready s c x pa pk →
      (view s c x pa).sets = [] →
      (let i : Instr := .nest l r k n
       let v := popped s c x pa [.s k.toNat]
       let A := arg s c x pa [.s k.toNat] 0
       let trips := A.toNat % 2 ^ 32
       let passes := trips + A.toNat / 2 ^ 32 % 4
       let last := (s.ctx c x).pc / 64 * 64 + 4 * posOf s c x + 4 * n.toNat
       let after := (base s c x pa [.s k.toNat]).bundleAfter c x last
       Clear s c x pa pk (semOf i) →
       ∃ t, exec i s = .next t ∧ OnlyCtx s t c x ∧
         (passes = 0 → (t.ctx c x).pc = after ∧ (t.ctx c x).nest = v.nest ∧ (t.ctx c x).sg = v.sg) ∧
         (0 < passes → (∀ b ∈ v.nest, b.last ≠ (s.ctx c x).pc) →
           (t.ctx c x).sg = (if 0 < trips then 1 else 0) ∧ (t.ctx c x).pc = nextPc s c x pk ∧
           (t.ctx c x).nest = { level := l.toNat, rev := r == 1, trips := trips, passes := passes, pass := 0, body := nextPc s c x pk,
                                last := last, after := after } :: v.nest)) ∧
      (let v := popped s c x pa []
       Usable s c x pa (semOf .lrot) →
       Performs s c x pk .lrot { v with
         lb := Vector.ofFn (fun (i : Fin 8) => vget v.lb ((i.val + 7) % 8) 0)
         sg := (v.sg <<< 1) ||| (match v.nest with | a :: _ => (if a.pass + 1 < a.trips then 1 else 0) | [] => 0) }) ∧
      (let v := popped s c x pa []
       ∀ a m, v.nest = a :: m → Usable s c x pa (semOf .lbrk) →
       ∃ t, exec .lbrk s = .next t ∧ OnlyCtx s t c x ∧ (t.ctx c x).nest = m ∧ (t.ctx c x).pc = a.after)) ∧
  (∀ (s : State) (c x pa : Nat) (pk : List Nat) (a : Nest) (m : List Nest), Ready s c x pa pk →
      Usable s c x pa (semOf .nop) → (view s c x pa).nest = a :: m → a.last = (s.ctx c x).pc →
      ∃ t, exec .nop s = .next t ∧
        (a.pass + 1 < a.passes → (t.ctx c x).pc = a.body ∧ (t.ctx c x).nest = { a with pass := a.pass + 1 } :: m) ∧
        (a.passes ≤ a.pass + 1 → (∀ b ∈ m, b.last ≠ (s.ctx c x).pc) → (t.ctx c x).pc = nextPc s c x pk ∧ (t.ctx c x).nest = m))

/-- R30, R31, R32, R33, R34, R196: `exit` begins the context's drain and ends its nests; `wfe` goes on once the event latch is set, and clears it;
`sev` sets out for the four contexts of every core of the die that its mask names, to arrive within 64 cycles, on the clock of the issuing and of the receiving core (the model's reading: log entry 26). A context whose earlier accesses
have been performed arrives at a barrier; `bar` goes on once the phase it arrived in has completed, `barv` at once; a `bar` that arrives ahead
of its issue is the model's reading of R262 (log entry 104). When every other participant has arrived, or has exited, the arrival completes the phase. -/
def Obligations.ContextAndBarrierResults : Prop :=
  (∀ (s : State) (c x pa : Nat) (pk : List Nat) (k : BitVec 5), Ready s c x pa pk →
      (Clear s c x pa pk (semOf .exit) →
        ∃ t, exec .exit s = .next t ∧ OnlyCtx s t c x ∧ (t.ctx c x).status = .exiting ∧ (t.ctx c x).nest = [] ∧
          (t.ctx c x).pc = (s.ctx c x).pc) ∧
      (Usable s c x pa (semOf .wfe) → (view s c x pa).evt = true →
        Performs s c x pk .wfe { popped s c x pa [] with evt := false }) ∧
      (let m := arg s c x pa [.s k.toNat] 0
       let b := base s c x pa [.s k.toNat]
       Usable s c x pa (semOf (.sev k)) →
       ∃ t, exec (.sev k) s = .next t ∧ SameOutside s t ∧ t.ctx c x = onward s c x pk (.sev k) (popped s c x pa [.s k.toNat]) ∧
         (∀ p, p < 64 → (t.core (c / 64 * 64 + p)).sevs =
           (b.core (c / 64 * 64 + p)).sevs ++
             (if m.getLsbD p then [0, 1, 2, 3].map (fun y =>
               { ctx := y, issuer := c, until_ := now s c + 64, due := (b.core (c / 64 * 64 + p)).clock + 64 }) else [])) ∧
         (∀ j, j ≠ c → j / 64 ≠ c / 64 → t.core j = s.core j))) ∧
  (∀ (s : State) (c x pa : Nat) (pk : List Nat) (n : BitVec 4), Ready s c x pa pk →
      let key := (s.core c).barKey x n.toNat
      let b := base s c x pa []
      let all := ((s.core c).participants (key / 16)).all (fun y =>
        ((s.core c).barrier key).arrived.contains y || y == x || (s.ctx c y).status == .exited)
      let k := if (view s c x pa).ops = [] then (b.core c).arrive x n.toNat (s.ctx c x).pc false else b.core c
      (Clear s c x pa pk (semOf (.bar n)) →
        k.passed x n.toNat (s.ctx c x).pc = true ∧
        ∃ t, exec (.bar n) s = .next t ∧ SameOutside s t ∧
          (t.core c).barriers = (k.leave x n.toNat (s.ctx c x).pc).barriers ∧
          (t.ctx c x).arrived = (k.ctx x).arrived.filter (fun a => !(a.1 == key && a.2.1 == (s.ctx c x).pc)) ∧
          (t.ctx c x).s = (view s c x pa).s ∧ (t.ctx c x).v = (view s c x pa).v ∧
          (t.ctx c x).pc = (onward s c x pk (.bar n) (popped s c x pa [])).pc) ∧
      (Clear s c x pa pk (semOf (.barv n)) → (view s c x pa).ops = [] →
        ∃ t, exec (.barv n) s = .next t ∧ SameOutside s t ∧ (t.ctx c x).s = (view s c x pa).s ∧ (t.ctx c x).v = (view s c x pa).v ∧
          (t.ctx c x).pc = (onward s c x pk (.barv n) (popped s c x pa [])).pc ∧
          (t.core c).barrier key =
            (if all then { phase := ((s.core c).barrier key).phase + 1, arrived := [], owing := []
                           owed := ((s.core c).barrier key).owing.map (fun y => (y, 0)) }
             else { (s.core c).barrier key with arrived := insertNat x ((s.core c).barrier key).arrived })))

/-- The trap that a bundle of core `c`, context `x`, is left in (R261): `tcause` and `tpc` are written, no result is in flight, the record
leaves for `trec` as plain stores at context scope, and the pc goes to the header's trap entry. That they are two stores, of 32 bytes each, is the
model's choice (log entry 138). -/
def Obligations.TrapAndBreakResults : Prop :=
  ∀ (s : State) (c x pa : Nat) (pk : List Nat) (i : BitVec 27) (pas : List Nat), Ready s c x pa pk →
    (s.ctx c x).handler = none → (base s c x pa []).recordPlace c x = .ok pas → (s.ctx c x).nest = [] →
    ∀ q ∈ ([(.trap i, 0x14), (.brk i, 0x15)] : List (Instr × Nat)), Usable s c x pa (semOf q.1) →
      let v := view s c x pa
      let f : Flt := { step := 0, cause := q.2, detail := i.toNat }
      let a := v.trec.toNat / 64 * 64
      let ws := pas.zip (leBytes 64 (f.record (s.ctx c x).pc s.cycle).toNat)
      ∃ t, exec q.1 s = .next t ∧ SameOutside s t ∧ KeptCore (s.core c) (t.core c) ∧
        (t.ctx c x).tcause = BitVec.ofNat 64 q.2 ∧ (t.ctx c x).tpc = BitVec.ofNat 64 (nextPc s c x pk) ∧
        (t.ctx c x).pc = hdrTrap (s.hdrAt c x) ∧ (t.ctx c x).status = .ready ∧ (t.ctx c x).flight = [] ∧
        (t.ctx c x).handler = some { cause := q.2, cmd := none, unitWd := v.condemned, resend := [] } ∧
        (t.ctx c x).ops = v.landAll.ops ++
          [{ id := v.seq, kind := .store none, bytes := [], writes := ws.take 32, ord := 0, scope := 0, bundle := nextPc s c x pk, va := a },
           { id := v.seq + 1, kind := .store none, bytes := [], writes := ws.drop 32, ord := 0, scope := 0, bundle := nextPc s c x pk, va := a + 32 }] ∧
        (t.ctx c x).s = v.landAll.s ∧ (t.ctx c x).v = v.landAll.v ∧ (t.ctx c x).m = v.landAll.m ∧ (t.ctx c x).a = v.a ∧
        (t.ctx c x).lq = v.lq ∧ (t.ctx c x).lqs = v.lqs

/-- R28, R160, R166, R181, R198, R260, R261: a syllable whose fields break its limits raises ILLSYL at issue, a register at or beyond the header's count RESOVER,
except that an `rte` outside the handler with an undeclared register is illegal first, which is the model's reading (log entry 56); a taken branch to a target with its misaligned flag set traps with
ALIGN, one with its far flag set with XLATE. The trap is taken with `tpc` at the bundle, and the syllable has none of its effects: results in flight have
landed, the record's two stores (log entry 138) follow the context's accesses, and its registers, masks, steers, streams, ports, deferral queue and nest levels, the
core's tags, commands and pending `xf` writes, memory and all else stay. -/
def Obligations.FaultingBundlesTrap : Prop :=
  let entry := fun (s t : State) (c x pa : Nat) =>
    let w := (view s c x pa).landAll
    OnlyCtx s t c x ∧ (t.core c).xfSets = ((fetched s c x pa).landed c x |>.core c).xfSets ∧
      (t.ctx c x).ops.length = w.ops.length + 2 ∧ (t.ctx c x).ops.take w.ops.length = w.ops ∧
      { t.ctx c x with ops := w.ops, seq := w.seq, tpc := w.tpc, tcause := w.tcause, lostRegs := w.lostRegs, status := w.status, pc := w.pc
                       resend := w.resend, handler := w.handler } = w
  (∀ (s : State) (c x pa : Nat) (pk : List Nat) (i : Instr), (encode i).isSome = true → Ready s c x pa pk →
      (s.ctx c x).handler = none → ((fetched s c x pa).landed c x |>.recordPlace c x).isOk = true →
      blocksBefore (s.core c) (view s c x pa) (teamBase s c x) [(0, semOf i)] = false →
      i.wf = false ∨ (semOf i).over (s.hdrAt c x) = true →
      ∃ t, exec i s = .next t ∧
        (t.ctx c x).tcause = (if i.wf && !(match i with | .rte _ => true | _ => false) then 4 else 1) ∧
        (t.ctx c x).tpc = BitVec.ofNat 64 (s.ctx c x).pc ∧ (t.ctx c x).pc = hdrTrap (s.hdrAt c x) ∧ (t.ctx c x).handler.isSome = true ∧
        entry s t c x pa) ∧
  (∀ (s : State) (c x pa : Nat) (pk : List Nat) (k : BitVec 4), Ready s c x pa pk →
      (∀ q ∈ ([(.br k, true), (.brn k, false)] : List (Instr × Bool)),
        let v := popped s c x pa [.cond k.toNat]
        let h := vget v.st k.toNat Steer.zero
        k.toNat ≤ 11 → Usable s c x pa (semOf q.1) → (argV s c x pa [.cond k.toNat] 0).getLsbD 0 = q.2 →
        h.mis = true ∨ h.far = true → (s.ctx c x).handler = none →
        ((fetched s c x pa).landed c x |>.recordPlace c x).isOk = true →
        ∃ t, exec q.1 s = .next t ∧ (t.ctx c x).tcause = (if h.mis then 5 else 11) ∧
          (t.ctx c x).tpc = BitVec.ofNat 64 (s.ctx c x).pc ∧ (t.ctx c x).pc = hdrTrap (s.hdrAt c x) ∧ (t.ctx c x).handler.isSome = true ∧
          entry s t c x pa))

/-- R98, R126, R128, R198, R263, R264, R277, R380: `rte` leaves the handler for `tpc`, and counts no pass where it stands in the end bundle of an active
level, of which R193 is silent (log entry 109). In the trap of a halted engine command its choice resumes the command
(0), resumes it past the halted piece (1), or aborts it (2), a card whose replay was saved meanwhile being replayed anew, with every member's load where the command is a group load (R98). From a unit watchdog it acts as `exit` (R277). The
choice 3 is reserved and raises ILLSYL in the handler, a nested fault that ends the launch (R263); an `rte` outside the handler raises ILLSYL. -/
def Obligations.TrapReturnResults : Prop :=
  ∀ (s : State) (c x pa : Nat) (pk : List Nat) (k : BitVec 5), Ready s c x pa pk →
    let A := arg s c x pa [.s k.toNat] 0
    let v := popped s c x pa [.s k.toNat]
    (∀ h, (s.ctx c x).handler = some h → h.resend = [] → Usable s c x pa (semOf (.rte k)) →
      opens (base s c x pa [.s k.toNat]) c x (view s c x pa).tpc.toNat →
      (h.cmd = none → (∀ a ∈ (view s c x pa).arrived, a.2.1 = (view s c x pa).tpc.toNat) →
        ∃ t, exec (.rte k) s = .next t ∧ OnlyCtx s t c x ∧
          t.ctx c x = { v with handler := none, pc := v.tpc.toNat, resend := [], status := (if h.unitWd then .exiting else .ready), condemned := h.unitWd
                               preps := nextPreps v [(posOf s c x, semOf (.rte k))] }) ∧
      (∀ id m, h.cmd = some id → (s.core c).cmd id = some m → m.st = .halted → A.toNat % 4 ≤ 1 →
        ∃ t, exec (.rte k) s = .next t ∧ (t.ctx c x).handler = none ∧ (t.ctx c x).pc = v.tpc.toNat ∧
          ((t.core c).cmd id).map (fun n => (n.st, n.halt, n.skip)) =
            some (if m.kind = .jcard ∧ m.replays ≠ 0 ∧ m.chan = 0 then .requeued else .running, none, if A.toNat % 4 = 1 then (match m.halt with | some g => m.skip ++ [g.piece] | none => m.skip) else m.skip)) ∧
      (∀ id m, h.cmd = some id → (s.core c).cmd id = some m → m.st = .halted → A.toNat % 4 = 2 →
        ∃ t, exec (.rte k) s = .next t ∧ (t.ctx c x).handler = none ∧ (t.ctx c x).pc = v.tpc.toNat ∧ (t.core c).cmd id = none ∧
          (m.kind = .gld → ∀ l lv key G h a, s.launchOf l = some lv → tget lv.groups key = some G → h ∈ G.holds → h.halted = true →
            h.holds c id = true → a ∈ h.asks → a.served = false → (t.core a.core).cmd a.cmd = none))) ∧
    (∀ h id l lv, (s.ctx c x).handler = some h → h.cmd = some id → A.toNat % 4 = 3 → s.launchAt c x = some (l, lv) → lv.ended = false →
      blocksBefore (s.core c) (view s c x pa) (teamBase s c x) [(0, semOf (.rte k))] = false → Usable s c x pa (semOf (.rte k)) →
      ∃ t, exec (.rte k) s = .next t ∧ (t.ctx c x).status = .dead ∧
        (t.launchOf l).map (fun w => (w.ended, w.status, w.cause, w.tpc)) = some (true, 1, 1, BitVec.ofNat 64 (s.ctx c x).pc)) ∧
    ((s.ctx c x).handler = none → ((fetched s c x pa).landed c x |>.recordPlace c x).isOk = true → Usable s c x pa (semOf (.rte k)) →
      ∃ t, exec (.rte k) s = .next t ∧ (t.ctx c x).tcause = 1 ∧ (t.ctx c x).tpc = BitVec.ofNat 64 (s.ctx c x).pc ∧
        (t.ctx c x).pc = hdrTrap (s.hdrAt c x))

/-! ### The V, F, U and K classes -/

/-- R203, R204, R205, R207: lane arithmetic. Lane i of the destination receives the result on the lanes i of the sources where its predicate
bit is 1; an integer result is reduced modulo the lane, `vadds` and `vsubs` saturate, and a floating-point one is the type's own operation.
Each tuple holds an instruction, its latency bound and the lane's function. -/
def Obligations.LaneArithmeticResults : Prop :=
  ∀ (s : State) (c x pa : Nat) (pk : List Nat) (t : BitVec 3) (w : BitVec 2) (d a b : BitVec 5) (m : BitVec 3), Ready s c x pa pk →
    w ≠ 3 → t.toNat ≤ 6 →
    let size := laneSize t.toNat
    let n := 256 * 2 ^ w.toNat / size
    let F := fpOf t.toNat
    let flt : Bool := decide (t.toNat ≤ 2)
    let I := intVal t.toNat
    let wrap := fun (z : Int) => (z % 2 ^ size).toNat
    let sat := fun (z : Int) => wrap (max (intLo t.toNat) (min z (intHi t.toNat)))
    let r : List Src := [.v a.toNat, .v b.toNat, .m m.toNat]
    let on := laneMask size n (predBit (arg s c x pa r 2) size)
    let of := fun (f : Nat → Nat → Nat) => lanes size n (fun i => f (lane (argV s c x pa r 0) size i) (lane (argV s c x pa r 1) size i))
    (∀ q ∈ ([(.vadd t w d a b m, 3, fun p q => if flt then F.add p q else wrap (I p + I q)),
             (.vsub t w d a b m, 3, fun p q => if flt then F.sub p q else wrap (I p - I q)),
             (.vmul t w d a b m, 5, fun p q => if flt then F.mul p q else wrap (I p * I q)),
             (.vmin t w d a b m, 3, fun p q => if flt then F.min p q else if I p ≤ I q then p else q),
             (.vmax t w d a b m, 3, fun p q => if flt then F.max p q else if I p ≤ I q then q else p)] : List (Instr × Nat × (Nat → Nat → Nat))),
      Usable s c x pa (semOf q.1) →
      Performs s c x pk q.1 ((popped s c x pa r).writeV d.toNat on (of q.2.2) (now s c) q.2.1)) ∧
    (3 ≤ t.toNat → ∀ q ∈ ([(.vadds t w d a b m, fun p q => sat (I p + I q)), (.vsubs t w d a b m, fun p q => sat (I p - I q))] :
        List (Instr × (Nat → Nat → Nat))),
      Usable s c x pa (semOf q.1) →
      Performs s c x pk q.1 ((popped s c x pa r).writeV d.toNat on (of q.2) (now s c) 3)) ∧
    (let r : List Src := [.v d.toNat, .v a.toNat, .v b.toNat, .m m.toNat]
     let l := fun (j i : Nat) => lane (argV s c x pa r j) size i
     Usable s c x pa (semOf (.vfma t w d a b m)) →
     Performs s c x pk (.vfma t w d a b m) ((popped s c x pa r).writeV d.toNat (laneMask size n (predBit (arg s c x pa r 3) size))
       (lanes size n (fun i => if flt then F.fma (l 1 i) (l 2 i) (l 0 i) else wrap (I (l 1 i) * I (l 2 i) + I (l 0 i)))) (now s c) 5))

/-- R208: a vector compare writes a mask: bit i for 16-bit lanes, bits 2i and 2i + 1 for 32-bit lanes, where the predicate bit is 1. -/
def Obligations.VectorCompareResults : Prop :=
  ∀ (s : State) (c x pa : Nat) (pk : List Nat) (t : BitVec 3) (w : BitVec 2) (d : BitVec 3) (a b : BitVec 5) (m : BitVec 3),
    Ready s c x pa pk → w ≠ 3 → t.toNat ≤ 6 →
    let size := laneSize t.toNat
    let n := 256 * 2 ^ w.toNat / size
    let I := intVal t.toNat
    let r : List Src := [.v a.toNat, .v b.toNat, .m m.toNat]
    let p := predBit (arg s c x pa r 2) size
    ∀ q ∈ ([(.vcmpeq t w d a b m, fun u v => if t.toNat ≤ 2 then (fpOf t.toNat).cmp 0 u v else decide (I u = I v)),
            (.vcmplt t w d a b m, fun u v => if t.toNat ≤ 2 then (fpOf t.toNat).cmp 1 u v else decide (I u < I v)),
            (.vcmple t w d a b m, fun u v => if t.toNat ≤ 2 then (fpOf t.toNat).cmp 2 u v else decide (I u ≤ I v))] :
          List (Instr × (Nat → Nat → Bool))),
      Usable s c x pa (semOf q.1) →
      Performs s c x pk q.1 ((popped s c x pa r).writeM d.toNat (cmpBits size n p)
        (cmpBits size n (fun i => p i && q.2 (lane (argV s c x pa r 0) size i) (lane (argV s c x pa r 1) size i))) (now s c) 3)

/-- R210, R211, R214: bitwise operations and moves in 16-bit positions, shifts and the rotation in 32-bit lanes by the low five bits,
and selection by a mask. -/
def Obligations.VectorBitwiseResults : Prop :=
  ∀ (s : State) (c x pa : Nat) (pk : List Nat) (w : BitVec 2) (d a b : BitVec 5) (m : BitVec 3), Ready s c x pa pk → w ≠ 3 →
    let r : List Src := [.v a.toNat, .v b.toNat, .m m.toNat]
    let l := fun (size j i : Nat) => lane (argV s c x pa r j) size i
    (∀ q ∈ ([(.vand w d a b m, 16, fun p q => Nat.land p q), (.vor w d a b m, 16, fun p q => Nat.lor p q),
             (.vxor w d a b m, 16, fun p q => Nat.xor p q), (.vandn w d a b m, 16, fun p q => Nat.land p (65535 - q)),
             (.vshl w d a b m, 32, fun p q => p * 2 ^ (q % 32) % 2 ^ 32), (.vshr w d a b m, 32, fun p q => p / 2 ^ (q % 32)),
             (.vsra w d a b m, 32, fun p q => ((BitVec.ofNat 32 p).sshiftRight (q % 32)).toNat),
             (.vrot w d a b m, 32, fun p q => ((BitVec.ofNat 32 p).rotateLeft (q % 32)).toNat)] : List (Instr × Nat × (Nat → Nat → Nat))),
      Usable s c x pa (semOf q.1) →
      let n := 256 * 2 ^ w.toNat / q.2.1
      Performs s c x pk q.1 ((popped s c x pa r).writeV d.toNat (laneMask q.2.1 n (predBit (arg s c x pa r 2) q.2.1))
        (lanes q.2.1 n (fun i => q.2.2 (l q.2.1 0 i) (l q.2.1 1 i))) (now s c) 3)) ∧
    (let n := 256 * 2 ^ w.toNat / 16
     Usable s c x pa (semOf (.vsel w d a b m)) →
     Performs s c x pk (.vsel w d a b m) ((popped s c x pa r).writeV d.toNat (laneMask 16 n (fun _ => true))
       (lanes 16 n (fun i => if (arg s c x pa r 2).getLsbD i then l 16 0 i else l 16 1 i)) (now s c) 3)) ∧
    (let r : List Src := [.v a.toNat, .m m.toNat]
     let n := 256 * 2 ^ w.toNat / 16
     Usable s c x pa (semOf (.vmov w d a m)) →
     Performs s c x pk (.vmov w d a m) ((popped s c x pa r).writeV d.toNat
       (laneMask 16 n (fun i => (arg s c x pa r 1).getLsbD i)) (argV s c x pa r 0) (now s c) 3))

/-- R55, R56, R209, R212, R213: conversions between lane types, the reduction tree with its identities, and the prefix sums. -/
def Obligations.VectorReductionResults : Prop :=
  ∀ (s : State) (c x pa : Nat) (pk : List Nat) (t : BitVec 3) (w : BitVec 2) (d a b : BitVec 5) (m : BitVec 3), Ready s c x pa pk → w ≠ 3 →
    let r : List Src := [.v a.toNat, .m m.toNat]
    let V := argV s c x pa r 0
    let M := arg s c x pa r 1
    let v := popped s c x pa r
    let flt := fun (ty : Nat) => decide (ty ≤ 2)
    let sum := fun (ty p q : Nat) => if ty = 3 ∨ ty = 4 then laneAdds ty p q else laneAdd ty p q
    let put := fun (ty : Nat) (e : Nat) => (List.range (256 * 2 ^ w.toNat / laneSize ty)).map
      (fun i => if predBit M (laneSize ty) i then lane V (laneSize ty) i else e)
    (t.toNat ≤ 6 → b.toNat ≤ 6 → b.toNat ≠ t.toNat → t.toNat ≤ 2 ∨ b.toNat ≤ 2 → Usable s c x pa (semOf (.vcvt t w d a b m)) →
      let wide := max (laneSize t.toNat) (laneSize b.toNat)
      let n := 256 * 2 ^ w.toNat / wide
      Performs s c x pk (.vcvt t w d a b m) (v.writeV d.toNat (laneMask (laneSize b.toNat) n (predBit M wide))
        (lanes (laneSize b.toNat) n (fun i => laneConvert t.toNat b.toNat (lane V (laneSize t.toNat) i))) (now s c) 4)) ∧
    (t.toNat ≤ 6 → b.toNat ≤ 2 → Usable s c x pa (semOf (.vred t w d a b m)) →
      let ty := t.toNat
      let z := if b.toNat = 0 then treeOf (sum ty) 6 (put ty (if flt ty then (fpOf ty).signed true 0 else 0))
        else if b.toNat = 1 then treeOf (laneMax ty) 6 (put ty (if flt ty then (fpOf ty).encode (.inf true) else intBits ty (intLo ty)))
        else treeOf (laneMin ty) 6 (put ty (if flt ty then (fpOf ty).encode (.inf false) else intBits ty (intHi ty)))
      Performs s c x pk (.vred t w d a b m) (v.writeV d.toNat (laneMask (laneSize ty) 1 (fun _ => true))
        (lanes (laneSize ty) 1 (fun _ => z)) (now s c) 6)) ∧
    (b.toNat ≤ 6 → Usable s c x pa (semOf (.vscan w d a b m)) →
      let ty := b.toNat
      let n := 256 * 2 ^ w.toNat / laneSize ty
      let y := scanOf (sum ty) 6 1 (put ty (if flt ty then (fpOf ty).signed true 0 else 0))
      Performs s c x pk (.vscan w d a b m) (v.writeV d.toNat (laneMask (laneSize ty) n (fun _ => true))
        (lanes (laneSize ty) n (fun i => y.getD i 0)) (now s c) 6))

/-- R214: broadcasts, permutations, lane indices, single lanes moved to and from scalar registers, and the test of two masks. -/
def Obligations.VectorMoveResults : Prop :=
  ∀ (s : State) (c x pa : Nat) (pk : List Nat) (w : BitVec 2) (d a b : BitVec 5) (e m : BitVec 3), Ready s c x pa pk → w ≠ 3 →
    let n := 256 * 2 ^ w.toNat / 32
    (let r : List Src := [.s a.toNat, .m m.toNat]
     let size := laneSize b.toNat
     b.toNat ≤ 6 → Usable s c x pa (semOf (.vbcast w d a b m)) →
     Performs s c x pk (.vbcast w d a b m) ((popped s c x pa r).writeV d.toNat
       (laneMask size (256 * 2 ^ w.toNat / size) (predBit (arg s c x pa r 1) size))
       (lanes size (256 * 2 ^ w.toNat / size) (fun _ => (arg s c x pa r 0).toNat)) (now s c) 3)) ∧
    (let r : List Src := [.v a.toNat, .v b.toNat, .m m.toNat]
     Usable s c x pa (semOf (.vperm w d a b m)) →
     Performs s c x pk (.vperm w d a b m) ((popped s c x pa r).writeV d.toNat (laneMask 32 n (predBit (arg s c x pa r 2) 32))
       (lanes 32 n (fun i => lane (argV s c x pa r 0) 32 (lane (argV s c x pa r 1) 32 i % n))) (now s c) 4)) ∧
    (let r : List Src := [.m m.toNat]
     Usable s c x pa (semOf (.vidx w d m)) →
     Performs s c x pk (.vidx w d m) ((popped s c x pa r).writeV d.toNat (laneMask 32 n (predBit (arg s c x pa r 0) 32))
       (lanes 32 n (fun i => i)) (now s c) 3)) ∧
    (let r : List Src := [.v a.toNat, .m m.toNat]
     d ≠ 31 → b.toNat < n → Usable s c x pa (semOf (.vext w d a b m)) →
     Performs s c x pk (.vext w d a b m) (if predBit (arg s c x pa r 1) 32 b.toNat then
       (popped s c x pa r).writeS d.toNat (BitVec.ofNat 64 (lane (argV s c x pa r 0) 32 b.toNat)) (now s c) 3 else popped s c x pa r)) ∧
    (let r : List Src := [.s a.toNat, .m m.toNat]
     b.toNat < n → Usable s c x pa (semOf (.vins w d a b m)) →
     Performs s c x pk (.vins w d a b m) ((popped s c x pa r).writeV d.toNat
       (if predBit (arg s c x pa r 1) 32 b.toNat then BitVec.ofNat 1024 ((2 ^ 32 - 1) * 2 ^ (32 * b.toNat)) else 0)
       (lanes 32 32 (fun _ => (arg s c x pa r 0).toNat)) (now s c) 3)) ∧
    (let r : List Src := [.m e.toNat, .m m.toNat]
     d.toNat ≤ 11 → Usable s c x pa (semOf (.vtest w d e m)) →
     Performs s c x pk (.vtest w d e m) ((popped s c x pa r).writeCond d.toNat
       ((List.range (256 * 2 ^ w.toNat / 16)).any (fun i => (arg s c x pa r 0).getLsbD i && (arg s c x pa r 1).getLsbD i)) (now s c) 3))

/-- R60, R62, R215: a special function is applied in each lane whose predicate bit is 1, in the type of its t field. In bf16 and f16 a value is the
nearest; in f32, and in the degraded mode, it is one of the two values of the type that bracket the exact one, and that value itself where it is
representable: which of the two comes is left open (log entry 6), and the statement holds for either. The exact value is `sfValue`'s: a special
result (R61), or one of leading part m × 2^e. That `exp2` and `exp` underflow to +0 where the nearest value does is the model's reading (log entry
97). -/
def Obligations.SpecialFunctionResults : Prop :=
  (∀ (s : State) (c x pa : Nat) (pk : List Nat) (w t : BitVec 2) (d a : BitVec 5) (m : BitVec 3), Ready s c x pa pk →
    (let r : List Src := [.v a.toNat, .m m.toNat]
     let size := laneSize t.toNat
     let n := 256 * 2 ^ w.toNat / size
     let degraded := (s.core c).sfDegraded
     ∀ q ∈ ([(.exp2 w t d a m, 0), (.exp w t d a m, 1), (.log2 w t d a m, 2), (.ln w t d a m, 3), (.rcp w t d a m, 4),
             (.rsqrt w t d a m, 5), (.sqrt w t d a m, 6), (.sin w t d a m, 7), (.cos w t d a m, 8), (.tanh w t d a m, 9),
             (.sigm w t d a m, 10), (.gelu w t d a m, 11), (.silu w t d a m, 12), (.erf w t d a m, 13)] : List (Instr × Nat)),
       q.1.wf = true → Usable s c x pa (semOf q.1) →
       Performs s c x pk q.1 ((popped s c x pa r).writeV d.toNat (laneMask size n (predBit (arg s c x pa r 1) size))
         (lanes size n (fun i => sfLane q.2 t.toNat degraded (lane (argV s c x pa r 0) size i))) (now s c) 10))) ∧
  (∀ (func ty c : Nat) (degraded : Bool), func < 14 → ty ≤ 2 →
    let F := fpOf ty
    let val : Nat → ℚ := fun k => match F.decode k with | .fin _ n g => (n : ℚ) * 2 ^ g | _ => 0
    match sfValue func (F.decode c) with
    | .inl v => sfLane func ty degraded c = F.encode v
    | .inr l =>
      if func ≤ 1 ∧ l.nearest F = 0 then sfLane func ty degraded c = 0
      else if ty ≠ 0 ∧ degraded = false then sfLane func ty degraded c = l.nearest F
      else ∃ lo, lo ≤ F.maxCode ∧ val lo ≤ (l.m : ℚ) * 2 ^ l.e ∧ (lo = F.maxCode ∨ (l.m : ℚ) * 2 ^ l.e < val (lo + 1)) ∧
        (sfLane func ty degraded c = F.signed l.neg lo ∨ sfLane func ty degraded c = F.signed l.neg (lo + 1)) ∧
        (l.more = false → val lo = (l.m : ℚ) * 2 ^ l.e → sfLane func ty degraded c = F.signed l.neg lo))

/-- R47, R51, R216, R217, R218, R219: unpacking decodes the elements of a piece into lanes, packing rounds lanes into the piece the p field
names and leaves every other bit of the destination; the block forms write or read four scale bytes beside. Under stochastic rounding
`lfsr` steps once per element. -/
def Obligations.PackUnpackResults : Prop :=
  ∀ (s : State) (c x pa : Nat) (pk : List Nat) (d a : BitVec 5) (p : BitVec 3) (k : BitVec 2) (i : BitVec 6) (t j : BitVec 2) (g : BitVec 4),
    Ready s c x pa pk →
    let r : List Src := [.v a.toNat]
    let V := argV s c x pa r 0
    let v := popped s c x pa r
    let xf := xfAt s c x pa r k.toNat
    let num := fun (ty i : Nat) => laneNum ty V i
    let md := fun (n i : Nat) => xfMode xf ((lfsrRun n v.lfsr).getD i 0)
    let step := fun (n : Nat) => if xfRound xf = 2 then { v with lfsr := (lfsrRun n v.lfsr).getLastD v.lfsr } else v
    let es := fun (ty b : Nat) => q4Scale (fpOf ty) j.toNat ((List.range 8).map (fun q => num ty (8 * b + q)))
    (let i' : Instr := .unpk d a p k i
     let src := fpOf (i.toNat % 16)
     let n := pieceCount src.width
     i'.wf = true → Usable s c x pa (semOf i') →
     Performs s c x pk i' (v.writeV d.toNat (laneMask (laneSize (i.toNat / 16)) n (fun _ => true)) (lanes (laneSize (i.toNat / 16)) n
       (fun q => (fpOf (i.toNat / 16)).encode (src.decode (pieceElem V src.width p.toNat q)))) (now s c) 4)) ∧
    (let i' : Instr := .unpks d a p k t
     let r2 : List Src := [.v a.toNat, .v (a.toNat + 1)]
     let C := argV s c x pa r2 0
     let S := argV s c x pa r2 1
     Clear s c x pa pk (semOf i') →
     Performs s c x pk i' ((popped s c x pa r2).writeV d.toNat (laneMask (laneSize t.toNat) 32 (fun _ => true)) (lanes (laneSize t.toNat) 32
       (fun q => (fpOf t.toNat).encode ((decodeQ4 (xfSub (xfAt s c x pa r2 k.toNat)) (bits S.toNat (8 * (4 * p.toNat + q / 8)) 8)
         (pieceElem C 4 p.toNat q)).getD .nan))) (now s c) 4)) ∧
    (let i' : Instr := .unpki d a p k g
     let w := xfBits xf
     Clear s c x pa pk (semOf i') →
     Performs s c x pk i' (v.writeV d.toNat (laneMask (laneSize g.toNat) (pieceCount w) (fun _ => true)) (lanes (laneSize g.toNat) (pieceCount w)
       (fun q => intBits g.toNat ((decodeNarrow xf (pieceElem V w p.toNat q)).getD 0))) (now s c) 4)) ∧
    (let i' : Instr := .pack d a p k i
     let dst := fpOf (i.toNat % 16)
     Clear s c x pa pk (semOf i') →
     Performs s c x pk i' ((step 16).writeV d.toNat (pieceMask dst.width p.toNat)
       (pieceOf dst.width p.toNat (fun q => dst.narrow (md 16 q) (xfInfKeep xf) (num (i.toNat / 16) q))) (now s c) 4)) ∧
    (let i' : Instr := .packs d a p k t j
     Clear s c x pa pk (semOf i') →
     Performs s c x pk i' (((step 32).writeV d.toNat (pieceMask 4 p.toNat) (pieceOf 4 p.toNat (fun q =>
       encodeQ4 (md 32 q) j.toNat (((List.range 4).map (es t.toNat)).getD (q / 8) 0) (num t.toNat q))) (now s c) 4).writeV (d.toNat + 1)
       (scaleMask p.toNat) (scaleBytes p.toNat (fun b => q4Byte j.toNat (((List.range 4).map (es t.toNat)).getD b 0))) (now s c) 4)) ∧
    (let i' : Instr := .pkmax d a p k t j
     i'.wf = true → Usable s c x pa (semOf i') →
     Performs s c x pk i' (v.writeV d.toNat (scaleMask p.toNat) (scaleBytes p.toNat (fun b => q4Byte j.toNat (es t.toNat b))) (now s c) 4)) ∧
    (let i' : Instr := .packi d a p k g
     let w := xfBits xf
     Clear s c x pa pk (semOf i') →
     Performs s c x pk i' ((step (pieceCount w)).writeV d.toNat (pieceMask w p.toNat) (pieceOf w p.toNat (fun q =>
       wrapTo w ((num g.toNat q).toIntSat (md (pieceCount w) q) (xfLo xf) (xfHi xf)))) (now s c) 4))

/-- R13, R169, R170: a result with a latency bound above 1 is in flight until its bound has passed: before the cycle of issue plus the bound the register
holds what it held, and the bits that are written read unspecified; at that cycle the result lands, and the register reads it; `s0` and `m0` discard every write
and read 0 and all ones (R168). -/
def Obligations.ResultsLandAtTheirBound : Prop :=
  ∀ (x : Ctx) (n now bound free : Nat) (v : W64),
    (0 < n → n < 31 → ((x.writeS n v now bound).land (now + bound)).readS free n = v) ∧
    (∀ t, 1 < bound → t < now + bound →
      (let y := (x.writeS n v now bound).land t
       0 < n → n < 31 → vget y.s n 0 = vget x.s n 0 ∧ y.readS free n = (Config.freeBits free (Dest.s n).key).setWidth 64 ∧
         y.flight.any (fun l => l.dest == .s n && l.due == now + bound && l.val.setWidth 64 == v) = true) ∧
      (∀ (m w : V1024), n < 31 → m ≠ 0 →
        let y := (x.writeV n m w now bound).land t
        vget y.v n 0 &&& m = vget x.v n 0 &&& m ∧ y.readV free n &&& m = Config.freeBits free (Dest.v n).key &&& m) ∧
      (let y := (x.writeM n (BitVec.allOnes 64) v now bound).land t
       0 < n → n < 8 → vget y.m n 0 = vget x.m n 0 ∧ y.readM free n = (Config.freeBits free (Dest.m n).key).setWidth 64) ∧
      (∀ b, n < 12 → (vget ((x.writeCond n b now bound).land t).st n Steer.zero).cond = (vget x.st n Steer.zero).cond)) ∧
    (x.writeS 0 v now bound = x ∧ x.readS free 0 = 0) ∧
    (0 < n → n < 8 → ((x.writeM n (BitVec.allOnes 64) v now bound).land (now + bound)).readM free n = v) ∧
    (∀ sel, x.writeM 0 sel v now bound = x) ∧ x.readM free 0 = BitVec.allOnes 64 ∧
    (∀ (m w : V1024), n < 31 → m ≠ 0 →
      ((x.writeV n m w now bound).land (now + bound)).readV free n &&& m = w &&& m) ∧
    (∀ b, n < 12 → ((x.writeCond n b now bound).land (now + bound)).readCond free n = b) ∧
    (∀ k, k ≠ n → k < 32 → (x.writeS n v now bound).readS free k = x.readS free k)

/-! ### The M class: memory -/

/-- R15, R134, R221, R222, R224: a scalar load reserves an `lqs` entry and joins the context's accesses under `mpol`, after a release fence
where its ordering has a release part, which is performed at once where nothing earlier is outstanding; nothing is in the entry until the
data returns. Each tuple holds an instruction, its bytes and the width it sign-extends from. -/
def Obligations.ScalarLoadsIssue : Prop :=
  ∀ (s : State) (c x pa : Nat) (pk : List Nat) (b : BitVec 5) (i : BitVec 19) (pas : List Nat), Ready s c x pa pk →
    let r : List Src := [.s b.toNat]
    let v := popped s c x pa r
    let pc := (s.ctx c x).pc
    ∀ q ∈ ([(.ld8s b i, 1, some 8), (.ld8z b i, 1, none), (.ld16s b i, 2, some 16), (.ld16z b i, 2, none), (.ld32s b i, 4, some 32),
            (.ld32z b i, 4, none), (.ld64 b i, 8, none)] : List (Instr × Nat × Option Nat)),
      let A := (arg s c x pa r 0 + BitVec.ofInt 64 (i.toInt * q.2.1)).toNat
      let ld := fun (v1 : Ctx) => v1.reserveLqs.pushOp (.load false v1.seq q.2.2) (pas.zip (List.range q.2.1)) []
        (polOrd v.mpol) (polScope v.mpol) pc A
      Clear s c x pa pk (semOf q.1) → (base s c x pa r).xlatSpan c (s.rootAt c x) A q.2.1 .read = .ok pas →
      A % q.2.1 = 0 ∧
      (polOrd v.mpol < 2 → Performs s c x pk q.1 (ld v)) ∧
      (2 ≤ polOrd v.mpol → v.ops ≠ [] → Performs s c x pk q.1 (ld (v.pushOp .fence [] [] 2 (polScope v.mpol) pc 0))) ∧
      (2 ≤ polOrd v.mpol → v.ops = [] → Fences s c x 2 (polScope v.mpol) pk q.1 (ld { v with seq := v.seq + 1 }))

/-- R65, R133, R224: a scalar store joins the context's accesses with its bytes, low byte first; memory changes when it is performed, not
before. -/
def Obligations.ScalarStoresIssue : Prop :=
  ∀ (s : State) (c x pa : Nat) (pk : List Nat) (a b : BitVec 5) (i : BitVec 19) (pas : List Nat), Ready s c x pa pk →
    let r : List Src := [.s a.toNat, .s b.toNat]
    let v := popped s c x pa r
    ∀ q ∈ ([(.st8 a b i, 1), (.st16 a b i, 2), (.st32 a b i, 4), (.st64 a b i, 8)] : List (Instr × Nat)),
      let A := (arg s c x pa r 1 + BitVec.ofInt 64 (i.toInt * q.2)).toNat
      Clear s c x pa pk (semOf q.1) → (base s c x pa r).xlatSpan c (s.rootAt c x) A q.2 .write = .ok pas →
      A % q.2 = 0 ∧
      Performs s c x pk q.1 (v.pushOp (.store none) []
        (pas.zip ((List.range q.2).map (fun k => ((arg s c x pa r 0) >>> (8 * k)).setWidth 8)))
        (polOrd v.mpol) (polScope v.mpol) (s.ctx c x).pc A)

/-- R14, R16, R205, R225: a vector load reserves one `lq` entry and joins the context's accesses chunk by chunk, after a release fence as
scalar loads do; a vector store takes the
oldest `sq` entry, and each of its chunks writes the filled bytes that take part. `P` gives the physical addresses of each chunk. -/
def Obligations.VectorAccessesIssue : Prop :=
  ∀ (s : State) (c x pa : Nat) (pk : List Nat) (w : BitVec 2) (b p : BitVec 5) (m : BitVec 3) (P : Nat → List Nat), Ready s c x pa pk →
    let pc := (s.ctx c x).pc
    let load := fun (i : Instr) (r : List Src) (st : Int) (M pol : W64) =>
      let v := popped s c x pa r
      let js := chunksOf w M
      let ld := fun (v1 : Ctx) => js.foldl (fun (y : Ctx) j => y.pushOp (.load true v1.seq none)
        (((P j).zip ((List.range 32).map (fun k => 32 * j + k))).filter (fun z => byteOn M z.2)) [] (polOrd pol) (polScope pol) pc
        (chunkAt (arg s c x pa r 0) st j)) (v1.reserveLq js.length)
      Clear s c x pa pk (semOf i) →
      (∀ j ∈ js, (base s c x pa r).xlatSpan c (s.rootAt c x) (chunkAt (arg s c x pa r 0) st j) 32 .read = .ok (P j)) →
      (polOrd pol < 2 ∨ js = [] → Performs s c x pk i (ld v)) ∧
      (2 ≤ polOrd pol → js ≠ [] → v.ops ≠ [] → Performs s c x pk i (ld (v.pushOp .fence [] [] 2 (polScope pol) pc 0))) ∧
      (2 ≤ polOrd pol → js ≠ [] → v.ops = [] → Fences s c x 2 (polScope pol) pk i (ld { v with seq := v.seq + 1 }))
    let store := fun (i : Instr) (r : List Src) (st : Int) (M pol : W64) =>
      let v := popped s c x pa r
      let js := chunksOf w M
      ∀ q rest, v.sq = q :: rest → Clear s c x pa pk (semOf i) →
      (∀ j ∈ js, (base s c x pa r).xlatSpan c (s.rootAt c x) (chunkAt (arg s c x pa r 0) st j) 32 .write = .ok (P j)) →
      Performs s c x pk i (js.foldl (fun y j =>
        let ws := ((P j).zip ((List.range 32).map (fun k => 32 * j + k))).filter (fun z => byteOn M z.2 && q.bytes.getLsbD z.2)
        if ws = [] then y else y.pushOp (.store (if q.filled then none else some q.id)) []
          (ws.map (fun z => (z.1, BitVec.ofNat 8 (bits q.val.toNat (8 * z.2) 8)))) (polOrd pol) (polScope pol) pc
          (chunkAt (arg s c x pa r 0) st j))
        { v with sq := rest })
    let r2 : List Src := [.s b.toNat, .s p.toNat, .m m.toNat]
    let r3 : List Src := [.s b.toNat, .s (b.toNat + 1), .s p.toNat, .m m.toNat]
    let pol2 := if p = 0 then (popped s c x pa r2).mpol else arg s c x pa r2 1
    let pol3 := if p = 0 then (popped s c x pa r3).mpol else arg s c x pa r3 2
    load (.vld w b p m) r2 32 (arg s c x pa r2 2) pol2 ∧
    load (.vlds w b p m) r3 (arg s c x pa r3 1).toInt (arg s c x pa r3 3) pol3 ∧
    store (.vst w b p m) r2 32 (arg s c x pa r2 2) pol2 ∧
    store (.vsts w b p m) r3 (arg s c x pa r3 1).toInt (arg s c x pa r3 3) pol3

/-- R226: a bounded gather or scatter accesses four bytes for each lane whose predicate bit is 1, at the base plus the lane's index scaled
by the bound word, an index at or beyond the bound clamped where the word says so. `A` and `P` give each lane's address and bytes. -/
def Obligations.GatherScatterIssue : Prop :=
  ∀ (s : State) (c x pa : Nat) (pk : List Nat) (w : BitVec 2) (b y : BitVec 5) (m : BitVec 3) (A : Nat → Nat) (P : Nat → List Nat),
    Ready s c x pa pk →
    let r : List Src := [.s b.toNat, .s (b.toNat + 1), .v y.toNat, .m m.toNat]
    let v := popped s c x pa r
    let Q := arg s c x pa r 1
    let N := Q.toNat % 2 ^ 32
    let js := (List.range (256 * 2 ^ w.toNat / 32)).filter (predBit (arg s c x pa r 3) 32)
    let ix := fun (i : Nat) => lane (argV s c x pa r 2) 32 i
    let pc := (s.ctx c x).pc
    (∀ j ∈ js, A j = ((arg s c x pa r 0).toNat + (if ix j < N then ix j else N - 1) * 2 ^ (Q.toNat / 2 ^ 32 % 256)) % 2 ^ 64) →
    (∀ j ∈ js, ix j < N ∨ Q.getLsbD 40 = true) →
    (let ld := fun (v1 : Ctx) => js.foldl (fun (z : Ctx) j => z.pushOp (.load true v1.seq none)
       ((P j).zip ((List.range 4).map (fun k => 4 * j + k))) [] (polOrd v.mpol) (polScope v.mpol) pc (A j)) (v1.reserveLq js.length)
     Clear s c x pa pk (semOf (.vgath w b y m)) →
     (∀ j ∈ js, (base s c x pa r).xlatSpan c (s.rootAt c x) (A j) 4 .read = .ok (P j)) →
     (polOrd v.mpol < 2 ∨ js = [] → Performs s c x pk (.vgath w b y m) (ld v)) ∧
     (2 ≤ polOrd v.mpol → js ≠ [] → v.ops ≠ [] →
       Performs s c x pk (.vgath w b y m) (ld (v.pushOp .fence [] [] 2 (polScope v.mpol) pc 0))) ∧
     (2 ≤ polOrd v.mpol → js ≠ [] → v.ops = [] → Fences s c x 2 (polScope v.mpol) pk (.vgath w b y m) (ld { v with seq := v.seq + 1 }))) ∧
    (∀ q rest, v.sq = q :: rest → Clear s c x pa pk (semOf (.vscat w b y m)) →
     (∀ j ∈ js, (base s c x pa r).xlatSpan c (s.rootAt c x) (A j) 4 .write = .ok (P j)) →
     Performs s c x pk (.vscat w b y m) (js.foldl (fun z j =>
       if bits q.bytes.toNat (4 * j) 4 = 15 then z.pushOp (.store (if q.filled then none else some q.id)) []
         ((P j).zip (leBytes 4 (lane q.val 32 j))) (polOrd v.mpol) (polScope v.mpol) pc (A j) else z) { v with sq := rest }))

/-- R24, R37, R67, R141, R227: `lld` reads the elements that take part from the team's window, the context's own pending `lst`s seen, into
their bits of the destination, and with an acquire or a fence outstanding it still completes (log entry 88); `lst` writes them to the window,
once the reads, `acas`es, queue operations, acquires, fences and `lst`s before it have been performed, where that no other atomic or reduction
holds it back is the model's reading of R141 (log entry 82); while the stage predicate the stream selects is 0 neither moves anything. -/
def Obligations.LocalStoreAccesses : Prop :=
  ∀ (s : State) (c x pa : Nat) (pk : List Nat) (w : BitVec 2) (d : BitVec 5) (a : BitVec 4) (k : BitVec 5) (m : BitVec 3), Ready s c x pa pk →
    (let i : Instr := .lld w d a k m
     let r : List Src := [.s k.toNat, .m m.toNat]
     let e := env s c x pa pk (semOf i)
     let g := e.geo (base s c x pa r) a.toNat
     let js := if e.stageOn a.toNat then (List.range (localCount g w)).filter (fun j => (arg s c x pa r 1).getLsbD (j * g.w / 16)) else []
     let win := (s.core c).ownWindow (teamBase s c x) x
     Clear s c x pa pk (semOf i) →
     ((popped s c x pa r).acquiring = true → ∃ t, exec i s = .next t) ∧
     ((popped s c x pa r).acquiring = false → Performs s c x pk i ((popped s c x pa r).writeV d.toNat
       (js.foldl (fun (u : V1024) (j : Nat) => u ||| BitVec.ofNat 1024 ((2 ^ g.w - 1) * 2 ^ (j * g.w))) 0)
       (js.foldl (fun (u : V1024) (j : Nat) =>
         u ||| BitVec.ofNat 1024 (bitsAt (mget win) (g.elemBit ((arg s c x pa r 0).toNat + j)).toNat g.w * 2 ^ (j * g.w))) 0) (now s c) 8))) ∧
    (let i : Instr := .lst w d a k m
     let r : List Src := [.v d.toNat, .s k.toNat, .m m.toNat]
     let e := env s c x pa pk (semOf i)
     let g := e.geo (base s c x pa r) a.toNat
     let js := if e.stageOn a.toNat then (List.range (localCount g w)).filter (fun j => (arg s c x pa r 2).getLsbD (j * g.w / 16)) else []
     let v := popped s c x pa r
     let es := js.map (fun j => ((g.elemBit ((arg s c x pa r 1).toNat + j)).toNat, g.w, bits (argV s c x pa r 0).toNat (j * g.w) g.w))
     let held := v.ops.any (fun p => p.readsFirst || p.isLst || p.isMark || p.ord % 2 == 1)
     Clear s c x pa pk (semOf i) →
     (es = [] → Performs s c x pk i v) ∧
     (es ≠ [] → held = true → Performs s c x pk i (v.pushOp (.lst es) [] [] 0 0 (s.ctx c x).pc 0)) ∧
     (es ≠ [] → held = false → ∃ t, exec i s = .next t ∧ SameOutside s t ∧
       t.ctx c x = onward s c x pk i { v with ops := v.ops.filter (fun o => o.id != v.seq), seq := v.seq + 1 } ∧
       (t.core c).window (teamBase s c x) = es.foldl (fun (u : Memory) e => winWrites u (putBitsAt (mget u) e.1 e.2.1 e.2.2))
         ((s.core c).window (teamBase s c x))))

/-- R78, R134, R232, R233: a returning atomic reserves its `lqs` entry and leaves for the home slice, a reduction leaves without one,
`vradd` as 32 of them, lane i at the base plus 4 × i. Each tuple holds an instruction, its function and its bytes. -/
def Obligations.AtomicsIssue : Prop :=
  ∀ (s : State) (c x pa : Nat) (pk : List Nat) (z : BitVec 1) (e b v p : BitVec 5) (pas : List Nat), Ready s c x pa pk →
    let pc := (s.ctx c x).pc
    let Z := if z = 1 then 8 else 4
    let r : List Src := [.s b.toNat, .s v.toNat, .s p.toNat]
    let w := popped s c x pa r
    let A := (arg s c x pa r 0).toNat
    let pol := if p = 0 then w.mpol else arg s c x pa r 2
    (∀ q ∈ ([(.aadd z b v p, .add), (.amin z b v p, .min), (.amax z b v p, .max), (.aand z b v p, .and), (.aor z b v p, .or),
             (.axor z b v p, .xor), (.axchg z b v p, .xchg)] : List (Instr × AtomOp)),
      Clear s c x pa pk (semOf q.1) → (base s c x pa r).xlatSpan c (s.rootAt c x) A Z .write = .ok pas →
      Performs s c x pk q.1 (w.reserveLqs.pushOp (.atomic q.2 Z (arg s c x pa r 1) 0 w.seq) (pas.zip (List.range Z)) []
        (polOrd pol) (polScope pol) pc A)) ∧
    (let r4 : List Src := [.s e.toNat, .s b.toNat, .s v.toNat, .s p.toNat]
     let w := popped s c x pa r4
     let pol := if p = 0 then w.mpol else arg s c x pa r4 3
     Clear s c x pa pk (semOf (.acas e b v p)) →
     (base s c x pa r4).xlatSpan c (s.rootAt c x) (arg s c x pa r4 1).toNat 8 .write = .ok pas →
     Performs s c x pk (.acas e b v p) (w.reserveLqs.pushOp (.atomic .cas 8 (arg s c x pa r4 2) (arg s c x pa r4 0) w.seq)
       (pas.zip (List.range 8)) [] (polOrd pol) (polScope pol) pc (arg s c x pa r4 1).toNat)) ∧
    (∀ q ∈ ([(.radd z b v p, .add, Z), (.rmax z b v p, .max, Z), (.rmin z b v p, .min, Z), (.raddf b v p, .addf, 4)] :
        List (Instr × RedOp × Nat)),
      Clear s c x pa pk (semOf q.1) → (base s c x pa r).xlatSpan c (s.rootAt c x) A q.2.2 .write = .ok pas →
      Performs s c x pk q.1 (w.pushOp (.reduce q.2.1 q.2.2 (arg s c x pa r 1)) (pas.zip (List.range q.2.2)) []
        (polOrd pol) (polScope pol) pc A)) ∧
    (let rv : List Src := [.s b.toNat, .v v.toNat, .s p.toNat]
     let w := popped s c x pa rv
     let pol := if p = 0 then w.mpol else arg s c x pa rv 2
     Clear s c x pa pk (semOf (.vradd b v p)) →
     ∃ t, exec (.vradd b v p) s = .next t ∧ OnlyCtx s t c x ∧
       (t.ctx c x).ops.length = w.ops.length + 32 ∧ (t.ctx c x).s = w.s ∧ (t.ctx c x).v = w.v ∧
       ∀ i, i < 32 → ∃ o, (t.ctx c x).ops[w.ops.length + i]? = some o ∧
         o.kind = .reduce .addf 4 (BitVec.ofNat 64 (lane (argV s c x pa rv 1) 32 i)) ∧ o.ord = polOrd pol ∧ o.scope = polScope pol ∧
         o.va = (arg s c x pa rv 0).toNat + 4 * i ∧ o.writes = [] ∧ o.bundle = pc ∧
         ∀ bs, (base s c x pa rv).xlatSpan c (s.rootAt c x) ((arg s c x pa rv 0).toNat + 4 * i) 4 .write = .ok bs →
           o.bytes = bs.zip (List.range 4))

/-- R79, R85, R134, R234, R235: a queue syllable reserves its `lqs` entries and leaves for the home slice of its queue, `qenq` as a device-scope release and
`qdeq` as an acquire; `qdeqw` parks its context until the slice answers. `qinit` and `qlen` take the ordering and scope of `mpol`, which is the
model's reading (log entry 108): a `qlen` with a release part follows a release fence. -/
def Obligations.SliceQueuesIssue : Prop :=
  ∀ (s : State) (c x pa : Nat) (pk : List Nat) (b v : BitVec 5) (p : Nat) (pas : List Nat), Ready s c x pa pk →
    let pc := (s.ctx c x).pc
    let r2 : List Src := [.s b.toNat, .s v.toNat]
    let w := popped s c x pa r2
    let B := arg s c x pa r2 1
    let r1 : List Src := [.s b.toNat]
    let u := popped s c x pa r1
    let A := fun (r : List Src) => (arg s c x pa r 0).toNat
    let home := fun (r : List Src) => (base s c x pa r).xlatSpan c (s.rootAt c x) (A r) 64 .write = .ok (p :: pas)
    (Clear s c x pa pk (semOf (.qinit b v)) → home r2 →
      Performs s c x pk (.qinit b v) (w.reserveLqs.pushOp (.queue .init B w.seq) [(p, 0)] [] (polOrd w.mpol) (polScope w.mpol) pc (A r2))) ∧
    (Clear s c x pa pk (semOf (.qenq b v)) → home r2 →
      Performs s c x pk (.qenq b v) (w.reserveLqs.pushOp (.queue .enq B w.seq) [(p, 0)] [] 2 2 pc (A r2))) ∧
    (Clear s c x pa pk (semOf (.qdeq b)) → home r1 →
      Performs s c x pk (.qdeq b) (u.reserveLqs.reserveLqs.pushOp (.queue .deq 0 u.seq) [(p, 0)] [] 1 2 pc (A r1))) ∧
    (Clear s c x pa pk (semOf (.qdeqw b)) → home r1 →
      Performs s c x pk (.qdeqw b) { u.reserveLqs.reserveLqs.pushOp (.queue .deqw 0 u.seq) [(p, 0)] [] 1 2 pc (A r1) with
        parks := u.parks ++ [(p, u.seq)] }) ∧
    (let len := fun (v1 : Ctx) => v1.reserveLqs.pushOp (.queue .len 0 v1.seq) [(p, 0)] [] (polOrd u.mpol) (polScope u.mpol) pc (A r1)
     Clear s c x pa pk (semOf (.qlen b)) → home r1 →
     (polOrd u.mpol < 2 → Performs s c x pk (.qlen b) (len u)) ∧
     (2 ≤ polOrd u.mpol → u.ops ≠ [] → Performs s c x pk (.qlen b) (len (u.pushOp .fence [] [] 2 (polScope u.mpol) pc 0))) ∧
     (2 ≤ polOrd u.mpol → u.ops = [] → Fences s c x 2 (polScope u.mpol) pk (.qlen b) (len { u with seq := u.seq + 1 })))

/-- R236: `dfr` adds the lanes its mask picks as one entry of the deferral queue, `dfpop` takes them from its front into the lanes its mask
picks, and `dfcnt` counts the elements. -/
def Obligations.DeferralQueueResults : Prop :=
  ∀ (s : State) (c x pa : Nat) (pk : List Nat) (w : BitVec 2) (v : BitVec 5) (m : BitVec 3), Ready s c x pa pk →
    let on : W64 → List Nat := fun M => (List.range (256 * 2 ^ w.toNat / 32)).filter (fun i => M.getLsbD (2 * i))
    (let r : List Src := [.v v.toNat, .m m.toNat]
     let u := popped s c x pa r
     let els := (on (arg s c x pa r 1)).map (fun i => BitVec.ofNat 32 (lane (argV s c x pa r 0) 32 i))
     w ≠ 3 → Usable s c x pa (semOf (.dfr w v m)) →
     (els = [] ∨ (((view s c x pa).dfq.map List.length).sum + els.length ≤ 1024 ∧ (view s c x pa).dfq.length < 64)) →
     Performs s c x pk (.dfr w v m) (if els = [] then u else { u with dfq := u.dfq ++ [els] })) ∧
    (let r : List Src := [.m m.toNat]
     let u := popped s c x pa r
     let js : List Nat := on (arg s c x pa r 0)
     let got : List W32 := u.dfq.flatten.take js.length
     w ≠ 3 → Usable s c x pa (semOf (.dfpop w v m)) →
     ∃ t, exec (.dfpop w v m) s = .next t ∧ OnlyCtx s t c x ∧ (t.ctx c x).dfq.flatten = u.dfq.flatten.drop js.length ∧
       (v ≠ 31 → ∀ free, ∀ i, i < 32 →
         (∀ (k : Nat) (a : W32), js[k]? = some i → got[k]? = some a → BitVec.ofNat 32 (lane (((t.ctx c x).land (now s c + 4)).readV free v.toNat) 32 i) = a))) ∧
    (let u := popped s c x pa []
     Clear s c x pa pk (semOf .dfcnt) →
     Performs s c x pk .dfcnt (u.pushLqs (BitVec.ofNat 64 ((u.dfq.map List.length).sum))))

/-- R153, R154, R237, R238: `fence` joins the context's accesses unless its ordering is none, and is performed at once where none of them is
outstanding, its release part before its acquire part; `waitv` goes on when the word meets its condition and no store of exactly this word is
half done. At device and system scope the word is read at home, but where the die still holds it dirty, which is the model's choice (log entry
88). -/
def Obligations.FenceAndWaitResults : Prop :=
  ∀ (s : State) (c x pa : Nat) (pk : List Nat) (k : BitVec 3) (b v p : BitVec 5) (pas : List Nat), Ready s c x pa pk →
    (let r : List Src := [.s p.toNat]
     let u := popped s c x pa r
     let pol := if p = 0 then u.mpol else arg s c x pa r 0
     Usable s c x pa (semOf (.fence p)) →
     (polOrd pol = 0 → Performs s c x pk (.fence p) u) ∧
     (polOrd pol ≠ 0 → u.ops ≠ [] →
       Performs s c x pk (.fence p) (u.pushOp .fence [] [] (polOrd pol) (polScope pol) (s.ctx c x).pc 0)) ∧
     (polOrd pol ≠ 0 → u.ops = [] → Fences s c x (polOrd pol) (polScope pol) pk (.fence p) { u with seq := u.seq + 1 })) ∧
    (let r : List Src := [.s b.toNat, .s v.toNat, .s p.toNat]
     let u := popped s c x pa r
     let pol := if p = 0 then u.mpol else arg s c x pa r 2
     let bs := pas.map (fun a => if 2 ≤ polScope pol ∧ (s.die (c / 64)).dirty.contains a = false then mget s.mem a else s.dieRead (c / 64) a)
     let W : W64 := BitVec.ofNat 64 (leNat bs)
     let C := arg s c x pa r 1
     Usable s c x pa (semOf (.waitv k b v p)) → (Instr.waitv k b v p).wf = true →
     (arg s c x pa r 0).toNat % 8 = 0 → (base s c x pa r).xlatSpan c (s.rootAt c x) (arg s c x pa r 0).toNat 8 .read = .ok pas →
     pas.any s.isLost = false → u.ops = [] → (base s c x pa r).halves c x pas = [] →
     (match k.toNat with | 0 => W = C | 1 => W ≠ C | 2 => C.toNat ≤ W.toNat | _ => C.toInt ≤ W.toInt) →
     ∃ t, exec (.waitv k b v p) s = .next t ∧ t.ctx c x = onward s c x pk (.waitv k b v p) u ∧
       (polScope pol ≤ 1 → (s.core c).blockLines = [] → ∀ a, mget t.mem a = mget s.mem a))

/-! ### Tags, blocks, groups, grants and streams -/

/-- R112, R113, R114, R116, R122, R239: a wait goes on when its tag has the count, or its mask a settled tag, or all of them; `tclr` lets a
settled tag go; `fget` pushes the status word; `fbind` binds a FREE tag to a software producer and `fpub` moves its frontier: for its own context at
once, for others once every earlier access of its context has been performed. That a context reads its own pubs so (`withPubs`), and that a
`tclr` of such a tag first performs what precedes the pub, is the model's reading of R116 (log entry 107). -/
def Obligations.TagInstructionResults : Prop :=
  ∀ (s : State) (c x pa : Nat) (pk : List Nat) (n : BitVec 6) (q : BitVec 22) (k : BitVec 5) (a : BitVec 4), Ready s c x pa pk →
    let T := teamBase s c x
    let own := (s.core c).withPubs T x
    let tag := own.tagAt T n.toNat
    let v := popped s c x pa []
    let u := popped s c x pa [.s k.toNat]
    let A := arg s c x pa [.s k.toNat] 0
    let count := fun (m : Nat) => (tag.state ∈ [TagState.bound, .halted, .ready] ∧ min m tag.n ≤ tag.f) ∨ tag.state = .aborted
    let named : List Nat := (List.range 64).filter (fun i => A.getLsbD i)
    let settled := fun (i : Nat) => (own.tagAt T i).state = .ready ∨ (own.tagAt T i).state = .aborted
    let declared := ∀ i ∈ named, i < hdrTags (s.hdrAt c x)
    let matched := ∀ i ∈ named, (own.tagAt T i).state ≠ .mismatch
    (Usable s c x pa (semOf (.waitfImm n q)) → count q.toNat → Performs s c x pk (.waitfImm n q) v) ∧
    (Usable s c x pa (semOf (.waitfReg n k)) → count A.toNat → Performs s c x pk (.waitfReg n k) u) ∧
    (Usable s c x pa (semOf (.tany k)) → declared → matched → A = 0 ∨ (∃ i ∈ named, settled i) → Performs s c x pk (.tany k) u) ∧
    (Usable s c x pa (semOf (.tall k)) → declared → matched → (∀ i ∈ named, settled i) → Performs s c x pk (.tall k) u) ∧
    (Usable s c x pa (semOf (.tffr k)) → declared → (view s c x pa).lqs.length < 16 →
      ∃ j, Performs s c x pk (.tffr k) (u.pushLqs (BitVec.ofNat 64 j)) ∧
        ((j ∈ named ∧ settled j ∧ ∀ i ∈ named, settled i → j ≤ i) ∨ (j = 64 ∧ ∀ i ∈ named, ¬settled i))) ∧
    (Usable s c x pa (semOf (.tclr n)) → tag.state ∉ [TagState.bound, .halted, .mismatch] →
      ∃ t, exec (.tclr n) s = .next t ∧ (t.ctx c x).pc = (onward s c x pk (.tclr n) v).pc ∧
        (tag.state = .ready ∨ tag.state = .aborted → ((t.core c).tagAt T n.toNat).state ∈ [TagState.releasing, .free])) ∧
    (Usable s c x pa (semOf (.tclr n)) → tag.state ∉ [TagState.bound, .halted, .mismatch] → (∀ o ∈ v.ops, o.pubs n.toNat = false) →
      ∃ t, exec (.tclr n) s = .next t ∧ SameOutside s t ∧ t.ctx c x = onward s c x pk (.tclr n) v ∧
        (tag.state = .ready ∨ tag.state = .aborted →
          ((t.core c).tagAt T n.toNat).state ∈ [TagState.releasing, .free] ∧
          ((∀ m ∈ (s.core c).cmds, m.team ≠ T) → (t.core c).tagAt T n.toNat = Tag.freeOf tag.gen))) ∧
    (Usable s c x pa (semOf (.fget n)) → (view s c x pa).lqs.length < 16 →
      Performs s c x pk (.fget n) (v.pushLqs (if tag.state = .free then 0 else
        BitVec.ofNat 64 (tag.state.code * 2 ^ 61 + tag.producer * 2 ^ 57 + (if tag.skipped then 2 ^ 56 else 0) + tag.gstat * 2 ^ 54 +
          (if tag.cascade then 2 ^ 53 else 0) + tag.f)))) ∧
    (Usable s c x pa (semOf (.fpub n k)) → tag.state = .bound → tag.producer = 13 → tag.f ≤ A.toNat → A.toNat ≤ tag.n →
      (u.ops ≠ [] → Performs s c x pk (.fpub n k) (u.pushOp (.pub n.toNat tag.gen A.toNat) [] [] 0 0 (s.ctx c x).pc 0)) ∧
      (u.ops = [] →
        ∃ t, exec (.fpub n k) s = .next t ∧ SameOutside s t ∧ t.ctx c x = onward s c x pk (.fpub n k) { u with seq := u.seq + 1 } ∧
        (t.core c).tagAt T n.toNat = { tag with f := A.toNat, state := if A.toNat = tag.n then .ready else .bound })) ∧
    (let i : Instr := .fbind n a
     let g := (env s c x pa pk (semOf i)).geo (base s c x pa []) a.toNat
     Clear s c x pa pk (semOf i) →
     ∃ t, exec i s = .next t ∧ SameOutside s t ∧ t.ctx c x = onward s c x pk i v ∧
       (t.core c).tagAt T n.toNat = tag.bind 13 (g.d0 * g.d1) (some (g.tagGeo g.d1)) x 0 ∧
       ((t.core c).tagAt T n.toNat).state = (if g.d0 * g.d1 = 0 then .ready else .bound) ∧
       ((t.core c).tagAt T n.toNat).f = 0 ∧ ((t.core c).tagAt T n.toNat).n = g.d0 * g.d1)

/-- R73, R74, R228, R229: `ldblk` makes a load-block of its lines and binds its tag, `evblk` gives the lines of the live block its tag is bound to back to
ordinary replacement, and `pfetch` changes nothing that a program sees, home memory among it where its die has room for the line. -/
def Obligations.BlockInstructionResults : Prop :=
  ∀ (s : State) (c x pa : Nat) (pk : List Nat) (n : BitVec 6) (b p : BitVec 5) (l : BitVec 7) (o : BitVec 19), Ready s c x pa pk →
    let T := teamBase s c x
    let tag := (s.core c).tagAt T n.toNat
    let blocks := fun (k : Core) => (tget k.teams T).elim [] (fun (q : Team) => q.blocks)
    (let i : Instr := .ldblk n b l
     let r : List Src := [.s b.toNat]
     let A := (arg s c x pa r 0).toNat
     Clear s c x pa pk (semOf i) →
     1 ≤ l.toNat ∧ l.toNat ≤ 64 ∧ A % 128 = 0 ∧ tag.state = .free ∧
     ∃ t, exec i s = .next t ∧ SameOutside s t ∧ t.ctx c x = onward s c x pk i (popped s c x pa r) ∧
       blocks (t.core c) = blocks (s.core c) ++ [{ tag := n.toNat, gen := tag.gen + 1, va := A, lines := (base s c x pa r).blockLinesOf c (s.rootAt c x) A l.toNat }] ∧
       ((t.core c).tagAt T n.toNat).state = .bound ∧ ((t.core c).tagAt T n.toNat).producer = 9 ∧
       ((t.core c).tagAt T n.toNat).n = l.toNat ∧ ((t.core c).tagAt T n.toNat).f = 0 ∧
       (t.core c).cmds.length = (s.core c).cmds.length + 1) ∧
    (Usable s c x pa (semOf (.evblk n)) →
     ∃ t, exec (.evblk n) s = .next t ∧ SameOutside s t ∧ t.ctx c x = onward s c x pk (.evblk n) (popped s c x pa []) ∧
       blocks (t.core c) = (if tag.state = .free then blocks (s.core c) else
         (blocks (s.core c)).filter (fun o => !(o.tag == n.toNat && o.gen == tag.gen)))) ∧
    (let i : Instr := .pfetch p b o
     let r : List Src := [.s p.toNat, .s b.toNat]
     Usable s c x pa (semOf i) →
     ∃ t, exec i s = .next t ∧ ((s.die (dieOf c)).present.length < Config.sliceLines → t.mem = s.mem) ∧
       t.ctx c x = onward s c x pk i (popped s c x pa r) ∧ t.launches = s.launches ∧
       (t.core c).teams = (s.core c).teams ∧ (t.core c).cmds = (s.core c).cmds)

/-- R93, R94, R95, R99, R230, R231: `gjoin` enrols the context with the group's next sequence number, `gleave` takes it out, and `gld`
binds its tag and sends a request under the context's own number, which it counts up. -/
def Obligations.GroupInstructionResults : Prop :=
  ∀ (s : State) (c x pa : Nat) (pk : List Nat) (g d a : BitVec 4) (n : BitVec 6) (l : Nat) (lv : Launch), Ready s c x pa pk →
    let T := teamBase s c x
    let key := c / 64 * 16 + g.toNat
    let G := lv.group key
    let v := popped s c x pa []
    s.launchAt c x = some (l, lv) →
    (Clear s c x pa pk (semOf (.gjoin g)) → (c, x) ∉ G.joined →
      ∃ t, exec (.gjoin g) s = .next t ∧ t.mem = s.mem ∧
        t.ctx c x = onward s c x pk (.gjoin g) { v with groups := tput v.groups g.toNat G.next } ∧
        (t.launchOf l).map (fun w => (w.group key).joined) = some (G.joined ++ [(c, x)])) ∧
    (Usable s c x pa (semOf (.gleave g)) → (tget v.groups g.toNat).isSome = true →
      ∃ t, exec (.gleave g) s = .next t ∧ t.mem = s.mem ∧
        t.ctx c x = onward s c x pk (.gleave g) { v with groups := tdel v.groups g.toNat } ∧
        (t.launchOf l).map (fun w => (w.group key).joined) = some (G.joined.filter (fun j => j != (c, x)))) ∧
    (let i : Instr := .gld g d a n
     let dg := (env s c x pa pk (semOf i)).geo (base s c x pa []) d.toNat
     Clear s c x pa pk (semOf i) →
     ∃ t seq, exec i s = .next t ∧ t.mem = s.mem ∧ tget v.groups g.toNat = some seq ∧
       tget (t.ctx c x).groups g.toNat = some (seq + 1) ∧
       ((t.core c).tagAt T n.toNat).producer = 8 ∧ ((t.core c).tagAt T n.toNat).n = dg.d0 * dg.d1 ∧
       ∃ m, (t.core c).cmds = (s.core c).cmds ++ [m] ∧ m.kind = .gld ∧ m.st = .running ∧ m.chan = g.toNat ∧ m.n = seq)

/-- R349, R350, R351, R367: `msend` puts its vector into the buffer of the grant to the named position, `mrecv` takes the oldest vector that
has arrived from one, where the buffer it stands in is good. -/
def Obligations.MeshInstructionResults : Prop :=
  ∀ (s : State) (c x pa : Nat) (pk : List Nat) (v : BitVec 5) (p : BitVec 6) (l i : Nat) (g : Grant) (lv : Launch), Ready s c x pa pk →
    s.launchOf l = some lv → lv.grants[i]? = some g →
    (let r : List Src := [.v v.toNat]
     s.sendGrant c x p.toNat = some (l, i, g) → g.sendBuf.length < 2 → Usable s c x pa (semOf (.msend v p)) →
     ∃ t, exec (.msend v p) s = .next t ∧ t.mem = s.mem ∧ t.ctx c x = onward s c x pk (.msend v p) (popped s c x pa r) ∧
       (t.launchOf l).map (fun w => w.grants[i]?) = some (some { g with sendBuf := g.sendBuf ++ [argV s c x pa r 0] })) ∧
    (∀ h rest, s.recvGrant c x p.toNat = some (l, i, g) → g.recvBuf = h :: rest → g.lostNext = none → Usable s c x pa (semOf (.mrecv v p)) →
     ∃ t, exec (.mrecv v p) s = .next t ∧ t.mem = s.mem ∧
       t.ctx c x = onward s c x pk (.mrecv v p) ((popped s c x pa []).writeV v.toNat (BitVec.allOnes 1024) h (now s c) 3) ∧
       (t.launchOf l).map (fun w => w.grants[i]?) = some (some { g with recvBuf := rest }))

/-- R47, R244, R245, R246, R247, R357, R368: `setxf` and `sset` come into force three cycles after their issue and wait until then, `sget` pushes the value in force, and
`sld` leaves to read the 64 bytes of a descriptor; that it reads them as two plain sectors of core scope, in place of the `sset` writes of that
stream still inside their window, is the model's choice (log entry 132); `chset` loads the 256 entries of the core's channel table from its image of 8,192 bytes, each
IDLE with its done and send sequences as the image has them and its next arrival after the done ones (log entry 12), and changes no other core's
channels; `chget` pushes the four words of an entry, lowest first. -/
def Obligations.StreamAndChannelTableResults : Prop :=
  (∀ (s : State) (c x pa : Nat) (pk : List Nat) (k : BitVec 2) (a : BitVec 4) (r f : BitVec 5) (pas : List Nat), Ready s c x pa pk →
      let u := popped s c x pa [.s r.toNat]
      let A := arg s c x pa [.s r.toNat] 0
      (Usable s c x pa (semOf (.setxf k r)) → A.toNat / 2 ^ 17 % 2 ^ 15 = 0 →
        ∃ t, exec (.setxf k r) s = .next t ∧ SameOutside s t ∧ t.ctx c x = onward s c x pk (.setxf k r) u ∧
          (t.core c).xfSets = ((base s c x pa [.s r.toNat]).core c).xfSets ++ [(k.toNat, A.setWidth 32, now s c)] ∧
          (∀ n, n < now s c + 3 → (k.toNat, A.setWidth 32, now s c) ∈ ((t.core c).landXf n).xfSets) ∧
          (∀ n, now s c + 3 ≤ n → vget ((t.core c).landXf n).xf k.toNat 0 = A.setWidth 32)) ∧
      (Clear s c x pa pk (semOf (.sset a f r)) →
        let q : PendingSet := { reg := a.toNat, code := f.toNat, val := A, at_ := now s c }
        let w := onward s c x pk (.sset a f r) { u with sets := u.sets ++ [q] }
        Performs s c x pk (.sset a f r) { u with sets := u.sets ++ [q] } ∧
        (∀ n, n < now s c + 3 → q ∈ (w.landSets n).sets) ∧
        (∀ n, now s c + 3 ≤ n → w.landSets n = ({ w with sets := u.sets }.landSets n).applySet q)) ∧
      (Clear s c x pa pk (semOf (.sget a f)) → (view s c x pa).sets = [] →
        let v := popped s c x pa []
        let d := getField (vget v.a a.toNat 0) f.toNat
        Performs s c x pk (.sget a f) (v.pushLqs (if f.toNat = 30 then vget v.lb a.toNat 0 else if f.toNat = 31 then v.sg.setWidth 64
          else if f.toNat ∈ [10, 12, 18, 19] then (BitVec.ofNat (fieldPlace f.toNat).2 d).signExtend 64 else BitVec.ofNat 64 d))) ∧
      (Clear s c x pa pk (semOf (.sld a r)) → (base s c x pa [.s r.toNat]).xlatSpan c (s.rootAt c x) A.toNat 64 .read = .ok pas →
        let bs := pas.zip (List.range 64)
        A.toNat % 64 = 0 ∧
        let w := { u with sets := u.sets.filter (fun q => !(q.reg == a.toNat && decide (q.code < 30))) }
        Performs s c x pk (.sld a r) ((w.pushOp (.sld a.toNat) (bs.take 32) [] 0 0 (s.ctx c x).pc A.toNat).pushOp (.sld a.toNat)
          (bs.drop 32) [] 0 0 (s.ctx c x).pc (A.toNat + 32)))) ∧
  (∀ (s : State) (c x pa : Nat) (pk : List Nat) (r : BitVec 5) (ch : BitVec 8), Ready s c x pa pk →
      (let A := (arg s c x pa [.s r.toNat] 0).toNat
       ∀ bs, Clear s c x pa pk (semOf (.chset r)) → (base s c x pa [.s r.toNat]).readRecord c x A 8192 = .ok bs →
        let e : Nat → ChanEntry := fun n => BitVec.ofNat 256 (leNat ((bs.drop (32 * n)).take 32))
        let w : Nat → ChanEntry := fun n => chanWord (e n) (chDone (e n)) (chPosted (e n)) 0
        ∃ t, exec (.chset r) s = .next t ∧ t.mem = s.mem ∧ t.ctx c x = onward s c x pk (.chset r) (popped s c x pa [.s r.toNat]) ∧
          (t.core c).chanImage = some A ∧ (t.core c).chanRoot = s.rootAt c x ∧
          (∀ n, n < 256 → (tget (t.core c).chans n).getD 0 = w n ∧
            (chDepth (e n) = 0 → ∀ h, tget t.channels n = some h → h.core ≠ c) ∧
            (chDepth (e n) ≠ 0 → ∃ h, tget t.channels n = some h ∧ h.core = c ∧ h.entry = w n ∧ h.imageVa = A + 32 * n ∧ h.root = s.rootAt c x ∧
              h.state = 0 ∧ h.posted = chPosted (e n) ∧ h.acked = chPosted (e n) ∧ h.freed = chPosted (e n) ∧ h.arrived = [] ∧
              h.came = max (chDone (e n)) 1 - 1 ∧ h.landing = [])) ∧
          (∀ n h, tget s.channels n = some h → h.core ≠ c → n < 256 → chDepth (e n) = 0 → tget t.channels n = some h) ∧
          (∀ c', c' ≠ c → (t.core c').chans = (s.core c').chans)) ∧
      (Clear s c x pa pk (semOf (.chget ch)) →
        let w := ((base s c x pa []).chanEntry c ch.toNat).toNat
        Performs s c x pk (.chget ch) ([0, 1, 2, 3].foldl (fun (v : Ctx) (i : Nat) => v.pushLqs (BitVec.ofNat 64 (w / 2 ^ (64 * i))))
          (popped s c x pa []))))

/-! ### The E class -/

/-- R14, R108, R112, R114, R248, R249, R253, R254, R322: a command with a tag enters its engine's queue with the copies it takes at
issue (its streams, its flags, its list, its records, its projection record), and its tag is bound to its producer code, with the destination's element count as its extent; an extent of 0 is READY at once. -/
def Obligations.TaggedCommandsIssue : Prop :=
  ∀ (s : State) (c x pa : Nat) (pk : List Nat) (d a b : BitVec 4) (n : BitVec 6) (f : BitVec 7) (k : BitVec 2) (st : BitVec 3) (fl : BitVec 4)
    (r : BitVec 5) (ch : BitVec 8) (o : BitVec 3), Ready s c x pa pk →
    let T := teamBase s c x
    let tag := (s.core c).tagAt T n.toNat
    ∀ q ∈ ([(.cpy d a n f, .cpy, 1, d), (.cpyt d a n f, .cpyt, 2, d), (.cpyg d a n f, .cpyg, 3, d), (.cpys d a n f, .cpys, 4, d),
            (.cfill d a n f, .cfill, 5, d), (.drain k d n k st fl, .drain, 6, d), (.padj d a b n k, .padj, 7, d),
            (.chrecv ch d n, .chrecv, 10, d), (.chred ch d n o, .chred, 11, d), (.coll r a d n, .coll, 12, d), (.rdld d r n, .rdld, 14, d)] :
          List (Instr × CmdKind × Nat × BitVec 4)),
      let m := semOf q.1
      let B := base s c x pa m.srcs
      let E := env s c x pa pk m
      let G : BitVec 4 → Geo := fun i => E.geo B i.toNat
      let A := arg s c x pa m.srcs 0
      let g := G q.2.2.2
      let lists := if q.2.1 = .cpyg ∨ q.2.1 = .cpys then (arg s c x pa m.srcs 1).toNat else 1
      Clear s c x pa pk m →
      ∃ t w, exec q.1 s = .next t ∧ SameOutside s t ∧ (t.core c).cmds = (s.core c).cmds ++ [w] ∧
        w.id = (s.core c).cmdSeq ∧ (t.core c).cmdSeq = (s.core c).cmdSeq + 1 ∧ w.kind = q.2.1 ∧ w.st = .queued ∧ w.ctx = x ∧ w.team = T ∧
        w.bundle = (s.ctx c x).pc ∧ w.pos = posOf s c x ∧ w.mark = (view s c x pa).seq ∧ w.tag = some (n.toNat, tag.gen + 1) ∧
        w.dst = some (if q.2.1 ∈ [.drain, .chrecv, .chred, .coll, .rdld] then { g with chase := none } else g) ∧
        w.src = (if q.2.1 ∈ [.cpy, .cpyt, .cpyg, .cpys, .padj, .coll] then some (G a) else none) ∧
        w.src2 = (if q.2.1 = .padj then some (G b) else none) ∧
        (match q.2.1 with
         | .cpy | .cpyt => w.flags = f.toNat ∧ w.n = 1
         | .cpyg | .cpys => w.flags = f.toNat ∧ w.list = A.toNat ∧ w.n = lists
         | .cfill => w.flags = f.toNat ∧ w.val = A
         | .drain => w.flags = fl.toNat ∧ w.acc = some k.toNat ∧ w.pset = st.toNat ∧ w.pj = (if st = 0 then 0 else E.pjValue B k.toNat) ∧
             w.val = BitVec.ofNat 64 (polScope (view s c x pa).mpol) ∧ w.n = (if fl.getLsbD 2 then A.toNat % 2 ^ 11 else 0)
         | .padj => w.pj = E.pjValue B k.toNat
         | .chrecv => w.chan = ch.toNat
         | .chred => w.chan = ch.toNat ∧ w.flags = o.toNat
         | .coll => w.desc = E.recordBytes B A.toNat 64 ∧ w.list = collRoute (leNat w.desc) ∧ w.chan = collC1 (leNat w.desc)
         | _ => w.desc = E.recordBytes B A.toNat (setBytes (E.setHead B) 16)) ∧
        (t.ctx c x).pj = (if q.2.1 = .padj ∨ q.2.1 = .drain ∧ st ≠ 0 then vset (view s c x pa).pj k.toNat (E.pjValue B k.toNat) else (view s c x pa).pj) ∧
        ((t.core c).tagAt T n.toNat).producer = q.2.2.1 ∧ ((t.core c).tagAt T n.toNat).f = 0 ∧
        ((t.core c).tagAt T n.toNat).n = lists * (g.d0 * g.d1) ∧ ((t.core c).tagAt T n.toNat).gen = tag.gen + 1 ∧
        ((t.core c).tagAt T n.toNat).state = (if lists * (g.d0 * g.d1) = 0 then .ready else .bound) ∧
        (t.ctx c x).pc = (passDecision (s.ctx c x).pc (nextPc s c x pk) (view s c x pa).nest).2 ∧
        (t.ctx c x).s = (view s c x pa).s ∧ (t.ctx c x).v = (view s c x pa).v ∧ (t.ctx c x).a = (view s c x pa).a

/-- R14, R71, R125, R329, R336, R345, R357, R369, R371, R375, R376: a command without a tag enters its engine's queue with the copies it takes at issue; a
product, `mzero` or
job card takes its accumulator, which is busy from then on, and a team that takes the accumulators finds them +0. -/
def Obligations.UntaggedCommandsIssue : Prop :=
  ∀ (s : State) (c x pa : Nat) (pk : List Nat) (k : BitVec 2) (a b md : BitVec 4) (z : BitVec 1) (r r' : BitVec 5) (ch : BitVec 8),
    Ready s c x pa pk →
    let T := teamBase s c x
    ∀ q ∈ ([(.mzero k, .mzero, some k), (.mma k a b z, .mma, some k), (.mmasp k a b md z, .mmasp, some k), (.jcard k r, .jcard, some k),
            (.hist a r r', .hist, none), (.chsend ch a, .chsend, none), (.mcst a r, .mcst, none)] : List (Instr × CmdKind × Option (BitVec 2))),
      let m := semOf q.1
      let B := base s c x pa m.srcs
      let E := env s c x pa pk m
      let G : BitVec 4 → Geo := fun i => E.geo B i.toNat
      let A := arg s c x pa m.srcs 0
      Clear s c x pa pk m →
      ∃ t w, exec q.1 s = .next t ∧ SameOutside s t ∧ (t.core c).cmds = (s.core c).cmds ++ [w] ∧
        w.id = (s.core c).cmdSeq ∧ (t.core c).cmdSeq = (s.core c).cmdSeq + 1 ∧ w.kind = q.2.1 ∧ w.st = .queued ∧ w.ctx = x ∧ w.team = T ∧
        w.bundle = (s.ctx c x).pc ∧ w.pos = posOf s c x ∧ w.mark = (view s c x pa).seq ∧ w.tag = none ∧ (t.core c).teams = (s.core c).teams ∧
        w.dst = none ∧ w.src = (if q.2.1 = .mzero ∨ q.2.1 = .jcard then none else some (G a)) ∧
        w.src2 = (if q.2.1 = .mma ∨ q.2.1 = .mmasp then some (G b) else none) ∧ w.src3 = (if q.2.1 = .mmasp then some (G md) else none) ∧
        (match q.2.1 with
         | .mma | .mmasp => w.flags = z.toNat
         | .jcard => w.list = A.toNat ∧ w.desc = E.recordBytes B A.toNat 64 ∧ (t.ctx c x).seqlen = BitVec.ofNat 64 (cardSeq (leNat w.desc))
         | .hist => w.list = A.toNat ∧ w.val = arg s c x pa m.srcs 1
         | .chsend => w.chan = ch.toNat
         | .mcst => w.desc = E.recordBytes B A.toNat (setBytes (E.setHead B) 8)
         | _ => True) ∧
        (∀ j, q.2.2 = some j → (w.acc = some j.toNat ∧ (t.core c).accOwner = some T ∧
          (vget (t.core c).accs j.toNat Acc.zero).busy = some w.id ∧
          ((s.core c).accOwner = none → ∀ i, i < 4 → (vget (t.core c).accs i Acc.zero).cells = []))) ∧
        (t.ctx c x).lqs.length = (popped s c x pa (semOf q.1).srcs).lqs.length + (if q.2.1 = .hist then 1 else 0) ∧
        (t.ctx c x).s = (view s c x pa).s ∧ (t.ctx c x).v = (view s c x pa).v
/-! ### Events: outstanding accesses and results -/

/-- R15, R105, R169, R247, R271: a load's data, read as its ordering and the context's own earlier stores make it, fills the load's entry,
and the first of its bytes whose data is lost marks it; a byte of it read before the rest (R133) stays as it was read; what waited for the load inside the core alone is performed too, so that the context's
accesses shrink to some `l`; a descriptor's part arrives with the reserved bits 0; the oldest result in flight lands; and the oldest
unfilled `sq` entry is filled, so that a store that waits for it may go on. Where an access of exactly these bytes is half done, it is finished
first (log entry 79); the clauses are said where there is none. A register that a landing writes whole no longer holds lost data, unless its cells
are broken. -/
def Obligations.DataReturnAndLandingEvents : Prop :=
  ∀ (s : State) (c x : Nat), s.powered = true → x < 4 →
    (∀ (k lvl : Nat) (o : MemOp) (toLq : Bool) (entry : Nat) (sext : Option Nat), (s.ctx c x).opReady k = some o →
      o.kind = .load toLq entry sext → s.halves c x o.covers = [] →
      let v := (s.ctx c x).dropOp o.id
      ((∀ b ∈ o.unread, s.isLost b.1 = false) →
        let p := placeBytes (o.part ++ (s.readFor c o.rest lvl).returned c x k o.rest)
        let w : W64 := (sext.map (fun (n : Nat) => BitVec.ofInt 64 (sbits p.1.toNat 0 n))).getD (p.1.setWidth 64)
        ∃ t l, exec (.loadDataReturn c x k lvl) s = .next t ∧
          t.ctx c x = { (if toLq then v.fillLq entry p.2 p.1 else v.fillLqs entry w) with ops := l } ∧ (v.innerReady = none → l = v.ops) ∧
          (∀ y, y ≠ x → t.ctx c y = s.ctx c y) ∧ (∀ c', c' ≠ c → t.core c' = s.core c') ∧ t.launches = s.launches) ∧
      (∀ b, o.unread.find? (fun b => s.isLost b.1) = some b →
        (∃ t l, exec (.loadDataReturn c x k lvl) s = .next t ∧ t.ctx c x = { v.loseEntry entry b.2 o.va b.1 with ops := l }) ∧
        (v.innerReady = none → exec (.loadDataReturn c x k lvl) s = .next (s.putCtx c x (v.loseEntry entry b.2 o.va b.1)).tick))) ∧
    (∀ (a k : Nat) (o : MemOp), (s.ctx c x).opReady k = some o → o.kind = .sld a → a < 16 → (s.ctx c x).ops[k]? = some o →
      (∀ j, j < k → ∀ p, (s.ctx c x).opReady j = some p → p.kind ≠ .sld a) → s.halves c x o.covers = [] →
      (∀ b ∈ o.unread, s.isLost b.1 = false) →
      let p := placeBytes (o.part ++ (s.readFor c o.rest 0).returned c x k o.rest)
      ∃ t, exec (.sldDataReturn c x a) s = .next t ∧
        vget (t.ctx c x).a a 0 =
          ((merge p.2 ((vget (s.ctx c x).a a 0).setWidth 1024) p.1).setWidth 512 &&& BitVec.ofNat 512 descMask) ∧
        (∀ b, b ≠ a → vget (t.ctx c x).a b 0 = vget (s.ctx c x).a b 0) ∧
        (((s.ctx c x).dropOp o.id).innerReady = none → (t.ctx c x).ops = (s.ctx c x).ops.filter (fun (q : MemOp) => q.id != o.id)) ∧
        (t.ctx c x).s = (s.ctx c x).s) ∧
    (∀ (l : Landing) (r : List Landing), (s.ctx c x).flight = l :: r →
      ∃ t, exec (.resultLanding c x) s = .next t ∧ OnlyCtx s t c x ∧ (t.ctx c x).flight = r ∧ (t.ctx c x).pc = (s.ctx c x).pc ∧
        (∀ n, l.dest = .s n → n < 32 →
          let w : W64 := merge (l.mask.setWidth 64) (vget (s.ctx c x).s n 0) (l.val.setWidth 64)
          t.ctx c x = { s.ctx c x with flight := r, s := vset (s.ctx c x).s n w, lostRegs := (s.ctx c x).mended n }) ∧
        (∀ n, l.dest = .v n → n < 32 →
          t.ctx c x = { s.ctx c x with
            flight := r, v := vset (s.ctx c x).v n (merge l.mask (vget (s.ctx c x).v n 0) l.val)
            lostRegs := if l.mask = BitVec.allOnes 1024 then (s.ctx c x).mended (100 + n) else (s.ctx c x).lostRegs }) ∧
        (∀ n, l.dest = .m n → n < 8 →
          let w : W64 := merge (l.mask.setWidth 64) (vget (s.ctx c x).m n 0) (l.val.setWidth 64)
          t.ctx c x = { s.ctx c x with
            flight := r, m := vset (s.ctx c x).m n w
            lostRegs := if l.mask.setWidth 64 = BitVec.allOnes 64 then (s.ctx c x).mended (200 + n) else (s.ctx c x).lostRegs }) ∧
        (∀ n, l.dest = .cond n → n < 12 → l.mask.getLsbD 0 = true →
          (vget (t.ctx c x).st n Steer.zero).cond = l.val.getLsbD 0 ∧
          (vget (t.ctx c x).st n Steer.zero).target = (vget (s.ctx c x).st n Steer.zero).target)) ∧
    (∀ id, (s.ctx c x).sqOldest = some id →
      ∃ t, exec (.sqEntryFill c x) s = .next t ∧ OnlyCtx s t c x ∧
        (t.ctx c x).sq = (s.ctx c x).sq.map (fun (e : SqEntry) => if e.id = id then { e with filled := true } else e) ∧
        (t.ctx c x).ops = (s.ctx c x).ops.map (fun (o : MemOp) => if o.kind = .store (some id) then { o with kind := .store none } else o) ∧
        (t.ctx c x).lq = (s.ctx c x).lq ∧ (t.ctx c x).v = (s.ctx c x).v)

/-- R77, R78, R153, R232, R233, R271, R272: a store performed is what its die's slices hold from then on, and no other byte of the die changes;
one that releases at device scope is what home memory holds, with all that the die's slices held dirty (R153), and no other byte of it changes; one that meets data lost since its issue raises MCHK when it is performed, which is
the model's reading (log entry 91). An atomic leaves f(old, v, e) at its home
slice and fills its entry with the old value sign-extended; a reduction leaves f(old, v) and fills nothing; no other byte of home memory
changes but one that the die's slices held dirty, which may reach its home. On lost data neither is performed.
Each is said where nothing in the core waits for the access alone, no access of exactly its bytes is half done (R133; log entry 79), and the
slices of the die have room for its lines. -/
def Obligations.StoreAndAtomicEvents : Prop :=
  ∀ (s : State) (c x k : Nat) (o : MemOp), s.powered = true → c < 256 → x < 4 → (s.ctx c x).opReady k = some o →
    s.mem.wf = true → (s.die (dieOf c)).copies.wf = true → s.halves c x o.covers = [] →
    (s.die (dieOf c)).present.length + o.writes.length ≤ Config.sliceLines →
    let v := (s.ctx c x).dropOp o.id
    let pas := o.bytes.map (fun (b : Nat × Nat) => b.1)
    let last := fun (a : Nat) => (o.writes.reverse.find? (fun (w : Nat × Byte) => w.1 == a)).map (fun (w : Nat × Byte) => w.2)
    let held := s.die (dieOf c)
    let home := fun (t : State) (a : Nat) => mget t.mem a = mget s.mem a ∨ (a ∈ held.dirty ∧ mget t.mem a = mget held.copies a)
    (∃ t, exec (.storePerform c x k) s = .next t) ∧
    (∃ t, exec (.sliceAtomic c x k) s = .next t) ∧
    (∃ t, exec (.sliceReduction c x k) s = .next t) ∧
    (v.innerReady = none → o.kind = .store none → ∀ pa, (o.writes.map (fun w => w.1)).find? s.isLost = some pa →
      ∃ t q, exec (.storePerform c x k) s = .next t ∧ q.cause = 14 ∧ t.ctx c x = { v with pending := dueInOrder q v.pending }) ∧
    (v.innerReady = none → o.kind = .store none → (∀ w ∈ o.writes, s.isLost w.1 = false) →
      ∃ t, exec (.storePerform c x k) s = .next t ∧ t.ctx c x = v ∧ (∀ y, y ≠ x → t.ctx c y = s.ctx c y) ∧ t.launches = s.launches ∧
        (o.ord < 2 ∨ o.scope < 2 →
          ∀ a, t.dieRead (dieOf c) a = (last a).getD (s.dieRead (dieOf c) a) ∧ (last a = none → mget t.mem a = mget s.mem a)) ∧
        (2 ≤ o.ord → 2 ≤ o.scope →
          ∀ a, mget t.mem a = (last a).getD (if a ∈ held.dirty then mget held.copies a else mget s.mem a))) ∧
    (∀ (f : AtomOp) (size A : Nat) (w e : W64) (entry : Nat), v.innerReady = none → o.kind = .atomic f size w e entry → size = 4 ∨ size = 8 → pas = span A size →
      (pas.all (fun (a : Nat) => !s.isLost a) = true →
        let old := (s.homeRead c pas).2
        ∃ t, exec (.sliceAtomic c x k) s = .next t ∧ (∀ y, y ≠ x → t.ctx c y = s.ctx c y) ∧
          t.ctx c x = v.fillLqs entry (BitVec.ofInt 64 (sbits old 0 (8 * size))) ∧
          leNat (pas.map (mget t.mem)) = f.apply (8 * size) old w.toNat e.toNat % 2 ^ (8 * size) ∧ (∀ a, a ∉ pas → home t a)) ∧
      (∀ pa, pas.find? s.isLost = some pa → exec (.sliceAtomic c x k) s = .next (s.putCtx c x (v.loseEntry entry 0 o.va pa)).tick)) ∧
    (∀ (f : RedOp) (size A : Nat) (w : W64), v.innerReady = none → o.kind = .reduce f size w → size = 4 ∨ size = 8 → pas = span A size →
      (pas.all (fun (a : Nat) => !s.isLost a) = true →
        ∃ t, exec (.sliceReduction c x k) s = .next t ∧ t.ctx c x = v ∧ (∀ y, y ≠ x → t.ctx c y = s.ctx c y) ∧
          leNat (pas.map (mget t.mem)) = f.apply (8 * size) (s.homeRead c pas).2 w.toNat % 2 ^ (8 * size) ∧ (∀ a, a ∉ pas → home t a)) ∧
      (∀ pa, pas.find? s.isLost = some pa →
        ∃ t q, exec (.sliceReduction c x k) s = .next t ∧ t.mem = s.mem ∧ (t.ctx c x).pending = dueInOrder q (s.ctx c x).pending ∧ q.cause = 14 ∧
          (t.ctx c x).ops = v.ops))

/-- R82, R83, R84, R85, R234, R235, R271: a slice-queue operation is performed at its home slice: `qinit` makes, empties or removes a queue,
`qenq` appends or hands its value to the oldest waiter, `qdeq` takes the oldest item, `qdeqw` takes it or waits, `qlen` counts; each
answers with the status the rules give. Entries take the places of the ring in turn (log entry 13). A `qdeqw` that waits stays among its context's accesses until it is answered (R137). Where the queue's
state, or the place in the ring of the entry it takes or fills, is lost the operation is not performed, which is the model's reading (log entry 14). What the context holds then is said where nothing
in the core waits for the access alone. -/
def Obligations.SliceQueueEvents : Prop :=
  ∀ (s : State) (c x k q j entry : Nat) (o : MemOp) (f : QueueOp) (w : W64) (r : List (Nat × Nat)), s.powered = true → x < 4 →
    (s.ctx c x).opReady k = some o → o.kind = .queue f w entry → o.bytes = (q, j) :: r →
    let v := (s.ctx c x).dropOp o.id
    let old := tget s.sliceQueues q
    let rest := fun (y : Ctx) (n : Nat) => y.ops.filter (fun (p : MemOp) => p.kind != .queue .deqw 0 n)
    let others := fun (e : SliceQueue) => ∀ b ∈ e.waiters, (b.1, b.2.1) ≠ (c, x)
    let settled := fun (e : SliceQueue) => ∀ b ∈ e.waiters, ∀ y : Ctx, y.ops = rest (s.ctx b.1 b.2.1) b.2.2 → y.innerReady = none
    let full : Bool := decide (64 ≤ s.queuesOf q)
    (∃ t, exec (.sliceQueueOp c x k) s = .next t) ∧
    (s.parkedAt c x entry = true → exec (.sliceQueueOp c x k) s = .next s.tick) ∧
    (∀ pa, s.parkedAt c x entry = false → (s.queueBytes f q).find? s.isLost = some pa → v.innerReady = none →
      ∃ t, exec (.sliceQueueOp c x k) s = .next t ∧ t.sliceQueues = s.sliceQueues ∧
        t.ctx c x = { (if f = .deqw ∨ f = .deq then (v.loseEntry entry 0 (o.va + (pa - q)) pa).loseEntry (entry + 1) 0 (o.va + (pa - q)) pa
          else v.loseEntry entry 0 (o.va + (pa - q)) pa) with
          parks := v.parks.filter (fun p => p.2 != entry) }) ∧
    ∀ t, s.parkedAt c x entry = false → (s.queueBytes f q).all (fun (a : Nat) => !s.isLost a) = true → v.innerReady = none →
      (f = .deqw → rest (s.ctx c x) entry = v.ops) → exec (.sliceQueueOp c x k) s = .next t →
      (∀ n, n ≠ q → tget t.sliceQueues n = tget s.sliceQueues n) ∧
      (f = .init → w = 0 → (∀ e : SliceQueue, old = some e → t.sliceQueues = tdel s.sliceQueues q ∧
        (others e → t.ctx c x = v.fillLqs entry 0)) ∧ (old = none → t.ctx c x = v.fillLqs entry 4 ∧ t.sliceQueues = s.sliceQueues)) ∧
      (f = .init → w ≠ 0 → capOk w.toNat = false → t.ctx c x = v.fillLqs entry 6 ∧ t.sliceQueues = s.sliceQueues) ∧
      (f = .init → capOk w.toNat = true → old = none → full = true → t.ctx c x = v.fillLqs entry 5 ∧ t.sliceQueues = s.sliceQueues) ∧
      (f = .init → capOk w.toNat = true → (old = none ∧ full = false ∨ old ≠ none) →
        tget t.sliceQueues q = some { cap := w.toNat, items := [], past := (old.map (fun (e : SliceQueue) => e.past)).getD [], next := 0, waiters := [] } ∧
        ((∀ e : SliceQueue, old = some e → others e) → t.ctx c x = v.fillLqs entry 0)) ∧
      (∀ (e : SliceQueue) (a y n : Nat), f = .init → w = 0 ∨ capOk w.toNat = true → old = some e → e.waiters.Nodup → (a, y, n) ∈ e.waiters →
        others e → settled e → (∀ b ∈ e.waiters, b ≠ (a, y, n) → (b.1, b.2.1) ≠ (a, y)) → y < 4 →
        t.ctx a y = { ((s.ctx a y).fillLqs n 3).fillLqs (n + 1) 0 with
          parks := (s.ctx a y).parks.filter (fun e => e.2 != n), ops := rest (s.ctx a y) n }) ∧
      (f = .enq → old = none → t.ctx c x = v.fillLqs entry 4) ∧
      (∀ e : SliceQueue, f = .enq → old = some e → e.waiters = [] → e.cap ≤ e.items.length →
        t.ctx c x = v.fillLqs entry 2 ∧ t.sliceQueues = s.sliceQueues) ∧
      (∀ e : SliceQueue, f = .enq → old = some e → e.waiters = [] → e.items.length < e.cap →
        t.ctx c x = v.fillLqs entry 0 ∧ tget t.sliceQueues q = some { e with items := e.items ++ [w], past := e.past ++ [(e.next % e.cap, w)], next := e.next + 1 }) ∧
      (∀ (e : SliceQueue) (a y n : Nat) (l : List (Nat × Nat × Nat)), f = .enq → old = some e → e.waiters = (a, y, n) :: l → others e → settled e → y < 4 →
        t.ctx c x = v.fillLqs entry 0 ∧ tget t.sliceQueues q = some { e with waiters := l } ∧
        t.ctx a y = { ((s.ctx a y).fillLqs n 0).fillLqs (n + 1) w with
          parks := (s.ctx a y).parks.filter (fun e => e.2 != n), ops := rest (s.ctx a y) n }) ∧
      (f = .deq → old = none → t.ctx c x = (v.fillLqs entry 4).fillLqs (entry + 1) 0) ∧
      (∀ e : SliceQueue, f = .deq → old = some e → e.items = [] →
        t.ctx c x = (v.fillLqs entry 1).fillLqs (entry + 1) 0 ∧ t.sliceQueues = s.sliceQueues) ∧
      (∀ (e : SliceQueue) (a : W64) (l : List W64), f = .deq → old = some e → e.items = a :: l →
        t.ctx c x = (v.fillLqs entry 0).fillLqs (entry + 1) a ∧ tget t.sliceQueues q = some { e with items := l }) ∧
      (f = .deqw → old = none →
        t.ctx c x = { (v.fillLqs entry 4).fillLqs (entry + 1) 0 with parks := v.parks.filter (fun e => e.2 != entry) }) ∧
      (∀ (e : SliceQueue), f = .deqw → old = some e → e.items = [] →
        t.ctx c x = s.ctx c x ∧ tget t.sliceQueues q = some { e with waiters := e.waiters ++ [(c, x, entry)] }) ∧
      (∀ (e : SliceQueue) (a : W64) (l : List W64), f = .deqw → old = some e → e.items = a :: l →
        t.ctx c x = { (v.fillLqs entry 0).fillLqs (entry + 1) a with parks := v.parks.filter (fun e => e.2 != entry) } ∧ tget t.sliceQueues q = some { e with items := l }) ∧
      (f = .len → t.sliceQueues = s.sliceQueues ∧
        t.ctx c x = v.fillLqs entry ((old.map (fun (e : SliceQueue) => BitVec.ofNat 64 e.items.length)).getD (BitVec.allOnes 64)))

/-! ### Events: engines -/

/-- R14, R17, R147, R256, R308, R336, R361, R369: an engine starts the head of its queue once it has a slot, what the command's context issued
before has been performed, and the stack queues it enters have room; a command that needs a power permit asks for it and waits at the head, and its die grants the oldest request
while fewer than K permits are held; `mzero` leaves its accumulator +0, where its cells are good; a command that completes fills the entry it owes and leaves, a deterministic drain only once every buffer
that holds a contribution of it has closed (R340). -/
def Obligations.EngineStartAndCompletionEvents : Prop :=
  ∀ (s : State) (c : Nat), s.powered = true →
    (∀ (e : Nat) (m : Cmd), (s.core c).queueHead e = some m → (s.core c).slotFree m = true → ((s.core c).ctx m.ctx).doneBelow m.mark = true →
      ((m.needsPermit = true → m.granted = true) → s.deadChan m = none →
        (exec (.engineCommandStart c e) s = .next (if (s.stacksOf c m).all s.stackRoom then
          ((s.joinStack c m).putCmd c { m with st := if m.empty then .finished else .running }).tick else s.tick))) ∧
      (m.needsPermit = true → m.granted = false → m.st = .queued →
        exec (.engineCommandStart c e) s = .next ((s.putCmd c { m with st := .permit }).putDie (dieOf c)
          { s.die (dieOf c) with waiting := (s.die (dieOf c)).waiting ++ [(c, m.id)] }).tick)) ∧
    (∀ (e : Nat) (m : Cmd), (s.core c).queueHead e = none ∨
      (s.core c).queueHead e = some m ∧ ((s.core c).slotFree m = false ∨ ((s.core c).ctx m.ctx).doneBelow m.mark = false) →
        exec (.engineCommandStart c e) s = .next s.tick) ∧
    (∀ (d o id : Nat) (r : List (Nat × Nat)) (m : Cmd), (s.die d).waiting = (o, id) :: r → (s.core o).cmd id = some m →
      ((s.die d).holding.length < (s.die d).permits →
        exec (.powerPermitGrant d) s = .next ((s.putDie d { s.die d with waiting := r, holding := (s.die d).holding ++ [(o, id)] }).putCmd o
          { m with granted := true, st := .queued }).tick) ∧
      ((s.die d).permits ≤ (s.die d).holding.length → exec (.powerPermitGrant d) s = .next s.tick)) ∧
    (∀ (id a : Nat) (m : Cmd), s.runningCmd c id (fun k => k == .mzero) = some m → m.acc = some a → a < 4 → (s.core c).lostAccs.contains a = false →
      ∃ t, exec (.mzeroComplete c id) s = .next t ∧ t.mem = s.mem ∧ (t.core c).cmd m.id = none ∧
        (vget (t.core c).accs a Acc.zero).cells = [] ∧ (vget (t.core c).accs a Acc.zero).isInt = false ∧
        ((vget (s.core c).accs a Acc.zero).busy = some m.id → (vget (t.core c).accs a Acc.zero).busy = none) ∧
        (∀ b, b ≠ a → (vget (t.core c).accs b Acc.zero).cells = (vget (s.core c).accs b Acc.zero).cells)) ∧
    (∀ (id : Nat) (m : Cmd), (s.core c).cmd id = some m → s.det.any (fun (b : DetBuf) => b.holds c id) = true →
      exec (.engineCommandCompletion c id) s = .next s.tick) ∧
    (∀ (id : Nat) (m : Cmd), (s.core c).cmd id = some m → m.st = .finished → s.det.any (fun (b : DetBuf) => b.holds c id) = false → m.lost = false →
      ∃ t, exec (.engineCommandCompletion c id) s = .next t ∧ t.mem = s.mem ∧ (t.core c).cmd id = none ∧
        (t.core c).cmds.length < (s.core c).cmds.length ∧ (t.die (dieOf c)).holding.contains (c, m.id) = false ∧
        (∀ e, m.entry = some e → m.ctx < 4 → t.ctx c m.ctx = (s.ctx c m.ctx).fillLqs e (BitVec.ofNat 64 m.sum)) ∧
        (m.entry = none → (t.core c).ctxs = (s.core c).ctxs))

/-- R52, R53, R54, R310, R320, R323, R329, R338: a product adds its next k-chunk, exact and rounded once, and writes its accumulator with the
last; a drain or `padj` writes its next row, computed from the accumulator or from the record and the gradient, with the support record
where it is asked for, and its frontier passes to the end of the row; the release that a drain is asked for comes with its last
write, before which what it has written is performed at that scope (R146); `padj` reads the row's record and gradient once, goes on in ROW order from the column where it halted, and what it writes is
kept for a resumption. A whole chunk or row in one event, the order of the chases and the frontier at whole rows are the model's (log
entries 38, 49, 96, 121). -/
def Obligations.MatrixAndProjectionEvents : Prop :=
  ∀ (s : State) (c id : Nat) (m : Cmd), s.powered = true →
    (∀ (a b : Geo) (acc : Nat) (rows cols : List (List Machine.Num)), s.runningCmd c id isProduct = some m → m.src = some a → m.src2 = some b →
      m.acc = some acc → s.accLost c acc = false →
      let d := matDims (m.kind == .mmasp) a b
      let k0 := m.prog * chunkLen (matClass a.fmt)
      let k1 := min (k0 + chunkLen (matClass a.fmt)) d.2.2
      s.productChase c m a b m.src3 d.1 d.2.1 k0 k1 = none →
      allOk ((List.range d.1).map (fun (i : Nat) => s.rowA c m.team a m.src3 i k0 k1)) = .ok rows →
      allOk ((List.range d.2.1).map (fun (j : Nat) => s.colB c m.team b j k0 k1)) = .ok cols →
      let old := fun (i j : Nat) => if m.prog = 0 then (if m.flags % 2 = 1 then 0 else s.cell c acc i j) else ((tget m.part (i * 128 + j)).getD 0).toNat
      let sums : Table W32 := (List.range (d.1 * d.2.1)).map (fun (t : Nat) => (t / d.2.1 * 128 + t % d.2.1, BitVec.ofNat 32
        (chunkAdd (matClass a.fmt == 3) (old (t / d.2.1) (t % d.2.1)) (dotTerms (rows.getD (t / d.2.1) []) (cols.getD (t % d.2.1) [])))))
      (k1 < d.2.2 → exec (.mmaComplete c id) s = .next (s.putCmd c { m with prog := m.prog + 1, part := sums }).tick) ∧
      (d.2.2 ≤ k1 → acc < 4 →
        ∃ t, exec (.mmaComplete c id) s = .next t ∧ t.mem = s.mem ∧ (t.core c).cmd m.id = none ∧
          (vget (t.core c).accs acc Acc.zero).isInt = (matClass a.fmt == 3) ∧
          (vget (t.core c).accs acc Acc.zero).cells =
            sums.foldl (fun (z : Table W32) (q : Nat × W32) => cellPut z q.1 q.2) (vget (s.core c).accs acc Acc.zero).cells ∧
          (∀ b', b' ≠ acc → (vget (t.core c).accs b' Acc.zero).cells = (vget (s.core c).accs b' Acc.zero).cells))) ∧
    (∀ (g : Geo) (a : Nat) (t u : State) (w : Cmd), s.runningCmd c id (fun k => k == .drain) = some m → isRed m = false → m.dst = some g →
      m.acc = some a → s.accLost c a = false →
      let root := s.cmdRoot c m
      let y := m.prog / g.d0
      let r := projectRow m.pset m.pj ((List.range g.d0).map (fun (x : Nat) => s.cell c a y x))
      let rel := m.flags / 8 % 2 == 1 && lastRow m g y
      let sup := m.flags % 2 == 1
      let lastPut := (List.range g.d0).reverse.find? (fun (x : Nat) => g.place g.org x y y g.clamp false true != .drop)
      writeRow c root m.team y g m.skip (r.y.map (drainCode (vget (s.core c).accs a Acc.zero).isInt g))
        (if rel && !sup then lastPut.map (fun (x : Nat) => (x, m.val.toNat)) else none) (List.range g.d0) s = .ok t →
      (if sup then (if rel then t.beforeLast c m.val.toNat else t).support c root m g y r = .ok (u, w) else u = t ∧ w = m) →
      let last := decide (g.d1 ≤ y + 1)
      exec (.drainRow c id) s = .next
        (((if lastRow w g y && m.flags / 8 % 2 == 1 then u.flagRelease c w.val.toNat else u).putCmd c
          { w with prog := (y + 1) * g.d0, st := if last then .finished else w.st }).publishTo c w (rowFrontier g (y + 1)) (!w.skip.isEmpty)).tick) ∧
    (∀ (d g r : Geo) (v : Nat) (row : List Nat) (t : State), s.runningCmd c id (fun k => k == .padj) = some m → m.dst = some d → m.src = some g →
      m.src2 = some r →
      let root := s.cmdRoot c m
      let y := m.prog / d.d0
      let s1 := if (m.keptRow d y).isSome then s else s.padjReach c root d g r y
      (m.keptRow d y = some row ∨ m.keptRow d y = none ∧ s.padjChase c m.team g r y = none ∧ s1.padjRecord c root m d r y = .ok v ∧
        (bits v 195 1 = 1 → ∀ x, x < d.d0 → s1.elemChase c m.team d x y = .met) ∧ s1.padjRowOf c root m d g y v = .ok row) →
      writeRow c root m.team y d m.skip row none ((List.range d.d0).filter (fun (x : Nat) => d.trav != 0 || decide (m.prog % d.d0 ≤ x))) s1 = .ok t →
      let w := m.keepRow d y row
      let last := decide (d.d1 ≤ y + 1)
      exec (.padjRow c id) s = .next ((t.putCmd c { w with prog := (y + 1) * d.d0, st := if last then .finished else m.st }).publishTo c w
        (rowFrontier d (y + 1)) (!m.skip.isEmpty)).tick)

/-- R57, R58, R59, R63, R110, R146, R250, R253, R339, R340, R344: a copy moves its next piece: the list entry of a gather or scatter is read word by word, the
elements are converted and written in the destination's traversal, the frontier passes to the end of the piece, and the command finishes with
its last piece; its last write that is not dropped is the release the flags ask for, before which what it has written is performed at that
scope (R146); its first read is the acquire the
flags ask for, and accesses of contexts may come before each element (R133; log entry 38). That elements move in
the order of the destination's traversal is log entry 134's choice, and that a `hist` takes its next element in its stream's traversal log entry
46's reading. That an identical copy moves nothing is log entry
22's reading, and that a deterministic drain's release comes with its last buffer log entry 50's. A reduce-drain finds the places and values of a piece before it sends the first, and performs its
next contribution at its slice, or adds it to the buffer of its count, which closes in the order of R59 with the release of a last one; a `hist` adds 1 to the bin
of its next element, up to 2^32 - 1, once the chases of the rest of its piece hold. -/
def Obligations.CopyReductionAndHistogramEvents : Prop :=
  (∀ (s s1 u : State) (c id : Nat) (m w : Cmd) (d : Geo) (bs : List Byte), s.powered = true → s.runningCmd c id isCopy = some m → m.dst = some d →
      let root := s.cmdRoot c m
      let n := m.tile
      let i := m.prog / n
      let e := pieceEnd (travLine d.trav d.d0 d.d1) d.w (m.prog % n) n
      let js := (List.range (e - m.prog % n)).map (fun (k : Nat) => m.prog % n + k)
      let skip := m.skip.contains m.prog
      let upTo := i * n + e
      m.storeVer = none → m.readVerAddr = none →
      (if isList m.kind && m.buf.isEmpty then s.readEntry c root m i = .ok (s1, bs) ∧ w = { m with buf := bs } else s1 = s ∧ w = m) →
      (∀ g, m.src = some g → ∀ k ∈ js, s1.copyChase c w g i (travElem d.trav d.d0 d.d1 k).1 (travElem d.trav d.d0 d.d1 k).2 = .met) →
      let s0 := if m.prog = 0 ∧ flagAcq m.flags = true ∧ m.src.isSome = true then s1.flagAcquire c (flagScope m.flags) else s1
      let rel := flagRel m.flags && s0.lastWrite c root w skip upTo
      let lastPut := js.reverse.find? (fun (k : Nat) =>
        w.dstPlace d i (travElem d.trav d.d0 d.d1 k).1 (travElem d.trav d.d0 d.d1 k).2 != .drop)
      (if w.identity then u = s0.putCmd c w else copyElems c root w d i skip false (if rel then lastPut else none) js s0 = .ok u) →
      let last := decide (m.total ≤ upTo)
      let x : Cmd := { w with
        prog := upTo, readVer := if upTo % n = 0 then none else m.readVer, buf := if upTo % n = 0 then [] else w.buf,
        st := if last then .finished else m.st }
      (w.identity = true ∨ d.layout = none → s0.lastWrite c root w skip upTo = last) ∧
      exec (.copyPieceWrite c id) s = .next
        (((if rel then u.flagRelease c (flagScope m.flags) else u).putCmd c x).publishTo c x upTo
          skip).tick) ∧
  (∀ (s : State) (c id : Nat) (m : Cmd) (g : Geo), s.powered = true →
      (∀ (a : Nat) (sends : List Nat), s.runningCmd c id (fun k => k == .drain) = some m → isRed m = true →
        m.dst = some g → m.acc = some a → s.accLost c a = false →
        let root := s.cmdRoot c m
        let n := g.d0 * g.d1
        let i := m.prog
        let e := pieceEnd (travLine g.trav g.d0 g.d1) g.w i n
        let p := pieceFloor (travLine g.trav g.d0 g.d1) g.w i n
        let at_ := fun (j : Nat) => travElem g.trav g.d0 g.d1 j
        let isInt := (vget (s.core c).accs a Acc.zero).isInt
        let last := decide (n ≤ i + 1)
        let rel := last && m.flags / 8 % 2 == 1
        let s1 := if m.chunks.isEmpty then s.noteElems c root g ((List.range (e - i)).map (fun (t : Nat) => i + t)) else s
        let fin := fun (t : State) =>
          let u := (if rel && m.n == 0 then t.flagRelease c m.val.toNat else t).putCmd c
            { m with prog := i + 1, chunks := if i + 1 = e then [] else sends, st := if last then .finished else m.st }
          (if i + 1 = e then u.publishTo c m e (m.skip.contains p) else u).tick
        (if m.chunks = [] then
          ∃ oks, allOk ((List.range (e - i)).map (fun (t : Nat) => s1.redPlace c root g (at_ (i + t)).1 (at_ (i + t)).2)) = .ok oks ∧
            sends = ((List.range (e - i)).zip oks).map (fun (q : Nat × Option Nat) =>
              (q.2.map (fun (pa : Nat) => (pa + 1) * 2 ^ 32 + s.cell c a (at_ (i + q.1)).2 (at_ (i + q.1)).1)).getD 0)
          else sends = m.chunks) →
        let here := sends.getD (i - p) 0
        let pas := span (here / 2 ^ 32 - 1) 4
        let v := here % 2 ^ 32
        here ≠ 0 → pas.find? s.isLost = none →
        (m.n = 0 → exec (.reduceContribution c id) s = .next
          (let p := (s1.whole c 4 pas).homeRead c pas
           fin (p.1.homeWrites c pas (contribute isInt p.2 v)))) ∧
        (0 < m.n → s.detUsed (here / 2 ^ 32 - 1) < 16384 → exec (.reduceContribution c id) s = .next
          (fin (s1.detAccept (addrOf (Int.ediv (g.bitOf (at_ i).1 (at_ i).2) 8)) (here / 2 ^ 32 - 1) m.n isInt
            (c, m.ctx, m.id * 2 ^ 20 + i, BitVec.ofNat 32 v) (if rel then some (c, m.id, m.val.toNat) else none)))) ∧
        (0 < m.n → 16384 ≤ s.detUsed (here / 2 ^ 32 - 1) → exec (.reduceContribution c id) s = .next s.tick)) ∧
      (∀ (bit sc : Int) (co : List Int) (el : Elem) (x : Machine.Num) (pas : List Nat), s.runningCmd c id (fun k => k == .hist) = some m → m.src = some g →
        let p := travElem g.trav g.d0 g.d1 m.prog
        let n := g.d0 * g.d1
        g.place g.org p.1 p.2 p.2 g.clamp false true = .at_ bit sc co →
        (∀ k, k < pieceEnd (travLine g.trav g.d0 g.d1) g.w m.prog n - m.prog → ∀ b z y,
          (let q := travElem g.trav g.d0 g.d1 (m.prog + k); g.place g.org q.1 q.2 q.2 g.clamp false true) = .at_ b z y →
          (s.core c).chaseOf m.team g b = .met) →
        let s1 := s.reachPlace c (s.cmdRoot c m) g (.at_ bit sc co)
        s1.readPlace c (s.cmdRoot c m) m.team g (.at_ bit sc co) = .ok el →
        (if g.fmt = 7 then decodeQ4 (xfSub g.xf) el.scale el.code else some (elemNum g.fmt el.code)) = some x →
        s1.xlatSpan c (s.cmdRoot c m) (m.list + 4 * histBin m.val.toInt x) 4 .write = .ok pas → pas.find? s.isLost = none →
        pas.any isHost = false →
        let h := (s1.reach c (s.cmdRoot c m) (m.list + 4 * histBin m.val.toInt x) 4).homeRead c pas
        exec (.histUpdate c id) s = .next ((h.1.homeWrites c pas (min (h.2 + 1) (2 ^ 32 - 1))).putCmd c
          { m with prog := m.prog + 1, sum := m.sum + 1, st := if g.d0 * g.d1 ≤ m.prog + 1 then .finished else m.st }).tick))

/-- R276, R378, R379, R380, R382, R383: a job card's first read is an acquire at device scope; it reads its queries and blocks, stores its output
tile-atomically at device scope and completes, its accumulator unspecified, all in one event (log entry 38); a card that its watchdog ends is queued again, unless it has been
replayed 15 times, and its context takes WATCHDOG; a re-queued card enters the matrix queue of another core of the die that runs its launch, and
starts there in its turn, once the matrix and projection engines are free. -/
def Obligations.JobCardEvents : Prop :=
  ∀ (s : State) (c id : Nat) (m : Cmd), s.powered = true →
    (∀ (qs : List (List Nat)) (ts : List Triple) (pas : List Nat) (t u v : State) (m1 m2 : Cmd), s.runningCmd c id (fun k => k == .jcard) = some m →
      let r := leNat m.desc
      let rc := m.cardCore c
      let root := s.cmdRoot c m
      let d := cardDim r
      let s0 := (s.acquire rc 2).cardReach rc root r ((cardSeq r + cardTokens r - 1) / cardTokens r)
      (m.chan = 0 → ∀ a, m.acc = some a → (s0.core c).lostAccs.contains a = false) →
      allOk ((List.range (cardRows r)).map (fun (i : Nat) => s0.bf16Row rc root (cardQuery r + i * 2 * d) d)) = .ok qs →
      s0.cardBlocks rc root r qs ((cardSeq r + cardTokens r - 1) / cardTokens r) 0
        (qs.map (fun _ => { m := f32NegInf, l := 0, o := List.replicate d 0 })) = .ok ts →
      s0.xlatSpan rc root (cardOut r) (cardRows r * d * 4) .write = .ok pas →
      s0.openTile rc root m (cardVersion r) 2 = .ok (some (t, m1)) → cardStore rc root (cardOut r) d (cardResult d ts) t = .ok u →
      u.closeTile rc root m1 (cardVersion r) 2 = .ok (v, m2) →
      ∃ f, exec (.cardComplete c id) s = .next f ∧ f.mem = v.mem ∧ (f.core c).cmd m2.id = none ∧
        (∀ a, m2.acc = some a → a < 4 →
          (vget (f.core c).accs a Acc.zero).cells = ((vget (v.core c).accs a Acc.zero).unspecified v.free).cells)) ∧
    (s.runningCmd c id (fun k => k == .jcard) = some m → m.ctx < 4 →
      ∃ t q, exec (.cardWatchdogExpiry c id false) s = .next t ∧ t.mem = s.mem ∧ (t.ctx c m.ctx).pending = dueInOrder q (s.ctx c m.ctx).pending ∧
        q.cause = 18 ∧ (m.replays < 15 → (t.core c).cmd id =
          some { m with st := .requeued, replays := m.replays + 1, opened := none, n := m.cardCore c + 1 }) ∧
        (15 ≤ m.replays → (t.core c).cmd id = none)) ∧
    (∀ o, (s.core c).cmd id = some m → m.kind = .jcard → m.st = .requeued →
      (s.hostOf c id = none → s.replayCore c m = some o → exec (.cardReplayStart c id) s = .next
        (if (s.core o).inQueue 1 < 8 then s.modCore o (fun k => { k with
          guests := k.guests ++ [{ core := c, cmd := m.id, before := k.cmdSeq, running := false }] }) else s).tick) ∧
      (∀ g, s.hostOf c id = some o → (s.core o).guest c id = some g → exec (.cardReplayStart c id) s = .next
        (if (s.core o).guestFirst g && (s.core o).matrixFree .jcard then
          (s.modCore o (fun k => { k with guests := k.guests.map (fun q => if q = g then { g with running := true } else q) })).putCmd c
            { m with st := .running, chan := o + 1, prog := 0 } else s).tick))

/-- R126, R127, R129, R267, R271, R335, R345: a running command whose next piece meets a fault halts: its tag is HALTED, and its context owes the engine fault
trap; a `hist`, product, `mzero` or job card ends, after the firmware has been asked where the launch asks it first (R267), while a `chsend` or
`mcst`, which bind no tag either, halt as the tagged commands do (log entry 42). A command that has lost something it reads halts on MCHK (R271). A
chaser that needs an element beyond an aborted tag ends, its own tag ABORTED in cascade, and its context owes CHASEABORT. -/
def Obligations.EngineFaultEvents : Prop :=
  ∀ (s : State) (c id : Nat) (m : Cmd), s.powered = true → m.ctx < 4 →
    (∀ site, (s.core c).cmd id = some m → m.st = .running → s.brokenAt c m = some site → endsOnFault m.kind = false →
      ∃ t q h, exec (.engineHalt c id) s = .next t ∧ (t.ctx c m.ctx).pending = dueInOrder q (s.ctx c m.ctx).pending ∧ q.cause = 12 ∧
        (t.core c).cmd id = some { m with st := .halted, halt := some h } ∧ h.cause = 14) ∧
    (∀ (f : Fail) (piece : Nat) (left : State) (w : Cmd), s.runningCmd c id (fun _ => true) = some m → s.cmdStep c m = .fail f piece left → (left.core c).cmd id = some w → w.ctx < 4 →
      ∃ t q, exec (.engineHalt c id) s = .next t ∧ q ∈ (t.ctx c w.ctx).pending ∧ q.cause = 12 ∧
        (w.opened = none ∨ endsOnFault w.kind = false → (t.ctx c w.ctx).pending = dueInOrder q (left.ctx c w.ctx).pending) ∧
        (endsOnFault w.kind = false → q.cmd = some id ∧ (∃ h, (t.core c).cmd id = some { w with st := .halted, halt := some h } ∧
            h.cause = f.cause ∧ h.addr = f.addr ∧ h.piece = piece) ∧
          (∀ (n g : Nat) (T : Team), w.tag = some (n, g) → tget (left.core c).teams w.team = some T → (T.tag n).gen = g → (T.tag n).state = .bound →
            (t.core c).tagAt w.team n = { T.tag n with state := .halted })) ∧
        q.ask = (left.firmwareFirst c w && f.vzero) ∧
        (endsOnFault w.kind = true → (q.ask = false → q.cmd = none ∧ (t.core c).cmd id = none) ∧
          (q.ask = true → q.cmd = some id ∧ (t.core c).cmd id = some { w with st := .halted }))) ∧
    (∀ tag, s.runningCmd c id (fun _ => true) = some m → s.cmdStep c m = .aborted tag →
      ∃ t q, exec (.chaseAbort c id) s = .next t ∧ q ∈ (t.ctx c m.ctx).pending ∧ q.cause = 15 ∧
        (m.opened = none → (t.ctx c m.ctx).pending = dueInOrder q (s.ctx c m.ctx).pending) ∧
        (t.core c).cmd id = none ∧
        (∀ (n g : Nat) (T : Team), m.tag = some (n, g) → tget (s.core c).teams m.team = some T → (T.tag n).gen = g → (T.tag n).state = .bound →
          (t.core c).tagAt m.team n = { T.tag n with state := .aborted, cascade := true }))

/-- R73, R95, R96, R97, R98, R100: a load-block's lines are filled and its tag is READY; the first request of a group load opens a hold, a full
table making it wait; another request for the same source joins it, and the hold is released when it times out; the leader of a released hold, the lowest resident member while
the leader's team is saved, or a late member for itself, reads the next piece, and a piece that has been read lands in the window of its member,
which is served with the last. The model's own are the publishing at a request (log entry 52), who reads (51), that a hold is complete with
the members enrolled now (93), and the slice that a source's first byte names where the stream clamps (116). -/
def Obligations.BlockAndGroupEvents : Prop :=
  ∀ (s : State) (c id : Nat) (m : Cmd), s.powered = true →
    (∀ (ls : List Nat), s.runningCmd c id (fun k => k == .ldblk) = some m → ((s.core c).ctx m.ctx).doneBelow m.mark = true →
      let s1 := (List.range m.n).foldl (fun (s : State) (i : Nat) => s.noteSpan c (s.cmdRoot c m) (m.list + 128 * i) 128) s
      s1.blockFillLines c (s.cmdRoot c m) m.list m.n 0 [] = .ok ls →
      ∃ t, exec (.blockFillComplete c id) s = .next t ∧ ((s.die (dieOf c)).present.length + m.n ≤ Config.sliceLines → t.mem = s.mem) ∧ (t.core c).cmd m.id = none ∧
        (∀ (n g : Nat) (T : Team), m.tag = some (n, g) → tget (s.core c).teams m.team = some T → (T.tag n).gen = g → (T.tag n).state = .bound →
          (T.tag n).n = m.n → (T.tag n).f ≤ m.n → ((t.core c).tagAt m.team n).state = .ready ∧ ((t.core c).tagAt m.team n).f = m.n ∧
          ∃ T', tget (t.core c).teams m.team = some T' ∧
            T'.blocks = T.blocks.map (fun (b : Block) => if b.tag == n && b.gen == g then { b with lines := ls } else b))) ∧
    (∀ (l key : Nat) (g : Group) (src dst : Geo), s.runningCmd c id (fun k => k == .gld) = some m → s.groupOf c m = some (l, key, g) →
      m.src = some src → m.dst = some dst → g.holds.any (fun (h : Hold) => h.holds c id) = false → ((s.core c).ctx m.ctx).doneBelow m.mark = true →
      let ask : GroupAsk := { core := c, ctx := m.ctx, cmd := id, served := false }
      let p := s.publish c 1
      let first : Hold := { seq := m.n, released := false, timedOut := false, mismatch := false, src := src, dst := dst, asks := [ask], data := [], halted := false }
      (g.hold? m.n = none → 256 ≤ s.holdsAt c (s.holdSlice c (s.cmdRoot c m) src) → exec (.groupRequestArrive c id) s = .next s.tick) ∧
      (g.hold? m.n = none → s.holdsAt c (s.holdSlice c (s.cmdRoot c m) src) < 256 →
        exec (.groupRequestArrive c id) s = .next (p.putGroup l key (g.putHold first).settle).tick) ∧
      (∀ h : Hold, g.hold? m.n = some h → h.mismatch = false → sameRequest h src dst = true →
        exec (.groupRequestArrive c id) s = .next ((p.putCmd c { m with flags := if h.released then 1 else 0 }).putGroup l key
          (g.putHold { h with asks := h.asks ++ [ask] }).settle).tick)) ∧
    (∀ (l key n : Nat) (v : Launch) (h : Hold), s.launchOf l = some v → (v.group key).hold? n = some h → h.released = false →
      exec (.groupHoldTimeout l key n) s = .next (s.putGroup l key ((v.group key).putHold { h with released := true, timedOut := true }).settle).tick) ∧
    (∀ (l key : Nat) (g : Group) (src dst : Geo) (h : Hold) (u : State), s.runningCmd c id (fun k => k == .gld) = some m →
      s.groupOf c m = some (l, key, g) → m.src = some src → m.dst = some dst → g.holds.find? (fun (h : Hold) => h.holds c m.id) = some h →
      h.released = true →
      let late := m.flags == 1
      let got := if late then m.chunks else h.data
      let s1 := (holdPlaces src dst got.length).foldl (fun (s : State) (p : Place) => s.reachPlace c (s.cmdRoot c m) src p) s
      (∀ data, fillReady dst got m.prog = false →
        (s.leader h).map (fun (a : GroupAsk) => (a.core, a.cmd)) = some (c, m.id) ∨
          h.halted = false ∧ (late = true ∨ (s.reader h).map (fun (a : GroupAsk) => (a.core, a.cmd)) = some (c, m.id)) →
        s1.holdRead c m src dst got = .ok data → exec (.groupFillLand c id) s = .next (s1.holdFilled c l key g h m late got.length data).tick) ∧
      (fillReady dst got m.prog = true →
        let s2 := if late = false ∧ h.timedOut = false ∧ m.prog = 0 then s.acquire c 1 else s
        let n := dst.d0 * dst.d1
        let e := pieceEnd (travLine dst.trav dst.d0 dst.d1) dst.w m.prog n
        let es := (List.range (e - m.prog)).map (fun (k : Nat) => holdElem got (m.prog + k))
        writeElems c (s.cmdRoot c m) m.team dst (m.skip.contains m.prog) none m.prog es s2 = .ok u →
        (e < n → exec (.groupFillLand c id) s = .next ((u.putCmd c { m with prog := e }).publishTo c m e (!m.skip.isEmpty)).tick) ∧
        (n ≤ e → exec (.groupFillLand c id) s = .next (((u.publishTo c m n (!m.skip.isEmpty)).putGroup l key (g.putHold { h with
          asks := h.asks.map (fun (a : GroupAsk) => if a.core = c ∧ a.cmd = m.id then { a with served := true } else a) }).settle).dropCmd c m).tick)))

/-! ### Events: contexts and teams -/

/-- R11, R12, R30, R31, R34, R114, R127, R235, R261, R263, R267, R277, R306: a core tries again its contexts' bundles in the order of R12, the
first whose bundle does not block issuing in this cycle, and a context that has issued for 4,096 cycles comes behind the others; a `sev` arrives; a drained context stops, and a team whose contexts have stopped
leaves its core, its unit done, to be rerun or abandoned; a unit of a class 2 launch is rerun where it ran (R304, log entry 98) (that a software tag aborts with the drained exit is the model's, log entry 120); a held trap is taken between bundles, a context parked in `qdeqw`
withdrawing first; traps due in one cycle stand in the order of their codes; the firmware's answer ends a wait, and
a trap whose record could not be written for want of a mapping is then taken; an
expired unit's commands end and its contexts owe WATCHDOG. -/
def Obligations.ContextAndTeamEvents : Prop :=
  ∀ (s : State) (c x : Nat), s.powered = true → x < 4 →
    (let u := ({ s with turn := c } : State).anew
     ∀ i : Instr, u.nextInstr = some i →
      ∃ t, exec i u = .next t ∧ ((t.core c).idle = 0 → exec (.blockedBundleIssue c) s = .next t) ∧
        ((t.core c).idle ≠ 0 → exec (.blockedBundleIssue c) s = .next (searchN c 3 t))) ∧
    (s.turnOver c (s.core c).cur = true →
      ∃ t, exec (.issueTurnLimit c) s = .next t ∧ OnlyCtx s t c 4 ∧ (t.core c).cur = (s.core c).cur ∧ (t.core c).run = 0 ∧ (t.core c).idle = 0 ∧
        ∀ j, j < 4 → (t.core c).inOrder j = ((s.core c).cur + 1 + j) % 4) ∧
    (∀ e : Sev, (s.core c).sevs.find? (fun (e : Sev) => e.ctx == x) = some e → ((s.core c).teamOf x).isSome = true →
      ∃ t, exec (.sevArrival c x) s = .next t ∧ SameOutside s t ∧ (t.core c).sevs = (s.core c).sevs.erase e ∧
        t.ctx c x = { s.ctx c x with evt := true } ∧ ∀ y, y ≠ x → t.ctx c y = s.ctx c y) ∧
    ((s.ctx c x).status = .exiting → s.undrained c x = false → (s.ctx c x).pending = [] →
      ∃ t, exec (.exitDrainComplete c x) s = .next t ∧ t.mem = s.mem ∧ (t.ctx c x).status = .exited ∧ (t.ctx c x).lq = [] ∧
        (t.ctx c x).lqs = [] ∧ (t.ctx c x).sq = [] ∧ (t.ctx c x).dfq = [] ∧ (t.ctx c x).nest = [] ∧
        (t.ctx c x).s = (s.ctx c x).landAll.s ∧ (t.ctx c x).v = (s.ctx c x).landAll.v ∧
        (∀ (n b : Nat) (T : Team), (s.core c).teamOf x = some (b, T) → (T.tag n).state = .bound → (T.tag n).producer = 13 →
          (T.tag n).binder = x → (tget T.tags n).isSome = true → ∃ T', tget (t.core c).teams b = some T' ∧ (T'.tag n).state = .aborted)) ∧
    (∀ (b : Nat) (T : Team) (v : Launch), tget (s.core c).teams b = some T → s.launchOf T.launch = some v → b + T.size ≤ 4 →
      (T.members b).all (fun (y : Nat) => (s.ctx c y).status == .exited) = true →
      (s.core c).cmds.all (fun (m : Cmd) => m.team != b) = true →
      let again := (v.unitRec T.unit).expired && decide ((v.unitRec T.unit).reruns < v.rerunLimit) && hdrClass v.hdr == 2 && !v.ended
      ∃ t w, exec (.teamExit c b) s = .next t ∧ t.launchOf T.launch = some w ∧
        ((s.core c).accOwner = some b → (t.core c).accOwner = none) ∧
        (again = false → t.mem = s.mem ∧ (t.core c).teams = tdel (s.core c).teams b ∧ (∀ y ∈ T.members b, (t.ctx c y).status = .free)) ∧
        (again = true → (w.unitRec T.unit).state = .resident c b ∧ (w.unitRec T.unit).reruns = (v.unitRec T.unit).reruns + 1 ∧
          ∃ T', tget (t.core c).teams b = some T' ∧ T'.launch = T.launch ∧ T'.unit = T.unit ∧ T'.stopping = T.stopping) ∧
        ((v.unitRec T.unit).expired = false → (w.unitRec T.unit).state = .done ∧ w.status = v.status) ∧
        (again = false → (v.unitRec T.unit).expired = true → (v.unitRec T.unit).reruns < v.rerunLimit →
          (w.unitRec T.unit).state = .waiting ∧ (w.unitRec T.unit).reruns = (v.unitRec T.unit).reruns + 1) ∧
        ((v.unitRec T.unit).expired = true → v.rerunLimit ≤ (v.unitRec T.unit).reruns →
          (w.unitRec T.unit).state = .abandoned ∧ (v.status = 0 → w.status = 3 ∧ w.cause = 18))) ∧
    (∀ (q : Trap) (r : List Trap) (b : Nat) (T : Team) (pas : List Nat), (s.ctx c x).pending = q :: r → (s.ctx c x).handler = none → q.ask = false →
      (s.core c).teamOf x = some (b, T) → T.stopping = false → s.recordPlace c x = .ok pas →
      ((s.ctx c x).parks = [] ∨ ∀ y : Ctx, y.ops = (s.ctx c x).ops.filter (fun (o : MemOp) =>
        !((s.ctx c x).parks.any (fun e => o.kind == .queue .deqw 0 e.2))) → y.innerReady = none) →
      ((s.ctx c x).status = .ready ∨ (s.ctx c x).status = .exiting ∨ (∃ u, (s.ctx c x).status = .service u ∧ u.ask = false) →
        ∃ t, exec (.asyncTrapDelivery c x) s = .next t ∧ t.mem = s.mem ∧ (t.ctx c x).pending = r ∧ (t.ctx c x).status = .ready ∧
          (t.ctx c x).tcause = BitVec.ofNat 64 q.cause ∧ (t.ctx c x).tpc = BitVec.ofNat 64 (s.ctx c x).pc ∧
          (t.ctx c x).pc = hdrTrap (s.hdrAt c x) ∧ (t.ctx c x).s = (s.ctx c x).landAll.s ∧
          (t.ctx c x).parks = [] ∧ (t.ctx c x).resend = [] ∧
          (t.ctx c x).handler = some { cause := q.cause, cmd := q.cmd, unitWd := q.unitWd || (s.ctx c x).condemned,
                                       resend := ((s.ctx c x).resend ++ (s.ctx c x).parks.map (fun (a : Nat × Nat) => a.1)).map
                                         (fun (a : Nat) => (a, (s.ctx c x).pc)) })) ∧
    (∀ q : Trap, (s.ctx c x).status = .service q →
      (q.ask = false → exec (.firmwareFaultService c x true) s = .next (s.putCtx c x { s.ctx c x with status := .ready }).tick) ∧
      (∀ pas mapped, mapped = false ∨ q.ask = true → (s.ctx c x).handler = none → (s.ctx c x).parks = [] → s.recordPlace c x = .ok pas →
        ∃ t, exec (.firmwareFaultService c x mapped) s = .next t ∧ t.mem = s.mem ∧ (t.ctx c x).status = .ready ∧
          (t.ctx c x).tcause = BitVec.ofNat 64 q.cause ∧ (t.ctx c x).tpc = BitVec.ofNat 64 (s.ctx c x).pc ∧
          (t.ctx c x).pc = hdrTrap (s.hdrAt c x))) ∧
    (∀ (b : Nat) (T : Team) (v : Launch), tget (s.core c).teams b = some T → s.launchOf T.launch = some v → b + T.size ≤ 4 →
      v.unitLimit ≠ 0 → v.ended = false → T.stopping = false → (v.unitRec T.unit).expired = false →
      ∃ t w, exec (.unitTimeLimitExpiry c b) s = .next t ∧ t.launchOf T.launch = some w ∧ (w.unitRec T.unit).expired = true ∧
        (t.core c).cmds.all (fun (m : Cmd) => m.team != b) = true ∧
        (∀ y ∈ T.members b, (s.ctx c y).status ≠ .exited → (s.ctx c y).status ≠ .dead →
          ∃ q, q ∈ (t.ctx c y).pending ∧ q.cause = 18 ∧ q.unitWd = true ∧
            ((∀ m ∈ (s.core c).cmds, m.team = b → m.opened = none) → (t.ctx c y).pending = dueInOrder q (s.ctx c y).pending))) ∧
    (∀ (q : Trap) (l : List Trap), (∀ u ∈ l, hbits u.record 64 64 = hbits q.record 64 64 → u.cause ≤ q.cause) → dueInOrder q l = l ++ [q]) ∧
    (∀ (q u : Trap) (l : List Trap), hbits u.record 64 64 = hbits q.record 64 64 → q.cause < u.cause → dueInOrder q (u :: l) = q :: u :: l)

/-! ### Events: errors, power and boot -/

/-- R269, R270, R271, R272, R273, R274, R355, R398: a corrected error changes no value; a lasting one loses what stood at its site and retires it; the
error log grows by an entry for each, which names the unit; a place that does not exist fails nowhere. When power goes, whole packets of 4 KiB of what was on its
way go on (R355). Without power no instruction and no event but a reset runs, and a reset leaves the module as it is
after reset. That a lost dirty line loses its 128 bytes, and what a reset keeps, are the model's (log entries 73, 18). -/
def Obligations.ErrorPowerAndBootEvents : Prop :=
  ∀ s : State,
    (∀ i : Instr, s.powered = false → i ≠ .moduleReset → exec i s = .fault .poweredOff) ∧
    (∃ t, exec .moduleReset s = .next t ∧ t.powered = true ∧ (∀ c, (t.core c).teams = [] ∧ (t.core c).cmds = []) ∧ t.launches = [] ∧ t.queues = State.reset.queues ∧
      t.channels = [] ∧ t.cycle = State.reset.cycle ∧ t.platform.inval = [] ∧ t.platform.leaf = s.platform.leaf ∧
      (Config.linkUp 0 0 = false → t.platform.boot = 0)) ∧
    (s.powered = true →
      (∃ t, exec .modulePowerLoss s = .next t ∧ t.powered = false ∧ (∀ c, (t.core c).teams = [] ∧ (t.core c).cmds = []) ∧ t.launches = [] ∧ t.platform.leaf = s.platform.leaf ∧
        ∀ u ∈ t.outbox, ∃ v ∈ s.outbox, ∃ n, u = { v with data := v.data.take (4096 * n) }) ∧
      (∃ t, exec .bootLinkTimeout s = .next t ∧ t.mem = s.mem ∧ t.cores = s.cores ∧
        (s.platform.boot = 0 → Config.linkUp 0 0 = false → Config.linkUp 1 0 = false → t.platform = { s.platform with bootPort := 1 }) ∧
        (s.platform.boot ≠ 0 → t.platform = s.platform)) ∧
      (∀ site : ErrSite, siteExists site = false → ∀ b, exec (.correctedError site) s = .next s.tick ∧ exec (.uncorrectableError site b) s = .next s.tick) ∧
      (∀ site : ErrSite, siteExists site = true → ∃ t, exec (.correctedError site) s = .next t ∧ t.mem = s.mem ∧ t.cores = s.cores ∧ t.dies = s.dies ∧
        t.platform.corrected = s.platform.corrected + 1 ∧ t.platform.log = s.platform.log ++ [{ kind := 0, site := site, cycle := s.cycle }] ∧
        t.platform.lost = s.platform.lost ∧ t.platform.retiredPages = s.platform.retiredPages) ∧
      (∀ site : ErrSite, siteExists site = true → s.platform.transients = [] →
        ∃ t, exec (.uncorrectableError site false) s = .next t ∧ t.mem = s.mem ∧ t.cores = s.cores ∧ t.dies = s.dies ∧
          t.platform.log = s.platform.log ++ [{ kind := 1, site := site, cycle := s.cycle }] ∧ t.platform.lost = s.platform.lost ∧
          t.platform.retiredPages = s.platform.retiredPages) ∧
      (∀ site : ErrSite, siteExists site = true → ∃ t, exec (.uncorrectableError site true) s = .next t ∧ t.mem = s.mem ∧ t.dies = s.dies ∧
        (∀ u a, site = .cacheLine u a true → (span (a / 128 * 128) 128).all (fun (b : Nat) => t.isLost b) = true) ∧
        (∀ u a, site = .cacheLine u a false → t.platform.lost = s.platform.lost) ∧
        (∀ a, site = .hbm a → t.platform.retiredPages.contains (a / 65536) = true) ∧
        (∀ c x r, site = .register c x r → (t.core c).retiring = true ∧ (r < 500 ∨ 560 ≤ r → (t.ctx c x).lostRegs.contains r = true ∧
            (t.ctx c x).deadRegs.contains r = true) ∧
          (500 ≤ r → r < 560 → (t.ctx c x).deadRegs.contains r = true ∧
            (t.ctx c x).lqs = (s.ctx c x).lqs.map (fun (e : PortEntry) => if 500 + e.cell = r then { e with lost := some (0, 0, noByte) } else e) ∧
            (t.ctx c x).lq = (s.ctx c x).lq.map (fun (e : PortEntry) => if 520 + e.cell = r then { e with lost := some (0, 0, noByte) } else e) ∧
            (t.ctx c x).sq = (s.ctx c x).sq.map (fun (e : SqEntry) => if 540 + e.cell = r then { e with lost := true } else e))) ∧
        (∀ c a, site = .accumulator c a → (t.core c).lostAccs.contains a = true ∧ (t.core c).retiring = true) ∧
        (∀ c i, site = .command c i → (t.core c).retiring = true ∧ ∀ m, (s.core c).cmd i = some m → (t.core c).cmd i = some { m with lost := true }) ∧
        (∀ c b n T, site = .tag c b n → tget (s.core c).teams b = some T → (t.core c).retiring = true ∧
          ∃ T', tget (t.core c).teams b = some T' ∧ T'.lostTags.contains n = true) ∧
        (∀ c g, site = .localStore c g → (t.core c).granules.contains g = true ∧ (t.core c).deadGranules.contains g = true) ∧
        (∀ c n, site = .channel c n → (t.core c).lostChans.contains n = true ∧ (t.core c).deadChans.contains n = true ∧ (t.core c).retiring = true) ∧
        (∀ l i n v g, site = .meshBuffer l i n → s.launchOf l = some v → v.grants[i]? = some g → (t.core (grantReceiver g.word)).retiring = true ∧
          ∃ w, t.launchOf l = some w ∧ w.grants[i]? = some { g with dead := insertNat n g.dead }) ∧
        (∀ c b n, site = .barrier c b n → (t.core c).retiring = true ∧ (t.core c).deadBars.contains ((s.core c).barBase b * 16 + n) = true) ∧
        (∀ c, site = .matrixHalf c → (t.core c).halfRate = true) ∧ (∀ c, site = .sfBank c → (t.core c).sfDegraded = true) ∧
        (∀ c, site = .coreUnit c → (t.core c).retiring = true)))

/-! ### Events: host queues, packets, launches -/

/-- R281, R282, R283, R284, R285, R286, R296: writes of a queue's registers, with the faults of a bad notify value, trigger or ring control; the
mapper's binding of the queue whose turn it is to the lowest free slot, and the giving up of a slot to a queue of no lower priority; a packet of
an unknown kind and a failed ring read make the queue FAULTED. No other queue changes. The lowest slot, and that of two causes the first reason
is kept, are the model's (log entry 16), and so is that clearing the status does not look at the ring control again (log entry 100). -/
def Obligations.HostRegisterAndSlotEvents : Prop :=
  ∀ (s : State) (q : Nat) (w : W64), s.powered = true → q < 1024 →
    let v := s.queue q
    let faulted := fun (u : HostQueue) (reason : Nat) => u.reason = (if v.reason = 0 then reason else v.reason) ∧
      u.interrupts = (if v.reason = 0 then v.interrupts + 1 else v.interrupts)
    let kept := fun (t : State) => (∀ r, r ≠ q → t.queue r = s.queue r) ∧ t.mem = s.mem ∧ t.launches = s.launches ∧ t.cores = s.cores
    (∃ t, exec (.notify q w) s = .next t ∧ kept t ∧ (t.queue q).readIndex = v.readIndex ∧
      (v.readIndex ≤ w.toNat → w.toNat ≤ v.readIndex + v.size → (t.queue q).notify = w.toNat ∧ (t.queue q).reason = v.reason) ∧
      (w.toNat < v.readIndex ∨ v.readIndex + v.size < w.toNat → (t.queue q).notify = v.notify ∧ faulted (t.queue q) 3)) ∧
    (∃ t, exec (.trigger q w) s = .next t ∧ kept t ∧
      (v.graph.isSome = true → v.runs.length < 5 → (t.queue q).reason = v.reason ∧
        (t.queue q).runs = v.runs ++ [{ trigger := w, begun := false, started := [], done := [] }]) ∧
      (v.graph = none ∨ 5 ≤ v.runs.length → (t.queue q).runs = v.runs ∧ faulted (t.queue q) 5)) ∧
    exec (.statusClear q) s = .next (s.putQueue q { v with reason := 0 }).tick ∧
    (∀ off, ∃ t, exec (.hostRegisterWrite q off w) s = .next t ∧ kept t ∧ (t.queue q).notify = v.notify ∧
      (off = 0x010 → (t.queue q).ringBase = w ∧ (t.queue q).control = v.control ∧ (t.queue q).reason = v.reason) ∧
      (off = 0x018 → (t.queue q).control = w ∧ (t.queue q).ringBase = v.ringBase ∧
        (w.getLsbD 12 = false ∨ controlOk w = true → (t.queue q).reason = v.reason) ∧
        (w.getLsbD 12 = true → controlOk w = false → faulted (t.queue q) 4)) ∧
      (off ≠ 0x010 → off ≠ 0x018 → (t.queue q).ringBase = v.ringBase ∧ (t.queue q).control = v.control ∧ (t.queue q).reason = v.reason)) ∧
    (∀ n, s.nextBound = some q → n < 32 → s.slotsUsed.contains n = false → (∀ k, k < n → s.slotsUsed.contains k = true) →
      exec (.mapperBind q) s = .next { s.putQueue q { v with slot := some n } with lastBound := vset s.lastBound v.prio q }.tick) ∧
    (s.nextBound ≠ some q → exec (.mapperBind q) s = .next s.tick) ∧
    (v.slot.isSome = true → 32 ≤ s.slotsUsed.length → s.wanting.any (fun (e : Nat × HostQueue) => decide (v.prio ≤ e.2.prio)) = true →
      exec (.slotRelinquish q) s = .next (s.putQueue q { v with slot := none }).tick) ∧
    (∀ p, s.headPacket q = some p → pkKind p < 1 ∨ 6 < pkKind p →
      ∃ t, exec (.unknownPacketKind q) s = .next t ∧ kept t ∧ faulted (t.queue q) 2 ∧ (t.queue q).readIndex = v.readIndex) ∧
    (v.slot.isSome = true → v.reason = 0 → v.waiting = none → v.readIndex < v.notify →
      ∃ t, exec (.ringReadFailed q) s = .next t ∧ kept t ∧ faulted (t.queue q) 1 ∧ (t.queue q).readIndex = v.readIndex)

/-- R286, R287, R288, R291, R292, R293, R294: the packet at the head of a queue is taken: WAITV and BARRIER wait, unless their condition holds;
SIGNAL writes its value once all earlier packets have completed; GRAPH installs its graph once no run of the earlier one is left, is refused
with reason 2 where it is malformed and 5 where it does not fit; a packet that completes writes its record. That the record of a GRAPH waits for
the runs of the graph before it (log entry 71), and that the larger of the two graphs counts while both are held (log entry 101), are the model's. -/
def Obligations.QueuePacketEvents : Prop :=
  ∀ (s : State) (q : Nat) (p : W512), s.powered = true → s.mem.wf = true →
    let v := s.queue q
    let i := v.readIndex
    let taken := fun (t : State) => (t.queue q).readIndex = i + 1 ∧ (∀ r, r ≠ q → t.queue r = s.queue r) ∧ t.launches = s.launches
    let closed := fun (t : State) (status cause : Nat) => (t.queue q).open_ = v.open_.filter (fun (j : Nat) => j != i) ∧
      (t.queue q).interrupts = (if pkInterrupt p then v.interrupts + 1 else v.interrupts) ∧
      (pkCompletion p ≠ 0 → (s.sysRead (pkCompletion p / 32 * 32) 32).isSome = true →
        mread t.mem (pkCompletion p / 32 * 32) 32 = record s.cycle 0 0 status cause)
    (s.takeable q 3 = some p → Machine.packetOk p = true → ∀ w, s.sysNat (pkAddress p) 8 = some w →
      let holds := waitHolds (pkSelector p) (BitVec.ofNat 64 w) (BitVec.ofNat 64 (pkValue p))
      ∃ t, exec (.waitvPacket q) s = .next t ∧ taken t ∧
        (holds = true → closed t 0 0 ∧ (t.queue q).waiting = none) ∧
        (holds = false → t.mem = s.mem ∧ (t.queue q).waiting = some (i, p) ∧ (t.queue q).open_ = v.open_ ++ [i])) ∧
    (∀ j w, v.waiting = some (j, p) → pkKind p = 3 → v.slot.isSome = true → s.sysNat (pkAddress p) 8 = some w →
      let holds := waitHolds (pkSelector p) (BitVec.ofNat 64 w) (BitVec.ofNat 64 (pkValue p))
      (holds = false → exec (.waitvPacketPoll q) s = .next s.tick) ∧
      (holds = true → ∃ t, exec (.waitvPacketPoll q) s = .next t ∧ (t.queue q).waiting = none ∧ (t.queue q).readIndex = i ∧
        (t.queue q).open_ = v.open_.filter (fun (n : Nat) => n != j))) ∧
    (s.takeable q 4 = some p → Machine.packetOk p = true → v.signals = [] →
      ∃ t, exec (.signal q) s = .next t ∧ taken t ∧
        (v.open_ = [] → pkCompletion p = 0 → (s.sysRead (pkAddress p) 8).isSome = true →
          mread t.mem (pkAddress p) 8 = leBytes 8 (pkValue p) ∧ (t.queue q).signals = [] ∧ (t.queue q).open_ = []) ∧
        ((∃ j ∈ v.open_, j < i) → t.mem = s.mem ∧ (t.queue q).signals = [(i, p)] ∧ (t.queue q).open_ = v.open_ ++ [i])) ∧
    (∀ j r, v.signals = (j, p) :: r → v.open_.all (fun (n : Nat) => decide (j ≤ n)) = true → pkCompletion p = 0 →
      (s.sysRead (pkAddress p) 8).isSome = true →
      ∃ t, exec (.signal q) s = .next t ∧ mread t.mem (pkAddress p) 8 = leBytes 8 (pkValue p) ∧ (t.queue q).signals = r ∧
        (t.queue q).open_ = v.open_.filter (fun (n : Nat) => n != j)) ∧
    (s.takeable q 5 = some p → barrierOk p = true →
      let holds := (s.takeWaiting q p).barrierHolds q p
      ∃ t, exec (.barrier q) s = .next t ∧ taken t ∧
        (holds = true → closed t 0 0 ∧ (t.queue q).waiting = none) ∧
        (holds = false → t.mem = s.mem ∧ (t.queue q).waiting = some (i, p))) ∧
    (s.takeable q 2 = some p →
      (Machine.packetOk p = false ∨ s.readGraph (pkAddress p) = none → ∃ t, exec (.graph q) s = .next t ∧ taken t ∧ closed t 2 2) ∧
      (∀ g, Machine.packetOk p = true → s.readGraph (pkAddress p) = some g → 8388608 < (s.modQueue q HostQueue.take).graphBytes q + g.bytes →
        ∃ t, exec (.graph q) s = .next t ∧ taken t ∧ (t.queue q).graph = v.graph ∧ closed t 2 5) ∧
      (∀ g, Machine.packetOk p = true → s.readGraph (pkAddress p) = some g → (s.modQueue q HostQueue.take).graphBytes q + g.bytes ≤ 8388608 →
        v.nextGraphs = [] → ∃ t, exec (.graph q) s = .next t ∧ taken t ∧
          (v.runs = [] → (t.queue q).graph = some g ∧ closed t 0 0) ∧
          (v.runs ≠ [] → (t.queue q).graph = v.graph ∧ (t.queue q).nextGraphs = [(i, p, g)] ∧ t.mem = s.mem)))

/-- R288, R289, R290, R291, R295, R296: a LAUNCH packet draws the next epoch and starts its launch, or is refused with the reason of the first
condition that fails; a run of a graph writes its patches, its queue giving up its slot where nothing else is left in it (R285), and then starts
each node whose predecessors have completed, or completes REFUSED where its patch list is malformed or, which is the model's choice (log entry
137), cannot be read; a launch that is over
writes its record and leaves. -/
def Obligations.LaunchAndGraphRunEvents : Prop :=
  ∀ (s : State) (q : Nat), s.powered = true → s.mem.wf = true →
    let v := s.queue q
    let e := s.epochs
    (∀ p, s.takeable q 1 = some p → s.platform.ckpt = none →
      let u : State := { s.modQueue q HostQueue.take with epochs := e + 1 }
      let l := Launch.ofPacket p (BitVec.ofNat 64 e) q v.readIndex none
      (∀ w, u.checkLaunch p l = .ok w → ∃ t, exec (.launch q) s = .next t ∧ t.mem = s.mem ∧ t.epochs = e + 1 ∧ t.launchOf e = some w ∧
        (∀ n, n ≠ e → t.launchOf n = s.launchOf n) ∧ (t.queue q).readIndex = v.readIndex + 1 ∧ (t.queue q).open_ = v.open_ ++ [v.readIndex]) ∧
      (∀ r, u.checkLaunch p l = .error r → ∃ t, exec (.launch q) s = .next t ∧ t.epochs = e + 1 ∧ t.launches = s.launches ∧
        (t.queue q).readIndex = v.readIndex + 1 ∧ (t.queue q).open_ = v.open_.filter (fun (j : Nat) => j != v.readIndex) ∧
        (pkCompletion p ≠ 0 → (s.sysRead (pkCompletion p / 32 * 32) 32).isSome = true →
          mread t.mem (pkCompletion p / 32 * 32) 32 = record s.cycle 0 (BitVec.ofNat 64 e) 2 r))) ∧
    (∀ (g : Graph) (r : GraphRun) (rs : List GraphRun) (n : Nat), v.graph = some g → v.runs = r :: rs → s.platform.ckpt = none →
      (∀ l, r.begun = false → v.slot.isSome = true → s.patches r.trigger = some l →
        l.all (fun (a : Nat × Nat × Nat) => decide (a.1 < g.nodes.length) && a.2.1 % 8 == 0) = true →
        exec (.graphNodeStart q n) s = .next
          (((l.foldl (fun (u : State) (a : Nat × Nat × Nat) => u.patch g a) s).putQueue q { v with runs := { r with begun := true } :: rs }).settleQueue q).tick) ∧
      (r.begun = false → v.slot.isSome = true →
        (s.patches r.trigger).all (fun l => !l.all (fun (a : Nat × Nat × Nat) => decide (a.1 < g.nodes.length) && a.2.1 % 8 == 0)) = true →
        exec (.graphNodeStart q n) s = .next ((s.runDone q g { status := 2, cause := 2, tpc := 0 }).settleQueue q).tick) ∧
      (r.begun = true → n < g.nodes.length → r.started.contains n = false →
        (g.edges.all (fun (a : Nat × Nat) => a.2 != n || (tget r.done a.1).isSome)) = true →
        let p := g.nodes.getD n 0
        let u : State := { s.putQueue q { v with runs := { r with started := r.started ++ [n] } :: rs } with epochs := e + 1 }
        (∀ w, u.checkLaunch p (Launch.ofPacket p (BitVec.ofNat 64 e) q 0 (some n)) = .ok w →
          exec (.graphNodeStart q n) s = .next ((u.putLaunch e w).openRoot w.root).tick) ∧
        (∀ c, u.checkLaunch p (Launch.ofPacket p (BitVec.ofNat 64 e) q 0 (some n)) = .error c → r.done.length + 1 < g.nodes.length →
          tget r.done n = none →
          ∃ t r', exec (.graphNodeStart q n) s = .next t ∧ t.launches = s.launches ∧ (t.queue q).runs = r' :: rs ∧ tget r'.done n = some { status := 2, cause := c, tpc := 0 }))) ∧
    (∀ (l : Nat) (w : Launch), s.launchOf l = some w → s.launchOver l w = true →
      ∃ t, exec (.launchComplete l) s = .next t ∧ t.launches = tdel s.launches l ∧
        (w.node = none → w.completion ≠ 0 → (s.sysRead (w.completion / 32 * 32) 32).isSome = true →
          mread t.mem (w.completion / 32 * 32) 32 = record s.cycle w.tpc w.epoch w.status w.cause) ∧
        (w.node = none → (t.queue w.queue).open_ = (s.queue w.queue).open_.filter (fun (j : Nat) => j != w.packet) ∧
          (t.queue w.queue).interrupts = (if w.interrupt then (s.queue w.queue).interrupts + 1 else (s.queue w.queue).interrupts)))

/-! ### Events: dispatch, pre-emption, firmware, platform -/

/-- R22, R290, R297, R298, R299, R300, R301, R302, R303, R304: the dispatcher starts the next unit on a core with room, its contexts as the launch gives
them; a unit is preloaded; a request to stop is deferred while a context of a team that would stop holds a budget hint, and
stops the teams otherwise; a stopped
team is saved, what its contexts had outstanding performed first, or leaves to be run again, and neither while a team that leaves with it is in
the midst of a piece of a reduce-drain or `hist`; a saved team resumes with the contexts it had. A unit stopped at its budget gives way (R299). The model's
own are the accesses performed at a save (log entry 99), the same context numbers at a resumption (58), the first fit of `startAll` (63), the
clocks joined there (78), and when a unit gives way no longer (124). -/
def Obligations.DispatchAndPreemptionEvents : Prop :=
  ∀ (s : State) (l u c b : Nat) (v : Launch), s.powered = true → s.launchOf l = some v →
    (∀ place, v.nextUnit (dieOf c) = some u → s.nextResume (dieOf c) = none → s.canStart l v (dieOf c) = true →
      s.launches.any (fun (e : Nat × Launch) => e.1 != l && e.2.before v && s.canStart e.1 e.2 (dieOf c)) = false →
      hdrClass v.hdr ≠ 2 → (v.coresFor u (dieOf c)).contains c = true → s.fit l v.hdr c b false = some place → pairOf v.hdr u = none →
      ∃ t T w, exec (.dispatchUnit l u c b) s = .next t ∧ tget (t.core c).teams b = some T ∧ T.launch = l ∧ T.unit = u ∧
        T.size = hdrTeam v.hdr ∧ T.place = place ∧ T.win = v.image ∧ T.tags = [] ∧ T.stopping = false ∧
        T.barKey = s.barKeys ∧ t.barKeys = s.barKeys + 1 ∧
        (∀ m, m < hdrTeam v.hdr → t.ctx c (b + m) = v.startCtx u m (s.ctx c (b + m)).deadRegs) ∧
        t.launchOf l = some w ∧ (w.unitRec u).state = .resident c b) ∧
    (∀ t', v.nextUnit (dieOf c) = some u → s.nextResume (dieOf c) = none → s.canStart l v (dieOf c) = true →
      s.launches.any (fun (e : Nat × Launch) => e.1 != l && e.2.before v && s.canStart e.1 e.2 (dieOf c)) = false →
      hdrClass v.hdr = 2 → startAll l v (hdrUnits v.hdr) 0 s = some t' → exec (.dispatchUnit l u c b) s = .next (t'.joinClocks.turnTaken l (dieOf c)).tick) ∧
    (∀ m, s.nextFor l v u c = true → (s.core c).retired = false → s.imageRead v.root v.hdr = .ok m →
      exec (.preload l u c) s = .next (s.putCore c { s.core c with preload := some (l, u) }).tick) ∧
    (∀ e, s.nextFor l v u c = true → (s.core c).retired = false → s.imageRead v.root v.hdr = .error e → v.ended = false →
      ∃ t w, exec (.preload l u c) s = .next t ∧ t.launchOf l = some w ∧ w.ended = true ∧ w.status = 1 ∧ w.cause = e.1) ∧
    (∀ T : Team, tget (s.core c).teams b = some T → T.launch = l → b + T.size ≤ 4 →
      let hint := (s.stopsWith c b).any (fun (p : Nat × Nat) => s.hinted p.1 p.2)
      let stops := fun (t : State) => ∃ T' : Team, tget (t.core c).teams b = some T' ∧ T'.stopping = true ∧ T'.deferred = false ∧
        T'.unit = T.unit ∧ T'.tags = T.tags ∧ T'.win = T.win
      let asked := fun (i : Instr) (way : State → State) =>
        (hint = true → exec i s = .next (way (s.putCore c ((s.core c).putTeam b { T with deferred := true }))).tick) ∧
        (hint = false → hdrClass v.hdr ≠ 2 → (∀ x, (s.ctx c x).parks = []) →
          ∃ t, exec i s = .next t ∧ t.mem = s.mem ∧ t.launches = (way s).launches ∧ stops t)
      (s.stoppingOn (dieOf c) = false → s.evictable (dieOf c) c b T v = true ∨ s.displaced (dieOf c) T v = true → asked (.preemptRequest c b) id) ∧
      (v.budget ≠ 0 → T.stopping = false →
        ((v.unitRec T.unit).expired = false ∨ (v.unitRec T.unit).expiredAt + 1 < s.cycle.toNat) →
        s.launches.any (fun (e : Nat × Launch) => e.1 != T.launch && s.waitsAt e.1 e.2 (dieOf c)) = true →
        asked (.budgetOverrun c b) (fun (t : State) => t.modLaunch l (fun w => { w with
          units := tput w.units T.unit { w.unitRec T.unit with gaveWay := true } }))) ∧
      (T.deferred = true → hdrClass v.hdr ≠ 2 → (∀ x, (s.ctx c x).parks = []) → ∃ t, exec (.budgetHintExpiry c b) s = .next t ∧ t.mem = s.mem ∧ stops t) ∧
      let inPiece := (s.leaving c b T v).any (fun (p : Nat × Nat) => (s.core p.1).cmds.any (fun (m : Cmd) => m.team == p.2 && m.inPiece))
      let d := s.drainTeam c b T
      (T.stopping = true → v.ended = false → inPiece = true → exec (.teamSave c b) s = .next s.tick) ∧
      (T.stopping = true → v.ended = false → inPiece = false → hdrClass v.hdr = 0 → (s.core c).together b = [b] →
        ∃ t S w, exec (.teamSave c b) s = .next t ∧ t.saved = s.saved ++ [S] ∧ S.launch = l ∧ S.unit = T.unit ∧ S.base = b ∧ S.die = dieOf c ∧
          S.ctxs = (T.members b).map (fun (x : Nat) => (d.ctx c x).saved (d.core c).clock) ∧
          S.cmds = ((d.core c).cmds.filter (fun (m : Cmd) => m.team == b)).map (fun (m : Cmd) =>
            m.suspended (match m.tag with | some (n, _) => ((d.core c).tagAt b n).f | none => m.prog)) ∧
          (∀ T', tget (d.core c).teams b = some T' → S.team.tags = T'.tags ∧ S.team.win = T'.win ∧ S.team.blocks = T'.blocks) ∧
          (t.core c).teams = tdel (d.core c).teams b ∧ t.launchOf l = some w ∧ (w.unitRec T.unit).state = .saved c) ∧
      (T.stopping = true → v.ended = false → inPiece = false → hdrClass v.hdr = 1 →
        ∃ t w, exec (.teamSave c b) s = .next t ∧ t.saved = s.saved ∧ (t.core c).cmds.all (fun (m : Cmd) => m.team != b) = true ∧
          t.launchOf l = some w ∧
          ((v.unitRec T.unit).expired = false → (w.unitRec T.unit).state = .waiting ∧ (w.unitRec T.unit).preempted = true) ∧
          ((v.unitRec T.unit).expired = true → (v.unitRec T.unit).reruns < v.rerunLimit → (w.unitRec T.unit).state = .waiting ∧
            (w.unitRec T.unit).preempted = true ∧ (w.unitRec T.unit).reruns = (v.unitRec T.unit).reruns + 1) ∧
          ((v.unitRec T.unit).expired = true → v.rerunLimit ≤ (v.unitRec T.unit).reruns → (w.unitRec T.unit).state = .abandoned))) ∧
    (∀ (S : SavedTeam) (p : Nat), s.nextResume (dieOf c) = some (l, u) → s.savedUnit l u = some S → S.base = b → hdrClass v.hdr ≠ 2 →
      s.restoreFit S c = some p → s.savedPair S = none → b + S.ctxs.length ≤ 4 →
      ∃ t T w, exec (.teamRestore l u c b) s = .next t ∧ tget (t.core c).teams b = some T ∧ T.unit = S.team.unit ∧ T.tags = S.team.tags ∧
        T.win = S.team.win ∧ T.place = p ∧ T.stopping = false ∧
        (∀ i x, S.ctxs[i]? = some x → (t.ctx c (b + i)).s = x.s ∧ (t.ctx c (b + i)).v = x.v ∧ (t.ctx c (b + i)).pc = x.pc ∧
          (t.ctx c (b + i)).status = x.status ∧ (t.ctx c (b + i)).lqs = (x.intoCells (s.ctx c (b + i)).deadRegs).lqs) ∧
        t.saved = s.saved.filter (fun (w : SavedTeam) => !(w.launch == l && w.unit == u)) ∧
        t.launchOf l = some w ∧ (w.unitRec u).state = .resident c b)

/-- R64, R278, R279, R280, R291, R292, R293: a checkpoint or restore stops the taking of launches, the nodes of graph runs among them (log entry
68), writes the caches back once none runs, and then writes
the image to the safe tier its packet names or reloads it, a chunk that does not match its digest left zero and listed; it ends FAILED, with its
completion record, when its limit expires or the safe tier is lost; SCALE computes the exponent of a histogram; a FIRMWARE packet out of form is
refused. The model's own are the tier a descriptor names and the list of zeroed chunks (log entry 102), the whole of device memory rewritten at a
restore (69), that these events come once the firmware runs (67), and what its program leaves in its own cores and SRAM (103). -/
def Obligations.FirmwareEvents : Prop :=
  ∀ (s : State) (q : Nat) (p : W512), s.powered = true →
    let v := s.queue q
    let i := v.readIndex
    let refused := .next ((s.refusePacket q p).modPlatform (fun (f : Platform) => f.worked s.free)).tick
    let failed := fun (t : State) => t.platform.ckpt = none ∧ (pkCompletion p = 0 → t.mem = s.mem) ∧
      (s.mem.wf = true → pkCompletion p ≠ 0 → (s.sysRead (pkCompletion p / 32 * 32) 32).isSome = true →
        mread t.mem (pkCompletion p / 32 * 32) 32 = record s.cycle 0 0 5 0)
    (s.platform.ckpt ≠ none → exec (.launch q) s = .next s.tick ∧ ∀ n, exec (.graphNodeStart q n) s = .next s.tick) ∧
    (s.takeable q 6 = some p → s.firmwareUp = true →
      (firmwareOk p = false → exec (.checkpoint q) s = refused ∧ exec (.restore q) s = refused ∧ exec (.scale q) s = refused) ∧
      (firmwareOk p = true → s.platform.ckpt = none →
        ∀ r : Bool, pkSelector p = (if r then 1 else 0) →
          ∃ t, exec (if r then .restore q else .checkpoint q) s = .next t ∧ t.mem = s.mem ∧ t.launches = s.launches ∧ t.cores = s.cores ∧
            (t.queue q).waiting = some (i, p) ∧ (t.queue q).readIndex = i + 1 ∧
            t.platform.ckpt = some { queue := q, packet := i, desc := p, restore := r, stage := 0 }) ∧
      (firmwareOk p = true → pkSelector p = 2 → s.mem.wf = true → pkCompletion p = 0 →
        (s.sysRead (pkAddress p) 128 = none → ∃ t, exec (.scale q) s = .next t ∧ t.mem = s.mem ∧ (t.queue q).readIndex = i + 1) ∧
        (∀ bs, s.sysRead (pkAddress p) 128 = some bs → (s.sysRead (pkResult p) 8).isSome = true →
          ∃ t, exec (.scale q) s = .next t ∧ (t.queue q).readIndex = i + 1 ∧
            mread t.mem (pkResult p) 8 = leBytes 8 (ofInt 64 (Machine.scaleOf (wordsOf bs) (bits (pkValue p) 0 32) (sbits (pkValue p) 32 8)
              (bits (pkValue p) 40 4))).toNat))) ∧
    (∀ k : Checkpoint, s.platform.ckpt = some k → k.desc = p →
      (k.stage = 0 → s.launches ≠ [] → ∃ t, exec .checkpointDrainLimit s = .next t ∧ failed t) ∧
      (k.stage = 1 → ∃ t, exec .safeTierLoss s = .next t ∧ failed t ∧ t.platform.safe = s.platform.safe) ∧
      (k.restore = false → k.stage = 1 → s.tierOf p = none → ∃ t, exec .checkpointComplete s = .next t ∧ failed t ∧ t.platform.safe = s.platform.safe) ∧
      (k.restore = true → k.stage = 1 → (s.tierOf p).bind (tget s.platform.safe) = none → ∃ t, exec .restoreComplete s = .next t ∧ failed t)) ∧
    (∀ k : Checkpoint, s.platform.ckpt = some k → k.desc = p → pkCompletion p = 0 →
      (k.stage = 0 → s.launches = [] → ∃ t, exec (if k.restore then .restoreComplete else .checkpointComplete) s = .next t ∧
        t.platform.ckpt = some { k with stage := 1 } ∧ ∀ d, d < 4 → (t.die d).dirty = []) ∧
      (k.restore = false → k.stage = 1 → ∃ t, exec .checkpointComplete s = .next t ∧ t.mem = s.mem ∧ t.platform.ckpt = none ∧
        t.platform.safe = ((s.tierOf p).map (fun (n : Nat) => tput s.platform.safe n s.image)).getD s.platform.safe) ∧
      (∀ m : SafeImage, k.restore = true → k.stage = 1 → (s.tierOf p).bind (tget s.platform.safe) = some m → ∃ t, exec .restoreComplete s = .next t ∧
        t.platform.ckpt = none ∧ t.epochs = m.epoch ∧ t.platform.safe = s.platform.safe ∧ t.platform.zeroed = m.zeros s.free ∧
        t.mem = m.device s.free ++ s.mem.filter (fun (b : Nat × Byte) => decide (Config.deviceTop ≤ b.1))))

/-- R268, R308, R401, R402, R403, R404, R405, R407, R408, R409, R410: an invalidation request is queued, up to sixteen, and performed, once no
fault service of its root is under way (R410), by removing the TLB entries it names from the cores and dies, waiting for what was translated
through them before, and writing its word; the status register, the telemetry commands and the attestation report answer with what the
platform holds (its sensors are free values and its list of the dies that stopped it the model's, log entry 7), the report once its leaf has been used up; the governors set a die's clock and permits; a thermal stop ends every launch.
A malformed request's completion word at the aligned address below (log entry 72), and the wait for the firmware (67), are the model's. -/
def Obligations.ManagementEvents : Prop :=
  ∀ s : State, s.powered = true →
    let p := s.platform
    let put := fun (f : Platform) => ({ s with platform := f } : State).tick
    let after := fun (t : State) => .next (t.modPlatform (fun (f : Platform) => f.worked s.free)).tick
    (∀ w, exec (.invalidate w) s = .next (put (if 16 ≤ p.inval.length then { p with dropped := true } else { p with inval := p.inval ++ [w] }))) ∧
    (let y : W64 := BitVec.ofNat 64 (p.inval.length + (if p.dropped then 256 else 0))
     exec .invalidateStatus s = .next (put { p with replies := p.replies ++ [{ command := 0, words := [y] }], dropped := false })) ∧
    (∀ (a : W64) (rest : List W64) (r : Nat), p.inval = a :: rest → s.firmwareUp = true → s.sysNat (a.toNat / 32 * 32) 32 = some r →
      let word := bits r 16 48 / 8 * 8
      let finished : Platform := { p with inval := rest, cut := none }
      let u := (s.removeEntries r).modPlatform (fun f => { f with cut := some (s.underWay r) })
      let serves := s.serving (bits r 80 48)
      let waits := u.stillUnderWay (s.underWay r)
      (p.cut = none → requestOk a.toNat r = false → exec .tlbInvalidation s = after (({ s with platform := finished } : State).sysWrite word (leBytes 8 2))) ∧
      (p.cut = none → requestOk a.toNat r = true → serves = true → exec .tlbInvalidation s = after s) ∧
      (p.cut = none → requestOk a.toNat r = true → serves = false → waits = true → exec .tlbInvalidation s = after u) ∧
      (p.cut = none → requestOk a.toNat r = true → serves = false → waits = false →
        ∃ t, exec .tlbInvalidation s = .next t ∧ t.platform.inval = rest ∧ t.platform.cut = none ∧
          (∀ c, (t.core c).tlb = (s.core c).tlb.filter (fun (e : TlbEntry) => !requestHits r e)) ∧
          (∀ d, t.dieTlb d = (s.dieTlb d).filter (fun (e : TlbEntry) => !requestHits r e)) ∧
          (s.mem.wf = true → (s.sysRead word 8).isSome = true → mread t.mem word 8 = leBytes 8 1)) ∧
      (∀ w, p.cut = some w → s.stillUnderWay w = true → exec .tlbInvalidation s = after s) ∧
      (∀ w, p.cut = some w → s.stillUnderWay w = false → exec .tlbInvalidation s = after
        (({ s with platform := finished } : State).sysWrite (bits w.record 16 48 / 8 * 8) (leBytes 8 1)))) ∧
    (let y : List W64 := (List.range 5).map (fun (i : Nat) => Config.sensor (s.free * 8 + i)) ++
        [BitVec.ofNat 64 (s.die 0).clk, BitVec.ofNat 64 (s.die 0).permits, BitVec.ofNat 64 (s.die 1).clk, BitVec.ofNat 64 (s.die 1).permits,
         BitVec.ofNat 64 (s.die 2).clk, BitVec.ofNat 64 (s.die 2).permits, BitVec.ofNat 64 (s.die 3).clk, BitVec.ofNat 64 (s.die 3).permits] ++
        p.thermal.map (BitVec.ofNat 64)
     exec .powerStatus s = .next (put { p with replies := p.replies ++ [{ command := 1, words := y }] })) ∧
    (∀ n, ∃ t y, exec (.errorLogRead n) s = .next t ∧ t = put { p with replies := p.replies ++ [{ command := 2, words := y }] } ∧
      y.length = 5 * (p.log.length - n) ∧
      ∀ k e, p.log[n + k]? = some e → y[5 * k]? = some (BitVec.ofNat 64 e.kind) ∧ y[5 * k + 4]? = some e.cycle ∧
        ∀ j, j < 3 → y[5 * k + 1 + j]? = ((siteWords e.site)[j]?).map (BitVec.ofNat 64)) ∧
    (∃ t w u, exec .portStates s = .next t ∧ t = put { p with replies := p.replies ++ [{ command := 3, words := [w, u] }] } ∧
      (∀ i, i < 16 → (w.getLsbD i = true ↔ p.portsDown.contains i = true)) ∧
      (u.getLsbD 0 = Config.linkUp 0 p.bootRetries) ∧ u.getLsbD 1 = Config.linkUp 1 p.bootRetries) ∧
    (let y : List W64 := [BitVec.ofNat 64 (p.boot % 256), p.version.setWidth 64]
     exec .bootStatusQuery s = .next (put { p with replies := p.replies ++ [{ command := 5, words := y }] })) ∧
    (∀ nonce, s.firmwareUp = true → exec (.attestationReport nonce) s = after { s with platform := { p with
      leaf := if p.leaf < 2 ^ 20 then p.leaf + 1 else p.leaf, signing := p.signing ++ [(nonce, if p.leaf < 2 ^ 20 then some p.leaf else none)] } }) ∧
    (∀ nonce leaf rest, p.signing = (nonce, leaf) :: rest → ∃ r : Report,
      s.signNext = { s with platform := { p with signing := rest, reports := p.reports ++ [r] } } ∧ r.nonce = nonce ∧
      r.digest = p.digest ∧ r.version = p.version ∧ r.leaf = leaf ∧ r.retired = s.retiredCounts ∧
      r.signature = (leaf.map (fun (n : Nat) => Config.lmsSign n (s.reportBytes nonce n))).getD []) ∧
    (∀ d clk n, d < 4 → 1 ≤ clk → clk ≤ 200 → 1 ≤ n → n ≤ 32 →
      ∃ t, exec (.governorAdjust d clk n) s = .next t ∧ t.mem = s.mem ∧ t.cores = s.cores ∧ (t.die d).clk = clk ∧ (t.die d).permits = n ∧
        ∀ e, e < 4 → e ≠ d → (t.die e).permits = (s.die e).permits ∧ ((s.clockSet d).contains e = false → (t.die e).clk = (s.die e).clk)) ∧
    (∀ d, p.ckpt = none → ∃ t, exec (.thermalStop d) s = .next t ∧ t.platform.thermal = p.thermal ++ [d] ∧
      ∀ l v, s.launchOf l = some v → ∃ w, t.launchOf l = some w ∧ w.ended = true ∧ (v.ended = false → w.status = 5))

/-! ### Events: mesh and channels -/

/-- R349, R350, R352, R355, R356, R357, R358, R359, R363, R364, R365, R366, R374: payloads move through a grant's buffers; data that arrive, a transfer or payload
beats of one, take the next slot of their channel's buffer, and credits and acknowledgements count; a send posts once it has a slot; a receive takes the oldest transfer that no other
has, in the order of the commands, writes its pieces as their data land, and consumes it with the last; a collective reads its chunk, posts, takes and ends its steps; a silent peer aborts the round, whose
oldest pending command, queued or halted though it be, names it (R358). The model's own are the steps of a collective that the spec does not
give (log entry 15), that a `mcst` posts to every member without a credit (48), the width of a converting receive (94), the window of an
expiry (106), and that a receive takes its transfer in a step of its own, a relay and a collective only a whole one (140). -/
def Obligations.MeshAndChannelEvents : Prop :=
  ∀ s : State, s.powered = true →
    (∀ (l n : Nat) (v : Launch) (g : Grant) (y : V1024) (r : List V1024), s.launchOf l = some v → v.grants[n]? = some g →
      (g.sendBuf = y :: r → g.moving.length + g.recvBuf.length < 2 →
        ∃ t w, exec (.meshSlotDepart l n) s = .next t ∧ t.mem = s.mem ∧ t.cores = s.cores ∧ t.launchOf l = some w ∧
          w.grants[n]? = some { g with sendBuf := r, moving := g.moving ++ [y] } ∧ ∀ k, k ≠ n → w.grants[k]? = v.grants[k]?) ∧
      (g.moving = y :: r →
        ∃ t w, exec (.meshPayloadArrive l n) s = .next t ∧ t.mem = s.mem ∧ t.cores = s.cores ∧ t.launchOf l = some w ∧
          w.grants[n]? = some { g with moving := r, recvBuf := g.recvBuf ++ [y], came := g.came + 1 } ∧ ∀ k, k ≠ n → w.grants[k]? = v.grants[k]?)) ∧
    (∀ n, n < 16 → exec (.portDown n) s = .next (s.modPlatform (fun (f : Platform) => { f with portsDown := insertNat n f.portsDown })).tick ∧
      exec (.failedBeat n) s = .next (s.modPlatform (fun (f : Platform) =>
        { f with repeats := tput f.repeats n ((tget f.repeats n).getD 0 + 1) })).tick) ∧
    (∀ (n : Nat) (h : Channel), tget s.channels n = some h →
      (exec (.slotCreditReturn n) s = .next ({ s with channels := tput s.channels n (if h.freed < h.acked then { h with freed := h.freed + 1 } else h) } :
        State).tick) ∧
      (∀ data pas, n < 256 → h.state ≠ 2 → (∀ a ∈ h.arrived, h.came + 1 < a.1 + chDepth h.entry) →
        let len := h.landing.length + data.length
        let va := chBuffer h.entry + chShape h.entry * ((h.came + 1) % chDepth h.entry) + h.landing.length
        let s1 := s.noteSpan h.core h.root va data.length
        len = chShape h.entry ∨ 0 < data.length ∧ data.length % 256 = 0 ∧ len < chShape h.entry →
        s1.xlatSpan h.core h.root va data.length .write = .ok pas →
        pas.any s1.isLost = false → pas.any isHost = false → s1.stackRoom (stackOf (pas.headD 0)) = true →
        exec (.transferArrive n data) s = .next
          (((pas.zip data).foldl (fun (s : State) (w : Nat × Byte) => s.homeWrite h.core w.1 w.2) s1).modChan n
            (fun (h : Channel) => if len = chShape h.entry then
              { h with arrived := h.arrived ++ [(h.came + 1, h.landing ++ data)], came := h.came + 1, landing := [] }
              else { h with landing := h.landing ++ data })).tick) ∧
      (h.state ≠ 2 → h.acked < h.posted →
        let id := s.ackId n h
        ∃ t, exec (.acknowledgement n) s = .next t ∧ (tget t.channels n).map (fun (w : Channel) => w.acked) = some id ∧
          (256 ≤ n ∨ id + 1 ≤ chDone h.entry → t.outbox = s.outbox.filter (fun (o : Transfer) => !(o.chan == n && decide (o.id ≤ id))) ∧
            t.cores = s.cores.map (fun (e : Nat × Core) => (e.1, { e.2 with cmds := e.2.cmds.map (fun (m : Cmd) => m.acknowledge n id) })) ∧
            t.saved = s.saved.map (fun (v : SavedTeam) => { v with cmds := v.cmds.map (fun (m : Cmd) => m.acknowledge n id) })) ∧
          (let u := ((({ s.modChan n (fun (h : Channel) => { h with acked := id }) with
               outbox := s.outbox.filter (fun (o : Transfer) => !(o.chan == n && decide (o.id ≤ id))) } : State).acknowledgeCmds n id).noteSpan
               h.core h.root (h.imageVa + 24) 8)
           ∀ pas, n < 256 → chDone h.entry < id + 1 → u.xlatSpan h.core h.root (h.imageVa + 24) 8 .write = .ok pas → pas.any u.isLost = false →
            pas.any isHost = false → (tget t.channels n).map (fun (w : Channel) => chDone w.entry) = some ((id + 1) % 2 ^ 64))) ∧
      (∀ c m, n < 256 → h.state ≠ 2 → m.ctx < 4 → s.chanUser [n] = some (c, m) → s.chanUser (s.setOf n) = some (c, m) → s.expiring m n = n →
        (m.st = .running ∨ m.st = .halted ∧ m.sent.any (fun (t : Nat × Nat) => t.1 == n) = true) →
        (s.waitsOn m n = true →
          ∃ t q, exec (.channelTimeout n) s = .next t ∧
            (tget t.channels n).map (fun (w : Channel) => (w.state, w.silent)) = some (2, n * 2 ^ 24 + chPeer h.entry) ∧
            (∀ k ∈ s.setOf n, ∀ w : Channel, tget t.channels k = some w → w.state = 2) ∧ (∀ o ∈ t.outbox, o.chan ∉ s.setOf n) ∧
            q ∈ (t.ctx c m.ctx).pending ∧ (m.opened = none → (t.ctx c m.ctx).pending = dueInOrder q (s.ctx c m.ctx).pending) ∧ q.cause = 17 ∧
            (t.core c).cmd m.id = none) ∧
        (s.waitsOn m n = false → exec (.channelTimeout n) s = .next s.tick)) ∧
      (∀ m, n < 256 → h.state ≠ 2 → s.chanUser [n] = none → s.savedUser n = some m → s.chanUser (s.setOf n) = none → s.expiring m n = n →
        (m.st = .running ∨ m.st = .halted ∧ m.sent.any (fun (t : Nat × Nat) => t.1 == n) = true) → s.waitsOn m n = true →
        ∃ t, exec (.channelTimeout n) s = .next t ∧ t.saved = s.saved ∧
          (∀ k ∈ s.setOf n, ∀ w : Channel, tget t.channels k = some w → w.state = 2) ∧ (∀ o ∈ t.outbox, o.chan ∉ s.setOf n))) ∧
    (∀ (c id : Nat) (m : Cmd), s.runningCmd c id (fun k => k.queue == some 2 && k != .coll) = some m → s.deadChan m = none →
      (∀ g h data, m.kind = .chsend → m.src = some g → tget s.channels m.chan = some h → m.sent = [] → h.credit = true → g.space ≠ 2 →
        s.readHindered c m.team g (List.range (g.d0 * g.d1)) = none →
        (s.reachElems c (s.cmdRoot c m) g (List.range (g.d0 * g.d1))).sendData c m g = .ok data →
        ∃ t, exec (.stackQueueStep c id) s = .next t ∧ (tget t.channels m.chan).map (fun (w : Channel) => w.posted) = some (h.posted + 1) ∧
          t.outbox = s.outbox ++ [{ chan := m.chan, chip := chPeer h.entry, peer := chPeerChan h.entry, id := h.posted + 1, data := data }] ∧
          (t.core c).cmd id = some { m with sent := [(m.chan, h.posted + 1)] }) ∧
      (∀ g h a data, m.kind = .chsend → m.src = some g → tget s.channels m.chan = some h → m.sent = [] → h.credit = true → g.space = 2 →
        s.readHindered c m.team g (List.range (g.d0 * g.d1)) = none → s.oldest g.relayChan = some (a, data) →
        (s.core c).nextTaker m g.relayChan = true → (((s.consumeTransfer g.relayChan a).core c).cmd id).isSome = true →
        ∃ t, exec (.stackQueueStep c id) s = .next t ∧
          t.outbox.getLast? = some { chan := m.chan, chip := chPeer h.entry, peer := chPeerChan h.entry, id := h.posted + 1, data := data }) ∧
      (∀ g data, m.kind = .mcst → m.src = some g → m.sent = [] → s.readHindered c m.team g (List.range (g.d0 * g.d1)) = none →
        (s.reachElems c (s.cmdRoot c m) g (List.range (g.d0 * g.d1))).sendData c m g = .ok data →
        ∃ t, exec (.stackQueueStep c id) s = .next t ∧ t.outbox.length = s.outbox.length + bits (leNat m.desc) 0 7 ∧
          (∀ o ∈ t.outbox.drop s.outbox.length, o.data = data)) ∧
      (∀ g h, m.kind = .chrecv ∨ m.kind = .chred → m.dst = some g → tget s.channels m.chan = some h →
        (∀ a, m.n = 0 → s.freshId m.chan = some a → (s.core c).nextTaker m m.chan = true →
          exec (.stackQueueStep c id) s = .next (s.putCmd c { m with n := a }).tick) ∧
        (m.n ≠ 0 → h.pieceHere m g = false → exec (.stackQueueStep c id) s = .next s.tick) ∧
        (∀ u w, m.n ≠ 0 → h.pieceHere m g = true →
          s.recvPiece c m g (chFmt h.entry) (chanWidth (chFmt h.entry) g.xf)
            (fun (j : Nat) => chBuffer h.entry + chShape h.entry * (m.n % chDepth h.entry) + j) (h.landed m.n).1 = .done u → (u.core c).cmd m.id = some w →
          (w.st = .finished → exec (.stackQueueStep c id) s = .next (u.consumeTransfer m.chan m.n).tick) ∧
          (w.st ≠ .finished → exec (.stackQueueStep c id) s = .next u.tick))) ∧
      (∀ g u, m.kind = .rdld → m.dst = some g → m.buf ≠ [] → s.recvPiece c m g g.fmt g.w (fun (_ : Nat) => 0) m.buf = .done u →
        exec (.stackQueueStep c id) s = .next u.tick) ∧
      (∀ g data, m.kind = .rdld → m.dst = some g → m.buf = [] → data.length = xferBytes g.fmt g.w (g.d0 * g.d1) →
        exec (.reducingLoadReply c id data) s = .next (rdldPieces c id (g.d0 * g.d1) (s.putCmd c { m with buf := data })).tick)) ∧
    (∀ (c id : Nat) (m : Cmd) (g d : Geo), s.runningCmd c id (fun k => k == .coll) = some m → s.deadChan m = none → m.src = some g → m.dst = some d →
      let r := leNat m.desc
      let plan := collPlan r (m.prog + 1)
      m.prog + 1 ≤ collSteps r →
      (∀ o bs, plan.own = some o → m.carry = [] → s.ownHindered c m o plan.count = none →
        (s.reachChunks c m o plan.count).ownChunks c m o plan.count = .ok bs →
        exec (.ringStep c id) s = .next ((s.reachChunks c m o plan.count).putCmd c { m with carry := bs }).tick) ∧
      (plan.own = none ∨ m.carry ≠ [] →
        (∀ q k bs rest u, m.puts = (q, k, bs) :: rest → s.putPiece c m d q k bs rest = .done u → exec (.ringStep c id) s = .next u.tick) ∧
        (m.puts = [] →
          (∀ n h, plan.send = some n → tget s.channels n = some h → h.credit = true → m.n < s.collSends m plan →
            let data := stepTransfer m.chunkBytes (chShape h.entry) m.n m.carry
            ∃ t, exec (.ringStep c id) s = .next t ∧ (tget t.channels n).map (fun (w : Channel) => w.posted) = some (h.posted + 1) ∧
              t.outbox = s.outbox ++ [{ chan := n, chip := chPeer h.entry, peer := chPeerChan h.entry, id := h.posted + 1, data := data }] ∧
              (t.core c).cmd id = some { m with n := m.n + 1, sent := m.sent ++ [(n, h.posted + 1)] }) ∧
          (s.collSends m plan ≤ m.n →
            (∀ n a data, m.next = none → m.buf.length < s.collBytes m plan → plan.recv = some n → s.oldest n = some (a, data) →
              exec (.ringStep c id) s = .next ((s.putCmd c { m with buf := m.buf ++ data }).consumeTransfer n a).tick) ∧
            (∀ u, m.next = none → s.collBytes m plan ≤ m.buf.length →
              s.collTake c m g r (m.prog + 1)
                (stepBytes m.chunkBytes (s.planShape plan.recv) (if plan.recv.isSome then plan.count else 0) m.buf) = .done u →
              exec (.ringStep c id) s = .next u.tick) ∧
            (∀ carry u, m.next = some carry → s.collEnd c m d r (m.prog + 1) carry = .done u → exec (.ringStep c id) s = .next u.tick)))))

/-! ### Encodings, the step, memory, reset -/

/-- R156, R161, R162, R167 to R180: the word an encoding gives a well-formed syllable has its `B` bit clear, and is read back as that syllable, with
`B` clear or set, where the header lends what the encoding asks for. -/
def Obligations.EncodeDecodeRoundTrip : Prop :=
  ∀ (i : Instr) (e : Encoded), i.wf = true → encode i = some e →
    e.word < 2 ^ 31 ∧ decodeSyl e.lend e.word = some i ∧ decodeSyl e.lend (e.word + 2 ^ 31) = some i

/-- A 32-bit word decodes, with nothing lent to it, only to a well-formed syllable, and that syllable's encoding is the word but for its `B` bit: no
two words of one `B` bit mean the same, and no reserved bit is passed over (R156, R173, R175). -/
def Obligations.DecodingIsExact : Prop :=
  ∀ (w : Nat) (i : Instr), w < 2 ^ 32 → decodeSyl none w = some i → i.wf = true ∧ encode i = some ⟨none, w % 2 ^ 31⟩

/-- Words written out from the encoding tables of 12_encoding.md, one or two of each class: what they decode to. -/
def Obligations.DecodedWords : Prop :=
  ∀ p ∈ ([(0x88020620, .add 4 1 17), (0x0C0425F6, .addi 8 9 0x001F6), (0x0A20A620, .cmplt 1 9 17), (0x0E290003, .mfs 18 3),
          (0xB9000001, .jmp 1), (0x38840000, .br 1), (0x1198137B, .vfma 1 2 0 19 15 3), (0x1438A926, .vcmpeq 3 2 5 9 4 6),
          (0x18217280, .exp2 2 0 11 18 4), (0x306EAB23, .packs 23 10 5 2 2 3), (0x204F8D22, .ld32s 3 290), (0x210BFF0B, .vld 2 31 1 3),
          (0x2300D071, .aadd 1 20 3 17), (0x25204ED6, .waitfImm 1 3798), (0xC01E677E, .cpy 15 3 14 126), (0x40D66801, .mma 2 12 13 1),
          (0x41D59E7C, .coll 21 9 14 31), (0x42830C80, .sset 1 16 25)] : List (Nat × Instr)),
    decodeSyl none p.1 = some p.2

/-- A step runs the decoded instruction (R11, R12, R156 to R158). Where the context whose turn it is has at its pc a word that opens a bundle, with
a pad, another bundle or the packet's end after it, and the word decodes, that is the next instruction; a step that finds nothing else to do is
`exec` of the next instruction, or the issue of a whole bundle of several. What the model's agenda and arbiter put first is the model's choice
(log entry 2): with an agenda, its head, an event, is run, after which the core whose
turn it is looks at its contexts anew (R12), and a syllable on it is passed over; between the contexts that a core tries in one cycle no event
is put. -/
def Obligations.StepRunsDecodedInstruction : Prop :=
  ∀ s : State,
    (∀ (c x pa : Nat) (pk : List Nat) (w : Nat) (i : Instr), s.pick = some (c, x) →
      s.fetchPacket c (s.rootAt c x) (s.ctx c x).pc = .ok (pa, pk) → Sys2Proof.packetOk pk = true →
      let p := (s.ctx c x).pc / 4 % 16
      pk[p]? = some w → startsBundle w = true → (∀ u : Nat, pk[p + 1]? = some u → startsBundle u = true ∨ isPad u = true) →
      decodeSyl none w = some i → s.nextInstr = some i) ∧
    (s.agenda = [] →
      (s.eventDue = true → (s.core s.turn).idle = 0 → ∀ e : Act, s.pickEvent = some e → step s = e { s with stall := 0, beat := s.beat + 1 }) ∧
      (s.eventDue = false ∨ (s.core s.turn).idle ≠ 0 ∨ s.pickEvent = none →
        (∀ i : Instr, s.nextInstr = some i → step s = exec i s) ∧
        (s.nextInstr = none → s.powered = true →
          (∀ c x : Nat, s.pick = some (c, x) → step s = .next (s.attempt c x (semsOf (s.fetched c x)))) ∧
          (s.pick = none → step s = .next s.skipTurn)))) ∧
    (∀ (i : Instr) (r : List Instr), s.agenda = i :: r →
      (encode i = none → step s = exec i ({ s with agenda := r } : State).anew) ∧
      ((encode i).isSome = true → step s = .next { s with agenda := r }.tick))

/-- Every step keeps every byte memory of the module in its canonical form: addresses strictly rise, and no byte is listed that reads as an
unlisted one does (the model's form; log entry 1). -/
def Obligations.MemoryCanonicalFormKept : Prop := ∀ s t : State, Canonical s → step s = .next t → Canonical t

/-- What reset leaves: the module is powered, with no launch, no core in use, no queue bound, the launch counter at 1 (R290), the boot status at 0
(R401), the event latches clear, every register of a context the dispatcher has not started zero (the model's choice, log entry 18), every byte of
memory 0 (the model's choice, log entry 1), and every byte memory in its canonical form. -/
def Obligations.ResetState : Prop :=
  State.reset.powered = true ∧ State.reset.agenda = [] ∧ State.reset.epochs = 1 ∧ State.reset.platform.boot = 0 ∧ State.reset.launches = [] ∧
    State.reset.saved = [] ∧ State.reset.sliceQueues = [] ∧ State.reset.channels = [] ∧ (∀ q, State.reset.queue q = HostQueue.reset) ∧
    (∀ c x, State.reset.ctx c x = Ctx.fresh) ∧ Ctx.fresh.status = .free ∧ Ctx.fresh.evt = false ∧
    (∀ r, vget Ctx.fresh.s r 0 = 0 ∧ vget Ctx.fresh.v r 0 = 0) ∧
    (∀ c, (State.reset.core c).teams = [] ∧ (State.reset.core c).cmds = []) ∧ (∀ a, mget State.reset.mem a = 0) ∧ Canonical State.reset

end
end

