-- ==== Sys2Proof/Laws/State.lean ====
section
/-! SUPPORT. One lemma per field per update: what each of the plain updates of the state, of a core and of a context leaves in every
field, so that no proof unfolds a record update. -/

namespace Sys2Proof.Machine

/-! ### Updates of the state -/

@[simp] theorem State.putCore_powered (s : State) (c : Nat) (k : Core) : (s.putCore c k).powered = s.powered := rfl
@[simp] theorem State.putCore_agenda (s : State) (c : Nat) (k : Core) : (s.putCore c k).agenda = s.agenda := rfl
@[simp] theorem State.putCore_turn (s : State) (c : Nat) (k : Core) : (s.putCore c k).turn = s.turn := rfl
@[simp] theorem State.putCore_stall (s : State) (c : Nat) (k : Core) : (s.putCore c k).stall = s.stall := rfl
@[simp] theorem State.putCore_beat (s : State) (c : Nat) (k : Core) : (s.putCore c k).beat = s.beat := rfl
@[simp] theorem State.putCore_free (s : State) (c : Nat) (k : Core) : (s.putCore c k).free = s.free := rfl
@[simp] theorem State.putCore_barKeys (s : State) (c : Nat) (k : Core) : (s.putCore c k).barKeys = s.barKeys := rfl
@[simp] theorem State.putCore_cycle (s : State) (c : Nat) (k : Core) : (s.putCore c k).cycle = s.cycle := rfl
@[simp] theorem State.putCore_mem (s : State) (c : Nat) (k : Core) : (s.putCore c k).mem = s.mem := rfl
@[simp] theorem State.putCore_cores (s : State) (c : Nat) (k : Core) : (s.putCore c k).cores = tput s.cores c k := rfl
@[simp] theorem State.putCore_dies (s : State) (c : Nat) (k : Core) : (s.putCore c k).dies = s.dies := rfl
@[simp] theorem State.putCore_tlbs (s : State) (c : Nat) (k : Core) : (s.putCore c k).tlbs = s.tlbs := rfl
@[simp] theorem State.putCore_tables (s : State) (c : Nat) (k : Core) : (s.putCore c k).tables = s.tables := rfl
@[simp] theorem State.putCore_launches (s : State) (c : Nat) (k : Core) : (s.putCore c k).launches = s.launches := rfl
@[simp] theorem State.putCore_epochs (s : State) (c : Nat) (k : Core) : (s.putCore c k).epochs = s.epochs := rfl
@[simp] theorem State.putCore_saved (s : State) (c : Nat) (k : Core) : (s.putCore c k).saved = s.saved := rfl
@[simp] theorem State.putCore_sliceQueues (s : State) (c : Nat) (k : Core) : (s.putCore c k).sliceQueues = s.sliceQueues := rfl
@[simp] theorem State.putCore_det (s : State) (c : Nat) (k : Core) : (s.putCore c k).det = s.det := rfl
@[simp] theorem State.putCore_queues (s : State) (c : Nat) (k : Core) : (s.putCore c k).queues = s.queues := rfl
@[simp] theorem State.putCore_lastBound (s : State) (c : Nat) (k : Core) : (s.putCore c k).lastBound = s.lastBound := rfl
@[simp] theorem State.putCore_channels (s : State) (c : Nat) (k : Core) : (s.putCore c k).channels = s.channels := rfl
@[simp] theorem State.putCore_outbox (s : State) (c : Nat) (k : Core) : (s.putCore c k).outbox = s.outbox := rfl
@[simp] theorem State.putCore_stackQ (s : State) (c : Nat) (k : Core) : (s.putCore c k).stackQ = s.stackQ := rfl
@[simp] theorem State.putCore_platform (s : State) (c : Nat) (k : Core) : (s.putCore c k).platform = s.platform := rfl

@[simp] theorem State.putCtx_powered (s : State) (c x : Nat) (v : Ctx) : (s.putCtx c x v).powered = s.powered := rfl
@[simp] theorem State.putCtx_agenda (s : State) (c x : Nat) (v : Ctx) : (s.putCtx c x v).agenda = s.agenda := rfl
@[simp] theorem State.putCtx_turn (s : State) (c x : Nat) (v : Ctx) : (s.putCtx c x v).turn = s.turn := rfl
@[simp] theorem State.putCtx_stall (s : State) (c x : Nat) (v : Ctx) : (s.putCtx c x v).stall = s.stall := rfl
@[simp] theorem State.putCtx_beat (s : State) (c x : Nat) (v : Ctx) : (s.putCtx c x v).beat = s.beat := rfl
@[simp] theorem State.putCtx_free (s : State) (c x : Nat) (v : Ctx) : (s.putCtx c x v).free = s.free := rfl
@[simp] theorem State.putCtx_barKeys (s : State) (c x : Nat) (v : Ctx) : (s.putCtx c x v).barKeys = s.barKeys := rfl
@[simp] theorem State.putCtx_cycle (s : State) (c x : Nat) (v : Ctx) : (s.putCtx c x v).cycle = s.cycle := rfl
@[simp] theorem State.putCtx_mem (s : State) (c x : Nat) (v : Ctx) : (s.putCtx c x v).mem = s.mem := rfl
@[simp] theorem State.putCtx_cores (s : State) (c x : Nat) (v : Ctx) : (s.putCtx c x v).cores = tput s.cores c ((s.core c).putCtx x v) := rfl
@[simp] theorem State.putCtx_dies (s : State) (c x : Nat) (v : Ctx) : (s.putCtx c x v).dies = s.dies := rfl
@[simp] theorem State.putCtx_tlbs (s : State) (c x : Nat) (v : Ctx) : (s.putCtx c x v).tlbs = s.tlbs := rfl
@[simp] theorem State.putCtx_tables (s : State) (c x : Nat) (v : Ctx) : (s.putCtx c x v).tables = s.tables := rfl
@[simp] theorem State.putCtx_launches (s : State) (c x : Nat) (v : Ctx) : (s.putCtx c x v).launches = s.launches := rfl
@[simp] theorem State.putCtx_epochs (s : State) (c x : Nat) (v : Ctx) : (s.putCtx c x v).epochs = s.epochs := rfl
@[simp] theorem State.putCtx_saved (s : State) (c x : Nat) (v : Ctx) : (s.putCtx c x v).saved = s.saved := rfl
@[simp] theorem State.putCtx_sliceQueues (s : State) (c x : Nat) (v : Ctx) : (s.putCtx c x v).sliceQueues = s.sliceQueues := rfl
@[simp] theorem State.putCtx_det (s : State) (c x : Nat) (v : Ctx) : (s.putCtx c x v).det = s.det := rfl
@[simp] theorem State.putCtx_queues (s : State) (c x : Nat) (v : Ctx) : (s.putCtx c x v).queues = s.queues := rfl
@[simp] theorem State.putCtx_lastBound (s : State) (c x : Nat) (v : Ctx) : (s.putCtx c x v).lastBound = s.lastBound := rfl
@[simp] theorem State.putCtx_channels (s : State) (c x : Nat) (v : Ctx) : (s.putCtx c x v).channels = s.channels := rfl
@[simp] theorem State.putCtx_outbox (s : State) (c x : Nat) (v : Ctx) : (s.putCtx c x v).outbox = s.outbox := rfl
@[simp] theorem State.putCtx_stackQ (s : State) (c x : Nat) (v : Ctx) : (s.putCtx c x v).stackQ = s.stackQ := rfl
@[simp] theorem State.putCtx_platform (s : State) (c x : Nat) (v : Ctx) : (s.putCtx c x v).platform = s.platform := rfl

@[simp] theorem State.modCore_powered (s : State) (c : Nat) (f : Core → Core) : (s.modCore c f).powered = s.powered := rfl
@[simp] theorem State.modCore_agenda (s : State) (c : Nat) (f : Core → Core) : (s.modCore c f).agenda = s.agenda := rfl
@[simp] theorem State.modCore_turn (s : State) (c : Nat) (f : Core → Core) : (s.modCore c f).turn = s.turn := rfl
@[simp] theorem State.modCore_stall (s : State) (c : Nat) (f : Core → Core) : (s.modCore c f).stall = s.stall := rfl
@[simp] theorem State.modCore_beat (s : State) (c : Nat) (f : Core → Core) : (s.modCore c f).beat = s.beat := rfl
@[simp] theorem State.modCore_free (s : State) (c : Nat) (f : Core → Core) : (s.modCore c f).free = s.free := rfl
@[simp] theorem State.modCore_barKeys (s : State) (c : Nat) (f : Core → Core) : (s.modCore c f).barKeys = s.barKeys := rfl
@[simp] theorem State.modCore_cycle (s : State) (c : Nat) (f : Core → Core) : (s.modCore c f).cycle = s.cycle := rfl
@[simp] theorem State.modCore_mem (s : State) (c : Nat) (f : Core → Core) : (s.modCore c f).mem = s.mem := rfl
@[simp] theorem State.modCore_cores (s : State) (c : Nat) (f : Core → Core) : (s.modCore c f).cores = tput s.cores c (f (s.core c)) := rfl
@[simp] theorem State.modCore_dies (s : State) (c : Nat) (f : Core → Core) : (s.modCore c f).dies = s.dies := rfl
@[simp] theorem State.modCore_tlbs (s : State) (c : Nat) (f : Core → Core) : (s.modCore c f).tlbs = s.tlbs := rfl
@[simp] theorem State.modCore_tables (s : State) (c : Nat) (f : Core → Core) : (s.modCore c f).tables = s.tables := rfl
@[simp] theorem State.modCore_launches (s : State) (c : Nat) (f : Core → Core) : (s.modCore c f).launches = s.launches := rfl
@[simp] theorem State.modCore_epochs (s : State) (c : Nat) (f : Core → Core) : (s.modCore c f).epochs = s.epochs := rfl
@[simp] theorem State.modCore_saved (s : State) (c : Nat) (f : Core → Core) : (s.modCore c f).saved = s.saved := rfl
@[simp] theorem State.modCore_sliceQueues (s : State) (c : Nat) (f : Core → Core) : (s.modCore c f).sliceQueues = s.sliceQueues := rfl
@[simp] theorem State.modCore_det (s : State) (c : Nat) (f : Core → Core) : (s.modCore c f).det = s.det := rfl
@[simp] theorem State.modCore_queues (s : State) (c : Nat) (f : Core → Core) : (s.modCore c f).queues = s.queues := rfl
@[simp] theorem State.modCore_lastBound (s : State) (c : Nat) (f : Core → Core) : (s.modCore c f).lastBound = s.lastBound := rfl
@[simp] theorem State.modCore_channels (s : State) (c : Nat) (f : Core → Core) : (s.modCore c f).channels = s.channels := rfl
@[simp] theorem State.modCore_outbox (s : State) (c : Nat) (f : Core → Core) : (s.modCore c f).outbox = s.outbox := rfl
@[simp] theorem State.modCore_stackQ (s : State) (c : Nat) (f : Core → Core) : (s.modCore c f).stackQ = s.stackQ := rfl
@[simp] theorem State.modCore_platform (s : State) (c : Nat) (f : Core → Core) : (s.modCore c f).platform = s.platform := rfl

@[simp] theorem State.modCtx_powered (s : State) (c x : Nat) (f : Ctx → Ctx) : (s.modCtx c x f).powered = s.powered := rfl
@[simp] theorem State.modCtx_agenda (s : State) (c x : Nat) (f : Ctx → Ctx) : (s.modCtx c x f).agenda = s.agenda := rfl
@[simp] theorem State.modCtx_turn (s : State) (c x : Nat) (f : Ctx → Ctx) : (s.modCtx c x f).turn = s.turn := rfl
@[simp] theorem State.modCtx_stall (s : State) (c x : Nat) (f : Ctx → Ctx) : (s.modCtx c x f).stall = s.stall := rfl
@[simp] theorem State.modCtx_beat (s : State) (c x : Nat) (f : Ctx → Ctx) : (s.modCtx c x f).beat = s.beat := rfl
@[simp] theorem State.modCtx_free (s : State) (c x : Nat) (f : Ctx → Ctx) : (s.modCtx c x f).free = s.free := rfl
@[simp] theorem State.modCtx_barKeys (s : State) (c x : Nat) (f : Ctx → Ctx) : (s.modCtx c x f).barKeys = s.barKeys := rfl
@[simp] theorem State.modCtx_cycle (s : State) (c x : Nat) (f : Ctx → Ctx) : (s.modCtx c x f).cycle = s.cycle := rfl
@[simp] theorem State.modCtx_mem (s : State) (c x : Nat) (f : Ctx → Ctx) : (s.modCtx c x f).mem = s.mem := rfl
@[simp] theorem State.modCtx_cores (s : State) (c x : Nat) (f : Ctx → Ctx) : (s.modCtx c x f).cores = tput s.cores c ((s.core c).putCtx x (f (s.ctx c x))) := rfl
@[simp] theorem State.modCtx_dies (s : State) (c x : Nat) (f : Ctx → Ctx) : (s.modCtx c x f).dies = s.dies := rfl
@[simp] theorem State.modCtx_tlbs (s : State) (c x : Nat) (f : Ctx → Ctx) : (s.modCtx c x f).tlbs = s.tlbs := rfl
@[simp] theorem State.modCtx_tables (s : State) (c x : Nat) (f : Ctx → Ctx) : (s.modCtx c x f).tables = s.tables := rfl
@[simp] theorem State.modCtx_launches (s : State) (c x : Nat) (f : Ctx → Ctx) : (s.modCtx c x f).launches = s.launches := rfl
@[simp] theorem State.modCtx_epochs (s : State) (c x : Nat) (f : Ctx → Ctx) : (s.modCtx c x f).epochs = s.epochs := rfl
@[simp] theorem State.modCtx_saved (s : State) (c x : Nat) (f : Ctx → Ctx) : (s.modCtx c x f).saved = s.saved := rfl
@[simp] theorem State.modCtx_sliceQueues (s : State) (c x : Nat) (f : Ctx → Ctx) : (s.modCtx c x f).sliceQueues = s.sliceQueues := rfl
@[simp] theorem State.modCtx_det (s : State) (c x : Nat) (f : Ctx → Ctx) : (s.modCtx c x f).det = s.det := rfl
@[simp] theorem State.modCtx_queues (s : State) (c x : Nat) (f : Ctx → Ctx) : (s.modCtx c x f).queues = s.queues := rfl
@[simp] theorem State.modCtx_lastBound (s : State) (c x : Nat) (f : Ctx → Ctx) : (s.modCtx c x f).lastBound = s.lastBound := rfl
@[simp] theorem State.modCtx_channels (s : State) (c x : Nat) (f : Ctx → Ctx) : (s.modCtx c x f).channels = s.channels := rfl
@[simp] theorem State.modCtx_outbox (s : State) (c x : Nat) (f : Ctx → Ctx) : (s.modCtx c x f).outbox = s.outbox := rfl
@[simp] theorem State.modCtx_stackQ (s : State) (c x : Nat) (f : Ctx → Ctx) : (s.modCtx c x f).stackQ = s.stackQ := rfl
@[simp] theorem State.modCtx_platform (s : State) (c x : Nat) (f : Ctx → Ctx) : (s.modCtx c x f).platform = s.platform := rfl

@[simp] theorem State.putDie_powered (s : State) (d : Nat) (v : Die) : (s.putDie d v).powered = s.powered := rfl
@[simp] theorem State.putDie_agenda (s : State) (d : Nat) (v : Die) : (s.putDie d v).agenda = s.agenda := rfl
@[simp] theorem State.putDie_turn (s : State) (d : Nat) (v : Die) : (s.putDie d v).turn = s.turn := rfl
@[simp] theorem State.putDie_stall (s : State) (d : Nat) (v : Die) : (s.putDie d v).stall = s.stall := rfl
@[simp] theorem State.putDie_beat (s : State) (d : Nat) (v : Die) : (s.putDie d v).beat = s.beat := rfl
@[simp] theorem State.putDie_free (s : State) (d : Nat) (v : Die) : (s.putDie d v).free = s.free := rfl
@[simp] theorem State.putDie_barKeys (s : State) (d : Nat) (v : Die) : (s.putDie d v).barKeys = s.barKeys := rfl
@[simp] theorem State.putDie_cycle (s : State) (d : Nat) (v : Die) : (s.putDie d v).cycle = s.cycle := rfl
@[simp] theorem State.putDie_mem (s : State) (d : Nat) (v : Die) : (s.putDie d v).mem = s.mem := rfl
@[simp] theorem State.putDie_cores (s : State) (d : Nat) (v : Die) : (s.putDie d v).cores = s.cores := rfl
@[simp] theorem State.putDie_dies (s : State) (d : Nat) (v : Die) : (s.putDie d v).dies = vset s.dies d v := rfl
@[simp] theorem State.putDie_tlbs (s : State) (d : Nat) (v : Die) : (s.putDie d v).tlbs = s.tlbs := rfl
@[simp] theorem State.putDie_tables (s : State) (d : Nat) (v : Die) : (s.putDie d v).tables = s.tables := rfl
@[simp] theorem State.putDie_launches (s : State) (d : Nat) (v : Die) : (s.putDie d v).launches = s.launches := rfl
@[simp] theorem State.putDie_epochs (s : State) (d : Nat) (v : Die) : (s.putDie d v).epochs = s.epochs := rfl
@[simp] theorem State.putDie_saved (s : State) (d : Nat) (v : Die) : (s.putDie d v).saved = s.saved := rfl
@[simp] theorem State.putDie_sliceQueues (s : State) (d : Nat) (v : Die) : (s.putDie d v).sliceQueues = s.sliceQueues := rfl
@[simp] theorem State.putDie_det (s : State) (d : Nat) (v : Die) : (s.putDie d v).det = s.det := rfl
@[simp] theorem State.putDie_queues (s : State) (d : Nat) (v : Die) : (s.putDie d v).queues = s.queues := rfl
@[simp] theorem State.putDie_lastBound (s : State) (d : Nat) (v : Die) : (s.putDie d v).lastBound = s.lastBound := rfl
@[simp] theorem State.putDie_channels (s : State) (d : Nat) (v : Die) : (s.putDie d v).channels = s.channels := rfl
@[simp] theorem State.putDie_outbox (s : State) (d : Nat) (v : Die) : (s.putDie d v).outbox = s.outbox := rfl
@[simp] theorem State.putDie_stackQ (s : State) (d : Nat) (v : Die) : (s.putDie d v).stackQ = s.stackQ := rfl
@[simp] theorem State.putDie_platform (s : State) (d : Nat) (v : Die) : (s.putDie d v).platform = s.platform := rfl

@[simp] theorem State.putLaunch_powered (s : State) (l : Nat) (v : Launch) : (s.putLaunch l v).powered = s.powered := rfl
@[simp] theorem State.putLaunch_agenda (s : State) (l : Nat) (v : Launch) : (s.putLaunch l v).agenda = s.agenda := rfl
@[simp] theorem State.putLaunch_turn (s : State) (l : Nat) (v : Launch) : (s.putLaunch l v).turn = s.turn := rfl
@[simp] theorem State.putLaunch_stall (s : State) (l : Nat) (v : Launch) : (s.putLaunch l v).stall = s.stall := rfl
@[simp] theorem State.putLaunch_beat (s : State) (l : Nat) (v : Launch) : (s.putLaunch l v).beat = s.beat := rfl
@[simp] theorem State.putLaunch_free (s : State) (l : Nat) (v : Launch) : (s.putLaunch l v).free = s.free := rfl
@[simp] theorem State.putLaunch_barKeys (s : State) (l : Nat) (v : Launch) : (s.putLaunch l v).barKeys = s.barKeys := rfl
@[simp] theorem State.putLaunch_cycle (s : State) (l : Nat) (v : Launch) : (s.putLaunch l v).cycle = s.cycle := rfl
@[simp] theorem State.putLaunch_mem (s : State) (l : Nat) (v : Launch) : (s.putLaunch l v).mem = s.mem := rfl
@[simp] theorem State.putLaunch_cores (s : State) (l : Nat) (v : Launch) : (s.putLaunch l v).cores = s.cores := rfl
@[simp] theorem State.putLaunch_dies (s : State) (l : Nat) (v : Launch) : (s.putLaunch l v).dies = s.dies := rfl
@[simp] theorem State.putLaunch_tlbs (s : State) (l : Nat) (v : Launch) : (s.putLaunch l v).tlbs = s.tlbs := rfl
@[simp] theorem State.putLaunch_tables (s : State) (l : Nat) (v : Launch) : (s.putLaunch l v).tables = s.tables := rfl
@[simp] theorem State.putLaunch_launches (s : State) (l : Nat) (v : Launch) : (s.putLaunch l v).launches = tput s.launches l v := rfl
@[simp] theorem State.putLaunch_epochs (s : State) (l : Nat) (v : Launch) : (s.putLaunch l v).epochs = s.epochs := rfl
@[simp] theorem State.putLaunch_saved (s : State) (l : Nat) (v : Launch) : (s.putLaunch l v).saved = s.saved := rfl
@[simp] theorem State.putLaunch_sliceQueues (s : State) (l : Nat) (v : Launch) : (s.putLaunch l v).sliceQueues = s.sliceQueues := rfl
@[simp] theorem State.putLaunch_det (s : State) (l : Nat) (v : Launch) : (s.putLaunch l v).det = s.det := rfl
@[simp] theorem State.putLaunch_queues (s : State) (l : Nat) (v : Launch) : (s.putLaunch l v).queues = s.queues := rfl
@[simp] theorem State.putLaunch_lastBound (s : State) (l : Nat) (v : Launch) : (s.putLaunch l v).lastBound = s.lastBound := rfl
@[simp] theorem State.putLaunch_channels (s : State) (l : Nat) (v : Launch) : (s.putLaunch l v).channels = s.channels := rfl
@[simp] theorem State.putLaunch_outbox (s : State) (l : Nat) (v : Launch) : (s.putLaunch l v).outbox = s.outbox := rfl
@[simp] theorem State.putLaunch_stackQ (s : State) (l : Nat) (v : Launch) : (s.putLaunch l v).stackQ = s.stackQ := rfl
@[simp] theorem State.putLaunch_platform (s : State) (l : Nat) (v : Launch) : (s.putLaunch l v).platform = s.platform := rfl

@[simp] theorem State.modPlatform_powered (s : State) (f : Platform → Platform) : (s.modPlatform f).powered = s.powered := rfl
@[simp] theorem State.modPlatform_agenda (s : State) (f : Platform → Platform) : (s.modPlatform f).agenda = s.agenda := rfl
@[simp] theorem State.modPlatform_turn (s : State) (f : Platform → Platform) : (s.modPlatform f).turn = s.turn := rfl
@[simp] theorem State.modPlatform_stall (s : State) (f : Platform → Platform) : (s.modPlatform f).stall = s.stall := rfl
@[simp] theorem State.modPlatform_beat (s : State) (f : Platform → Platform) : (s.modPlatform f).beat = s.beat := rfl
@[simp] theorem State.modPlatform_free (s : State) (f : Platform → Platform) : (s.modPlatform f).free = s.free := rfl
@[simp] theorem State.modPlatform_barKeys (s : State) (f : Platform → Platform) : (s.modPlatform f).barKeys = s.barKeys := rfl
@[simp] theorem State.modPlatform_cycle (s : State) (f : Platform → Platform) : (s.modPlatform f).cycle = s.cycle := rfl
@[simp] theorem State.modPlatform_mem (s : State) (f : Platform → Platform) : (s.modPlatform f).mem = s.mem := rfl
@[simp] theorem State.modPlatform_cores (s : State) (f : Platform → Platform) : (s.modPlatform f).cores = s.cores := rfl
@[simp] theorem State.modPlatform_dies (s : State) (f : Platform → Platform) : (s.modPlatform f).dies = s.dies := rfl
@[simp] theorem State.modPlatform_tlbs (s : State) (f : Platform → Platform) : (s.modPlatform f).tlbs = s.tlbs := rfl
@[simp] theorem State.modPlatform_tables (s : State) (f : Platform → Platform) : (s.modPlatform f).tables = s.tables := rfl
@[simp] theorem State.modPlatform_launches (s : State) (f : Platform → Platform) : (s.modPlatform f).launches = s.launches := rfl
@[simp] theorem State.modPlatform_epochs (s : State) (f : Platform → Platform) : (s.modPlatform f).epochs = s.epochs := rfl
@[simp] theorem State.modPlatform_saved (s : State) (f : Platform → Platform) : (s.modPlatform f).saved = s.saved := rfl
@[simp] theorem State.modPlatform_sliceQueues (s : State) (f : Platform → Platform) : (s.modPlatform f).sliceQueues = s.sliceQueues := rfl
@[simp] theorem State.modPlatform_det (s : State) (f : Platform → Platform) : (s.modPlatform f).det = s.det := rfl
@[simp] theorem State.modPlatform_queues (s : State) (f : Platform → Platform) : (s.modPlatform f).queues = s.queues := rfl
@[simp] theorem State.modPlatform_lastBound (s : State) (f : Platform → Platform) : (s.modPlatform f).lastBound = s.lastBound := rfl
@[simp] theorem State.modPlatform_channels (s : State) (f : Platform → Platform) : (s.modPlatform f).channels = s.channels := rfl
@[simp] theorem State.modPlatform_outbox (s : State) (f : Platform → Platform) : (s.modPlatform f).outbox = s.outbox := rfl
@[simp] theorem State.modPlatform_stackQ (s : State) (f : Platform → Platform) : (s.modPlatform f).stackQ = s.stackQ := rfl
@[simp] theorem State.modPlatform_platform (s : State) (f : Platform → Platform) : (s.modPlatform f).platform = f s.platform := rfl

@[simp] theorem State.putQueue_powered (s : State) (q : Nat) (v : HostQueue) : (s.putQueue q v).powered = s.powered := rfl
@[simp] theorem State.putQueue_agenda (s : State) (q : Nat) (v : HostQueue) : (s.putQueue q v).agenda = s.agenda := rfl
@[simp] theorem State.putQueue_turn (s : State) (q : Nat) (v : HostQueue) : (s.putQueue q v).turn = s.turn := rfl
@[simp] theorem State.putQueue_stall (s : State) (q : Nat) (v : HostQueue) : (s.putQueue q v).stall = s.stall := rfl
@[simp] theorem State.putQueue_beat (s : State) (q : Nat) (v : HostQueue) : (s.putQueue q v).beat = s.beat := rfl
@[simp] theorem State.putQueue_free (s : State) (q : Nat) (v : HostQueue) : (s.putQueue q v).free = s.free := rfl
@[simp] theorem State.putQueue_barKeys (s : State) (q : Nat) (v : HostQueue) : (s.putQueue q v).barKeys = s.barKeys := rfl
@[simp] theorem State.putQueue_cycle (s : State) (q : Nat) (v : HostQueue) : (s.putQueue q v).cycle = s.cycle := rfl
@[simp] theorem State.putQueue_mem (s : State) (q : Nat) (v : HostQueue) : (s.putQueue q v).mem = s.mem := rfl
@[simp] theorem State.putQueue_cores (s : State) (q : Nat) (v : HostQueue) : (s.putQueue q v).cores = s.cores := rfl
@[simp] theorem State.putQueue_dies (s : State) (q : Nat) (v : HostQueue) : (s.putQueue q v).dies = s.dies := rfl
@[simp] theorem State.putQueue_tlbs (s : State) (q : Nat) (v : HostQueue) : (s.putQueue q v).tlbs = s.tlbs := rfl
@[simp] theorem State.putQueue_tables (s : State) (q : Nat) (v : HostQueue) : (s.putQueue q v).tables = s.tables := rfl
@[simp] theorem State.putQueue_launches (s : State) (q : Nat) (v : HostQueue) : (s.putQueue q v).launches = s.launches := rfl
@[simp] theorem State.putQueue_epochs (s : State) (q : Nat) (v : HostQueue) : (s.putQueue q v).epochs = s.epochs := rfl
@[simp] theorem State.putQueue_saved (s : State) (q : Nat) (v : HostQueue) : (s.putQueue q v).saved = s.saved := rfl
@[simp] theorem State.putQueue_sliceQueues (s : State) (q : Nat) (v : HostQueue) : (s.putQueue q v).sliceQueues = s.sliceQueues := rfl
@[simp] theorem State.putQueue_det (s : State) (q : Nat) (v : HostQueue) : (s.putQueue q v).det = s.det := rfl
@[simp] theorem State.putQueue_queues (s : State) (q : Nat) (v : HostQueue) : (s.putQueue q v).queues = tput s.queues q v := rfl
@[simp] theorem State.putQueue_lastBound (s : State) (q : Nat) (v : HostQueue) : (s.putQueue q v).lastBound = s.lastBound := rfl
@[simp] theorem State.putQueue_channels (s : State) (q : Nat) (v : HostQueue) : (s.putQueue q v).channels = s.channels := rfl
@[simp] theorem State.putQueue_outbox (s : State) (q : Nat) (v : HostQueue) : (s.putQueue q v).outbox = s.outbox := rfl
@[simp] theorem State.putQueue_stackQ (s : State) (q : Nat) (v : HostQueue) : (s.putQueue q v).stackQ = s.stackQ := rfl
@[simp] theorem State.putQueue_platform (s : State) (q : Nat) (v : HostQueue) : (s.putQueue q v).platform = s.platform := rfl

@[simp] theorem State.tick_powered (s : State) : (s.tick).powered = s.powered := rfl
@[simp] theorem State.tick_agenda (s : State) : (s.tick).agenda = s.agenda := rfl
@[simp] theorem State.tick_turn (s : State) : (s.tick).turn = s.turn := rfl
@[simp] theorem State.tick_stall (s : State) : (s.tick).stall = s.stall := rfl
@[simp] theorem State.tick_beat (s : State) : (s.tick).beat = s.beat := rfl
@[simp] theorem State.tick_free (s : State) : (s.tick).free = s.free + 1 := rfl
@[simp] theorem State.tick_barKeys (s : State) : (s.tick).barKeys = s.barKeys := rfl
@[simp] theorem State.tick_cycle (s : State) : (s.tick).cycle = s.cycle + 1 + BitVec.ofNat 64 (Config.ticks s.free) := rfl
@[simp] theorem State.tick_mem (s : State) : (s.tick).mem = s.mem := rfl
@[simp] theorem State.tick_cores (s : State) : (s.tick).cores = s.cores := rfl
@[simp] theorem State.tick_dies (s : State) : (s.tick).dies = s.dies := rfl
@[simp] theorem State.tick_tlbs (s : State) : (s.tick).tlbs = s.tlbs := rfl
@[simp] theorem State.tick_tables (s : State) : (s.tick).tables = s.tables := rfl
@[simp] theorem State.tick_launches (s : State) : (s.tick).launches = s.launches := rfl
@[simp] theorem State.tick_epochs (s : State) : (s.tick).epochs = s.epochs := rfl
@[simp] theorem State.tick_saved (s : State) : (s.tick).saved = s.saved := rfl
@[simp] theorem State.tick_sliceQueues (s : State) : (s.tick).sliceQueues = s.sliceQueues := rfl
@[simp] theorem State.tick_det (s : State) : (s.tick).det = s.det := rfl
@[simp] theorem State.tick_queues (s : State) : (s.tick).queues = s.queues := rfl
@[simp] theorem State.tick_lastBound (s : State) : (s.tick).lastBound = s.lastBound := rfl
@[simp] theorem State.tick_channels (s : State) : (s.tick).channels = s.channels := rfl
@[simp] theorem State.tick_outbox (s : State) : (s.tick).outbox = s.outbox := rfl
@[simp] theorem State.tick_stackQ (s : State) : (s.tick).stackQ = s.stackQ := rfl
@[simp] theorem State.tick_platform (s : State) : (s.tick).platform = s.platform := rfl

/-! ### Updates of a core -/

@[simp] theorem Core.putCtx_clock (k : Core) (x : Nat) (v : Ctx) : (k.putCtx x v).clock = k.clock := rfl
@[simp] theorem Core.putCtx_cur (k : Core) (x : Nat) (v : Ctx) : (k.putCtx x v).cur = k.cur := rfl
@[simp] theorem Core.putCtx_run (k : Core) (x : Nat) (v : Ctx) : (k.putCtx x v).run = k.run := rfl
@[simp] theorem Core.putCtx_idle (k : Core) (x : Nat) (v : Ctx) : (k.putCtx x v).idle = k.idle := rfl
@[simp] theorem Core.putCtx_spent (k : Core) (x : Nat) (v : Ctx) : (k.putCtx x v).spent = k.spent := rfl
@[simp] theorem Core.putCtx_ctxs (k : Core) (x : Nat) (v : Ctx) : (k.putCtx x v).ctxs = vset k.ctxs x v := rfl
@[simp] theorem Core.putCtx_xf (k : Core) (x : Nat) (v : Ctx) : (k.putCtx x v).xf = k.xf := rfl
@[simp] theorem Core.putCtx_xfSets (k : Core) (x : Nat) (v : Ctx) : (k.putCtx x v).xfSets = k.xfSets := rfl
@[simp] theorem Core.putCtx_accs (k : Core) (x : Nat) (v : Ctx) : (k.putCtx x v).accs = k.accs := rfl
@[simp] theorem Core.putCtx_accOwner (k : Core) (x : Nat) (v : Ctx) : (k.putCtx x v).accOwner = k.accOwner := rfl
@[simp] theorem Core.putCtx_teams (k : Core) (x : Nat) (v : Ctx) : (k.putCtx x v).teams = k.teams := rfl
@[simp] theorem Core.putCtx_barriers (k : Core) (x : Nat) (v : Ctx) : (k.putCtx x v).barriers = k.barriers := rfl
@[simp] theorem Core.putCtx_cmds (k : Core) (x : Nat) (v : Ctx) : (k.putCtx x v).cmds = k.cmds := rfl
@[simp] theorem Core.putCtx_cmdSeq (k : Core) (x : Nat) (v : Ctx) : (k.putCtx x v).cmdSeq = k.cmdSeq := rfl
@[simp] theorem Core.putCtx_guests (k : Core) (x : Nat) (v : Ctx) : (k.putCtx x v).guests = k.guests := rfl
@[simp] theorem Core.putCtx_chans (k : Core) (x : Nat) (v : Ctx) : (k.putCtx x v).chans = k.chans := rfl
@[simp] theorem Core.putCtx_chanImage (k : Core) (x : Nat) (v : Ctx) : (k.putCtx x v).chanImage = k.chanImage := rfl
@[simp] theorem Core.putCtx_chanRoot (k : Core) (x : Nat) (v : Ctx) : (k.putCtx x v).chanRoot = k.chanRoot := rfl
@[simp] theorem Core.putCtx_l1 (k : Core) (x : Nat) (v : Ctx) : (k.putCtx x v).l1 = k.l1 := rfl
@[simp] theorem Core.putCtx_l1Sectors (k : Core) (x : Nat) (v : Ctx) : (k.putCtx x v).l1Sectors = k.l1Sectors := rfl
@[simp] theorem Core.putCtx_icache (k : Core) (x : Nat) (v : Ctx) : (k.putCtx x v).icache = k.icache := rfl
@[simp] theorem Core.putCtx_tlb (k : Core) (x : Nat) (v : Ctx) : (k.putCtx x v).tlb = k.tlb := rfl
@[simp] theorem Core.putCtx_ran (k : Core) (x : Nat) (v : Ctx) : (k.putCtx x v).ran = k.ran := rfl
@[simp] theorem Core.putCtx_written (k : Core) (x : Nat) (v : Ctx) : (k.putCtx x v).written = k.written := rfl
@[simp] theorem Core.putCtx_sig (k : Core) (x : Nat) (v : Ctx) : (k.putCtx x v).sig = k.sig := rfl
@[simp] theorem Core.putCtx_sigSeen (k : Core) (x : Nat) (v : Ctx) : (k.putCtx x v).sigSeen = k.sigSeen := rfl
@[simp] theorem Core.putCtx_sevs (k : Core) (x : Nat) (v : Ctx) : (k.putCtx x v).sevs = k.sevs := rfl
@[simp] theorem Core.putCtx_sfDegraded (k : Core) (x : Nat) (v : Ctx) : (k.putCtx x v).sfDegraded = k.sfDegraded := rfl
@[simp] theorem Core.putCtx_halfRate (k : Core) (x : Nat) (v : Ctx) : (k.putCtx x v).halfRate = k.halfRate := rfl
@[simp] theorem Core.putCtx_granules (k : Core) (x : Nat) (v : Ctx) : (k.putCtx x v).granules = k.granules := rfl
@[simp] theorem Core.putCtx_deadGranules (k : Core) (x : Nat) (v : Ctx) : (k.putCtx x v).deadGranules = k.deadGranules := rfl
@[simp] theorem Core.putCtx_retired (k : Core) (x : Nat) (v : Ctx) : (k.putCtx x v).retired = k.retired := rfl
@[simp] theorem Core.putCtx_retiring (k : Core) (x : Nat) (v : Ctx) : (k.putCtx x v).retiring = k.retiring := rfl
@[simp] theorem Core.putCtx_lostAccs (k : Core) (x : Nat) (v : Ctx) : (k.putCtx x v).lostAccs = k.lostAccs := rfl
@[simp] theorem Core.putCtx_lostChans (k : Core) (x : Nat) (v : Ctx) : (k.putCtx x v).lostChans = k.lostChans := rfl
@[simp] theorem Core.putCtx_deadChans (k : Core) (x : Nat) (v : Ctx) : (k.putCtx x v).deadChans = k.deadChans := rfl
@[simp] theorem Core.putCtx_deadBars (k : Core) (x : Nat) (v : Ctx) : (k.putCtx x v).deadBars = k.deadBars := rfl
@[simp] theorem Core.putCtx_preload (k : Core) (x : Nat) (v : Ctx) : (k.putCtx x v).preload = k.preload := rfl

@[simp] theorem Core.putTeam_clock (k : Core) (b : Nat) (t : Team) : (k.putTeam b t).clock = k.clock := rfl
@[simp] theorem Core.putTeam_cur (k : Core) (b : Nat) (t : Team) : (k.putTeam b t).cur = k.cur := rfl
@[simp] theorem Core.putTeam_run (k : Core) (b : Nat) (t : Team) : (k.putTeam b t).run = k.run := rfl
@[simp] theorem Core.putTeam_idle (k : Core) (b : Nat) (t : Team) : (k.putTeam b t).idle = k.idle := rfl
@[simp] theorem Core.putTeam_spent (k : Core) (b : Nat) (t : Team) : (k.putTeam b t).spent = k.spent := rfl
@[simp] theorem Core.putTeam_ctxs (k : Core) (b : Nat) (t : Team) : (k.putTeam b t).ctxs = k.ctxs := rfl
@[simp] theorem Core.putTeam_xf (k : Core) (b : Nat) (t : Team) : (k.putTeam b t).xf = k.xf := rfl
@[simp] theorem Core.putTeam_xfSets (k : Core) (b : Nat) (t : Team) : (k.putTeam b t).xfSets = k.xfSets := rfl
@[simp] theorem Core.putTeam_accs (k : Core) (b : Nat) (t : Team) : (k.putTeam b t).accs = k.accs := rfl
@[simp] theorem Core.putTeam_accOwner (k : Core) (b : Nat) (t : Team) : (k.putTeam b t).accOwner = k.accOwner := rfl
@[simp] theorem Core.putTeam_teams (k : Core) (b : Nat) (t : Team) : (k.putTeam b t).teams = tput k.teams b t := rfl
@[simp] theorem Core.putTeam_barriers (k : Core) (b : Nat) (t : Team) : (k.putTeam b t).barriers = k.barriers := rfl
@[simp] theorem Core.putTeam_cmds (k : Core) (b : Nat) (t : Team) : (k.putTeam b t).cmds = k.cmds := rfl
@[simp] theorem Core.putTeam_cmdSeq (k : Core) (b : Nat) (t : Team) : (k.putTeam b t).cmdSeq = k.cmdSeq := rfl
@[simp] theorem Core.putTeam_guests (k : Core) (b : Nat) (t : Team) : (k.putTeam b t).guests = k.guests := rfl
@[simp] theorem Core.putTeam_chans (k : Core) (b : Nat) (t : Team) : (k.putTeam b t).chans = k.chans := rfl
@[simp] theorem Core.putTeam_chanImage (k : Core) (b : Nat) (t : Team) : (k.putTeam b t).chanImage = k.chanImage := rfl
@[simp] theorem Core.putTeam_chanRoot (k : Core) (b : Nat) (t : Team) : (k.putTeam b t).chanRoot = k.chanRoot := rfl
@[simp] theorem Core.putTeam_l1 (k : Core) (b : Nat) (t : Team) : (k.putTeam b t).l1 = k.l1 := rfl
@[simp] theorem Core.putTeam_l1Sectors (k : Core) (b : Nat) (t : Team) : (k.putTeam b t).l1Sectors = k.l1Sectors := rfl
@[simp] theorem Core.putTeam_icache (k : Core) (b : Nat) (t : Team) : (k.putTeam b t).icache = k.icache := rfl
@[simp] theorem Core.putTeam_tlb (k : Core) (b : Nat) (t : Team) : (k.putTeam b t).tlb = k.tlb := rfl
@[simp] theorem Core.putTeam_ran (k : Core) (b : Nat) (t : Team) : (k.putTeam b t).ran = k.ran := rfl
@[simp] theorem Core.putTeam_written (k : Core) (b : Nat) (t : Team) : (k.putTeam b t).written = k.written := rfl
@[simp] theorem Core.putTeam_sig (k : Core) (b : Nat) (t : Team) : (k.putTeam b t).sig = k.sig := rfl
@[simp] theorem Core.putTeam_sigSeen (k : Core) (b : Nat) (t : Team) : (k.putTeam b t).sigSeen = k.sigSeen := rfl
@[simp] theorem Core.putTeam_sevs (k : Core) (b : Nat) (t : Team) : (k.putTeam b t).sevs = k.sevs := rfl
@[simp] theorem Core.putTeam_sfDegraded (k : Core) (b : Nat) (t : Team) : (k.putTeam b t).sfDegraded = k.sfDegraded := rfl
@[simp] theorem Core.putTeam_halfRate (k : Core) (b : Nat) (t : Team) : (k.putTeam b t).halfRate = k.halfRate := rfl
@[simp] theorem Core.putTeam_granules (k : Core) (b : Nat) (t : Team) : (k.putTeam b t).granules = k.granules := rfl
@[simp] theorem Core.putTeam_deadGranules (k : Core) (b : Nat) (t : Team) : (k.putTeam b t).deadGranules = k.deadGranules := rfl
@[simp] theorem Core.putTeam_retired (k : Core) (b : Nat) (t : Team) : (k.putTeam b t).retired = k.retired := rfl
@[simp] theorem Core.putTeam_retiring (k : Core) (b : Nat) (t : Team) : (k.putTeam b t).retiring = k.retiring := rfl
@[simp] theorem Core.putTeam_lostAccs (k : Core) (b : Nat) (t : Team) : (k.putTeam b t).lostAccs = k.lostAccs := rfl
@[simp] theorem Core.putTeam_lostChans (k : Core) (b : Nat) (t : Team) : (k.putTeam b t).lostChans = k.lostChans := rfl
@[simp] theorem Core.putTeam_deadChans (k : Core) (b : Nat) (t : Team) : (k.putTeam b t).deadChans = k.deadChans := rfl
@[simp] theorem Core.putTeam_deadBars (k : Core) (b : Nat) (t : Team) : (k.putTeam b t).deadBars = k.deadBars := rfl
@[simp] theorem Core.putTeam_preload (k : Core) (b : Nat) (t : Team) : (k.putTeam b t).preload = k.preload := rfl

/-! ### Updates of a context -/

@[simp] theorem Ctx.reserveLqs_status (x : Ctx) :
    (x.reserveLqs).status = x.status := rfl
@[simp] theorem Ctx.reserveLqs_pc (x : Ctx) :
    (x.reserveLqs).pc = x.pc := rfl
@[simp] theorem Ctx.reserveLqs_s (x : Ctx) :
    (x.reserveLqs).s = x.s := rfl
@[simp] theorem Ctx.reserveLqs_v (x : Ctx) :
    (x.reserveLqs).v = x.v := rfl
@[simp] theorem Ctx.reserveLqs_m (x : Ctx) :
    (x.reserveLqs).m = x.m := rfl
@[simp] theorem Ctx.reserveLqs_st (x : Ctx) :
    (x.reserveLqs).st = x.st := rfl
@[simp] theorem Ctx.reserveLqs_a (x : Ctx) :
    (x.reserveLqs).a = x.a := rfl
@[simp] theorem Ctx.reserveLqs_lb (x : Ctx) :
    (x.reserveLqs).lb = x.lb := rfl
@[simp] theorem Ctx.reserveLqs_sg (x : Ctx) :
    (x.reserveLqs).sg = x.sg := rfl
@[simp] theorem Ctx.reserveLqs_pj (x : Ctx) :
    (x.reserveLqs).pj = x.pj := rfl
@[simp] theorem Ctx.reserveLqs_sets (x : Ctx) :
    (x.reserveLqs).sets = x.sets := rfl
@[simp] theorem Ctx.reserveLqs_lostA (x : Ctx) :
    (x.reserveLqs).lostA = x.lostA := rfl
@[simp] theorem Ctx.reserveLqs_lq (x : Ctx) :
    (x.reserveLqs).lq = x.lq := rfl
@[simp] theorem Ctx.reserveLqs_lqs (x : Ctx) :
    (x.reserveLqs).lqs = x.lqs ++ [x.newEntry 500 x.lqs 0 1] := rfl
@[simp] theorem Ctx.reserveLqs_sq (x : Ctx) :
    (x.reserveLqs).sq = x.sq := rfl
@[simp] theorem Ctx.reserveLqs_dfq (x : Ctx) :
    (x.reserveLqs).dfq = x.dfq := rfl
@[simp] theorem Ctx.reserveLqs_unit (x : Ctx) :
    (x.reserveLqs).unit = x.unit := rfl
@[simp] theorem Ctx.reserveLqs_launch (x : Ctx) :
    (x.reserveLqs).launch = x.launch := rfl
@[simp] theorem Ctx.reserveLqs_seqlen (x : Ctx) :
    (x.reserveLqs).seqlen = x.seqlen := rfl
@[simp] theorem Ctx.reserveLqs_evt (x : Ctx) :
    (x.reserveLqs).evt = x.evt := rfl
@[simp] theorem Ctx.reserveLqs_mpol (x : Ctx) :
    (x.reserveLqs).mpol = x.mpol := rfl
@[simp] theorem Ctx.reserveLqs_tcause (x : Ctx) :
    (x.reserveLqs).tcause = x.tcause := rfl
@[simp] theorem Ctx.reserveLqs_tpc (x : Ctx) :
    (x.reserveLqs).tpc = x.tpc := rfl
@[simp] theorem Ctx.reserveLqs_trec (x : Ctx) :
    (x.reserveLqs).trec = x.trec := rfl
@[simp] theorem Ctx.reserveLqs_lfsr (x : Ctx) :
    (x.reserveLqs).lfsr = x.lfsr := rfl
@[simp] theorem Ctx.reserveLqs_epoch (x : Ctx) :
    (x.reserveLqs).epoch = x.epoch := rfl
@[simp] theorem Ctx.reserveLqs_budget (x : Ctx) :
    (x.reserveLqs).budget = x.budget := rfl
@[simp] theorem Ctx.reserveLqs_nest (x : Ctx) :
    (x.reserveLqs).nest = x.nest := rfl
@[simp] theorem Ctx.reserveLqs_handler (x : Ctx) :
    (x.reserveLqs).handler = x.handler := rfl
@[simp] theorem Ctx.reserveLqs_pending (x : Ctx) :
    (x.reserveLqs).pending = x.pending := rfl
@[simp] theorem Ctx.reserveLqs_groups (x : Ctx) :
    (x.reserveLqs).groups = x.groups := rfl
@[simp] theorem Ctx.reserveLqs_flight (x : Ctx) :
    (x.reserveLqs).flight = x.flight := rfl
@[simp] theorem Ctx.reserveLqs_ops (x : Ctx) :
    (x.reserveLqs).ops = x.ops := rfl
@[simp] theorem Ctx.reserveLqs_arrived (x : Ctx) :
    (x.reserveLqs).arrived = x.arrived := rfl
@[simp] theorem Ctx.reserveLqs_parks (x : Ctx) :
    (x.reserveLqs).parks = x.parks := rfl
@[simp] theorem Ctx.reserveLqs_resend (x : Ctx) :
    (x.reserveLqs).resend = x.resend := rfl
@[simp] theorem Ctx.reserveLqs_condemned (x : Ctx) :
    (x.reserveLqs).condemned = x.condemned := rfl
@[simp] theorem Ctx.reserveLqs_seq (x : Ctx) :
    (x.reserveLqs).seq = x.seq + 1 := rfl
@[simp] theorem Ctx.reserveLqs_preps (x : Ctx) :
    (x.reserveLqs).preps = x.preps := rfl
@[simp] theorem Ctx.reserveLqs_lostRegs (x : Ctx) :
    (x.reserveLqs).lostRegs = x.lostRegs := rfl
@[simp] theorem Ctx.reserveLqs_deadRegs (x : Ctx) :
    (x.reserveLqs).deadRegs = x.deadRegs := rfl

@[simp] theorem Ctx.pushLqs_status (x : Ctx) (v : W64) :
    (x.pushLqs v).status = x.status := rfl
@[simp] theorem Ctx.pushLqs_pc (x : Ctx) (v : W64) :
    (x.pushLqs v).pc = x.pc := rfl
@[simp] theorem Ctx.pushLqs_s (x : Ctx) (v : W64) :
    (x.pushLqs v).s = x.s := rfl
@[simp] theorem Ctx.pushLqs_v (x : Ctx) (v : W64) :
    (x.pushLqs v).v = x.v := rfl
@[simp] theorem Ctx.pushLqs_m (x : Ctx) (v : W64) :
    (x.pushLqs v).m = x.m := rfl
@[simp] theorem Ctx.pushLqs_st (x : Ctx) (v : W64) :
    (x.pushLqs v).st = x.st := rfl
@[simp] theorem Ctx.pushLqs_a (x : Ctx) (v : W64) :
    (x.pushLqs v).a = x.a := rfl
@[simp] theorem Ctx.pushLqs_lb (x : Ctx) (v : W64) :
    (x.pushLqs v).lb = x.lb := rfl
@[simp] theorem Ctx.pushLqs_sg (x : Ctx) (v : W64) :
    (x.pushLqs v).sg = x.sg := rfl
@[simp] theorem Ctx.pushLqs_pj (x : Ctx) (v : W64) :
    (x.pushLqs v).pj = x.pj := rfl
@[simp] theorem Ctx.pushLqs_sets (x : Ctx) (v : W64) :
    (x.pushLqs v).sets = x.sets := rfl
@[simp] theorem Ctx.pushLqs_lostA (x : Ctx) (v : W64) :
    (x.pushLqs v).lostA = x.lostA := rfl
@[simp] theorem Ctx.pushLqs_lq (x : Ctx) (v : W64) :
    (x.pushLqs v).lq = x.lq := rfl
@[simp] theorem Ctx.pushLqs_lqs (x : Ctx) (v : W64) :
    (x.pushLqs v).lqs = x.lqs ++ [x.newEntry 500 x.lqs (v.setWidth 1024) 0] := rfl
@[simp] theorem Ctx.pushLqs_sq (x : Ctx) (v : W64) :
    (x.pushLqs v).sq = x.sq := rfl
@[simp] theorem Ctx.pushLqs_dfq (x : Ctx) (v : W64) :
    (x.pushLqs v).dfq = x.dfq := rfl
@[simp] theorem Ctx.pushLqs_unit (x : Ctx) (v : W64) :
    (x.pushLqs v).unit = x.unit := rfl
@[simp] theorem Ctx.pushLqs_launch (x : Ctx) (v : W64) :
    (x.pushLqs v).launch = x.launch := rfl
@[simp] theorem Ctx.pushLqs_seqlen (x : Ctx) (v : W64) :
    (x.pushLqs v).seqlen = x.seqlen := rfl
@[simp] theorem Ctx.pushLqs_evt (x : Ctx) (v : W64) :
    (x.pushLqs v).evt = x.evt := rfl
@[simp] theorem Ctx.pushLqs_mpol (x : Ctx) (v : W64) :
    (x.pushLqs v).mpol = x.mpol := rfl
@[simp] theorem Ctx.pushLqs_tcause (x : Ctx) (v : W64) :
    (x.pushLqs v).tcause = x.tcause := rfl
@[simp] theorem Ctx.pushLqs_tpc (x : Ctx) (v : W64) :
    (x.pushLqs v).tpc = x.tpc := rfl
@[simp] theorem Ctx.pushLqs_trec (x : Ctx) (v : W64) :
    (x.pushLqs v).trec = x.trec := rfl
@[simp] theorem Ctx.pushLqs_lfsr (x : Ctx) (v : W64) :
    (x.pushLqs v).lfsr = x.lfsr := rfl
@[simp] theorem Ctx.pushLqs_epoch (x : Ctx) (v : W64) :
    (x.pushLqs v).epoch = x.epoch := rfl
@[simp] theorem Ctx.pushLqs_budget (x : Ctx) (v : W64) :
    (x.pushLqs v).budget = x.budget := rfl
@[simp] theorem Ctx.pushLqs_nest (x : Ctx) (v : W64) :
    (x.pushLqs v).nest = x.nest := rfl
@[simp] theorem Ctx.pushLqs_handler (x : Ctx) (v : W64) :
    (x.pushLqs v).handler = x.handler := rfl
@[simp] theorem Ctx.pushLqs_pending (x : Ctx) (v : W64) :
    (x.pushLqs v).pending = x.pending := rfl
@[simp] theorem Ctx.pushLqs_groups (x : Ctx) (v : W64) :
    (x.pushLqs v).groups = x.groups := rfl
@[simp] theorem Ctx.pushLqs_flight (x : Ctx) (v : W64) :
    (x.pushLqs v).flight = x.flight := rfl
@[simp] theorem Ctx.pushLqs_ops (x : Ctx) (v : W64) :
    (x.pushLqs v).ops = x.ops := rfl
@[simp] theorem Ctx.pushLqs_arrived (x : Ctx) (v : W64) :
    (x.pushLqs v).arrived = x.arrived := rfl
@[simp] theorem Ctx.pushLqs_parks (x : Ctx) (v : W64) :
    (x.pushLqs v).parks = x.parks := rfl
@[simp] theorem Ctx.pushLqs_resend (x : Ctx) (v : W64) :
    (x.pushLqs v).resend = x.resend := rfl
@[simp] theorem Ctx.pushLqs_condemned (x : Ctx) (v : W64) :
    (x.pushLqs v).condemned = x.condemned := rfl
@[simp] theorem Ctx.pushLqs_seq (x : Ctx) (v : W64) :
    (x.pushLqs v).seq = x.seq + 1 := rfl
@[simp] theorem Ctx.pushLqs_preps (x : Ctx) (v : W64) :
    (x.pushLqs v).preps = x.preps := rfl
@[simp] theorem Ctx.pushLqs_lostRegs (x : Ctx) (v : W64) :
    (x.pushLqs v).lostRegs = x.lostRegs := rfl
@[simp] theorem Ctx.pushLqs_deadRegs (x : Ctx) (v : W64) :
    (x.pushLqs v).deadRegs = x.deadRegs := rfl

@[simp] theorem Ctx.reserveLq_status (x : Ctx) (n : Nat) :
    (x.reserveLq n).status = x.status := rfl
@[simp] theorem Ctx.reserveLq_pc (x : Ctx) (n : Nat) :
    (x.reserveLq n).pc = x.pc := rfl
@[simp] theorem Ctx.reserveLq_s (x : Ctx) (n : Nat) :
    (x.reserveLq n).s = x.s := rfl
@[simp] theorem Ctx.reserveLq_v (x : Ctx) (n : Nat) :
    (x.reserveLq n).v = x.v := rfl
@[simp] theorem Ctx.reserveLq_m (x : Ctx) (n : Nat) :
    (x.reserveLq n).m = x.m := rfl
@[simp] theorem Ctx.reserveLq_st (x : Ctx) (n : Nat) :
    (x.reserveLq n).st = x.st := rfl
@[simp] theorem Ctx.reserveLq_a (x : Ctx) (n : Nat) :
    (x.reserveLq n).a = x.a := rfl
@[simp] theorem Ctx.reserveLq_lb (x : Ctx) (n : Nat) :
    (x.reserveLq n).lb = x.lb := rfl
@[simp] theorem Ctx.reserveLq_sg (x : Ctx) (n : Nat) :
    (x.reserveLq n).sg = x.sg := rfl
@[simp] theorem Ctx.reserveLq_pj (x : Ctx) (n : Nat) :
    (x.reserveLq n).pj = x.pj := rfl
@[simp] theorem Ctx.reserveLq_sets (x : Ctx) (n : Nat) :
    (x.reserveLq n).sets = x.sets := rfl
@[simp] theorem Ctx.reserveLq_lostA (x : Ctx) (n : Nat) :
    (x.reserveLq n).lostA = x.lostA := rfl
@[simp] theorem Ctx.reserveLq_lq (x : Ctx) (n : Nat) :
    (x.reserveLq n).lq = x.lq ++ [x.newEntry 520 x.lq 0 n] := rfl
@[simp] theorem Ctx.reserveLq_lqs (x : Ctx) (n : Nat) :
    (x.reserveLq n).lqs = x.lqs := rfl
@[simp] theorem Ctx.reserveLq_sq (x : Ctx) (n : Nat) :
    (x.reserveLq n).sq = x.sq := rfl
@[simp] theorem Ctx.reserveLq_dfq (x : Ctx) (n : Nat) :
    (x.reserveLq n).dfq = x.dfq := rfl
@[simp] theorem Ctx.reserveLq_unit (x : Ctx) (n : Nat) :
    (x.reserveLq n).unit = x.unit := rfl
@[simp] theorem Ctx.reserveLq_launch (x : Ctx) (n : Nat) :
    (x.reserveLq n).launch = x.launch := rfl
@[simp] theorem Ctx.reserveLq_seqlen (x : Ctx) (n : Nat) :
    (x.reserveLq n).seqlen = x.seqlen := rfl
@[simp] theorem Ctx.reserveLq_evt (x : Ctx) (n : Nat) :
    (x.reserveLq n).evt = x.evt := rfl
@[simp] theorem Ctx.reserveLq_mpol (x : Ctx) (n : Nat) :
    (x.reserveLq n).mpol = x.mpol := rfl
@[simp] theorem Ctx.reserveLq_tcause (x : Ctx) (n : Nat) :
    (x.reserveLq n).tcause = x.tcause := rfl
@[simp] theorem Ctx.reserveLq_tpc (x : Ctx) (n : Nat) :
    (x.reserveLq n).tpc = x.tpc := rfl
@[simp] theorem Ctx.reserveLq_trec (x : Ctx) (n : Nat) :
    (x.reserveLq n).trec = x.trec := rfl
@[simp] theorem Ctx.reserveLq_lfsr (x : Ctx) (n : Nat) :
    (x.reserveLq n).lfsr = x.lfsr := rfl
@[simp] theorem Ctx.reserveLq_epoch (x : Ctx) (n : Nat) :
    (x.reserveLq n).epoch = x.epoch := rfl
@[simp] theorem Ctx.reserveLq_budget (x : Ctx) (n : Nat) :
    (x.reserveLq n).budget = x.budget := rfl
@[simp] theorem Ctx.reserveLq_nest (x : Ctx) (n : Nat) :
    (x.reserveLq n).nest = x.nest := rfl
@[simp] theorem Ctx.reserveLq_handler (x : Ctx) (n : Nat) :
    (x.reserveLq n).handler = x.handler := rfl
@[simp] theorem Ctx.reserveLq_pending (x : Ctx) (n : Nat) :
    (x.reserveLq n).pending = x.pending := rfl
@[simp] theorem Ctx.reserveLq_groups (x : Ctx) (n : Nat) :
    (x.reserveLq n).groups = x.groups := rfl
@[simp] theorem Ctx.reserveLq_flight (x : Ctx) (n : Nat) :
    (x.reserveLq n).flight = x.flight := rfl
@[simp] theorem Ctx.reserveLq_ops (x : Ctx) (n : Nat) :
    (x.reserveLq n).ops = x.ops := rfl
@[simp] theorem Ctx.reserveLq_arrived (x : Ctx) (n : Nat) :
    (x.reserveLq n).arrived = x.arrived := rfl
@[simp] theorem Ctx.reserveLq_parks (x : Ctx) (n : Nat) :
    (x.reserveLq n).parks = x.parks := rfl
@[simp] theorem Ctx.reserveLq_resend (x : Ctx) (n : Nat) :
    (x.reserveLq n).resend = x.resend := rfl
@[simp] theorem Ctx.reserveLq_condemned (x : Ctx) (n : Nat) :
    (x.reserveLq n).condemned = x.condemned := rfl
@[simp] theorem Ctx.reserveLq_seq (x : Ctx) (n : Nat) :
    (x.reserveLq n).seq = x.seq + 1 := rfl
@[simp] theorem Ctx.reserveLq_preps (x : Ctx) (n : Nat) :
    (x.reserveLq n).preps = x.preps := rfl
@[simp] theorem Ctx.reserveLq_lostRegs (x : Ctx) (n : Nat) :
    (x.reserveLq n).lostRegs = x.lostRegs := rfl
@[simp] theorem Ctx.reserveLq_deadRegs (x : Ctx) (n : Nat) :
    (x.reserveLq n).deadRegs = x.deadRegs := rfl

@[simp] theorem Ctx.pushOp_status (x : Ctx) (kd : OpKind) (rd : List (Nat × Nat)) (wr : List (Nat × Byte)) (o p b va : Nat) :
    (x.pushOp kd rd wr o p b va).status = x.status := rfl
@[simp] theorem Ctx.pushOp_pc (x : Ctx) (kd : OpKind) (rd : List (Nat × Nat)) (wr : List (Nat × Byte)) (o p b va : Nat) :
    (x.pushOp kd rd wr o p b va).pc = x.pc := rfl
@[simp] theorem Ctx.pushOp_s (x : Ctx) (kd : OpKind) (rd : List (Nat × Nat)) (wr : List (Nat × Byte)) (o p b va : Nat) :
    (x.pushOp kd rd wr o p b va).s = x.s := rfl
@[simp] theorem Ctx.pushOp_v (x : Ctx) (kd : OpKind) (rd : List (Nat × Nat)) (wr : List (Nat × Byte)) (o p b va : Nat) :
    (x.pushOp kd rd wr o p b va).v = x.v := rfl
@[simp] theorem Ctx.pushOp_m (x : Ctx) (kd : OpKind) (rd : List (Nat × Nat)) (wr : List (Nat × Byte)) (o p b va : Nat) :
    (x.pushOp kd rd wr o p b va).m = x.m := rfl
@[simp] theorem Ctx.pushOp_st (x : Ctx) (kd : OpKind) (rd : List (Nat × Nat)) (wr : List (Nat × Byte)) (o p b va : Nat) :
    (x.pushOp kd rd wr o p b va).st = x.st := rfl
@[simp] theorem Ctx.pushOp_a (x : Ctx) (kd : OpKind) (rd : List (Nat × Nat)) (wr : List (Nat × Byte)) (o p b va : Nat) :
    (x.pushOp kd rd wr o p b va).a = x.a := rfl
@[simp] theorem Ctx.pushOp_lb (x : Ctx) (kd : OpKind) (rd : List (Nat × Nat)) (wr : List (Nat × Byte)) (o p b va : Nat) :
    (x.pushOp kd rd wr o p b va).lb = x.lb := rfl
@[simp] theorem Ctx.pushOp_sg (x : Ctx) (kd : OpKind) (rd : List (Nat × Nat)) (wr : List (Nat × Byte)) (o p b va : Nat) :
    (x.pushOp kd rd wr o p b va).sg = x.sg := rfl
@[simp] theorem Ctx.pushOp_pj (x : Ctx) (kd : OpKind) (rd : List (Nat × Nat)) (wr : List (Nat × Byte)) (o p b va : Nat) :
    (x.pushOp kd rd wr o p b va).pj = x.pj := rfl
@[simp] theorem Ctx.pushOp_sets (x : Ctx) (kd : OpKind) (rd : List (Nat × Nat)) (wr : List (Nat × Byte)) (o p b va : Nat) :
    (x.pushOp kd rd wr o p b va).sets = x.sets := rfl
@[simp] theorem Ctx.pushOp_lostA (x : Ctx) (kd : OpKind) (rd : List (Nat × Nat)) (wr : List (Nat × Byte)) (o p b va : Nat) :
    (x.pushOp kd rd wr o p b va).lostA = x.lostA := rfl
@[simp] theorem Ctx.pushOp_lq (x : Ctx) (kd : OpKind) (rd : List (Nat × Nat)) (wr : List (Nat × Byte)) (o p b va : Nat) :
    (x.pushOp kd rd wr o p b va).lq = x.lq := rfl
@[simp] theorem Ctx.pushOp_lqs (x : Ctx) (kd : OpKind) (rd : List (Nat × Nat)) (wr : List (Nat × Byte)) (o p b va : Nat) :
    (x.pushOp kd rd wr o p b va).lqs = x.lqs := rfl
@[simp] theorem Ctx.pushOp_sq (x : Ctx) (kd : OpKind) (rd : List (Nat × Nat)) (wr : List (Nat × Byte)) (o p b va : Nat) :
    (x.pushOp kd rd wr o p b va).sq = x.sq := rfl
@[simp] theorem Ctx.pushOp_dfq (x : Ctx) (kd : OpKind) (rd : List (Nat × Nat)) (wr : List (Nat × Byte)) (o p b va : Nat) :
    (x.pushOp kd rd wr o p b va).dfq = x.dfq := rfl
@[simp] theorem Ctx.pushOp_unit (x : Ctx) (kd : OpKind) (rd : List (Nat × Nat)) (wr : List (Nat × Byte)) (o p b va : Nat) :
    (x.pushOp kd rd wr o p b va).unit = x.unit := rfl
@[simp] theorem Ctx.pushOp_launch (x : Ctx) (kd : OpKind) (rd : List (Nat × Nat)) (wr : List (Nat × Byte)) (o p b va : Nat) :
    (x.pushOp kd rd wr o p b va).launch = x.launch := rfl
@[simp] theorem Ctx.pushOp_seqlen (x : Ctx) (kd : OpKind) (rd : List (Nat × Nat)) (wr : List (Nat × Byte)) (o p b va : Nat) :
    (x.pushOp kd rd wr o p b va).seqlen = x.seqlen := rfl
@[simp] theorem Ctx.pushOp_evt (x : Ctx) (kd : OpKind) (rd : List (Nat × Nat)) (wr : List (Nat × Byte)) (o p b va : Nat) :
    (x.pushOp kd rd wr o p b va).evt = x.evt := rfl
@[simp] theorem Ctx.pushOp_mpol (x : Ctx) (kd : OpKind) (rd : List (Nat × Nat)) (wr : List (Nat × Byte)) (o p b va : Nat) :
    (x.pushOp kd rd wr o p b va).mpol = x.mpol := rfl
@[simp] theorem Ctx.pushOp_tcause (x : Ctx) (kd : OpKind) (rd : List (Nat × Nat)) (wr : List (Nat × Byte)) (o p b va : Nat) :
    (x.pushOp kd rd wr o p b va).tcause = x.tcause := rfl
@[simp] theorem Ctx.pushOp_tpc (x : Ctx) (kd : OpKind) (rd : List (Nat × Nat)) (wr : List (Nat × Byte)) (o p b va : Nat) :
    (x.pushOp kd rd wr o p b va).tpc = x.tpc := rfl
@[simp] theorem Ctx.pushOp_trec (x : Ctx) (kd : OpKind) (rd : List (Nat × Nat)) (wr : List (Nat × Byte)) (o p b va : Nat) :
    (x.pushOp kd rd wr o p b va).trec = x.trec := rfl
@[simp] theorem Ctx.pushOp_lfsr (x : Ctx) (kd : OpKind) (rd : List (Nat × Nat)) (wr : List (Nat × Byte)) (o p b va : Nat) :
    (x.pushOp kd rd wr o p b va).lfsr = x.lfsr := rfl
@[simp] theorem Ctx.pushOp_epoch (x : Ctx) (kd : OpKind) (rd : List (Nat × Nat)) (wr : List (Nat × Byte)) (o p b va : Nat) :
    (x.pushOp kd rd wr o p b va).epoch = x.epoch := rfl
@[simp] theorem Ctx.pushOp_budget (x : Ctx) (kd : OpKind) (rd : List (Nat × Nat)) (wr : List (Nat × Byte)) (o p b va : Nat) :
    (x.pushOp kd rd wr o p b va).budget = x.budget := rfl
@[simp] theorem Ctx.pushOp_nest (x : Ctx) (kd : OpKind) (rd : List (Nat × Nat)) (wr : List (Nat × Byte)) (o p b va : Nat) :
    (x.pushOp kd rd wr o p b va).nest = x.nest := rfl
@[simp] theorem Ctx.pushOp_handler (x : Ctx) (kd : OpKind) (rd : List (Nat × Nat)) (wr : List (Nat × Byte)) (o p b va : Nat) :
    (x.pushOp kd rd wr o p b va).handler = x.handler := rfl
@[simp] theorem Ctx.pushOp_pending (x : Ctx) (kd : OpKind) (rd : List (Nat × Nat)) (wr : List (Nat × Byte)) (o p b va : Nat) :
    (x.pushOp kd rd wr o p b va).pending = x.pending := rfl
@[simp] theorem Ctx.pushOp_groups (x : Ctx) (kd : OpKind) (rd : List (Nat × Nat)) (wr : List (Nat × Byte)) (o p b va : Nat) :
    (x.pushOp kd rd wr o p b va).groups = x.groups := rfl
@[simp] theorem Ctx.pushOp_flight (x : Ctx) (kd : OpKind) (rd : List (Nat × Nat)) (wr : List (Nat × Byte)) (o p b va : Nat) :
    (x.pushOp kd rd wr o p b va).flight = x.flight := rfl
@[simp] theorem Ctx.pushOp_ops (x : Ctx) (kd : OpKind) (rd : List (Nat × Nat)) (wr : List (Nat × Byte)) (o p b va : Nat) :
    (x.pushOp kd rd wr o p b va).ops = x.ops ++ [{ id := x.seq, kind := kd, bytes := rd, writes := wr, ord := o, scope := p, bundle := b, va := va }] := rfl
@[simp] theorem Ctx.pushOp_arrived (x : Ctx) (kd : OpKind) (rd : List (Nat × Nat)) (wr : List (Nat × Byte)) (o p b va : Nat) :
    (x.pushOp kd rd wr o p b va).arrived = x.arrived := rfl
@[simp] theorem Ctx.pushOp_parks (x : Ctx) (kd : OpKind) (rd : List (Nat × Nat)) (wr : List (Nat × Byte)) (o p b va : Nat) :
    (x.pushOp kd rd wr o p b va).parks = x.parks := rfl
@[simp] theorem Ctx.pushOp_resend (x : Ctx) (kd : OpKind) (rd : List (Nat × Nat)) (wr : List (Nat × Byte)) (o p b va : Nat) :
    (x.pushOp kd rd wr o p b va).resend = x.resend := rfl
@[simp] theorem Ctx.pushOp_condemned (x : Ctx) (kd : OpKind) (rd : List (Nat × Nat)) (wr : List (Nat × Byte)) (o p b va : Nat) :
    (x.pushOp kd rd wr o p b va).condemned = x.condemned := rfl
@[simp] theorem Ctx.pushOp_seq (x : Ctx) (kd : OpKind) (rd : List (Nat × Nat)) (wr : List (Nat × Byte)) (o p b va : Nat) :
    (x.pushOp kd rd wr o p b va).seq = x.seq + 1 := rfl
@[simp] theorem Ctx.pushOp_preps (x : Ctx) (kd : OpKind) (rd : List (Nat × Nat)) (wr : List (Nat × Byte)) (o p b va : Nat) :
    (x.pushOp kd rd wr o p b va).preps = x.preps := rfl
@[simp] theorem Ctx.pushOp_lostRegs (x : Ctx) (kd : OpKind) (rd : List (Nat × Nat)) (wr : List (Nat × Byte)) (o p b va : Nat) :
    (x.pushOp kd rd wr o p b va).lostRegs = x.lostRegs := rfl
@[simp] theorem Ctx.pushOp_deadRegs (x : Ctx) (kd : OpKind) (rd : List (Nat × Nat)) (wr : List (Nat × Byte)) (o p b va : Nat) :
    (x.pushOp kd rd wr o p b va).deadRegs = x.deadRegs := rfl

end Sys2Proof.Machine
end

