-- ==== Sys2Proof/Laws/Table.lean ====
section
/-! SUPPORT. Sparse tables and byte memories: reading after writing, and the canonical form, which every operation keeps. -/

namespace Sys2Proof.Machine

/-! ### Reading after writing -/

@[simp] theorem tget_tput_self {α : Type} (t : Table α) (k : Nat) (v : α) : tget (tput t k v) k = some v := by
  induction t with
  | nil => simp [tput, tget]
  | cons e t ih =>
    obtain ⟨j, w⟩ := e
    by_cases h : k < j
    · simp [tput, tget, h]
    · by_cases h' : k = j
      · simp [tput, tget, h']
      · simp [tput, tget, h, h', ih]

/-- Another key reads as before, whatever the order of the table. -/
theorem tget_tput_other {α : Type} (t : Table α) (k j : Nat) (v : α) (h : j ≠ k) : tget (tput t k v) j = tget t j := by
  induction t with
  | nil => simp [tput, tget, h]
  | cons e t ih =>
    obtain ⟨i, w⟩ := e
    by_cases h1 : k < i
    · simp [tput, tget, h1, h]
    · by_cases h2 : k = i
      · subst h2; simp [tput, tget, h]
      · by_cases h3 : j = i
        · simp [tput, tget, h1, h2, h3]
        · simp [tput, tget, h1, h2, h3, ih]

/-- Of two entries put at one key the later stands. -/
@[simp] theorem tput_tput {α : Type} (t : Table α) (k : Nat) (v w : α) : tput (tput t k v) k w = tput t k w := by
  induction t with
  | nil => simp [tput]
  | cons e t ih =>
    obtain ⟨j, u⟩ := e
    by_cases h : k < j
    · simp [tput, h]
    · by_cases h' : k = j
      · simp [tput, h']
      · simp [tput, h, h', ih]

/-! ### The canonical form -/

theorem memFrom_mono {lo lo' : Nat} {m : Memory} (h : lo' ≤ lo) (w : memFrom lo m = true) : memFrom lo' m = true := by
  cases m with
  | nil => rfl
  | cons e m =>
    obtain ⟨a, b⟩ := e
    simp [memFrom] at w ⊢
    exact ⟨⟨by omega, w.1.2⟩, w.2⟩

theorem memFrom_tdel {lo : Nat} {m : Memory} (a : Nat) (w : memFrom lo m = true) : memFrom lo (tdel m a) = true := by
  induction m generalizing lo with
  | nil => rfl
  | cons e m ih =>
    obtain ⟨j, b⟩ := e
    simp [memFrom] at w
    by_cases h : a = j
    · simp only [tdel, h, if_true]
      exact memFrom_mono (by omega) w.2
    · simp [tdel, memFrom, h, w.1.1, w.1.2, ih w.2]

theorem memFrom_tput {lo : Nat} {m : Memory} (a : Nat) (b : Byte) (ha : lo ≤ a) (hb : ¬b = 0#8) (w : memFrom lo m = true) :
    memFrom lo (tput m a b) = true := by
  induction m generalizing lo with
  | nil => simp [tput, memFrom, ha, hb]
  | cons e m ih =>
    obtain ⟨j, v⟩ := e
    simp [memFrom] at w
    by_cases h1 : a < j
    · have h2 : a + 1 ≤ j := h1
      simp [tput, memFrom, h1, ha, hb, w.1.2, w.2, h2]
    · by_cases h2 : a = j
      · subst h2; simp [tput, memFrom, ha, hb, w.2]
      · simp [tput, memFrom, h1, h2, w.1.1, w.1.2, ih (by omega) w.2]

/-- One byte written keeps the canonical form. -/
theorem wf_mput {m : Memory} (a : Nat) (b : Byte) (w : m.wf = true) : Memory.wf (mput m a b) = true := by
  unfold mput
  split
  · exact memFrom_tdel a w
  · exact memFrom_tput a b (Nat.zero_le a) (by assumption) w

theorem wf_mwrite {m : Memory} (a : Nat) (bs : List Byte) (w : m.wf = true) : Memory.wf (mwrite m a bs) = true := by
  induction bs generalizing m a with
  | nil => exact w
  | cons b bs ih => exact ih (a + 1) (wf_mput a b w)

theorem memFrom_filter {lo : Nat} {m : Memory} (p : Host.Cell → Bool) (w : memFrom lo m = true) :
    memFrom lo (m.filter p) = true := by
  induction m generalizing lo with
  | nil => rfl
  | cons e m ih =>
    obtain ⟨j, v⟩ := e
    simp [memFrom] at w
    by_cases h : p (j, v)
    · simp [List.filter, h, memFrom, w.1.1, w.1.2, ih w.2]
    · simp only [List.filter, h]
      exact memFrom_mono (by omega) (ih w.2)

theorem wf_mdrop {m : Memory} (p : Nat → Bool) (w : m.wf = true) : Memory.wf (mdrop m p) = true := memFrom_filter _ w

/-- Bytes written one after another, each where and what `f` and `g` say, keep the canonical form. -/
theorem wf_foldl_mput {α : Type} (l : List α) (f : α → Nat) (g : α → Byte) {m : Memory} (w : m.wf = true) :
    Memory.wf (l.foldl (fun m x => mput m (f x) (g x)) m) = true := by
  induction l generalizing m with
  | nil => exact w
  | cons x l ih => exact ih (wf_mput _ _ w)

theorem wf_winWrites {m : Memory} (ws : List (Nat × Byte)) (w : m.wf = true) : Memory.wf (winWrites m ws) = true :=
  wf_foldl_mput ws _ _ w

/-- Bytes listed by rising address, the zero ones left out, are in canonical form. -/
theorem memFrom_range' (g : Nat → Bool) (f : Nat → Byte) (lo n : Nat) :
    memFrom lo ((List.range' lo n).filterMap (fun a => if g a && f a != 0 then some (a, f a) else none)) = true := by
  induction n generalizing lo with
  | zero => rfl
  | succ n ih =>
    rw [List.range'_succ, List.filterMap_cons]
    split
    · exact memFrom_mono (Nat.le_succ lo) (ih (lo + 1))
    · rename_i e h
      split at h
      · rename_i hg
        simp only [Option.some.injEq] at h
        subst h
        simp only [Bool.and_eq_true, bne_iff_ne] at hg
        simp only [memFrom, Bool.and_eq_true, bne_iff_ne, decide_eq_true_eq]
        exact ⟨⟨Nat.le_refl _, hg.2⟩, by simpa using ih (lo + 1)⟩
      · simp at h

/-- Memory below a bound, and memory from it on, make one in canonical form. -/
theorem memFrom_append {lo top : Nat} {m n : Memory} (h : lo ≤ top) (w : memFrom lo m = true) (b : ∀ a v, (a, v) ∈ m → a < top)
    (w' : memFrom top n = true) : memFrom lo (m ++ n) = true := by
  induction m generalizing lo with
  | nil => exact memFrom_mono h w'
  | cons e m ih =>
    obtain ⟨a, v⟩ := e
    simp only [memFrom, Bool.and_eq_true, List.cons_append] at w ⊢
    exact ⟨w.1, ih (b a v (List.mem_cons_self ..)) w.2 (fun a' v' hm => b a' v' (List.mem_cons_of_mem _ hm))⟩

/-- Entries from `top` on, kept out of a memory in canonical form, are in canonical form from `top` on. -/
theorem memFrom_above {lo : Nat} {m : Memory} (top : Nat) (w : memFrom lo m = true) :
    memFrom top (m.filter (fun b => decide (top ≤ b.1))) = true := by
  induction m generalizing lo with
  | nil => rfl
  | cons e m ih =>
    obtain ⟨a, v⟩ := e
    simp [memFrom] at w
    by_cases h : top ≤ a
    · simp only [List.filter_cons, h, decide_true, if_true, memFrom, Bool.and_eq_true]
      refine ⟨⟨trivial, by simpa using w.1.2⟩, memFrom_filter _ w.2⟩
    · simp only [List.filter_cons, h, decide_false]
      exact ih w.2

/-- What a restore makes of device memory (R280) is in canonical form, below the device's top. -/
theorem wf_device (m : SafeImage) (n : Nat) : (m.device n).wf = true ∧ ∀ a v, (a, v) ∈ m.device n → a < Config.deviceTop := by
  constructor
  · unfold SafeImage.device Memory.wf
    rw [List.range_eq_range']
    exact memFrom_range' (fun a => m.keeps n (a / chunkBytes)) (m.back n) 0 Config.deviceTop
  · intro a v h
    unfold SafeImage.device at h
    rw [List.mem_filterMap] at h
    obtain ⟨b, hb, h⟩ := h
    rw [List.mem_range] at hb
    split at h
    · simp only [Option.some.injEq, Prod.mk.injEq] at h
      exact h.1 ▸ hb
    · exact absurd h (by simp)

/-- A restore keeps the canonical form (R280). -/
theorem wf_reload (s : State) (m : SafeImage) (h : s.mem.wf = true) (n : Nat) :
    Memory.wf (m.device n ++ s.mem.filter (fun b => decide (Config.deviceTop ≤ b.1))) = true :=
  memFrom_append (Nat.zero_le _) (wf_device m n).1 (wf_device m n).2 (memFrom_above _ h)

/-! ### Reading a byte memory -/

theorem tget_none_of_memFrom {lo a : Nat} {m : Memory} (h : a < lo) (w : memFrom lo m = true) : tget m a = none := by
  induction m generalizing lo with
  | nil => rfl
  | cons e m ih =>
    obtain ⟨j, v⟩ := e
    simp [memFrom] at w
    have h1 : a ≠ j := by omega
    simp [tget, h1, ih (lo := j + 1) (by omega) w.2]

theorem tget_tdel_self {lo : Nat} {m : Memory} (a : Nat) (w : memFrom lo m = true) : tget (tdel m a) a = none := by
  induction m generalizing lo with
  | nil => rfl
  | cons e m ih =>
    obtain ⟨j, v⟩ := e
    simp [memFrom] at w
    by_cases h : a = j
    · simp only [tdel, h, if_true]
      exact tget_none_of_memFrom (Nat.lt_succ_self j) w.2
    · simp [tdel, tget, h, ih w.2]

theorem tget_tdel_other {α : Type} (t : Table α) (k j : Nat) (h : j ≠ k) : tget (tdel t k) j = tget t j := by
  induction t with
  | nil => rfl
  | cons e t ih =>
    obtain ⟨i, w⟩ := e
    by_cases h1 : k = i
    · subst h1; simp [tdel, tget, h]
    · by_cases h2 : j = i
      · simp [tdel, tget, h1, h2]
      · simp [tdel, tget, h1, h2, ih]

/-- The byte written reads back. -/
theorem mget_mput_self {m : Memory} (a : Nat) (b : Byte) (w : m.wf = true) : mget (mput m a b) a = b := by
  unfold mget mput
  split
  · rename_i h; simp [tget_tdel_self a w, h]
  · simp

/-- Every other byte reads as before. -/
theorem mget_mput_other (m : Memory) (a j : Nat) (b : Byte) (h : j ≠ a) : mget (mput m a b) j = mget m j := by
  unfold mget mput
  split
  · rw [tget_tdel_other m a j h]
  · rw [tget_tput_other m a j b h]

/-- A byte outside what is written reads as before. -/
theorem mget_mwrite_other (m : Memory) (a j : Nat) (bs : List Byte) (h : j < a ∨ a + bs.length ≤ j) :
    mget (mwrite m a bs) j = mget m j := by
  induction bs generalizing m a with
  | nil => rfl
  | cons b bs ih =>
    simp only [List.length_cons] at h
    rw [mwrite, ih _ _ (by omega), mget_mput_other _ _ _ _ (by omega)]

/-! ### Vectors -/

theorem vget_vset_self {α : Type} {n : Nat} (v : Vector α n) (i : Nat) (x d : α) (h : i < n) : vget (vset v i x) i d = x := by
  simp [vget, vset, h]

theorem vget_vset_other {α : Type} {n : Nat} (v : Vector α n) (i j : Nat) (x d : α) (h : j ≠ i) :
    vget (vset v i x) j d = vget v j d := by
  simp [vget, vset, Ne.symm h]

/-! ### Cores and contexts -/

@[simp] theorem State.core_putCore_self (s : State) (c : Nat) (k : Core) : (s.putCore c k).core c = k := by
  simp [State.core, State.putCore]

theorem State.core_putCore_other (s : State) (c j : Nat) (k : Core) (h : j ≠ c) : (s.putCore c k).core j = s.core j := by
  simp [State.core, State.putCore, tget_tput_other _ _ _ _ h]

@[simp] theorem State.core_modCore_self (s : State) (c : Nat) (f : Core → Core) : (s.modCore c f).core c = f (s.core c) := by
  simp [State.modCore]

theorem State.core_modCore_other (s : State) (c j : Nat) (f : Core → Core) (h : j ≠ c) : (s.modCore c f).core j = s.core j :=
  State.core_putCore_other _ _ _ _ h

@[simp] theorem State.core_modCtx_self (s : State) (c x : Nat) (f : Ctx → Ctx) :
    (s.modCtx c x f).core c = (s.core c).putCtx x (f (s.ctx c x)) := by
  simp [State.modCtx, State.putCtx]

theorem State.core_modCtx_other (s : State) (c x j : Nat) (f : Ctx → Ctx) (h : j ≠ c) : (s.modCtx c x f).core j = s.core j :=
  State.core_putCore_other _ _ _ _ h

@[simp] theorem State.core_putCtx_self (s : State) (c x : Nat) (v : Ctx) : (s.putCtx c x v).core c = (s.core c).putCtx x v := by
  simp [State.putCtx]

theorem State.core_putCtx_other (s : State) (c x j : Nat) (v : Ctx) (h : j ≠ c) : (s.putCtx c x v).core j = s.core j :=
  State.core_putCore_other _ _ _ _ h

@[simp] theorem State.core_tick (s : State) (c : Nat) : s.tick.core c = s.core c := rfl

theorem Core.ctx_putCtx_self (k : Core) (x : Nat) (v : Ctx) (h : x < 4) : (k.putCtx x v).ctx x = v :=
  vget_vset_self _ _ _ _ h

theorem Core.ctx_putCtx_other (k : Core) (x y : Nat) (v : Ctx) (h : y ≠ x) : (k.putCtx x v).ctx y = k.ctx y :=
  vget_vset_other _ _ _ _ _ h

theorem State.ctx_modCtx_self (s : State) (c x : Nat) (f : Ctx → Ctx) (h : x < 4) : (s.modCtx c x f).ctx c x = f (s.ctx c x) := by
  rw [State.ctx, State.core_modCtx_self, Core.ctx_putCtx_self _ _ _ h]

theorem State.ctx_modCtx_other (s : State) (c x y : Nat) (f : Ctx → Ctx) (h : y ≠ x) : (s.modCtx c x f).ctx c y = s.ctx c y := by
  rw [State.ctx, State.core_modCtx_self, Core.ctx_putCtx_other _ _ _ _ h]; rfl

/-- A context number beyond the fourth names no context. -/
theorem Core.ctx_out (k : Core) (x : Nat) (h : 4 ≤ x) : k.ctx x = Ctx.fresh := by
  simp [Core.ctx, vget, h]

@[simp] theorem State.putCore_putCore (s : State) (c : Nat) (k l : Core) : (s.putCore c k).putCore c l = s.putCore c l := by
  simp [State.putCore]

end Sys2Proof.Machine
end

