-- ==== Sys2Proof/Laws/Issue.lean ====
section
/-! SUPPORT. What the issue of a bundle of one syllable comes to: performed, blocked, or a trap. -/

namespace Sys2Proof.Machine

open Sys2Proof.Claim

/-- With nothing of the core's own due, nothing is performed (R137). -/
theorem settleOps_of_none {s : State} {c x : Nat} (h : (s.ctx c x).innerReady = none) : s.settleOps c x = s := by
  unfold State.settleOps
  cases (s.ctx c x).ops.length with
  | zero => rfl
  | succ n => simp [settleN, h]

/-- What is due depends on the context's accesses alone. -/
theorem innerReady_congr {v w : Ctx} (h : v.ops = w.ops) : v.innerReady = w.innerReady := by simp [Ctx.innerReady, h]

/-! ### The turn's context is one of four -/

/-- The context whose turn it is issues bundles. -/
theorem pick_ready {s : State} {c x : Nat} (h : s.pick = some (c, x)) : (s.ctx c x).status = .ready ∧ c = s.turn := by
  unfold State.pick at h
  simp only at h
  obtain ⟨j, hj, h⟩ := Option.map_eq_some_iff.mp h
  simp only [Prod.mk.injEq] at h
  obtain ⟨rfl, rfl⟩ := h
  have hc := List.find?_some hj
  simp [Core.canTry] at hc
  exact ⟨hc.2.1.1, rfl⟩

theorem pick_lt {s : State} {c x : Nat} (h : s.pick = some (c, x)) : x < 4 := by
  by_contra hx
  have h1 := (pick_ready h).1
  rw [State.ctx, Core.ctx_out _ _ (by omega)] at h1
  simp [Ctx.fresh] at h1

/-! ### Fetching changes only what the core caches -/

/-- A core with other cached packets and translations, and another count of R11 g. -/
def Core.cached (k : Core) (ic : Table (List Byte)) (t : List TlbEntry) (n : Nat) : Core := { k with icache := ic, tlb := t, run := n }

@[simp] theorem Core.cached_clock (k : Core) (ic : Table (List Byte)) (t : List TlbEntry) (n : Nat) : (k.cached ic t n).clock = k.clock := rfl
@[simp] theorem Core.cached_cur (k : Core) (ic : Table (List Byte)) (t : List TlbEntry) (n : Nat) : (k.cached ic t n).cur = k.cur := rfl
@[simp] theorem Core.cached_run (k : Core) (ic : Table (List Byte)) (t : List TlbEntry) (n : Nat) : (k.cached ic t n).run = n := rfl
@[simp] theorem Core.cached_idle (k : Core) (ic : Table (List Byte)) (t : List TlbEntry) (n : Nat) : (k.cached ic t n).idle = k.idle := rfl
@[simp] theorem Core.cached_ctxs (k : Core) (ic : Table (List Byte)) (t : List TlbEntry) (n : Nat) : (k.cached ic t n).ctxs = k.ctxs := rfl
@[simp] theorem Core.cached_xf (k : Core) (ic : Table (List Byte)) (t : List TlbEntry) (n : Nat) : (k.cached ic t n).xf = k.xf := rfl
@[simp] theorem Core.cached_xfSets (k : Core) (ic : Table (List Byte)) (t : List TlbEntry) (n : Nat) : (k.cached ic t n).xfSets = k.xfSets := rfl
@[simp] theorem Core.cached_accs (k : Core) (ic : Table (List Byte)) (t : List TlbEntry) (n : Nat) : (k.cached ic t n).accs = k.accs := rfl
@[simp] theorem Core.cached_accOwner (k : Core) (ic : Table (List Byte)) (t : List TlbEntry) (n : Nat) : (k.cached ic t n).accOwner = k.accOwner := rfl
@[simp] theorem Core.cached_teams (k : Core) (ic : Table (List Byte)) (t : List TlbEntry) (n : Nat) : (k.cached ic t n).teams = k.teams := rfl
@[simp] theorem Core.cached_barriers (k : Core) (ic : Table (List Byte)) (t : List TlbEntry) (n : Nat) : (k.cached ic t n).barriers = k.barriers := rfl
@[simp] theorem Core.cached_cmds (k : Core) (ic : Table (List Byte)) (t : List TlbEntry) (n : Nat) : (k.cached ic t n).cmds = k.cmds := rfl
@[simp] theorem Core.cached_cmdSeq (k : Core) (ic : Table (List Byte)) (t : List TlbEntry) (n : Nat) : (k.cached ic t n).cmdSeq = k.cmdSeq := rfl
@[simp] theorem Core.cached_guests (k : Core) (ic : Table (List Byte)) (t : List TlbEntry) (n : Nat) : (k.cached ic t n).guests = k.guests := rfl
@[simp] theorem Core.cached_chans (k : Core) (ic : Table (List Byte)) (t : List TlbEntry) (n : Nat) : (k.cached ic t n).chans = k.chans := rfl
@[simp] theorem Core.cached_chanImage (k : Core) (ic : Table (List Byte)) (t : List TlbEntry) (n : Nat) : (k.cached ic t n).chanImage = k.chanImage := rfl
@[simp] theorem Core.cached_chanRoot (k : Core) (ic : Table (List Byte)) (t : List TlbEntry) (n : Nat) : (k.cached ic t n).chanRoot = k.chanRoot := rfl
@[simp] theorem Core.cached_l1 (k : Core) (ic : Table (List Byte)) (t : List TlbEntry) (n : Nat) : (k.cached ic t n).l1 = k.l1 := rfl
@[simp] theorem Core.cached_l1Sectors (k : Core) (ic : Table (List Byte)) (t : List TlbEntry) (n : Nat) : (k.cached ic t n).l1Sectors = k.l1Sectors := rfl
@[simp] theorem Core.cached_icache (k : Core) (ic : Table (List Byte)) (t : List TlbEntry) (n : Nat) : (k.cached ic t n).icache = ic := rfl
@[simp] theorem Core.cached_tlb (k : Core) (ic : Table (List Byte)) (t : List TlbEntry) (n : Nat) : (k.cached ic t n).tlb = t := rfl
@[simp] theorem Core.cached_ran (k : Core) (ic : Table (List Byte)) (t : List TlbEntry) (n : Nat) : (k.cached ic t n).ran = k.ran := rfl
@[simp] theorem Core.cached_written (k : Core) (ic : Table (List Byte)) (t : List TlbEntry) (n : Nat) : (k.cached ic t n).written = k.written := rfl
@[simp] theorem Core.cached_sig (k : Core) (ic : Table (List Byte)) (t : List TlbEntry) (n : Nat) : (k.cached ic t n).sig = k.sig := rfl
@[simp] theorem Core.cached_sigSeen (k : Core) (ic : Table (List Byte)) (t : List TlbEntry) (n : Nat) : (k.cached ic t n).sigSeen = k.sigSeen := rfl
@[simp] theorem Core.cached_sevs (k : Core) (ic : Table (List Byte)) (t : List TlbEntry) (n : Nat) : (k.cached ic t n).sevs = k.sevs := rfl
@[simp] theorem Core.cached_sfDegraded (k : Core) (ic : Table (List Byte)) (t : List TlbEntry) (n : Nat) : (k.cached ic t n).sfDegraded = k.sfDegraded := rfl
@[simp] theorem Core.cached_halfRate (k : Core) (ic : Table (List Byte)) (t : List TlbEntry) (n : Nat) : (k.cached ic t n).halfRate = k.halfRate := rfl
@[simp] theorem Core.cached_granules (k : Core) (ic : Table (List Byte)) (t : List TlbEntry) (n : Nat) : (k.cached ic t n).granules = k.granules := rfl
@[simp] theorem Core.cached_retired (k : Core) (ic : Table (List Byte)) (t : List TlbEntry) (n : Nat) : (k.cached ic t n).retired = k.retired := rfl
@[simp] theorem Core.cached_retiring (k : Core) (ic : Table (List Byte)) (t : List TlbEntry) (n : Nat) : (k.cached ic t n).retiring = k.retiring := rfl
@[simp] theorem Core.cached_lostAccs (k : Core) (ic : Table (List Byte)) (t : List TlbEntry) (n : Nat) : (k.cached ic t n).lostAccs = k.lostAccs := rfl
@[simp] theorem Core.cached_deadGranules (k : Core) (ic : Table (List Byte)) (t : List TlbEntry) (n : Nat) : (k.cached ic t n).deadGranules = k.deadGranules := rfl
@[simp] theorem Core.cached_lostChans (k : Core) (ic : Table (List Byte)) (t : List TlbEntry) (n : Nat) : (k.cached ic t n).lostChans = k.lostChans := rfl
@[simp] theorem Core.cached_deadChans (k : Core) (ic : Table (List Byte)) (t : List TlbEntry) (n : Nat) : (k.cached ic t n).deadChans = k.deadChans := rfl
@[simp] theorem Core.cached_deadBars (k : Core) (ic : Table (List Byte)) (t : List TlbEntry) (n : Nat) : (k.cached ic t n).deadBars = k.deadBars := rfl
@[simp] theorem Core.cached_spent (k : Core) (ic : Table (List Byte)) (t : List TlbEntry) (n : Nat) : (k.cached ic t n).spent = k.spent := rfl
@[simp] theorem Core.cached_preload (k : Core) (ic : Table (List Byte)) (t : List TlbEntry) (n : Nat) : (k.cached ic t n).preload = k.preload := rfl
@[simp] theorem Core.cached_ctx (k : Core) (ic : Table (List Byte)) (t : List TlbEntry) (n x : Nat) : (k.cached ic t n).ctx x = k.ctx x := rfl
@[simp] theorem Core.cached_teamOf (k : Core) (ic : Table (List Byte)) (t : List TlbEntry) (n x : Nat) :
    (k.cached ic t n).teamOf x = k.teamOf x := rfl

/-- Counting a cycle towards R11 g changes nothing that a fetch looks at. -/
theorem contest_eq (s : State) (c x : Nat) : ∃ n, s.contest c x = s.putCore c ((s.core c).cached (s.core c).icache (s.core c).tlb n) := ⟨_, rfl⟩

theorem contest_core (s : State) (c x d : Nat) : ∃ n, (s.contest c x).core d = (s.core d).cached (s.core d).icache (s.core d).tlb n := by
  obtain ⟨n, h⟩ := contest_eq s c x
  by_cases hd : d = c
  · subst hd; exact ⟨n, by rw [h, State.core_putCore_self]⟩
  · exact ⟨(s.core d).run, by rw [h, State.core_putCore_other _ _ _ _ hd]; rfl⟩

@[simp] theorem contest_ctx (s : State) (c x d y : Nat) : (s.contest c x).ctx d y = s.ctx d y := by
  obtain ⟨n, h⟩ := contest_core s c x d
  simp [State.ctx, h]

@[simp] theorem contest_rootAt (s : State) (c x d y : Nat) : (s.contest c x).rootAt d y = s.rootAt d y := by
  obtain ⟨n, h⟩ := contest_core s c x d
  simp only [State.rootAt, State.launchAt, h, Core.cached_teamOf]
  rfl

@[simp] theorem contest_isLost (s : State) (c x a : Nat) : (s.contest c x).isLost a = s.isLost a := rfl

@[simp] theorem contest_fetchPacket (s : State) (c x d root va : Nat) : (s.contest c x).fetchPacket d root va = s.fetchPacket d root va := by
  obtain ⟨n, h⟩ := contest_core s c x d
  simp only [State.fetchPacket, State.xlat, State.walkOf, State.cachedXlat, State.fetchSector, h, Core.cached_tlb, Core.cached_icache]
  rfl

/-- A packet fetched and its translation kept change nothing but what the core and its die's TLBs cache, the tables in force (R75, R104) and the count
of R11 g. -/
theorem fetched_eq (s : State) (c x pa : Nat) :
    ∃ ic t n u w, fetched s c x pa = { s.putCore c ((s.core c).cached ic t n) with tlbs := u, tables := w } := by
  obtain ⟨n, h0⟩ := contest_eq s c x
  have h1 : ∃ ic, (s.contest c x).noteFetch c pa = s.putCore c ((s.core c).cached ic (s.core c).tlb n) := by
    refine ⟨tput (tput (icacheRoom (s.core c).icache s.free pa) (sectorOf pa) ((s.contest c x).fetchSector c pa)) (sectorOf (pa + 32))
      ((s.contest c x).fetchSector c (pa + 32)), ?_⟩
    rw [h0]
    unfold State.noteFetch State.modCore
    rw [State.core_putCore_self, State.putCore_putCore]
    rfl
  obtain ⟨ic, h1⟩ := h1
  unfold fetched
  rw [h1]
  generalize hs : s.putCore c ((s.core c).cached ic (s.core c).tlb n) = s1
  have hc : s1.core c = (s.core c).cached ic (s.core c).tlb n := by rw [← hs]; simp
  have hw : ∀ (r a : Nat), ∃ w, s1.noteWalk r a = { s1 with tables := w } := by
    intro r a
    unfold State.noteWalk State.keepTables
    (repeat' split) <;> exact ⟨_, rfl⟩
  have h2 : s1.noteTlb c (s.rootAt c x) (s.ctx c x).pc = s1 ∨ ∃ t u w, s1.noteTlb c (s.rootAt c x) (s.ctx c x).pc =
      { s1.putCore c { s1.core c with tlb := t } with tlbs := u, tables := w } := by
    unfold State.noteTlb
    split
    · obtain ⟨w, hw⟩ := hw (s.rootAt c x) (s.ctx c x).pc
      simp only [hw]
      exact .inr ⟨if (tlbFind (s1.core c).tlb (s.rootAt c x) ((s.ctx c x).pc / _ * _)).isSome then _ else _, _, w, rfl⟩
    · exact .inl rfl
  obtain h2 | ⟨t, u, w, h2⟩ := h2
  · exact ⟨ic, (s.core c).tlb, n, s.tlbs, s.tables, by rw [h2, ← hs]; rfl⟩
  · exact ⟨ic, t, n, u, w, by rw [h2, hc, ← hs, State.putCore_putCore]; rfl⟩

@[simp] theorem fetched_powered (s : State) (c x pa : Nat) : (fetched s c x pa).powered = s.powered := by
  obtain ⟨ic, t, n, u, w, h⟩ := fetched_eq s c x pa; rw [h]; rfl
@[simp] theorem fetched_agenda (s : State) (c x pa : Nat) : (fetched s c x pa).agenda = s.agenda := by
  obtain ⟨ic, t, n, u, w, h⟩ := fetched_eq s c x pa; rw [h]; rfl
@[simp] theorem fetched_turn (s : State) (c x pa : Nat) : (fetched s c x pa).turn = s.turn := by
  obtain ⟨ic, t, n, u, w, h⟩ := fetched_eq s c x pa; rw [h]; rfl
@[simp] theorem fetched_stall (s : State) (c x pa : Nat) : (fetched s c x pa).stall = s.stall := by
  obtain ⟨ic, t, n, u, w, h⟩ := fetched_eq s c x pa; rw [h]; rfl
@[simp] theorem fetched_beat (s : State) (c x pa : Nat) : (fetched s c x pa).beat = s.beat := by
  obtain ⟨ic, t, n, u, w, h⟩ := fetched_eq s c x pa; rw [h]; rfl
@[simp] theorem fetched_free (s : State) (c x pa : Nat) : (fetched s c x pa).free = s.free := by
  obtain ⟨ic, t, n, u, w, h⟩ := fetched_eq s c x pa; rw [h]; rfl
@[simp] theorem fetched_barKeys (s : State) (c x pa : Nat) : (fetched s c x pa).barKeys = s.barKeys := by
  obtain ⟨ic, t, n, u, w, h⟩ := fetched_eq s c x pa; rw [h]; rfl
@[simp] theorem fetched_cycle (s : State) (c x pa : Nat) : (fetched s c x pa).cycle = s.cycle := by
  obtain ⟨ic, t, n, u, w, h⟩ := fetched_eq s c x pa; rw [h]; rfl
@[simp] theorem fetched_mem (s : State) (c x pa : Nat) : (fetched s c x pa).mem = s.mem := by
  obtain ⟨ic, t, n, u, w, h⟩ := fetched_eq s c x pa; rw [h]; rfl
@[simp] theorem fetched_dies (s : State) (c x pa : Nat) : (fetched s c x pa).dies = s.dies := by
  obtain ⟨ic, t, n, u, w, h⟩ := fetched_eq s c x pa; rw [h]; rfl
@[simp] theorem fetched_launches (s : State) (c x pa : Nat) : (fetched s c x pa).launches = s.launches := by
  obtain ⟨ic, t, n, u, w, h⟩ := fetched_eq s c x pa; rw [h]; rfl
@[simp] theorem fetched_epochs (s : State) (c x pa : Nat) : (fetched s c x pa).epochs = s.epochs := by
  obtain ⟨ic, t, n, u, w, h⟩ := fetched_eq s c x pa; rw [h]; rfl
@[simp] theorem fetched_saved (s : State) (c x pa : Nat) : (fetched s c x pa).saved = s.saved := by
  obtain ⟨ic, t, n, u, w, h⟩ := fetched_eq s c x pa; rw [h]; rfl
@[simp] theorem fetched_sliceQueues (s : State) (c x pa : Nat) : (fetched s c x pa).sliceQueues = s.sliceQueues := by
  obtain ⟨ic, t, n, u, w, h⟩ := fetched_eq s c x pa; rw [h]; rfl
@[simp] theorem fetched_det (s : State) (c x pa : Nat) : (fetched s c x pa).det = s.det := by
  obtain ⟨ic, t, n, u, w, h⟩ := fetched_eq s c x pa; rw [h]; rfl
@[simp] theorem fetched_queues (s : State) (c x pa : Nat) : (fetched s c x pa).queues = s.queues := by
  obtain ⟨ic, t, n, u, w, h⟩ := fetched_eq s c x pa; rw [h]; rfl
@[simp] theorem fetched_lastBound (s : State) (c x pa : Nat) : (fetched s c x pa).lastBound = s.lastBound := by
  obtain ⟨ic, t, n, u, w, h⟩ := fetched_eq s c x pa; rw [h]; rfl
@[simp] theorem fetched_channels (s : State) (c x pa : Nat) : (fetched s c x pa).channels = s.channels := by
  obtain ⟨ic, t, n, u, w, h⟩ := fetched_eq s c x pa; rw [h]; rfl
@[simp] theorem fetched_outbox (s : State) (c x pa : Nat) : (fetched s c x pa).outbox = s.outbox := by
  obtain ⟨ic, t, n, u, w, h⟩ := fetched_eq s c x pa; rw [h]; rfl
@[simp] theorem fetched_stackQ (s : State) (c x pa : Nat) : (fetched s c x pa).stackQ = s.stackQ := by
  obtain ⟨ic, t, n, u, w, h⟩ := fetched_eq s c x pa; rw [h]; rfl
@[simp] theorem fetched_platform (s : State) (c x pa : Nat) : (fetched s c x pa).platform = s.platform := by
  obtain ⟨ic, t, n, u, w, h⟩ := fetched_eq s c x pa; rw [h]; rfl

theorem fetched_core (s : State) (c x pa : Nat) : ∃ ic t n, (fetched s c x pa).core c = (s.core c).cached ic t n := by
  obtain ⟨ic, t, n, u, w, h⟩ := fetched_eq s c x pa
  exact ⟨ic, t, n, by rw [h]; exact State.core_putCore_self _ _ _⟩

theorem fetched_core_other (s : State) (c x pa j : Nat) (h : j ≠ c) : (fetched s c x pa).core j = s.core j := by
  obtain ⟨ic, t, n, u, w, e⟩ := fetched_eq s c x pa
  rw [e]; exact State.core_putCore_other _ _ _ _ h

@[simp] theorem fetched_ctx (s : State) (c x pa y : Nat) : (fetched s c x pa).ctx c y = s.ctx c y := by
  obtain ⟨ic, t, n, h⟩ := fetched_core s c x pa
  simp [State.ctx, h]

@[simp] theorem fetched_hdrAt (s : State) (c x pa y : Nat) : (fetched s c x pa).hdrAt c y = s.hdrAt c y := by
  obtain ⟨ic, t, n, h⟩ := fetched_core s c x pa
  simp [State.hdrAt, State.launchAt, State.launchOf, h]

/-! ### Results and `sev`s that land at issue -/

/-- Two contexts alike but for their event latches. -/
abbrev Ctx.noLatch (v : Ctx) : Ctx := { v with evt := false }

theorem setLatch_eq (k : Core) (x : Nat) : ∃ cs, k.setLatch x = { k with ctxs := cs } ∧
    ∀ y, Ctx.noLatch (vget cs y Ctx.fresh) = (k.ctx y).noLatch := by
  unfold Core.setLatch
  split
  · refine ⟨vset k.ctxs x { k.ctx x with evt := true }, rfl, fun y => ?_⟩
    by_cases h : y = x
    · subst h
      by_cases hy : y < 4
      · rw [vget_vset_self _ _ _ _ hy]
      · have hy' : 4 ≤ y := by omega
        simp [vget, vset, Core.ctx, hy']
    · rw [vget_vset_other _ _ _ _ _ h]; rfl
  · exact ⟨k.ctxs, rfl, fun _ => rfl⟩

theorem setLatches_eq (l : List Sev) (k : Core) : ∃ cs, l.foldl (fun (k : Core) e => k.setLatch e.ctx) k = { k with ctxs := cs } ∧
    ∀ y, Ctx.noLatch (vget cs y Ctx.fresh) = (k.ctx y).noLatch := by
  induction l generalizing k with
  | nil => exact ⟨k.ctxs, rfl, fun _ => rfl⟩
  | cons e l ih =>
    obtain ⟨cs, h1, h2⟩ := setLatch_eq k e.ctx
    obtain ⟨ds, h3, h4⟩ := ih (k.setLatch e.ctx)
    refine ⟨ds, ?_, fun y => ?_⟩
    · rw [List.foldl_cons, h3, h1]
    · rw [h4 y, h1]; exact h2 y

/-- What lands before an issue: `sev`s set latches, `xf` writes and the context's own results come into force (R34, R47, R169). -/
theorem landSevs_eq (s : State) (k : Core) : ∃ cs, s.landSevs k = { k with ctxs := cs, sevs := k.sevs.filter (fun e => !s.sevDue k e) } ∧
    ∀ y, Ctx.noLatch (vget cs y Ctx.fresh) = (k.ctx y).noLatch := by
  obtain ⟨cs, h1, h2⟩ := setLatches_eq (k.sevs.filter (s.sevDue k)) { k with sevs := k.sevs.filter (fun e => !s.sevDue k e) }
  exact ⟨cs, by rw [State.landSevs, h1], h2⟩

/-! ### One syllable, read and judged -/

/-- A bundle of one syllable, prepared. -/
theorem prepare_lone (s : State) (c x pa : Nat) (pk : List Nat) (m : Sem) :
    (fetched s c x pa).prepare c x (s.ctx c x).pc (nextPc s c x pk) [(posOf s c x, m)] =
      { before := base s c x pa m.srcs, envs := [(env s c x pa pk m, m)],
        after := m.act (env s c x pa pk m) (base s c x pa m.srcs),
        flow := m.flow (env s c x pa pk m) (base s c x pa m.srcs), pos := 0 } := by
  have hf : ((fetched s c x pa).landed c x).free = s.free := by simp [State.landed]
  have hp : flowPos [(env s c x pa pk m, m)] (base s c x pa m.srcs) = 0 := by
    simp only [flowPos]
    split
    · rfl
    · simp [env, posOf]
  have hw : flowOf [(env s c x pa pk m, m)] (base s c x pa m.srcs) = m.flow (env s c x pa pk m) (base s c x pa m.srcs) := by
    simp only [flowOf]
    split
    · rename_i h; exact h.symm
    · rfl
  simp only [State.prepare, takeAll, hf]
  have hr : Prepared.mk (base s c x pa m.srcs) [(env s c x pa pk m, m)] (m.act (env s c x pa pk m) (base s c x pa m.srcs))
      (flowOf [(env s c x pa pk m, m)] (base s c x pa m.srcs)) (flowPos [(env s c x pa pk m, m)] (base s c x pa m.srcs)) =
      Prepared.mk (base s c x pa m.srcs) [(env s c x pa pk m, m)] (m.act (env s c x pa pk m) (base s c x pa m.srcs))
      (m.flow (env s c x pa pk m) (base s c x pa m.srcs)) 0 := by rw [hp, hw]
  exact hr

/-- No two destinations of one syllable count as a double write (R164). -/
theorem dupDst_lone (p : Nat) (m : Sem) : dupDst [(p, m)] [] = none := by
  simp [dupDst]

theorem popCount_pos (p : Src → Bool) (a b : Nat) (m : Sem) : popCount p [(a, m)] = popCount p [(b, m)] := rfl

theorem blocksBefore_lone (k k' : Core) (x : Ctx) (b p q : Nat) (m : Sem) (h1 : k.cmds = k'.cmds) (h2 : k.accOwner = k'.accOwner)
    (h3 : k.guests = k'.guests) : blocksBefore k x b [(p, m)] = blocksBefore k' x b [(q, m)] := by
  have hq : ∀ i, k.queueRoom b i = k'.queueRoom b i := by intro i; unfold Core.queueRoom Core.inQueue; rw [h1, h2, h3]
  unfold blocksBefore
  simp only [List.all_cons, List.all_nil, List.any_cons, List.any_nil, List.map_cons, List.map_nil, popCount, sqReady, portRoom]
  cases m.queue with
  | none => rfl
  | some i => simp only [hq i]

/-- What is popped is lost or not whatever the position, and whichever of its bytes (R271). -/
theorem lostPop_lone (s s' : State) (c x p q : Nat) (m : Sem) (lq lqs : List PortEntry) (h : lostPop s c x 0 [(0, m)] lq lqs = []) :
    lostPop s' c x p [(q, m)] lq lqs = [] := by
  have h1 : ∀ (l : List Src) (a b : List PortEntry), ((lostSrcs s c x l a b).1 = [] → (lostSrcs s' c x l a b).1 = []) := by
    intro l
    induction l with
    | nil => intros; rfl
    | cons r l ih =>
      intro a b
      unfold lostSrcs
      split <;> simp only [List.append_eq_nil_iff, List.filterMap_eq_nil_iff, Option.map_eq_none_iff]
      · exact fun h => ⟨h.1, ih _ _ h.2⟩
      · exact fun h => ⟨h.1, ih _ _ h.2⟩
      · exact ih _ _
  simp only [lostPop, List.append_nil, List.map_eq_nil_iff] at h ⊢
  exact h1 _ _ _ h

/-- A core that caches other packets finds the same accumulators busy. -/
@[simp] theorem Core.cached_accBusy (k : Core) (ic : Table (List Byte)) (t : List TlbEntry) (n b : Nat) (m : Sem) :
    (k.cached ic t n).accBusy b m = k.accBusy b m := rfl

/-- Which barriers are destroyed depends on the core's teams and its broken barriers alone. -/
theorem Core.barsLost_congr {k k' : Core} (h1 : k.teams = k'.teams) (h2 : k.deadBars = k'.deadBars) (t : Team) : k.barsLost t = k'.barsLost t := by
  simp only [Core.barsLost, h1, h2]

/-- What has landed leaves the core's teams and its broken barriers. -/
theorem landed_teams (s : State) (c x : Nat) :
    ((s.landed c x).core c).teams = (s.core c).teams ∧ ((s.landed c x).core c).deadBars = (s.core c).deadBars := by
  obtain ⟨cs, h, -⟩ := landSevs_eq s (s.core c)
  simp only [State.landed, State.core_putCore_self, h, Core.putCtx, Core.landXf, and_self]

/-- The tags and barriers of a context's team that are destroyed are those the bundle finds. -/
theorem base_lostTagsAt (s : State) (c x pa : Nat) (srcs : List Src) : (base s c x pa srcs).lostTagsAt c x = s.lostTagsAt c x := by
  obtain ⟨ic, t, n, hc⟩ := fetched_core s c x pa
  obtain ⟨h1, h2⟩ := landed_teams (fetched s c x pa) c x
  have h3 : ((base s c x pa srcs).core c).teams = (s.core c).teams := by
    simp only [base, State.core_putCtx_self, Core.putCtx, h1, hc, Core.cached_teams]
  have h4 : ((base s c x pa srcs).core c).deadBars = (s.core c).deadBars := by
    simp only [base, State.core_putCtx_self, Core.putCtx, h2, hc, Core.cached_deadBars]
  simp only [State.lostTagsAt, Core.teamOf, h3, Core.barsLost_congr h3 h4]

/-- A clear bundle is free to go. -/
theorem verdict_of_clear {s : State} {c x pa : Nat} {pk : List Nat} {m : Sem} (hx : x < 4) (k : Clear s c x pa pk m) :
    (fetched s c x pa).verdict c x [(posOf s c x, m)]
      ((fetched s c x pa).prepare c x (s.ctx c x).pc (nextPc s c x pk) [(posOf s c x, m)]) = .go := by
  obtain ⟨ic, t, n, hc⟩ := fetched_core s c x pa
  have hv : ((fetched s c x pa).landed c x).ctx c x = view s c x pa := rfl
  have hroom : blocksBefore ((fetched s c x pa).core c) (view s c x pa) (teamBase s c x) [(posOf s c x, m)] = false := by
    rw [blocksBefore_lone _ (s.core c) _ _ _ 0 m (by simp [hc]) (by simp [hc]) (by simp [hc])]
    exact k.room
  have hctx : (env s c x pa pk m).ctx = popped s c x pa m.srcs := by
    simp [Env.ctx, env, base, State.ctx, State.putCtx, Core.ctx_putCtx_self _ _ _ hx]
  have hsq : ((base s c x pa m.srcs).ctx c x).sq = (popped s c x pa m.srcs).sq := by
    simp [base, State.ctx, State.putCtx, Core.ctx_putCtx_self _ _ _ hx]
  have hlost : lostReads c x (popped s c x pa m.srcs) (s.lostTagsAt c x) (popped s c x pa m.srcs).sq m = [] := k.usable.intact
  have htags : (env s c x pa pk m).snap.lostTagsAt c x = s.lostTagsAt c x := base_lostTagsAt ..
  have harr := fun p => lostPop_lone s (fetched s c x pa) c x p (posOf s c x) m _ _ k.usable.arrived
  rw [prepare_lone]
  unfold State.verdict
  have hteam : ((fetched s c x pa).core c).teamOf x = (s.core c).teamOf x := by simp [hc]
  simp only [hv, hteam]
  have hstr : m.streams.filterMap (fun a => (tget (popped s c x pa m.srcs).lostA a).map
      (fun p => fMchk 14 p.1 p.2 ((base s c x pa m.srcs).lossOf p.2))) = [] := by
    rw [List.filterMap_eq_nil_iff]
    intro a ha; simp [k.streams a ha]
  have hneg : ¬blocksBefore ((fetched s c x pa).core c) (view s c x pa) (teamBase s c x) [(posOf s c x, m)] = true := by
    simp [hroom]
  refine (if_neg hneg).trans ?_
  have he : (env s c x pa pk m).c = c ∧ (env s c x pa pk m).x = x := ⟨rfl, rfl⟩
  simp only [dupDst_lone, fetched_hdrAt, faultsOf, hctx, htags, hlost, harr, he, hsq, k.wf, k.usable.declared, k.checks,
    k.target, need, Bool.not_false, if_true, hstr, List.append_nil, List.map_nil, firstFault]
  have hacc := k.acc
  unfold teamBase at hacc
  simp only [waitsAfter, k.free, hc, Core.cached_accBusy]
  simp
  exact hacc

/-- A clear bundle of one syllable is performed. -/
theorem issueOne_done {s : State} {c x pa : Nat} {pk : List Nat} {m : Sem} (h : Ready s c x pa pk) (k : Clear s c x pa pk m) :
    issueOne m s = .next (done s c x pa pk m) := by
  have hg := verdict_of_clear (pick_lt h.turn) k
  simp only [issueOne, h.power, h.turn, Bool.not_true, Bool.false_eq_true, if_false]
  have hint : (span (pa + (s.ctx c x).pc % 64) 4).find? (s.contest c x).isLost = none := h.intact
  have hset : (s.contest c x).settleOps c x = s.contest c x := settleOps_of_none (by simpa using h.settled)
  have hdue : (s.ctx c x).dueTrap = none := by simp [Ctx.dueTrap, h.noTrap]
  simp only [State.attempt, h.inTurn, State.issueSems, hset, contest_ctx, contest_rootAt, contest_fetchPacket, hdue, h.noTrap, h.noResend, h.noFence, h.fetch, hint,
    List.any_nil, Bool.false_eq_true, if_false]
  split
  · rename_i e; exact Verdict.noConfusion (e.symm.trans hg)
  · rename_i e; exact Verdict.noConfusion (e.symm.trans hg)
  · rename_i e; exact Verdict.noConfusion (e.symm.trans hg)
  · have hp := prepare_lone s c x pa pk m
    unfold fetched nextPc posOf at hp
    erw [hp]
    simp
    rfl

end Sys2Proof.Machine
end

