-- ==== Sys2Proof/Laws/Effect.lean ====
section
/-! SUPPORT. What a performed bundle leaves when its syllable acts on its own context alone. -/

namespace Sys2Proof.Machine

open Sys2Proof.Claim

/-! ### Syllables with no condition of their own -/

/-- A syllable that names only registers and ports, reads no record, checks and waits for nothing of its own, and goes on to the next bundle. -/
structure Sem.Plain (m : Sem) : Prop where
  lqs : m.lqs = 0
  lq : m.lq = 0
  queue : m.queue = none
  streams : m.streams = []
  acc : m.acc = none
  record : m.record = false
  check : ∀ e s, m.check e s = []
  waits : ∀ e s, m.waits e s = false
  flow : ∀ e s, m.flow e s = .next

/-- Its bundle is clear as soon as its operands are usable. -/
theorem clear_of_plain {s : State} {c x pa : Nat} {pk : List Nat} {m : Sem} (p : m.Plain) (u : Usable s c x pa m) (w : m.ins.wf = true) :
    Clear s c x pa pk m where
  usable := u
  room := by
    have h1 := u.lqs
    have h2 := u.lq
    have h3 := u.sq
    simp only [popCount, List.map_cons, List.map_nil, List.sum_cons, List.sum_nil, Nat.add_zero] at h1 h2
    simp [blocksBefore, portRoom, p.queue, p.lqs, p.lq, p.streams, Sem.readsRecord, p.record, popCount, h1, h2, h3]
  wf := w
  streams := by simp [p.streams]
  checks := p.check _ _
  target := by simp [p.flow, flowFaults]
  free := p.waits _ _
  acc := by simp [Core.accBusy, p.acc]

@[simp] theorem base_powered (s : State) (c x pa : Nat) (r : List Src) : (base s c x pa r).powered = s.powered := by
  simp [base, State.landed]
@[simp] theorem base_agenda (s : State) (c x pa : Nat) (r : List Src) : (base s c x pa r).agenda = s.agenda := by
  simp [base, State.landed]
@[simp] theorem base_barKeys (s : State) (c x pa : Nat) (r : List Src) : (base s c x pa r).barKeys = s.barKeys := by
  simp [base, State.landed]
@[simp] theorem base_mem (s : State) (c x pa : Nat) (r : List Src) : (base s c x pa r).mem = s.mem := by
  simp [base, State.landed]
@[simp] theorem base_dies (s : State) (c x pa : Nat) (r : List Src) : (base s c x pa r).dies = s.dies := by
  simp [base, State.landed]
@[simp] theorem base_launches (s : State) (c x pa : Nat) (r : List Src) : (base s c x pa r).launches = s.launches := by
  simp [base, State.landed]
@[simp] theorem base_epochs (s : State) (c x pa : Nat) (r : List Src) : (base s c x pa r).epochs = s.epochs := by
  simp [base, State.landed]
@[simp] theorem base_saved (s : State) (c x pa : Nat) (r : List Src) : (base s c x pa r).saved = s.saved := by
  simp [base, State.landed]
@[simp] theorem base_sliceQueues (s : State) (c x pa : Nat) (r : List Src) : (base s c x pa r).sliceQueues = s.sliceQueues := by
  simp [base, State.landed]
@[simp] theorem base_det (s : State) (c x pa : Nat) (r : List Src) : (base s c x pa r).det = s.det := by
  simp [base, State.landed]
@[simp] theorem base_queues (s : State) (c x pa : Nat) (r : List Src) : (base s c x pa r).queues = s.queues := by
  simp [base, State.landed]
@[simp] theorem base_lastBound (s : State) (c x pa : Nat) (r : List Src) : (base s c x pa r).lastBound = s.lastBound := by
  simp [base, State.landed]
@[simp] theorem base_channels (s : State) (c x pa : Nat) (r : List Src) : (base s c x pa r).channels = s.channels := by
  simp [base, State.landed]
@[simp] theorem base_outbox (s : State) (c x pa : Nat) (r : List Src) : (base s c x pa r).outbox = s.outbox := by
  simp [base, State.landed]
@[simp] theorem base_stackQ (s : State) (c x pa : Nat) (r : List Src) : (base s c x pa r).stackQ = s.stackQ := by
  simp [base, State.landed]
@[simp] theorem base_platform (s : State) (c x pa : Nat) (r : List Src) : (base s c x pa r).platform = s.platform := by
  simp [base, State.landed]

end Sys2Proof.Machine

namespace Sys2Proof.Claim

open Sys2Proof.Machine

/-! ### What is kept -/

theorem KeptCore.refl (k : Core) : KeptCore k k := by constructor <;> rfl

theorem KeptCore.trans {a b c : Core} (h : KeptCore a b) (g : KeptCore b c) : KeptCore a c := by
  obtain ⟨h1, h2, h3, h4, h5, h6, h7, h8, h9, h10, h11, h12, h13, h14, h15, h16, h17, h18, h19, h20, h21, h22, h23, h24, h25, h26⟩ := h
  obtain ⟨g1, g2, g3, g4, g5, g6, g7, g8, g9, g10, g11, g12, g13, g14, g15, g16, g17, g18, g19, g20, g21, g22, g23, g24, g25, g26⟩ := g
  constructor <;> simp only [*]

theorem KeptCore.putCtx (k : Core) (x : Nat) (v : Ctx) : KeptCore k (k.putCtx x v) := by constructor <;> rfl

theorem KeptCore.cached (k : Core) (ic : Table (List Byte)) (t : List TlbEntry) (n : Nat) : KeptCore k (k.cached ic t n) := by constructor <;> rfl

theorem KeptCore.landXf (k : Core) (n : Nat) : KeptCore k (k.landXf n) := by constructor <;> rfl

theorem KeptCore.landSevs (s : State) (k : Core) : KeptCore k (s.landSevs k) := by
  obtain ⟨cs, h, -⟩ := landSevs_eq s k
  rw [h]; constructor <;> rfl

end Sys2Proof.Claim

namespace Sys2Proof.Machine

open Sys2Proof.Claim

/-- The issuing core as its syllable finds it. -/
theorem base_core (s : State) (c x pa : Nat) (r : List Src) : KeptCore (s.core c) ((base s c x pa r).core c) ∧
    ((base s c x pa r).core c).clock = (s.core c).clock ∧
    ∀ y, y ≠ x → ((base s c x pa r).ctx c y).noLatch = (s.ctx c y).noLatch := by
  obtain ⟨ic, t, n, hf⟩ := fetched_core s c x pa
  obtain ⟨cs, h1, h2⟩ := landSevs_eq (fetched s c x pa) ((fetched s c x pa).core c)
  have hb : ∃ v w, (base s c x pa r).core c = (((fetched s c x pa).landSevs ((fetched s c x pa).core c)).landXf
      ((fetched s c x pa).landSevs ((fetched s c x pa).core c)).clock |>.putCtx x v).putCtx x w := by
    simp only [base, State.landed]
    exact ⟨_, _, by rw [State.core_putCtx_self, State.core_putCore_self]⟩
  obtain ⟨v, w, hb⟩ := hb
  refine ⟨?_, ?_, ?_⟩
  · rw [hb, hf]
    exact (((KeptCore.cached _ ic t n).trans (KeptCore.landSevs _ _)).trans (KeptCore.landXf _ _)).trans
      ((KeptCore.putCtx _ x v).trans (KeptCore.putCtx _ x w))
  · rw [hb, h1, hf]; rfl
  · intro y hy
    have := h2 y
    rw [State.ctx, hb, Core.ctx_putCtx_other _ _ _ _ hy, Core.ctx_putCtx_other _ _ _ _ hy, h1]
    rw [hf] at this ⊢
    exact this

/-- The cycle a bundle's latency bounds count from (R170). -/
@[simp] theorem env_now (s : State) (c x pa : Nat) (pk : List Nat) (m : Sem) : (env s c x pa pk m).now = now s c := by
  obtain ⟨ic, t, n, hf⟩ := fetched_core s c x pa
  obtain ⟨cs, h1, -⟩ := landSevs_eq (fetched s c x pa) ((fetched s c x pa).core c)
  have e : ((fetched s c x pa).landSevs ((fetched s c x pa).core c)).clock = ((fetched s c x pa).core c).clock := by rw [h1]
  have e2 : (env s c x pa pk m).now = ((fetched s c x pa).landSevs ((fetched s c x pa).core c)).clock := by
    simp only [env, State.landed, State.core_putCore_self]; rfl
  rw [e2, e, hf]; rfl

theorem base_core_other (s : State) (c x pa j : Nat) (r : List Src) (h : j ≠ c) : (base s c x pa r).core j = s.core j := by
  simp only [base, State.landed]
  rw [State.core_putCtx_other _ _ _ _ _ h, State.core_putCore_other _ _ _ _ h, fetched_core_other _ _ _ _ _ h]

@[simp] theorem base_ctx (s : State) (c x pa : Nat) (r : List Src) (h : x < 4) : (base s c x pa r).ctx c x = popped s c x pa r := by
  simp [base, State.ctx, Core.ctx_putCtx_self _ _ _ h]

/-! ### Acting on the context alone -/

/-- What an issue leaves of its core: the cycle and the bubbles counted, and with `yield` the turn over (R11, R171). -/
theorem KeptCore.counted (k : Core) (i b : Nat) (y : Bool) : KeptCore k (k.counted i b y) ∧ ∀ x, (k.counted i b y).ctx x = k.ctx x :=
  ⟨by constructor <;> rfl, fun _ => rfl⟩

theorem core_issued_self (s : State) (c i b : Nat) (y : Bool) : (s.issued c i b y).core c = (s.core c).counted i b y := by
  have h : (s.issued c i b y).core c = (s.modCore c (fun k => k.counted i b y)).core c := rfl
  rw [h, State.core_modCore_self]

/-- Ending an issue: the context `v`, after control has gone on. -/
theorem ctx_issued (s : State) (c i b x : Nat) (y : Bool) : (s.issued c i b y).ctx c x = s.ctx c x := by
  rw [State.ctx, core_issued_self, (KeptCore.counted _ _ _ _).2]; rfl

theorem core_issued (s : State) (c i b : Nat) (y : Bool) : KeptCore (s.core c) ((s.issued c i b y).core c) := by
  rw [core_issued_self]; exact (KeptCore.counted _ _ _ _).1

theorem core_issued_other (s : State) (c i b j : Nat) (y : Bool) (h : j ≠ c) : (s.issued c i b y).core j = s.core j := by
  have e : (s.issued c i b y).core j = (s.modCore c (fun k => k.counted i b y)).core j := rfl
  rw [e, State.core_modCore_other _ _ _ _ h]

/-- Results that land change no access that is outstanding. -/
@[simp] theorem land_ops (x : Ctx) (n : Nat) : (x.land n).ops = x.ops := by
  have h : ∀ (l : List Landing) (v : Ctx), (l.foldl Ctx.commit v).ops = v.ops := by
    intro l
    induction l with
    | nil => intro v; rfl
    | cons e l ih => intro v; rw [List.foldl_cons, ih]; unfold Ctx.commit; split <;> rfl
  exact h _ _

@[simp] theorem landSets_ops (x : Ctx) (n : Nat) : (x.landSets n).ops = x.ops := by
  have h : ∀ (l : List PendingSet) (v : Ctx), (l.foldl Ctx.applySet v).ops = v.ops := by
    intro l
    induction l with
    | nil => intro v; rfl
    | cons e l ih => intro v; rw [List.foldl_cons, ih]; unfold Ctx.applySet; (repeat' split) <;> rfl
  exact h _ _

@[simp] theorem commit_ops (x : Ctx) (l : Landing) : (x.commit l).ops = x.ops := by unfold Ctx.commit; split <;> rfl

@[simp] theorem write_ops (x : Ctx) (d : Dest) (mask val : V1024) (n b : Nat) : (x.write d mask val n b).ops = x.ops := by
  unfold Ctx.write Ctx.overtake; simp only; split <;> simp

@[simp] theorem writeS_ops (x : Ctx) (d : Nat) (v : W64) (n b : Nat) : (x.writeS d v n b).ops = x.ops := by
  unfold Ctx.writeS; split <;> simp

@[simp] theorem writeM_ops (x : Ctx) (d : Nat) (sel v : W64) (n b : Nat) : (x.writeM d sel v n b).ops = x.ops := by
  unfold Ctx.writeM; split <;> simp

@[simp] theorem writeCond_ops (x : Ctx) (k : Nat) (v : Bool) (n b : Nat) : (x.writeCond k v n b).ops = x.ops := write_ops ..

@[simp] theorem writeV_ops (x : Ctx) (d : Nat) (mask v : V1024) (n b : Nat) : (x.writeV d mask v n b).ops = x.ops := by
  unfold Ctx.writeV; (repeat' split) <;> simp

/-- A syllable finds its context's outstanding accesses as they stood. -/
theorem popped_ops (s : State) (c x pa : Nat) (r : List Src) (hx : x < 4) : (popped s c x pa r).ops = (s.ctx c x).ops := by
  have h : (view s c x pa).ops = (s.ctx c x).ops := by
    obtain ⟨cs, h1, h2⟩ := landSevs_eq (fetched s c x pa) ((fetched s c x pa).core c)
    have h3 := congrArg Ctx.ops (h2 x)
    simp only [view, State.landed, State.ctx, State.core_putCore_self, Core.ctx_putCtx_self _ _ _ hx, landSets_ops, land_ops]
    rw [h1]
    exact h3.trans (congrArg (fun v => (Ctx.noLatch v).ops) (fetched_ctx s c x pa x))
  exact h

/-- A syllable that changes its own context by `f`, not its outstanding accesses, and lets control go on leaves that context as `f` makes it, one
bundle further, and all else as it was. -/
theorem done_upd {s : State} {c x pa : Nat} {pk : List Nat} {m : Sem} {f : Ctx → Ctx} (hx : x < 4) (hi : (s.ctx c x).innerReady = none)
    (ho : ∀ v, (f v).ops = v.ops)
    (ha : m.act (env s c x pa pk m) (base s c x pa m.srcs) = (base s c x pa m.srcs).modCtx c x f)
    (hf : m.flow (env s c x pa pk m) (base s c x pa m.srcs) = .next) :
    (done s c x pa pk m).ctx c x =
      (let v := f (popped s c x pa m.srcs)
       let d := passDecision (s.ctx c x).pc (nextPc s c x pk) v.nest
       { v with pc := d.2, nest := d.1, preps := nextPreps v [(posOf s c x, m)] }) ∧
    OnlyCtx s (done s c x pa pk m) c x := by
  obtain ⟨h1, h2, h3⟩ := base_core s c x pa m.srcs
  have hb := base_ctx s c x pa m.srcs hx
  have hbc : ((base s c x pa m.srcs).core c).ctx x = popped s c x pa m.srcs := hb
  have hs : (((base s c x pa m.srcs).modCtx c x f).modCtx c x (fun w => { w with preps := nextPreps w [(posOf s c x, m)] })).settleOps c x =
      ((base s c x pa m.srcs).modCtx c x f).modCtx c x (fun w => { w with preps := nextPreps w [(posOf s c x, m)] }) := by
    apply settleOps_of_none
    rw [← hi]
    apply innerReady_congr
    rw [State.ctx_modCtx_self _ _ _ _ hx, State.ctx_modCtx_self _ _ _ _ hx, hb]
    exact (ho _).trans (popped_ops s c x pa m.srcs hx)
  simp only [done, ha, hf, hs, State.goOn]
  constructor
  · simp only [ctx_issued, State.ctx_modCtx_self _ _ _ _ hx, hb]
  · constructor
    · constructor <;> simp [State.issued]
    · refine h1.trans (KeptCore.trans ?_ (core_issued _ _ _ _ _))
      simp only [State.core_modCtx_self]
      exact (KeptCore.putCtx _ _ _).trans ((KeptCore.putCtx _ _ _).trans (KeptCore.putCtx _ _ _))
    · intro y hy
      have := h3 y hy
      simp only [ctx_issued]
      simp only [State.ctx, State.core_modCtx_self, Core.ctx_putCtx_other _ _ _ _ hy]
      exact this
    · intro j hj
      rw [core_issued_other _ _ _ _ _ _ hj, State.core_modCtx_other _ _ _ _ _ hj, State.core_modCtx_other _ _ _ _ _ hj,
        State.core_modCtx_other _ _ _ _ _ hj, base_core_other _ _ _ _ _ _ hj]

end Sys2Proof.Machine
end

