-- ==== Sys2Proof/Laws/Dispatch.lean ====
section
/-! SUPPORT. Every syllable is issued as the one-syllable bundle of its meaning. -/

namespace Sys2Proof.Machine

/-- Every instruction with an encoding is a syllable; its meaning is the issue of its bundle. -/
theorem exec_issue (i : Instr) (s : State) (h : (encode i).isSome = true) : exec i s = issueOne (semOf i) s := by
  cases i <;> first | rfl | exact absurd h (by simp [encode])

/-- The syllable a meaning names is the instruction it is the meaning of. -/
theorem semOf_ins (i : Instr) (h : (encode i).isSome = true) : (semOf i).ins = i := by
  cases i <;> first | rfl | exact absurd h (by simp [encode])

open Sys2Proof.Claim

/-- A register syllable with usable operands is performed: its context changes as its meaning `m` says, and nothing else does. -/
theorem performs_of_plain {s : State} {c x pa : Nat} {pk : List Nat} {i : Instr} {m : Sem} {srcs : List Src} {f : Ctx → Ctx}
    (h : Ready s c x pa pk) (u : Usable s c x pa (semOf i)) (he : (encode i).isSome = true) (hm : semOf i = m) (p : m.Plain)
    (w : i.wf = true) (hs : m.srcs = srcs) (ho : ∀ v, (f v).ops = v.ops)
    (ha : ∀ b, m.act (env s c x pa pk m) b = b.modCtx c x f) : Performs s c x pk i (f (popped s c x pa srcs)) := by
  subst hm
  subst hs
  have hi := semOf_ins i he
  obtain ⟨h1, h2⟩ := done_upd (pk := pk) (pick_lt h.turn) h.settled ho (ha _) (p.flow _ _)
  refine ⟨_, ?_, h2, h1⟩
  rw [exec_issue i s he]
  exact issueOne_done h (clear_of_plain p u (by rw [hi]; exact w))

end Sys2Proof.Machine
end

