-- ==== Sys2Proof/Laws/Kept.lean ====
section
/-! SUPPORT. What the tables in force (R104), the management SRAM (R1), a context's own pubs (R116) and the traps due (R263) hold. -/

namespace Sys2Proof.Machine

/-! ### The traps due (R263) -/

/-- A trap joins those due: nothing else comes or goes. -/
@[simp] theorem mem_dueInOrder (t u : Trap) (l : List Trap) : u ∈ dueInOrder t l ↔ u = t ∨ u ∈ l := by
  induction l with
  | nil => simp [dueInOrder]
  | cons v l ih =>
    unfold dueInOrder
    split
    · simp
    · simp only [List.mem_cons, ih]; exact ⟨fun h => by tauto, fun h => by tauto⟩

@[simp] theorem length_dueInOrder (t : Trap) (l : List Trap) : (dueInOrder t l).length = l.length + 1 := by
  induction l with
  | nil => rfl
  | cons v l ih => unfold dueInOrder; split <;> simp [ih]

/-! ### A context's own pubs (R116) -/

@[simp] theorem Core.modTag_ctxs (k : Core) (b n : Nat) (f : Tag → Tag) : (k.modTag b n f).ctxs = k.ctxs := by
  unfold Core.modTag; split <;> rfl

/-- Seeing its own pubs changes nothing but the tags of the context's team. -/
theorem Core.withPubs_eq (k : Core) (b x : Nat) : ∃ ts, k.withPubs b x = { k with teams := ts } := by
  unfold Core.withPubs
  suffices h : ∀ (l : List MemOp) (j : Core), (∃ ts, j = { k with teams := ts }) →
      ∃ ts, l.foldl (fun k o => match o.kind with | .pub n gen f => k.modTag b n (fun t => t.published gen f) | _ => k) j = { k with teams := ts } from
    h _ k ⟨k.teams, rfl⟩
  intro l
  induction l with
  | nil => exact fun j h => h
  | cons o l ih =>
    rintro j ⟨ts, rfl⟩
    refine ih _ ?_
    dsimp only
    split
    · unfold Core.modTag Core.putTeam; split <;> exact ⟨_, rfl⟩
    · exact ⟨ts, rfl⟩

@[simp] theorem Core.withPubs_ctx (k : Core) (b x y : Nat) : (k.withPubs b x).ctx y = k.ctx y := by
  obtain ⟨ts, h⟩ := k.withPubs_eq b x
  rw [h]; rfl

/-! ### The tables in force (R104) -/

/-- Memory as a walk reads it keeps the canonical form. -/
theorem wf_tableMem (s : State) (h : s.mem.wf = true) : s.tableMem.wf = true :=
  wf_foldl_mput _ _ _ (wf_foldl_mput _ _ _ (wf_foldl_mput _ _ _ (wf_foldl_mput _ _ _ h)))

/-- Every kept table is in canonical form. -/
def TablesWf (t : Table (List Kept)) : Prop := ∀ r h k, tget t r = some h → k ∈ h → k.mem.wf = true

theorem TablesWf.tput {t : Table (List Kept)} (w : TablesWf t) (root : Nat) (h : List Kept) (v : ∀ k ∈ h, k.mem.wf = true) :
    TablesWf (tput t root h) := by
  intro r g k hr hk
  by_cases e : r = root
  · subst e
    rw [tget_tput_self] at hr
    obtain rfl := Option.some.inj hr
    exact v k hk
  · rw [tget_tput_other _ _ _ _ e] at hr
    exact w r g k hr hk

/-- Tables that come into force anew, at an invalidation, are in canonical form; nothing but the kept tables changes. -/
theorem keepTables_wf (s : State) (root lo hi top : Nat) (h : s.mem.wf = true) (w : TablesWf s.tables) :
    ∃ ts, s.keepTables root lo hi top = { s with tables := ts } ∧ TablesWf ts := by
  unfold State.keepTables
  split
  · rename_i g hg
    refine ⟨_, rfl, w.tput root _ ?_⟩
    intro k hk
    rcases List.mem_cons.mp hk with rfl | hk
    · exact wf_tableMem s h
    · exact w root g k hg hk
  · exact ⟨s.tables, rfl, w⟩

/-- The same of a launch's taking. -/
theorem openRoot_wf (s : State) (root : Nat) (h : s.mem.wf = true) (w : TablesWf s.tables) :
    ∃ ts, s.openRoot root = { s with tables := ts } ∧ TablesWf ts := by
  unfold State.openRoot
  split
  · exact ⟨s.tables, rfl, w⟩
  · refine ⟨_, rfl, w.tput root _ ?_⟩
    intro k hk
    obtain rfl := List.mem_singleton.mp hk
    exact wf_tableMem s h

/-- The same of a walk that has used an entry made valid since. -/
theorem noteWalk_wf (s : State) (root va : Nat) (h : s.mem.wf = true) (w : TablesWf s.tables) :
    ∃ ts, s.noteWalk root va = { s with tables := ts } ∧ TablesWf ts := by
  unfold State.noteWalk
  split
  · exact keepTables_wf s _ _ _ _ h w
  · exact ⟨s.tables, rfl, w⟩

/-! ### The management complex (R1) -/

/-- What the firmware's program leaves in its SRAM is in canonical form. -/
theorem wf_worked (f : Platform) (n : Nat) : (f.worked n).sram.wf = true := by
  have h := memFrom_range' (fun _ => true) (fun a => (Config.freeBits n (2 ^ 53 + a)).setWidth 8) 0 Config.sramBytes
  unfold Platform.worked Memory.wf
  rw [List.range_eq_range']
  refine Eq.trans (congrArg (memFrom 0) ?_) h
  refine congrArg (fun g => List.filterMap g _) (funext fun a => ?_)
  by_cases e : (Config.freeBits n (2 ^ 53 + a)).setWidth 8 = (0 : Byte) <;> simp

end Sys2Proof.Machine
end

