-- ==== Sys2Proof/Laws/Scalar.lean ====
section
/-! SUPPORT. The shapes of S syllables: what a performed one leaves. -/

namespace Sys2Proof.Machine

open Sys2Proof.Claim

theorem scalar3_performs {s : State} {c x pa : Nat} {pk : List Nat} {i : Instr} {d a b : BitVec 5} {n : Nat} {f : W64 → W64 → W64} {v : W64}
    (h : Ready s c x pa pk) (u : Usable s c x pa (semOf i)) (he : (encode i).isSome = true) (hs : semOf i = scalar3 i d a b n f)
    (w : i.wf = true) (hv : f (arg s c x pa [.s a.toNat, .s b.toNat] 0) (arg s c x pa [.s a.toNat, .s b.toNat] 1) = v) :
    Performs s c x pk i ((popped s c x pa [.s a.toNat, .s b.toNat]).writeS d.toNat v (now s c) n) := by
  subst hv
  refine performs_of_plain (m := scalar3 i d a b n f) (f := fun y => y.writeS d.toNat (f (arg s c x pa [.s a.toNat, .s b.toNat] 0) (arg s c x pa [.s a.toNat, .s b.toNat] 1)) (now s c) n) h u he hs
    ⟨rfl, rfl, rfl, rfl, rfl, rfl, fun _ _ => rfl, fun _ _ => rfl, fun _ _ => rfl⟩ w rfl (fun _ => writeS_ops ..) ?_
  intro t
  simp only [scalar3, Env.upd, env_now]
  rfl

theorem scalar2_performs {s : State} {c x pa : Nat} {pk : List Nat} {i : Instr} {d a : BitVec 5} {f : W64 → W64} {v : W64}
    (h : Ready s c x pa pk) (u : Usable s c x pa (semOf i)) (he : (encode i).isSome = true) (hs : semOf i = scalar2 i d a f)
    (w : i.wf = true) (hv : f (arg s c x pa [.s a.toNat] 0) = v) :
    Performs s c x pk i ((popped s c x pa [.s a.toNat]).writeS d.toNat v (now s c) 1) := by
  subst hv
  refine performs_of_plain (m := scalar2 i d a f) (f := fun y => y.writeS d.toNat (f (arg s c x pa [.s a.toNat] 0)) (now s c) 1) h u he hs
    ⟨rfl, rfl, rfl, rfl, rfl, rfl, fun _ _ => rfl, fun _ _ => rfl, fun _ _ => rfl⟩ w rfl (fun _ => writeS_ops ..) ?_
  intro t
  simp only [scalar2, Env.upd, env_now]
  rfl

theorem scalarImm_performs {s : State} {c x pa : Nat} {pk : List Nat} {i : Instr} {d a : BitVec 5} {im : BitVec 19} {n : Nat} {f : W64 → W64 → W64} {v : W64}
    (h : Ready s c x pa pk) (u : Usable s c x pa (semOf i)) (he : (encode i).isSome = true) (hs : semOf i = scalarImm i d a im n f)
    (w : i.wf = true) (hv : f (arg s c x pa [.s a.toNat] 0) (im.signExtend 64) = v) :
    Performs s c x pk i ((popped s c x pa [.s a.toNat]).writeS d.toNat v (now s c) n) := by
  subst hv
  refine performs_of_plain (m := scalarImm i d a im n f) (f := fun y => y.writeS d.toNat (f (arg s c x pa [.s a.toNat] 0) (im.signExtend 64)) (now s c) n) h u he hs
    ⟨rfl, rfl, rfl, rfl, rfl, rfl, fun _ _ => rfl, fun _ _ => rfl, fun _ _ => rfl⟩ w rfl (fun _ => writeS_ops ..) ?_
  intro t
  simp only [scalarImm, Env.upd, env_now]
  rfl

theorem compare3_performs {s : State} {c x pa : Nat} {pk : List Nat} {i : Instr} {d a b : BitVec 5} {f : W64 → W64 → Bool} {v : Bool}
    (h : Ready s c x pa pk) (u : Usable s c x pa (semOf i)) (he : (encode i).isSome = true) (hs : semOf i = compare3 i d a b f)
    (w : i.wf = true) (hv : f (arg s c x pa [.s a.toNat, .s b.toNat] 0) (arg s c x pa [.s a.toNat, .s b.toNat] 1) = v) :
    Performs s c x pk i ((popped s c x pa [.s a.toNat, .s b.toNat]).writeCond d.toNat v (now s c) 1) := by
  subst hv
  refine performs_of_plain (m := compare3 i d a b f) (f := fun y => y.writeCond d.toNat (f (arg s c x pa [.s a.toNat, .s b.toNat] 0) (arg s c x pa [.s a.toNat, .s b.toNat] 1)) (now s c) 1) h u he hs
    ⟨rfl, rfl, rfl, rfl, rfl, rfl, fun _ _ => rfl, fun _ _ => rfl, fun _ _ => rfl⟩ w rfl (fun _ => writeCond_ops ..) ?_
  intro t
  simp only [compare3, Env.upd, env_now]
  rfl

theorem compareImm_performs {s : State} {c x pa : Nat} {pk : List Nat} {i : Instr} {d a : BitVec 5} {im : BitVec 19} {f : W64 → W64 → Bool} {v : Bool}
    (h : Ready s c x pa pk) (u : Usable s c x pa (semOf i)) (he : (encode i).isSome = true) (hs : semOf i = compareImm i d a im f)
    (w : i.wf = true) (hv : f (arg s c x pa [.s a.toNat] 0) (im.signExtend 64) = v) :
    Performs s c x pk i ((popped s c x pa [.s a.toNat]).writeCond d.toNat v (now s c) 1) := by
  subst hv
  refine performs_of_plain (m := compareImm i d a im f) (f := fun y => y.writeCond d.toNat (f (arg s c x pa [.s a.toNat] 0) (im.signExtend 64)) (now s c) 1) h u he hs
    ⟨rfl, rfl, rfl, rfl, rfl, rfl, fun _ _ => rfl, fun _ _ => rfl, fun _ _ => rfl⟩ w rfl (fun _ => writeCond_ops ..) ?_
  intro t
  simp only [compareImm, Env.upd, env_now]
  rfl

end Sys2Proof.Machine
end

