-- ==== Sys2Proof/Tests/Slice0.lean ====
section
/-! SUPPORT. Tests of one step or one decoding each, and for each statement a state that meets its hypotheses. -/

namespace Sys2Proof.Tests

open Machine Claim

set_option Elab.async false

/-! ### States to test on: core 0 runs the one context of a launch, placed as for a single instruction -/

/-- The word at the pc is `nop`; the packet that holds it. -/
def s0 : State := State.reset.withFetchWord 32 0xB8000000
def p0 : List Nat := 0xB8000000 :: List.replicate 15 0x7FFFFFFF
def a0 : Nat := 0x50000

/-- The same with a second bundle, another `nop`, after the first. -/
def s2 : State := { s0 with mem := mwrite s0.mem 0x50004 (leBytes 4 0xB8000000) }
def p2 : List Nat := 0xB8000000 :: 0xB8000000 :: List.replicate 14 0x7FFFFFFF

/-- Context 0 changed. -/
def with0 (s : State) (f : Ctx → Ctx) : State := s.modCtx 0 0 f

/-- The team's tags, or the whole team, changed. -/
def withTeam (s : State) (f : Team → Team) : State :=
  s.modCore 0 (fun k => { k with teams := k.teams.map (fun t => (t.1, f t.2)) })

/-- `Ready`, `Usable`, `Clear` and `opens`, as they are computed. -/
def readyB (s : State) (c x pa : Nat) (pk : List Nat) : Bool :=
  s.powered && decide (s.pick = some (c, x)) && (s.ctx c x).pending.isEmpty && (s.ctx c x).resend.isEmpty && !(s.ctx c x).fenced &&
    (s.ctx c x).innerReady.isNone && !s.turnOver c x && decide (s.fetchPacket c (s.rootAt c x) (s.ctx c x).pc = .ok (pa, pk)) &&
    !(span (pa + (s.ctx c x).pc % 64) 4).any s.isLost

theorem ready_of {s : State} {c x pa : Nat} {pk : List Nat} (h : readyB s c x pa pk = true) : Ready s c x pa pk := by
  simp only [readyB, Bool.and_eq_true, Bool.not_eq_true', decide_eq_true_eq, List.isEmpty_iff, Option.isNone_iff_eq_none] at h
  obtain ⟨⟨⟨⟨⟨⟨⟨⟨h1, h2⟩, h3⟩, h4⟩, h5⟩, h6⟩, h7⟩, h8⟩, h9⟩ := h
  exact ⟨h1, h2, h3, h4, h5, h6, h7, h8, by simpa using h9⟩

def usableB (s : State) (c x pa : Nat) (m : Sem) : Bool :=
  !m.over (s.hdrAt c x) && portReady (view s c x pa).lqs (popCount (fun r => r == .s 31) [(0, m)]) &&
    portReady (view s c x pa).lq (popCount (fun r => r == .v 31) [(0, m)]) && sqReady (view s c x pa).sq.length [(0, m)] &&
    (lostPop s c x 0 [(0, m)] (view s c x pa).lq (view s c x pa).lqs).isEmpty &&
    (lostReads c x (popped s c x pa m.srcs) (s.lostTagsAt c x) (popped s c x pa m.srcs).sq m).isEmpty

theorem usable_of {s : State} {c x pa : Nat} {m : Sem} (h : usableB s c x pa m = true) : Usable s c x pa m := by
  simp only [usableB, Bool.and_eq_true, Bool.not_eq_true', List.isEmpty_iff] at h
  obtain ⟨⟨⟨⟨⟨h1, h2⟩, h3⟩, h4⟩, h5⟩, h6⟩ := h
  exact ⟨h1, h2, h3, h4, h5, h6⟩

/-- Each of some instructions is usable. -/
theorem usable_all {s : State} {c x pa : Nat} {l : List Instr} (h : l.all (fun i => usableB s c x pa (semOf i)) = true) :
    ∀ i ∈ l, Usable s c x pa (semOf i) := fun _ hi => usable_of (List.all_eq_true.mp h _ hi)

def clearB (s : State) (c x pa : Nat) (pk : List Nat) (m : Sem) : Bool :=
  let e := env s c x pa pk m
  let b := base s c x pa m.srcs
  usableB s c x pa m && !blocksBefore (s.core c) (view s c x pa) (teamBase s c x) [(0, m)] && m.ins.wf &&
    m.streams.all (fun a => (tget (popped s c x pa m.srcs).lostA a).isNone) && (m.check e b).isEmpty &&
    (flowFaults b c x 0 (m.flow e b)).isEmpty && !m.waits e b && !(s.core c).accBusy (teamBase s c x) m

theorem clear_of {s : State} {c x pa : Nat} {pk : List Nat} {m : Sem} (h : clearB s c x pa pk m = true) : Clear s c x pa pk m := by
  simp only [clearB, Bool.and_eq_true, Bool.not_eq_true', List.isEmpty_iff, List.all_eq_true, Option.isNone_iff_eq_none] at h
  obtain ⟨⟨⟨⟨⟨⟨⟨h1, h2⟩, h3⟩, h4⟩, h5⟩, h6⟩, h7⟩, h8⟩ := h
  exact ⟨usable_of h1, h2, h3, h4, h5, h6, h7, h8⟩

theorem clear_all {s : State} {c x pa : Nat} {pk : List Nat} {l : List Instr} (h : l.all (fun i => clearB s c x pa pk (semOf i)) = true) :
    ∀ i ∈ l, Clear s c x pa pk (semOf i) := fun _ hi => clear_of (List.all_eq_true.mp h _ hi)

def opensB (s : State) (c x t : Nat) : Bool :=
  decide (t % 4 = 0) && decide (t < 2 ^ 52) &&
    (match s.fetchPacket c (s.rootAt c x) t with
     | .ok (qa, qk) => !(span (qa + t % 64) 4).any s.isLost && startsBundle (qk.getD (t / 4 % 16) 0)
     | .error _ => false)

theorem opens_of {s : State} {c x t : Nat} (h : opensB s c x t = true) : opens s c x t := by
  unfold opensB at h
  split at h
  next qa qk hq => simp at h; exact ⟨h.1.1, h.1.2, qa, qk, hq, by simpa using h.2.1, by simpa using h.2.2⟩
  next => simp at h

theorem ready_s0 : Ready s0 0 0 a0 p0 := ready_of (by decide +kernel)
theorem ready_s2 : Ready s2 0 0 a0 p2 := ready_of (by decide +kernel)

/-- A step completes. -/
def completes (o : Host.Outcome State Fault Refusal) : Bool := match o with | .next _ => true | _ => false

/-- What the state after a completed step satisfies. -/
def afterwards (o : Host.Outcome State Fault Refusal) (p : State → Bool) : Bool := match o with | .next t => p t | _ => false

/-! ### Witnesses: the S class and the C class -/

theorem wit_ScalarArithmeticResults : Ready s0 0 0 a0 p0 ∧ (1 : BitVec 5) ≠ 31 ∧
    ∀ i ∈ ([.add 1 2 3, .sub 1 2 3, .mul 1 2 3, .mulh 1 2 3, .mulhz 0 2 3, .and 1 2 3, .or 1 2 3, .xor 30 2 3, .andn 1 30 0, .addi 1 2 262144,
      .andi 1 2 3, .ori 1 2 3, .xori 1 2 3, .muli 1 2 524287] : List Instr), Usable s0 0 0 a0 (semOf i) :=
  ⟨ready_s0, by decide, usable_all (by decide +kernel)⟩

theorem wit_ScalarShiftAndFieldResults : Ready s0 0 0 a0 p0 ∧ (0 : BitVec 19).toNat ≤ 63 ∧ (63 : BitVec 19).toNat ≤ 63 ∧ (11 : BitVec 5).toNat ≤ 11 ∧
    ∀ i ∈ ([.shl 1 2 3, .shr 1 2 3, .sra 1 2 3, .min 1 2 3, .max 1 2 3, .minz 1 2 3, .maxz 1 2 3, .adds 1 2 3, .subs 1 2 3, .lea 1 2 3 31,
      .shli 1 2 0, .shri 1 2 63, .srai 1 2 63, .mini 1 2 5, .maxi 1 2 5, .sel 1 2 3 11, .clz 1 2, .ctz 1 2, .popc 1 2, .bfx 1 2 3, .bfxz 1 2 3,
      .bins 1 2 3, .movi 30 8388608, .movup 1 5] : List Instr), Usable s0 0 0 a0 (semOf i) :=
  ⟨ready_s0, by decide, by decide, by decide, usable_all (by decide +kernel)⟩

/-- Zero divisor included: every register of `s0` reads 0. -/
theorem wit_ScalarDivisionResults : Ready s0 0 0 a0 p0 ∧ arg s0 0 0 a0 [.s 2, .s 3] 1 = 0 ∧
    ∀ i ∈ ([.div 1 2 3, .divz 1 2 3, .rem 1 2 3, .remz 0 2 3] : List Instr), Usable s0 0 0 a0 (semOf i) :=
  ⟨ready_s0, by decide +kernel, usable_all (by decide +kernel)⟩

theorem wit_ScalarCompareResults : Ready s0 0 0 a0 p0 ∧ (11 : BitVec 5).toNat ≤ 11 ∧
    ∀ i ∈ ([.cmpeq 11 1 2, .cmpne 0 1 2, .cmplt 0 1 2, .cmple 0 1 2, .cmpltz 0 1 2, .cmplez 0 1 2, .cmpbit 0 1 2, .cmpeqi 0 1 2, .cmpnei 0 1 2,
      .cmplti 0 1 2, .cmplei 0 1 2, .cmpltzi 0 1 524287, .cmplezi 0 1 2] : List Instr), Usable s0 0 0 a0 (semOf i) :=
  ⟨ready_s0, by decide, usable_all (by decide +kernel)⟩

theorem wit_SpecialRegisterResults : Ready s0 0 0 a0 p0 ∧ (∀ i ∈ (List.range 25).map (fun n => Instr.mfs 1 (BitVec.ofNat 24 n)), Usable s0 0 0 a0 (semOf i)) ∧
    (∀ i ∈ ([12, 14, 15, 16, 17, 18, 20, 23].map (fun n => Instr.mts 1 (BitVec.ofNat 24 n))), Usable s0 0 0 a0 (semOf i)) ∧
    Usable s0 0 0 a0 (semOf (.budget 134217727)) :=
  ⟨ready_s0, usable_all (by decide +kernel), usable_all (by decide +kernel), usable_of (by decide +kernel)⟩

/-- Steer register 11 with its condition half 1 and its target the packet's first bundle; another context that can issue. -/
def sSteer : State :=
  withTeam ((with0 s0 (fun v => { v with st := vset v.st 11 { Steer.zero with cond := true, tgt := BitVec.ofNat 32 (a0 / 4) } })).modCtx 0 3
    (fun v => { v with status := .ready })) (fun T => { T with size := 4 })

theorem ready_sSteer : Ready sSteer 0 0 a0 p0 := ready_of (by decide +kernel)

theorem wit_StraightControlResults : Ready sSteer 0 0 a0 p0 ∧ (11 : BitVec 4).toNat ≤ 11 ∧
    (∀ i ∈ ([.nop, .prep 11 67108864, .prepx 11 3, .br 0, .brn 11, .yield] : List Instr), Usable sSteer 0 0 a0 (semOf i)) ∧
    (argV sSteer 0 0 a0 [.cond 0] 0).getLsbD 0 = false ∧ (argV sSteer 0 0 a0 [.cond 11] 0).getLsbD 0 = true ∧ (sSteer.core 0).canTry 3 = true :=
  ⟨ready_sSteer, by decide, usable_all (by decide +kernel), by decide +kernel, by decide +kernel, by decide +kernel⟩

/-- `brn` through steer register 0, and `ret`, to the packet's first bundle. -/
def sBack : State := with0 s0 (fun v => { v with s := vset v.s 30 0x50000, st := vset v.st 0 { Steer.zero with tgt := BitVec.ofNat 32 (a0 / 4) } })

theorem wit_TransferResults : Ready sSteer 0 0 a0 p0 ∧ Usable sSteer 0 0 a0 (semOf (.br 11)) ∧ Ready sBack 0 0 a0 p0 ∧
    (∀ i ∈ ([.brn 0, .jmp 0, .call 0, .ret] : List Instr), Usable sBack 0 0 a0 (semOf i)) ∧
    opens (base sSteer 0 0 a0 [.cond 11]) 0 0 ((vget (popped sSteer 0 0 a0 [.cond 11]).st 11 Steer.zero).tgt.toNat * 4) ∧
    opens (base sBack 0 0 a0 [.cond 0]) 0 0 ((vget (popped sBack 0 0 a0 [.cond 0]).st 0 Steer.zero).tgt.toNat * 4) ∧
    opens (base sBack 0 0 a0 []) 0 0 0x50000 ∧ opens (base sBack 0 0 a0 [.s 30]) 0 0 (arg sBack 0 0 a0 [.s 30] 0).toNat :=
  ⟨ready_sSteer, usable_of (by decide +kernel), ready_of (by decide +kernel), usable_all (by decide +kernel), opens_of (by decide +kernel),
   opens_of (by decide +kernel), opens_of (by decide +kernel), opens_of (by decide +kernel)⟩

/-- `s9` counts three trips and two extra passes. -/
def sNest : State := with0 s2 (fun v => { v with s := vset v.s 9 0x200000003 })
def nest0 : Nest := { level := 5, rev := false, trips := 3, passes := 5, pass := 0, body := 0x50000, last := 0x50000, after := 0x50004 }
def sInNest : State := with0 s2 (fun v => { v with nest := [nest0] })
def sLastPass : State := with0 s2 (fun v => { v with nest := [{ nest0 with pass := 4 }] })

theorem wit_NestResults_open : Ready sNest 0 0 a0 p2 ∧ (view sNest 0 0 a0).sets = [] ∧ Clear sNest 0 0 a0 p2 (semOf (.nest 5 0 9 1)) ∧
    arg sNest 0 0 a0 [.s 9] 0 = 0x200000003 ∧ (sNest.ctx 0 0).pc ≠ 0x50004 ∧ Clear sNest 0 0 a0 p2 (semOf (.nest 0 1 0 1)) :=
  ⟨ready_of (by decide +kernel), by decide +kernel, clear_of (by decide +kernel), by decide +kernel, by decide +kernel, clear_of (by decide +kernel)⟩

theorem wit_NestResults_pass : Ready sInNest 0 0 a0 p2 ∧ (∀ i ∈ ([.nop, .lrot, .lbrk] : List Instr), Usable sInNest 0 0 a0 (semOf i)) ∧
    (view sInNest 0 0 a0).nest = [nest0] ∧ nest0.last = (sInNest.ctx 0 0).pc ∧ Ready sLastPass 0 0 a0 p2 ∧ Usable sLastPass 0 0 a0 (semOf .nop) ∧
    (view sLastPass 0 0 a0).nest = [{ nest0 with pass := 4 }] :=
  ⟨ready_of (by decide +kernel), usable_all (by decide +kernel), by decide +kernel, by decide +kernel, ready_of (by decide +kernel),
   usable_of (by decide +kernel), by decide +kernel⟩

def sEvent : State := with0 s0 (fun v => { v with evt := true, s := vset v.s 1 5 })

theorem wit_ContextAndBarrierResults : Ready sEvent 0 0 a0 p0 ∧ Clear sEvent 0 0 a0 p0 (semOf .exit) ∧ (view sEvent 0 0 a0).evt = true ∧
    (∀ i ∈ ([.wfe, .sev 1] : List Instr), Usable sEvent 0 0 a0 (semOf i)) ∧
    (∀ i ∈ ([.bar 0, .barv 15] : List Instr), Clear sEvent 0 0 a0 p0 (semOf i)) ∧ (view sEvent 0 0 a0).ops = [] ∧
    tget (view sEvent 0 0 a0).arrived ((sEvent.core 0).barKey 0 15) = none ∧ ((sEvent.core 0).barrier ((sEvent.core 0).barKey 0 15)).arrived.contains 0 = false :=
  ⟨ready_of (by decide +kernel), clear_of (by decide +kernel), by decide +kernel, usable_all (by decide +kernel), clear_all (by decide +kernel),
   by decide +kernel, by decide +kernel, by decide +kernel⟩

theorem wit_TrapAndBreakResults : Ready s0 0 0 a0 p0 ∧ (s0.ctx 0 0).handler = none ∧ (base s0 0 0 a0 []).recordPlace 0 0 = .ok (span 0x60000 64) ∧
    (s0.ctx 0 0).nest = [] ∧ ∀ i ∈ ([.trap 0, .brk 134217727] : List Instr), Usable s0 0 0 a0 (semOf i) :=
  ⟨ready_s0, by decide +kernel, by decide +kernel, by decide +kernel, usable_all (by decide +kernel)⟩

/-- Steer register 0 aims at a misaligned address, register 1 at a far one. -/
def sAstray : State := with0 s0 (fun v => { v with st := vset (vset v.st 0 { Steer.zero with mis := true }) 1 { Steer.zero with far := true } })

/-- A header that declares no scalar register beyond `s0`. -/
def sFew : State := { s0 with launches := s0.launches.map (fun e => (e.1, { e.2 with hdr := e.2.hdr - BitVec.ofNat 512 (31 * 2 ^ 38) })) }

theorem wit_FaultingBundlesTrap_syllable : Ready s0 0 0 a0 p0 ∧ (s0.ctx 0 0).handler = none ∧ ((fetched s0 0 0 a0).landed 0 0 |>.recordPlace 0 0).isOk = true ∧
    (∀ i ∈ ([.add 31 1 2, .sel 1 2 3 12, .rte 0] : List Instr), (encode i).isSome = true ∧ blocksBefore (s0.core 0) (view s0 0 0 a0) (teamBase s0 0 0) [(0, semOf i)] = false) ∧
    Instr.wf (.add 31 1 2) = false ∧ Instr.wf (.sel 1 2 3 12) = false ∧ readyB sFew 0 0 a0 p0 = true ∧ (semOf (.add 1 2 3)).over (sFew.hdrAt 0 0) = true :=
  ⟨ready_s0, by decide +kernel, by decide +kernel, by decide +kernel, by decide, by decide, by decide +kernel, by decide +kernel⟩

theorem wit_FaultingBundlesTrap_branch : Ready sAstray 0 0 a0 p0 ∧ (∀ i ∈ ([.brn 0, .brn 1] : List Instr), Usable sAstray 0 0 a0 (semOf i)) ∧
    (argV sAstray 0 0 a0 [.cond 1] 0).getLsbD 0 = false ∧ (vget (popped sAstray 0 0 a0 [.cond 0]).st 0 Steer.zero).mis = true ∧
    (vget (popped sAstray 0 0 a0 [.cond 1]).st 1 Steer.zero).far = true ∧ (sAstray.ctx 0 0).handler = none ∧
    ((fetched sAstray 0 0 a0).landed 0 0 |>.recordPlace 0 0).isOk = true :=
  ⟨ready_of (by decide +kernel), usable_all (by decide +kernel), by decide +kernel, by decide +kernel, by decide +kernel, by decide +kernel,
   by decide +kernel⟩

/-- Context 0 in the handler of a trap of its own, and in that of command 7's halt. -/
def sHandler : State := with0 s0 (fun v => { v with handler := some { cause := 0x14, cmd := none, unitWd := false, resend := [] }, tpc := 0x50000 })

/-- A command with nothing in it. -/
def cmd0 : Cmd :=
  { id := 7, kind := .cpy, ctx := 0, team := 0, bundle := 0x50000, pos := 0, mark := 0, dst := none, src := none, src2 := none, src3 := none,
    flags := 0, tag := none, acc := none, pj := 0, pset := 0, val := 0, list := 0, n := 0, chan := 0, desc := [], st := .running, prog := 0,
    sum := 0, entry := none, halt := none, skip := [], opened := none, readVer := none, replays := 0, granted := false, sent := [], part := [],
    buf := [], carry := [], chunks := [], puts := [], next := none, lost := false }

def sHalted (choice : W64) : State :=
  (with0 s0 (fun v => { v with handler := some { cause := 0x10, cmd := some 7, unitWd := false, resend := [] }, tpc := 0x50000,
                               s := vset v.s 1 choice })).modCore 0
    (fun k => { k with cmds := [{ cmd0 with st := .halted, halt := some { cause := 5, addr := 0, layout := 0, coord := [], cursor := 0, detail := 0, pa := 0, piece := 0 } }] })

theorem wit_TrapReturnResults : Ready sHandler 0 0 a0 p0 ∧ Usable sHandler 0 0 a0 (semOf (.rte 0)) ∧
    opens (base sHandler 0 0 a0 [.s 0]) 0 0 (view sHandler 0 0 a0).tpc.toNat ∧
    (sHandler.ctx 0 0).handler = some { cause := 0x14, cmd := none, unitWd := false, resend := [] } ∧
    (s0.ctx 0 0).handler = none ∧ Usable s0 0 0 a0 (semOf (.rte 0)) :=
  ⟨ready_of (by decide +kernel), usable_of (by decide +kernel), opens_of (by decide +kernel), by decide +kernel, by decide +kernel,
   usable_of (by decide +kernel)⟩

/-- Each choice of `rte`, as the handler's scalar register 1. -/
def choiceOk (a : W64) : Bool :=
  readyB (sHalted a) 0 0 a0 p0 && usableB (sHalted a) 0 0 a0 (semOf (.rte 1)) && arg (sHalted a) 0 0 a0 [.s 1] 0 == a &&
    opensB (base (sHalted a) 0 0 a0 [.s 1]) 0 0 (view (sHalted a) 0 0 a0).tpc.toNat &&
    ((sHalted a).ctx 0 0).handler == some { cause := 0x10, cmd := some 7, unitWd := false, resend := [] } &&
    (match ((sHalted a).core 0).cmd 7 with | some m => m.st == .halted && m.kind == .cpy | none => false)

theorem wit_TrapReturnResults_choice : choiceOk 0 = true ∧ choiceOk 1 = true ∧ choiceOk 2 = true := by decide +kernel

/-- The reserved choice; a halted group load, in whose hold another member's command stands beside it. -/
theorem wit_TrapReturnResults_reserved : choiceOk 3 = true ∧ ((sHalted 3).launchAt 0 0).map (fun q => (q.1, q.2.ended)) = some (0, false) ∧
    blocksBefore ((sHalted 3).core 0) (view (sHalted 3) 0 0 a0) (teamBase (sHalted 3) 0 0) [(0, semOf (.rte 1))] = false := by decide +kernel

def geo0 : Geo :=
  { desc := 0, space := 0, fmt := 0, trav := 0, xf := 0, base := 0x80000, pitch := 32, d0 := 8, d1 := 4, clamp := false, org := [], layout := none,
    sbase := 0, sstride := 0, chase := none }

def sHaltedLoad : State :=
  let s := (sHalted 2).modCore 0 (fun k => { k with cmds := k.cmds.map (fun m => { m with kind := .gld }) ++ [{ cmd0 with id := 8, kind := .gld, ctx := 1 }] })
  let h : Hold := { seq := 0, released := true, timedOut := false, mismatch := false, src := geo0, dst := geo0, data := [], halted := true,
                    asks := [{ core := 0, ctx := 0, cmd := 7, served := false }, { core := 0, ctx := 1, cmd := 8, served := false }] }
  { s with launches := s.launches.map (fun e => (e.1, { e.2 with groups := [(1, { members := 2, hold := 64, joined := [], next := 1, holds := [h] })] })) }

theorem wit_TrapReturnResults_group : readyB sHaltedLoad 0 0 a0 p0 = true ∧ usableB sHaltedLoad 0 0 a0 (semOf (.rte 1)) = true ∧
    ((sHaltedLoad.core 0).cmd 7).map (fun m => (m.st, m.kind)) = some (.halted, .gld) ∧ ((sHaltedLoad.core 0).cmd 8).isSome = true ∧
    (match (sHaltedLoad.launchOf 0).bind (fun v => tget v.groups 1) with | some G => G.holds.map (fun h => h.halted && h.holds 0 7) == [true] | none => false) = true := by
  decide +kernel

/-! ### Witnesses: the V, F, U and K classes -/

theorem wit_LaneArithmeticResults : Ready s0 0 0 a0 p0 ∧ (2 : BitVec 2) ≠ 3 ∧ (6 : BitVec 3).toNat ≤ 6 ∧ 3 ≤ (6 : BitVec 3).toNat ∧
    ∀ i ∈ ([.vadd 0 2 1 2 3 0, .vsub 1 0 1 2 3 1, .vmul 2 1 1 2 3 7, .vmin 3 2 1 2 3 0, .vmax 6 2 30 2 3 0, .vadds 3 2 1 2 3 0, .vsubs 6 2 1 2 3 0,
      .vfma 0 2 1 2 3 0] : List Instr), Usable s0 0 0 a0 (semOf i) :=
  ⟨ready_s0, by decide, by decide, by decide, usable_all (by decide +kernel)⟩

theorem wit_VectorCompareResults : Ready s0 0 0 a0 p0 ∧
    ∀ i ∈ ([.vcmpeq 0 2 1 2 3 0, .vcmplt 4 0 0 2 3 1, .vcmple 6 1 7 2 3 7] : List Instr), Usable s0 0 0 a0 (semOf i) :=
  ⟨ready_s0, usable_all (by decide +kernel)⟩

theorem wit_VectorBitwiseResults : Ready s0 0 0 a0 p0 ∧
    ∀ i ∈ ([.vand 0 1 2 3 0, .vor 1 1 2 3 1, .vxor 2 1 2 3 0, .vandn 2 1 2 3 0, .vshl 2 1 2 3 0, .vshr 2 1 2 3 0, .vsra 2 1 2 3 0, .vrot 2 1 2 3 0,
      .vsel 2 1 2 3 7, .vmov 0 30 2 1] : List Instr), Usable s0 0 0 a0 (semOf i) :=
  ⟨ready_s0, usable_all (by decide +kernel)⟩

theorem wit_VectorReductionResults : Ready s0 0 0 a0 p0 ∧
    ∀ i ∈ ([.vcvt 0 2 1 2 6 0, .vcvt 5 2 1 2 2 0, .vred 6 2 1 2 0 0, .vred 0 2 1 2 2 0, .vscan 2 1 2 6 0] : List Instr), Usable s0 0 0 a0 (semOf i) :=
  ⟨ready_s0, usable_all (by decide +kernel)⟩

theorem wit_VectorMoveResults : Ready s0 0 0 a0 p0 ∧ (31 : BitVec 5).toNat < 256 * 2 ^ (2 : BitVec 2).toNat / 32 ∧ (11 : BitVec 5).toNat ≤ 11 ∧
    ∀ i ∈ ([.vbcast 2 1 2 6 0, .vperm 2 1 2 3 0, .vidx 0 1 0, .vext 2 1 2 31 0, .vins 2 1 2 31 0, .vtest 2 11 1 2] : List Instr), Usable s0 0 0 a0 (semOf i) :=
  ⟨ready_s0, by decide, by decide, usable_all (by decide +kernel)⟩

theorem wit_SpecialFunctionResults : Ready s0 0 0 a0 p0 ∧
    ∀ i ∈ ([.exp2 2 0 1 2 0, .exp 2 1 1 2 0, .log2 2 2 1 2 0, .ln 2 0 1 2 0, .rcp 2 0 1 2 0, .rsqrt 2 0 1 2 0, .sqrt 2 0 1 2 0, .sin 2 0 1 2 0,
      .cos 2 0 1 2 0, .tanh 2 0 1 2 0, .sigm 2 0 1 2 0, .gelu 2 0 1 2 0, .silu 0 2 1 2 0, .erf 1 1 1 2 7] : List Instr),
      Usable s0 0 0 a0 (semOf i) :=
  ⟨ready_s0, usable_all (by decide +kernel)⟩


/-- The kinds of exact value: a special result, an underflow of `exp2` to +0, one strictly between two f32 values, one that is an f32 value. -/
theorem wit_SpecialFunctionResults_values : (sfValue 0 (fpF32.decode 0x7F800000)).isLeft = true ∧
    (match sfValue 0 (fpF32.decode 0xC4000000) with | .inr l => l.nearest fpF32 == 0 | .inl _ => false) = true ∧
    (match sfValue 0 (fpF32.decode 0x3F000000) with | .inr l => l.more && l.nearest fpF32 != 0 | .inl _ => false) = true ∧
    (match sfValue 6 (fpF32.decode 0x40800000) with | .inr l => !l.more | .inl _ => false) = true ∧
    (match sfValue 4 (fpF16.decode 0x4200) with | .inr l => l.more | .inl _ => false) = true := by decide +kernel

/-! ### Witnesses: memory instructions -/

/-- Scalar loads, stores, atomics and queue syllables at the page of the launch's record; `s1` addresses it. -/
def sAddr : State := with0 s0 (fun v => { v with s := vset (vset (vset v.s 1 0x60000) 2 0x20) 3 0x100000000, sq := [{ id := 0, val := 5, bytes := BitVec.allOnes 128, filled := true, lost := false }] })

theorem ready_sAddr : Ready sAddr 0 0 a0 p0 := ready_of (by decide +kernel)

/-- The `n` bytes at `a` translate to themselves. -/
def maps (s : State) (r : List Src) (a n : Nat) (w : Access) : Bool :=
  match (base s 0 0 a0 r).xlatSpan 0 (s.rootAt 0 0) a n w with | .ok l => l == span a n | .error _ => false

theorem wit_ScalarLoadsIssue : Ready sAddr 0 0 a0 p0 ∧
    (∀ i ∈ ([.ld8s 1 524287, .ld8z 1 1, .ld16s 1 1, .ld16z 1 0, .ld32s 1 1, .ld32z 1 1, .ld64 1 262143] : List Instr), Clear sAddr 0 0 a0 p0 (semOf i)) ∧
    maps sAddr [.s 1] 0x5FFFF 1 .read = true ∧ maps sAddr [.s 1] 0x60004 4 .read = true ∧ maps sAddr [.s 1] (0x60000 + 8 * 262143) 8 .read = true :=
  ⟨ready_sAddr, clear_all (by decide +kernel), by decide +kernel, by decide +kernel, by decide +kernel⟩

theorem wit_ScalarStoresIssue : Ready sAddr 0 0 a0 p0 ∧
    (∀ i ∈ ([.st8 2 1 524287, .st16 2 1 1, .st32 2 1 0, .st64 2 1 262143] : List Instr), Clear sAddr 0 0 a0 p0 (semOf i)) ∧
    maps sAddr [.s 2, .s 1] 0x5FFFF 1 .write = true ∧ maps sAddr [.s 2, .s 1] (0x60000 + 8 * 262143) 8 .write = true :=
  ⟨ready_sAddr, clear_all (by decide +kernel), by decide +kernel, by decide +kernel⟩

theorem wit_VectorAccessesIssue : Ready sAddr 0 0 a0 p0 ∧
    (∀ i ∈ ([.vld 2 1 0 0, .vlds 0 1 0 0, .vst 2 1 0 0, .vsts 1 1 0 0] : List Instr), Clear sAddr 0 0 a0 p0 (semOf i)) ∧
    (popped sAddr 0 0 a0 [.s 1, .s 0, .m 0]).sq = [{ id := 0, val := 5, bytes := BitVec.allOnes 128, filled := true, lost := false }] ∧
    chunksOf 2 (arg sAddr 0 0 a0 [.s 1, .s 0, .m 0] 2) = [0, 1, 2, 3] ∧ maps sAddr [.s 1, .s 0, .m 0] 0x60060 32 .read = true ∧
    maps sAddr [.s 1, .s 2, .s 0, .m 0] 0x60020 32 .write = true :=
  ⟨ready_sAddr, clear_all (by decide +kernel), by decide +kernel, by decide +kernel, by decide +kernel, by decide +kernel⟩

/-- The bound word in `s5`: eight elements of four bytes, an index beyond them clamped; `s4` is the base, `v2` holds indices 0 and 9. -/
def sGather : State := with0 sAddr (fun v => { v with s := vset (vset v.s 4 0x60000) 5 (8 + 2 * 2 ^ 32 + 2 ^ 40), v := vset v.v 2 (9 * 2 ^ 32) })

theorem wit_GatherScatterIssue : Ready sGather 0 0 a0 p0 ∧ (∀ i ∈ ([.vgath 0 4 2 0, .vscat 0 4 2 0] : List Instr), Clear sGather 0 0 a0 p0 (semOf i)) ∧
    (arg sGather 0 0 a0 [.s 4, .s 5, .v 2, .m 0] 1).getLsbD 40 = true ∧ lane (argV sGather 0 0 a0 [.s 4, .s 5, .v 2, .m 0] 2) 32 1 = 9 ∧
    (popped sGather 0 0 a0 [.s 4, .s 5, .v 2, .m 0]).sq ≠ [] ∧ maps sGather [.s 4, .s 5, .v 2, .m 0] 0x6001C 4 .write = true :=
  ⟨ready_of (by decide +kernel), clear_all (by decide +kernel), by decide +kernel, by decide +kernel, by decide +kernel, by decide +kernel⟩

/-- A stream descriptor (R241). -/
def stream (base space fmt d0 d1 pitch : Nat) : W512 :=
  BitVec.ofNat 512 (base + space * 2 ^ 52 + fmt * 2 ^ 54 + d0 * 2 ^ 64 + d1 * 2 ^ 80 + pitch * 2 ^ 96)

/-- Streams: `a1`, `a2` of eight by four f32 elements, global and local; `a3` to `a5` local bf16 squares of 16 by 16; `a6` is in channel space. -/
def sStream : State := with0 sAddr (fun v => { v with
  a := vset (vset (vset (vset (vset (vset v.a 1 (stream 0x80000 0 0 8 4 32)) 2 (stream 0 1 0 8 4 32)) 3 (stream 0x1000 1 1 16 16 32)) 4
    (stream 0x2000 1 1 16 16 32)) 5 (stream 0x3000 1 0 16 16 64)) 6 (stream 0 2 0 8 4 32) })

theorem ready_sStream : Ready sStream 0 0 a0 p0 := ready_of (by decide +kernel)

theorem wit_LocalStoreAccesses : Ready sStream 0 0 a0 p0 ∧ ∀ i ∈ ([.lld 0 1 2 0 0, .lst 0 30 2 0 1] : List Instr), Clear sStream 0 0 a0 p0 (semOf i) :=
  ⟨ready_sStream, clear_all (by decide +kernel)⟩

theorem wit_AtomicsIssue : Ready sAddr 0 0 a0 p0 ∧ (∀ i ∈ ([.aadd 0 1 2 0, .amin 1 1 2 0, .amax 0 1 2 0, .aand 0 1 2 0, .aor 1 1 2 0, .axor 0 1 2 0, .axchg 0 1 2 0,
      .acas 2 1 2 0, .radd 1 1 2 0, .rmax 0 1 2 0, .rmin 0 1 2 0, .raddf 1 2 0, .vradd 1 2 0] : List Instr), Clear sAddr 0 0 a0 p0 (semOf i)) ∧
    maps sAddr [.s 1, .s 2, .s 0] 0x60000 8 .write = true ∧ maps sAddr [.s 1, .s 2, .s 0] 0x60000 4 .write = true ∧
    maps sAddr [.s 2, .s 1, .s 2, .s 0] 0x60000 8 .write = true :=
  ⟨ready_sAddr, clear_all (by decide +kernel), by decide +kernel, by decide +kernel, by decide +kernel⟩

theorem wit_SliceQueuesIssue : Ready sAddr 0 0 a0 p0 ∧
    (∀ i ∈ ([.qinit 1 2, .qenq 1 2, .qdeq 1, .qdeqw 1, .qlen 1] : List Instr), Clear sAddr 0 0 a0 p0 (semOf i)) ∧
    maps sAddr [.s 1, .s 2] 0x60000 64 .write = true ∧ maps sAddr [.s 1] 0x60000 64 .write = true :=
  ⟨ready_sAddr, clear_all (by decide +kernel), by decide +kernel, by decide +kernel⟩

def sDefer : State := with0 s0 (fun v => { v with dfq := [[1, 2], [3]] })

theorem wit_DeferralQueueResults : Ready sDefer 0 0 a0 p0 ∧ (∀ i ∈ ([.dfr 0 1 0, .dfpop 2 1 1] : List Instr), Usable sDefer 0 0 a0 (semOf i)) ∧
    Clear sDefer 0 0 a0 p0 (semOf .dfcnt) ∧ ((view sDefer 0 0 a0).dfq.map List.length).sum + 8 ≤ 1024 ∧ (view sDefer 0 0 a0).dfq.length < 64 :=
  ⟨ready_of (by decide +kernel), usable_all (by decide +kernel), clear_of (by decide +kernel), by decide +kernel, by decide +kernel⟩

theorem wit_FenceAndWaitResults : Ready sAddr 0 0 a0 p0 ∧
    (∀ i ∈ ([.fence 0, .fence 2, .waitv 0 1 0 0, .waitv 3 1 0 0] : List Instr), Usable sAddr 0 0 a0 (semOf i)) ∧ (Instr.waitv 0 1 0 0).wf = true ∧
    maps sAddr [.s 1, .s 0, .s 0] 0x60000 8 .read = true ∧ (span 0x60000 8).any sAddr.isLost = false ∧ (popped sAddr 0 0 a0 [.s 1, .s 0, .s 0]).ops = [] ∧
    leNat (mread sAddr.mem 0x60000 8) = 0 ∧ (base sAddr 0 0 a0 [.s 1, .s 0, .s 0]).halves 0 0 (span 0x60000 8) = [] ∧ (sAddr.core 0).blockLines = [] :=
  ⟨ready_sAddr, usable_all (by decide +kernel), by decide, by decide +kernel, by decide +kernel, by decide +kernel, by decide +kernel, by decide +kernel,
    by decide +kernel⟩

/-! ### Witnesses: accesses behind a release, an acquire or an earlier read -/

/-- A plain load of `x` in flight, and one that acquires at module scope. -/
def waitingLoad (ord : Nat) : MemOp :=
  { id := 0, kind := .load false 9 none, bytes := [(0x60100, 0)], writes := [], ord := ord, scope := 2, bundle := 0x50000, va := 0x60100 }

/-- `mpol` asks for a release at device scope, with and without an access outstanding; `s6` asks for both parts. -/
def sRelease (ops : List MemOp) : State := with0 sAddr (fun v => { v with mpol := 0xA0000, ops := ops, seq := 1, s := vset v.s 6 0xB0000 })

def releaseOk (ops : List MemOp) : Bool :=
  readyB (sRelease ops) 0 0 a0 p0 &&
    ([.ld8s 1 0, .ld8z 1 0, .ld16s 1 0, .ld16z 1 0, .ld32s 1 0, .ld32z 1 0, .ld64 1 0, .vld 2 1 0 0, .vld 2 1 0 1, .vlds 0 1 0 0, .qlen 1] : List Instr).all (fun i =>
      clearB (sRelease ops) 0 0 a0 p0 (semOf i)) &&
    usableB (sRelease ops) 0 0 a0 (semOf (.fence 0)) && usableB (sRelease ops) 0 0 a0 (semOf (.fence 6)) &&
    decide (polOrd (popped (sRelease ops) 0 0 a0 [.s 1]).mpol = 2) && (popped (sRelease ops) 0 0 a0 [.s 1]).ops == ops

theorem wit_ScalarLoadsIssue_release : releaseOk [] = true ∧ releaseOk [waitingLoad 0] = true := by decide +kernel

/-- With `m1` 0 no chunk and no lane takes part. -/
theorem wit_VectorAccessesIssue_none : chunksOf 2 (arg (sRelease []) 0 0 a0 [.s 1, .s 0, .m 1] 2) = [] ∧
    clearB (with0 sGather (fun v => { v with mpol := 0xA0000 })) 0 0 a0 p0 (semOf (.vgath 0 4 2 1)) = true ∧
    (List.range 8).filter (predBit (arg sGather 0 0 a0 [.s 4, .s 5, .v 2, .m 1] 3) 32) = [] := by decide +kernel

def sGatherRelease (ops : List MemOp) : State := with0 sGather (fun v => { v with mpol := 0xA0000, ops := ops, seq := 1 })

theorem wit_GatherScatterIssue_release : ([[], [waitingLoad 0]] : List (List MemOp)).all (fun l =>
    readyB (sGatherRelease l) 0 0 a0 p0 && clearB (sGatherRelease l) 0 0 a0 p0 (semOf (.vgath 0 4 2 0)) &&
      (popped (sGatherRelease l) 0 0 a0 [.s 4, .s 5, .v 2, .m 0]).ops == l) = true := by decide +kernel

def sLocal (ops : List MemOp) : State := with0 sStream (fun v => { v with ops := ops, seq := 1 })

/-- `lld` beside an acquire; `lst` of no element (`m1` is 0), of some behind a read, and of some behind a store. -/
def localOk (o : MemOp) (acquires held : Bool) : Bool :=
  let s := sLocal [o]
  let v := popped s 0 0 a0 [.v 0, .s 30, .m 0]
  readyB s 0 0 a0 p0 && clearB s 0 0 a0 p0 (semOf (.lld 0 1 2 0 0)) && clearB s 0 0 a0 p0 (semOf (.lst 0 30 2 0 0)) && v.acquiring == acquires &&
    v.ops.any (fun p => p.readsFirst || p.isLst || p.isMark || p.ord % 2 == 1) == held &&
    ((List.range (localCount ((env s 0 0 a0 p0 (semOf (.lst 0 30 2 0 0))).geo (base s 0 0 a0 [.v 0, .s 30, .m 0]) 2) 0)).filter
      (fun j => (arg s 0 0 a0 [.v 0, .s 30, .m 0] 2).getLsbD (j * 32 / 16))).length == 8

theorem wit_LocalStoreAccesses_order : localOk (waitingLoad 1) true true = true ∧ localOk (waitingLoad 0) false true = true ∧
    localOk { waitingLoad 0 with kind := .store none, bytes := [], writes := [(0x60100, 1)] } false false = true ∧
    arg sStream 0 0 a0 [.v 0, .s 30, .m 1] 2 = 0 := by decide +kernel

/-! ### Witnesses: tags, blocks, groups, grants, streams and engine commands -/

/-- A tag of a producer, with frontier `f` of `n` elements. -/
def tagOf (st : TagState) (producer f n : Nat) : Tag := { Tag.freeOf 1 with state := st, producer := producer, f := f, n := n }

/-- Tag 1 is READY, 2 ABORTED, 3 a software producer's at 2 of 4, 4 HALTED at 3 of 4. -/
def sTags : State := with0 (withTeam s0 (fun T => { T with
  tags := [(1, tagOf .ready 1 4 4), (2, tagOf .aborted 1 2 4), (3, tagOf .bound 13 2 4), (4, tagOf .halted 1 3 4)] }))
  (fun v => { v with s := vset (vset (vset v.s 1 6) 2 4) 3 2, a := vset v.a 1 (stream 0x80000 0 0 8 4 32) })

theorem wit_TagInstructionResults : Ready sTags 0 0 a0 p0 ∧
    (∀ i ∈ ([.waitfImm 4 3, .waitfImm 2 4194303, .waitfReg 3 3, .tany 1, .tall 1, .tffr 1, .tclr 1, .tclr 2, .tclr 0, .fget 63, .fpub 3 2] : List Instr),
      Usable sTags 0 0 a0 (semOf i)) ∧ Clear sTags 0 0 a0 p0 (semOf (.fbind 5 1)) ∧ arg sTags 0 0 a0 [.s 1] 0 = 6 ∧ arg sTags 0 0 a0 [.s 2] 0 = 4 ∧
    ((sTags.core 0).tagAt (teamBase sTags 0 0) 1).state = .ready ∧ ((sTags.core 0).tagAt (teamBase sTags 0 0) 2).state = .aborted ∧
    ((sTags.core 0).tagAt (teamBase sTags 0 0) 3).producer = 13 ∧ 2 < hdrTags (sTags.hdrAt 0 0) ∧ (view sTags 0 0 a0).lqs.length < 16 ∧
    (view sTags 0 0 a0).ops = [] :=
  ⟨ready_of (by decide +kernel), usable_all (by decide +kernel), clear_of (by decide +kernel), by decide +kernel, by decide +kernel, by decide +kernel,
   by decide +kernel, by decide +kernel, by decide +kernel, by decide +kernel, by decide +kernel⟩

theorem wit_TagInstructionResults_pub : readyB (with0 sTags (fun v => { v with ops := [waitingLoad 0], seq := 1 })) 0 0 a0 p0 = true ∧
    usableB (with0 sTags (fun v => { v with ops := [waitingLoad 0], seq := 1 })) 0 0 a0 (semOf (.fpub 3 2)) = true ∧
    (popped (with0 sTags (fun v => { v with ops := [waitingLoad 0], seq := 1 })) 0 0 a0 [.s 2]).ops ≠ [] := by decide +kernel

theorem wit_BlockInstructionResults : Ready sAddr 0 0 a0 p0 ∧ (∀ i ∈ ([.ldblk 63 1 1, .ldblk 0 1 64] : List Instr), Clear sAddr 0 0 a0 p0 (semOf i)) ∧
    (∀ i ∈ ([.evblk 1, .pfetch 0 1 0] : List Instr), Usable sAddr 0 0 a0 (semOf i)) ∧ (sAddr.die 0).present.length < Config.sliceLines :=
  ⟨ready_sAddr, clear_all (by decide +kernel), usable_all (by decide +kernel), by decide +kernel⟩

/-- The context is enrolled in group 1, with number 4; the streams of `gld` in `a1` and `a2`; grants to and from position 9. -/
def grantTo (v w : W64) : Grant := { word := v, sendBuf := [], moving := [], recvBuf := [w.setWidth 1024] }

def sGroup : State :=
  let s := with0 s0 (fun v => { v with groups := [(1, 4)], a := vset (vset v.a 1 (stream 0x80000 0 0 8 4 32)) 2 (stream 0 1 0 8 4 32) })
  { s with launches := s.launches.map (fun e => (e.1, { e.2 with
      groups := [(1, { members := 4, hold := 64, joined := [(0, 0)], next := 5, holds := [] })],
      grants := [grantTo (9 * 64) 1, grantTo 9 2] })) }

def joined1 (s : State) : List (Nat × Nat) := match s.launchOf 0 with | some v => (v.group 1).joined | none => []

theorem wit_GroupInstructionResults : Ready sGroup 0 0 a0 p0 ∧ (sGroup.launchAt 0 0).map (fun q => q.1) = some 0 ∧
    (∀ i ∈ ([.gjoin 0, .gld 1 2 1 5] : List Instr), Clear sGroup 0 0 a0 p0 (semOf i)) ∧ Usable sGroup 0 0 a0 (semOf (.gleave 1)) ∧
    (tget (popped sGroup 0 0 a0 []).groups 1).isSome = true ∧ joined1 sGroup = [(0, 0)] :=
  ⟨ready_of (by decide +kernel), by decide +kernel, clear_all (by decide +kernel), usable_of (by decide +kernel), by decide +kernel, by decide +kernel⟩

theorem wit_MeshInstructionResults : Ready sGroup 0 0 a0 p0 ∧ (sGroup.sendGrant 0 0 9) = some (0, 0, grantTo (9 * 64) 1) ∧
    (sGroup.recvGrant 0 0 9) = some (0, 1, grantTo 9 2) ∧ (grantTo 9 2).recvBuf = [2] ∧ (grantTo 9 2).lostNext = none ∧
    ∀ i ∈ ([.msend 30 9, .mrecv 1 9] : List Instr), Usable sGroup 0 0 a0 (semOf i) :=
  ⟨ready_of (by decide +kernel), by decide +kernel, by decide +kernel, by decide +kernel, by decide +kernel, usable_all (by decide +kernel)⟩

theorem wit_StreamAndChannelTableResults : Ready sStream 0 0 a0 p0 ∧ Usable sStream 0 0 a0 (semOf (.setxf 3 2)) ∧ (arg sStream 0 0 a0 [.s 2] 0).toNat / 2 ^ 17 % 2 ^ 15 = 0 ∧
    (∀ i ∈ ([.sset 15 29 1, .sset 7 30 1, .sset 0 31 1, .sget 1 10, .sget 0 30, .sget 0 31, .sld 1 1, .chget 255] : List Instr),
      Clear sStream 0 0 a0 p0 (semOf i)) ∧ (view sStream 0 0 a0).sets = [] ∧ maps sStream [.s 1] 0x60000 64 .read = true :=
  ⟨ready_sStream, usable_of (by decide +kernel), by decide +kernel, clear_all (by decide +kernel), by decide +kernel, by decide +kernel⟩

/-- A job card of four rows of four elements, one head, blocks of four tokens (R376). -/
def card0 : Nat :=
  0x10000 * 2 ^ 460 + 0x10400 * 2 ^ 396 + 0x10800 * 2 ^ 332 + 0x10C00 * 2 ^ 268 + 0x11000 * 2 ^ 204 + 0x11400 * 2 ^ 140 + 2 * 2 ^ 136 + 1 * 2 ^ 128 +
    0x3F800000 * 2 ^ 96 + 4 * 2 ^ 64 + 1 * 2 ^ 32 + 1 * 2 ^ 16 + 4 * 2 ^ 8 + 4

/-- Channel 0: four slots of 128 bytes of f32 to channel 3 of chip 5; channel 1 the same (R357). -/
def chan0 : ChanEntry := BitVec.ofNat 256 (0x90000 * 2 ^ 76 + 100 * 2 ^ 48 + 4 * 2 ^ 40 + 128 * 2 ^ 24 + 3 * 2 ^ 16 + 5)

/-- An all-reduce over a ring of two chips on channels 0 and 1 (R370); a set of one member, channel 3 of chip 5 (R363); a reducing load from
chip 5 (R364). -/
def coll0 : Nat := 2 * 2 ^ 8 + 1 * 2 ^ 42 + 2
def set0 : Nat := 1 + 1 * 2 ^ 16 + (5 + 3 * 2 ^ 16) * 2 ^ 64
def load0 : Nat := 1 + 1 * 2 ^ 16 + 5 * 2 ^ 64 + 0x80000 * 2 ^ 128

/-- Streams of `sStream`, `a7` a square in another bank group than `a3`, `a9` the metadata of `a8`, `a10` records of support, `a14` and `a15` tiles of
a tensor of 64 by 64 f32 (R86); the records above at `s6` to `s9`; a projection record before the launch's parameter block. -/
def sEngine : State :=
  let s := with0 sStream (fun v => { v with
    launch := 0x62080
    s := vset (vset (vset (vset (vset v.s 6 0x61000) 7 0x61040) 8 0x61080) 9 0x610C0) 10 1
    a := vset (vset (vset (vset (vset (vset (vset (vset (vset v.a 7 (stream 0x80000 1 1 16 16 32)) 8 (stream 0x1000 1 1 8 16 16)) 9
      (stream 0x4000 1 7 4 16 2)) 10 (stream 0x83000 0 0 8 4 32)) 11 (stream 0x84000 0 0 8 4 32)) 12 (stream 0x3000 1 1 16 16 32)) 13
      (stream 0xC0000 0 0 8 8 32)) 14 (stream 0xA0000 0 0 8 8 0 + BitVec.ofNat 512 (0x62100 * 2 ^ 256))) 15
      (stream 0xB0000 0 0 8 8 0 + BitVec.ofNat 512 (0x62100 * 2 ^ 256)) })
  { s with
    mem := ([(0x61000, leBytes 64 card0), (0x61040, leBytes 64 coll0), (0x61080, leBytes 16 set0), (0x610C0, leBytes 24 load0),
      (0x62000, leBytes 32 (0x3F800000 * 2 ^ 96)), (0x62100, leBytes 64 (2 * 2 ^ 453 + 64 * 2 ^ 256 + 64 * 2 ^ 288 + 256 * 2 ^ 16))] : List (Nat × List Byte)).foldl (fun (m : Memory) (p : Nat × List Byte) => mwrite m p.1 p.2) s.mem }.modCore 0
    (fun k => { k with chanImage := some 0x98000, chans := [(0, chan0), (1, chan0)] })

theorem ready_sEngine : Ready sEngine 0 0 a0 p0 := ready_of (by decide +kernel)

theorem wit_TaggedCommandsIssue : Ready sEngine 0 0 a0 p0 ∧
    ∀ i ∈ ([.cpy 1 2 5 0, .cpyt 14 15 5 0, .cpyg 13 14 5 0, .cpys 15 13 5 0, .cfill 1 2 63 0] : List Instr),
      Clear sEngine 0 0 a0 p0 (semOf i) :=
  ⟨ready_sEngine, clear_all (by decide +kernel)⟩

theorem wit_TaggedCommandsIssue_rest : ∀ i ∈ ([.drain 0 2 5 0 0 0, .drain 3 1 5 0 5 0, .padj 2 1 10 5 0, .chrecv 0 1 5, .chred 1 1 5 0,
    .coll 7 1 11 5] : List Instr), Clear sEngine 0 0 a0 p0 (semOf i) := clear_all (by decide +kernel)

theorem wit_UntaggedCommandsIssue : Ready sEngine 0 0 a0 p0 ∧
    (∀ i ∈ ([.mzero 3, .mma 0 3 7 1, .mmasp 0 8 7 9 1, .jcard 0 6, .hist 2 1 10, .chsend 0 2, .mcst 2 8] : List Instr), Clear sEngine 0 0 a0 p0 (semOf i)) ∧
    (sEngine.core 0).accOwner = none :=
  ⟨ready_sEngine, clear_all (by decide +kernel), by decide +kernel⟩

/-- What `rdld` asks of the module's neighbourhood is a constant of the configuration: with a switch on the path to chip 5, its bundle is clear. -/
theorem load0_ok (h : Config.hasSwitch 5 = true) : rdldOk 32 load0 = true := by
  have e : rdldOk 32 load0 = (Config.hasSwitch 5 && true) := by rfl
  simp [e, h]

def okIs (x : Except Flt (List Byte)) (l : List Byte) : Bool := match x with | .ok y => y == l | .error _ => false

theorem ok_of {x : Except Flt (List Byte)} {l : List Byte} (h : okIs x l = true) : x = .ok l := by
  cases x with
  | error f => cases h
  | ok y => rw [eq_of_beq h]

theorem rdld_check (e : Env) (b : State) (h : Config.hasSwitch 5 = true) (h1 : (e.s 0).toNat = 0x610C0) (h2 : setBytes (e.setHead b) 16 = 24)
    (h3 : b.readRecord e.c e.x 0x610C0 24 = .ok (leBytes 24 load0)) (h4 : (b.readRecord e.c e.x 0x610C0 8).isOk = true)
    (h5 : (e.geo b 1).w = 32) (h6 : (e.geo b 1).fmt = 0) (h7 : ((e.geo b 1).windowCheck e.hdr (e.geo b 1).d1).isEmpty = true)
    (h8 : (e.streamCheck b 1 true).isEmpty = true) (h9 : ((e.geo b 1).space != 2) = true) (h10 : (e.tagFree b 5).isEmpty = true)
    (h11 : (e.cycleCheck b (e.rdldCmd b 1 5) false).isEmpty = true) : (semRdld 1 9 5).check e b = [] := by
  rw [List.isEmpty_iff] at h7 h8 h10 h11
  have hl : leNat (leBytes 24 load0) = load0 := by decide +kernel
  have hf : bits load0 10 4 = 0 := by decide +kernel
  simp only [semRdld, List.append_eq_nil_iff]
  refine ⟨⟨⟨⟨⟨⟨h7, h8⟩, by show need ((e.geo b 1).space != 2) (fFormat.of (e.geo b 1)) = []; rw [h9]; rfl⟩, ?_⟩, ?_⟩, h10⟩, h11⟩
  · rw [h1, Env.readAligned, if_neg (by decide)]
    cases hr : b.readRecord e.c e.x 0x610C0 8 with
    | error f => rw [hr] at h4; cases h4
    | ok bs => simp [need]
  · rw [h1, if_pos (by decide), h2, Env.readAligned, if_neg (by decide), h3]
    simp only [hl]
    rw [show ((1 : BitVec 4).toNat) = 1 from rfl, h5, h6, load0_ok h, hf]
    rfl

abbrev eLoad : Env := env sEngine 0 0 a0 p0 (semRdld 1 9 5)
abbrev bLoad : State := base sEngine 0 0 a0 (semRdld 1 9 5).srcs

def load0Clear : Bool := (eLoad.s 0).toNat == 0x610C0 && setBytes (eLoad.setHead bLoad) 16 == 24 &&
  okIs (bLoad.readRecord eLoad.c eLoad.x 0x610C0 24) (leBytes 24 load0) && (bLoad.readRecord eLoad.c eLoad.x 0x610C0 8).isOk &&
  (eLoad.geo bLoad 1).w == 32 && (eLoad.geo bLoad 1).fmt == 0 && ((eLoad.geo bLoad 1).windowCheck eLoad.hdr (eLoad.geo bLoad 1).d1).isEmpty &&
  (eLoad.streamCheck bLoad 1 true).isEmpty && (eLoad.geo bLoad 1).space != 2 && (eLoad.tagFree bLoad 5).isEmpty &&
  (eLoad.cycleCheck bLoad (eLoad.rdldCmd bLoad 1 5) false).isEmpty

theorem load0_clear : load0Clear = true := by decide +kernel

theorem wit_TaggedCommandsIssue_rdld (h : Config.hasSwitch 5 = true) : (semRdld 1 9 5).check (env sEngine 0 0 a0 p0 (semRdld 1 9 5))
    (base sEngine 0 0 a0 (semRdld 1 9 5).srcs) = [] := by
  have h0 := load0_clear
  simp only [load0Clear, Bool.and_eq_true, beq_iff_eq] at h0
  obtain ⟨⟨⟨⟨⟨⟨⟨⟨⟨⟨h1, h2⟩, h3⟩, h4⟩, h5⟩, h6⟩, h7⟩, h8⟩, h9⟩, h10⟩, h11⟩ := h0
  exact rdld_check _ _ h h1 h2 (ok_of h3) h4 h5 h6 h7 h8 h9 h10 h11

theorem wit_TaggedCommandsIssue_rdld_rest : usableB sEngine 0 0 a0 (semRdld 1 9 5) = true ∧
    blocksBefore (sEngine.core 0) (view sEngine 0 0 a0) (teamBase sEngine 0 0) [(0, semRdld 1 9 5)] = false ∧ Instr.wf (.rdld 1 9 5) = true ∧
    (flowFaults (base sEngine 0 0 a0 [.s 9]) 0 0 0 .next).isEmpty = true ∧ (popped sEngine 0 0 a0 [.s 9]).lostA = [] := by decide +kernel

/-- Bytes above every listed one read as 0. -/
theorem mget_above {m : Memory} {lo pa : Nat} (h : m.all (fun e => decide (e.1 < lo)) = true) (hp : lo ≤ pa) : mget m pa = 0 := by
  induction m with
  | nil => rfl
  | cons e m ih =>
    obtain ⟨a, v⟩ := e
    simp only [List.all_cons, Bool.and_eq_true, decide_eq_true_eq] at h
    simp only [mget, tget, if_neg (show ¬ pa = a by omega)]
    exact ih h.2

/-- A quiet state: no lost data, no slice queue, no copies of lines elsewhere, no L1 sector and no access under way. -/
def quietB (b : State) (c x : Nat) : Bool :=
  b.platform.lost.isEmpty && b.platform.retiredPages.isEmpty && b.sliceQueues.isEmpty && (b.die (dieOf c)).present.isEmpty &&
    (b.core c).l1Sectors.isEmpty && (b.ctx c x).ops.isEmpty

theorem record_above {b : State} {c x va n lo : Nat} (q : quietB b c x = true) (m : b.mem.all (fun e => decide (e.1 < lo)) = true)
    (t : (match b.xlat c (b.rootAt c x) va .read with | .ok p => decide (p = va) | _ => false) = true) (hn : n ≤ 65536 - va % 65536) (hl : lo ≤ va) :
    b.readRecord c x va n = .ok (List.replicate n 0) := by
  simp only [quietB, Bool.and_eq_true, List.isEmpty_iff] at q
  obtain ⟨⟨⟨⟨⟨q1, q2⟩, q3⟩, q4⟩, q5⟩, q6⟩ := q
  have hx : b.xlatSpan c (b.rootAt c x) va n .read = .ok (span va n) := by
    unfold State.xlatSpan
    cases hp : b.xlat c (b.rootAt c x) va .read with
    | ok p => rw [hp] at t; simp only [decide_eq_true_eq] at t; simp [hn, t]
    | _ => rw [hp] at t; simp at t
  have hlost : ∀ pa, b.isLost pa = false := fun pa => by simp [State.isLost, q1, q2]
  have hbyte : ∀ pa ∈ span va n, b.ctxByte c x pa = 0 := by
    intro pa hpa
    have hge : lo ≤ pa := by
      simp only [span, List.mem_map, List.mem_range] at hpa
      obtain ⟨i, _, rfl⟩ := hpa
      omega
    have hz : b.dieRead (dieOf c) pa = 0 := by
      simp only [State.dieRead, q4]
      simp [mget_above m hge]
    have hq : b.queuesAt pa = [] := by simp [State.queuesAt, q3]
    simp [State.ctxByte, q6, State.l1Read, q5, hz, State.seen, hq]
  unfold State.readRecord
  rw [hx]
  have hf : (span va n).find? b.isLost = none := by simp [List.find?_eq_none, hlost]
  simp only [hf]
  congr 1
  rw [List.eq_replicate_iff]
  refine ⟨by simp [span], fun z hz => ?_⟩
  obtain ⟨pa, hpa, rfl⟩ := List.mem_map.mp hz
  exact hbyte pa hpa

theorem image_zero : imageEntries (List.replicate 8192 0) = List.replicate 256 0 := by
  have hz : ∀ k, leNat (List.replicate k (0 : Byte)) = 0 := fun k => by
    induction k with
    | zero => rfl
    | succ k ih => rw [List.replicate_succ, leNat, ih]; rfl
  rw [List.eq_replicate_iff]
  refine ⟨by rw [imageEntries, List.length_map, List.length_range], fun z hm => ?_⟩
  simp only [imageEntries, List.mem_map] at hm
  obtain ⟨i, _, rfl⟩ := hm
  rw [List.drop_replicate, List.take_replicate, hz]
  rfl

theorem chset_check (e : Env) (b : State) (h1 : (e.s 0).toNat = 0x60000) (h2 : b.readRecord e.c e.x 0x60000 8192 = .ok (List.replicate 8192 0))
    (h3 : (e.deviceSpan b 0x60000 8192).isEmpty = true) : (semChset 1).check e b = [] := by
  rw [List.isEmpty_iff] at h3
  have hz : ∀ (l : List ChanEntry) (f : List Flt), (∀ z ∈ l, z = 0) →
      l.foldl (fun f n => f ++ (if chDepth n = 0 then [] else e.deviceSpan b (chBuffer n) (chDepth n * chShape n))) f = f := by
    intro l
    induction l with
    | nil => intro f _; rfl
    | cons z l ih =>
      intro f hl
      rw [List.foldl_cons, hl z (by simp), if_pos (by decide), List.append_nil]
      exact ih f (fun z hz => hl z (by simp [hz]))
  have hok : (List.replicate 256 (0 : ChanEntry)).all chanOk = true := by decide +kernel
  simp only [semChset, h1]
  rw [if_neg (by decide), h2]
  simp only [image_zero, hok, h3, need, if_true, List.nil_append]
  rw [hz _ _ (fun z hm => (List.eq_of_mem_replicate hm)), List.nil_append, if_pos]
  simp only [List.all_eq_true]
  intro p hp
  have : p.1 = 0 := List.eq_of_mem_replicate (List.of_mem_zip hp).1
  simp only [this, show (chDepth 0 == 0) = true from by decide, Bool.true_or]

abbrev eChset : Env := env sAddr 0 0 a0 p0 (semChset 1)
abbrev bChset : State := base sAddr 0 0 a0 (semChset 1).srcs

theorem chset0_record : bChset.readRecord 0 0 0x60000 8192 = .ok (List.replicate 8192 0) :=
  record_above (by decide +kernel) (show bChset.mem.all (fun e => decide (e.1 < 0x60000)) = true by decide +kernel) (by decide +kernel) (by decide) (by decide)
theorem chset0_s : (eChset.s 0).toNat = 0x60000 := by decide +kernel
theorem chset0_span : (eChset.deviceSpan bChset 0x60000 8192).isEmpty = true := by decide +kernel

theorem wit_StreamAndChannelTableResults_chset : (semChset 1).check eChset bChset = [] := chset_check _ _ chset0_s chset0_record chset0_span

theorem wit_StreamAndChannelTableResults_chset_rest : usableB sAddr 0 0 a0 (semChset 1) = true ∧
    blocksBefore (sAddr.core 0) (view sAddr 0 0 a0) (teamBase sAddr 0 0) [(0, semChset 1)] = false ∧ Instr.wf (.chset 1) = true ∧
    (flowFaults bChset 0 0 0 .next).isEmpty = true ∧ (semChset 1).waits eChset bChset = false := by decide +kernel

/-! ### Witnesses: events of a context's accesses -/

def op0 (kind : OpKind) (bytes : List (Nat × Nat)) (writes : List (Nat × Byte)) : MemOp :=
  { id := 5, kind := kind, bytes := bytes, writes := writes, ord := 0, scope := 0, bundle := 0x50000, va := 0x60000 }

/-- One access outstanding, with the port entries it may fill. -/
def sOp (o : MemOp) : State := with0 s0 (fun v => { v with
  ops := [o], lqs := [{ id := 3, val := 0, left := 1, lost := none }, { id := 4, val := 0, left := 1, lost := none }], lq := [{ id := 2, val := 0, left := 4, lost := none }] })

def lostByte (s : State) (a : Nat) : State := { s with platform := { s.platform with lost := [a] } }

theorem wit_DataReturnAndLandingEvents_load :
    (sOp (op0 (.load false 3 (some 8)) [(0x60000, 0)] [])).powered = true ∧
    ((sOp (op0 (.load false 3 (some 8)) [(0x60000, 0)] [])).ctx 0 0).opReady 0 = some (op0 (.load false 3 (some 8)) [(0x60000, 0)] []) ∧
    (sOp (op0 (.load false 3 (some 8)) [(0x60000, 0)] [])).isLost 0x60000 = false ∧
    ((sOp (op0 (.load true 2 none) ((span 0x60000 32).zip (List.range 32)) [])).ctx 0 0).opReady 0 =
      some (op0 (.load true 2 none) ((span 0x60000 32).zip (List.range 32)) []) ∧
    (sOp (op0 (.load false 3 (some 8)) [(0x60000, 0)] [])).halves 0 0 (op0 (.load false 3 (some 8)) [(0x60000, 0)] []).covers = [] ∧
    (op0 (.load false 3 (some 8)) [(0x60000, 0)] []).unread = [(0x60000, 0)] ∧
    ([(0x60000, 0)].find? (fun (b : Nat × Nat) => (lostByte (sOp (op0 (.load false 3 (some 8)) [(0x60000, 0)] [])) 0x60000).isLost b.1)) = some (0x60000, 0) := by decide +kernel

theorem wit_DataReturnAndLandingEvents_sld :
    ((sOp (op0 (.sld 15) ((span 0x60000 32).zip (List.range 32)) [])).ctx 0 0).opReady 0 = some (op0 (.sld 15) ((span 0x60000 32).zip (List.range 32)) []) ∧
    ((sOp (op0 (.sld 15) ((span 0x60000 32).zip (List.range 32)) [])).ctx 0 0).ops[0]? = some (op0 (.sld 15) ((span 0x60000 32).zip (List.range 32)) []) ∧
    (sOp (op0 (.sld 15) ((span 0x60000 32).zip (List.range 32)) [])).halves 0 0 (op0 (.sld 15) ((span 0x60000 32).zip (List.range 32)) []).covers = [] := by
  decide +kernel

/-- A result in flight to each kind of register; an unfilled `sq` entry that a store waits for. -/
def sFlight : State := with0 s0 (fun v => { v with
  flight := [{ dest := .s 31, mask := mask64, val := 7, due := 3 }, { dest := .v 31, mask := 255, val := 7, due := 4 },
    { dest := .m 7, mask := 1, val := 1, due := 4 }, { dest := .cond 11, mask := 1, val := 1, due := 5 }]
  sq := [{ id := 9, val := 0, bytes := 1, filled := false, lost := false }]
  ops := [op0 (.store (some 8)) [] [(0x60000, 1)]] })

theorem wit_DataReturnAndLandingEvents_land :
    (sFlight.ctx 0 0).flight.map (fun l => l.dest) = [.s 31, .v 31, .m 7, .cond 11] ∧ (sFlight.ctx 0 0).sqOldest = some 8 := by decide +kernel

theorem wit_StoreAndAtomicEvents_store :
    ((sOp (op0 (.store none) [] [(0x60000, 1), (0x60000, 2)])).ctx 0 0).opReady 0 = some (op0 (.store none) [] [(0x60000, 1), (0x60000, 2)]) ∧
    ((sOp { op0 (.store none) [] [(0x60000, 1)] with ord := 2, scope := 2 }).ctx 0 0).opReady 0 =
      some { op0 (.store none) [] [(0x60000, 1)] with ord := 2, scope := 2 } ∧
    s0.mem.wf = true ∧ (s0.die (dieOf 0)).copies.wf = true ∧ s0.isLost 0x60000 = false ∧
    (sOp (op0 (.store none) [] [(0x60000, 1), (0x60000, 2)])).halves 0 0 (op0 (.store none) [] [(0x60000, 1), (0x60000, 2)]).covers = [] ∧
    (s0.die (dieOf 0)).present.length + 2 ≤ Config.sliceLines ∧
    ((sOp (op0 (.store none) [] [(0x60000, 1)])).ctx 0 0 |>.dropOp 5).innerReady = none ∧
    ([0x60000].find? (lostByte (sOp (op0 (.store none) [] [(0x60000, 1)])) 0x60000).isLost) = some 0x60000 := by decide +kernel

theorem wit_StoreAndAtomicEvents_atomic :
    ((sOp (op0 (.atomic .cas 8 1 0 3) ((span 0x60000 8).zip (List.range 8)) [])).ctx 0 0).opReady 0 =
      some (op0 (.atomic .cas 8 1 0 3) ((span 0x60000 8).zip (List.range 8)) []) ∧
    ((span 0x60000 8).zip (List.range 8)).map (fun b => b.1) = span 0x60000 8 ∧ (span 0x60000 8).all (fun a => !s0.isLost a) = true ∧
    ((sOp (op0 (.reduce .addf 4 1) ((span 0x60004 4).zip (List.range 4)) [])).ctx 0 0).opReady 0 =
      some (op0 (.reduce .addf 4 1) ((span 0x60004 4).zip (List.range 4)) []) ∧
    (span 0x60004 4).find? (lostByte s0 0x60006).isLost = some 0x60006 := by decide +kernel

/-- A queue at 0x60000 as given, and an operation on it; another context is parked on it. -/
def sQueue (f : QueueOp) (w : W64) (old : Option SliceQueue) : State :=
  let s := sOp (op0 (.queue f w 3) [(0x60000, 0)] [])
  let s := { s with sliceQueues := (old.map (fun q => (0x60000, q))).toList }
  s.modCtx 0 1 (fun v => { v with parks := [(0x60000, 3)] })

def queue0 (items : List W64) (waiters : List (Nat × Nat × Nat)) : SliceQueue := { cap := 16, items := items, past := (List.range items.length).zip items, next := items.length, waiters := waiters }

def queueReady (f : QueueOp) (w : W64) (old : Option SliceQueue) : Bool :=
  let s := sQueue f w old
  s.powered && !s.parkedAt 0 0 3 && ((s.ctx 0 0).dropOp 5).ops.isEmpty && (s.ctx 0 1).ops.isEmpty &&
    (s.ctx 0 0).opReady 0 == some (op0 (.queue f w 3) [(0x60000, 0)] []) && (s.queueBytes f 0x60000).all (fun a => !s.isLost a) &&
    tget s.sliceQueues 0x60000 == old

theorem wit_SliceQueueEvents_init : queueReady .init 0 (some (queue0 [] [(0, 1, 3)])) = true ∧ queueReady .init 0 none = true ∧
    queueReady .init 17 none = true ∧ capOk 17 = false ∧ queueReady .init 16 none = true ∧ capOk 16 = true ∧ capOk (2 ^ 20) = true ∧
    decide (64 ≤ (sQueue .init 16 none).queuesOf 0x60000) = false ∧ (queue0 [] [(0, 1, 3)]).waiters.Nodup ∧
    ((sQueue .init 0 (some (queue0 [] [(0, 1, 3)]))).ctx 0 1).parks.find? (fun e => e.1 == 0x60000) = some (0x60000, 3) := by decide +kernel

/-- Sixty-four queues of the slice of 0x60000, none at it. -/
def sFull : State := { sQueue .init 16 none with sliceQueues := (List.range 64).map (fun i => (0x60000 + 192 * (i % 16 + 1) + i / 16 * (48 * 4096), queue0 [] [])) }

theorem wit_SliceQueueEvents_full : decide (64 ≤ sFull.queuesOf 0x60000) = true ∧ tget sFull.sliceQueues 0x60000 = none ∧
    (sFull.ctx 0 0).opReady 0 = some (op0 (.queue .init 16 3) [(0x60000, 0)] []) := by decide +kernel

theorem wit_SliceQueueEvents_entries : queueReady .enq 7 none = true ∧ queueReady .enq 7 (some (queue0 (List.replicate 16 1) [])) = true ∧
    queueReady .enq 7 (some (queue0 (List.replicate 15 1) [])) = true ∧ queueReady .enq 7 (some (queue0 [] [(0, 1, 3)])) = true ∧
    queueReady .deq 0 none = true ∧ queueReady .deq 0 (some (queue0 [] [])) = true ∧ queueReady .deq 0 (some (queue0 [8, 9] [])) = true ∧
    queueReady .len 0 none = true ∧ queueReady .len 0 (some (queue0 [8, 9] [])) = true := by decide +kernel

/-- The context that waits in `qdeqw` is parked. -/
def sParked (old : Option SliceQueue) : State := with0 (sQueue .deqw 0 old) (fun v => { v with parks := [(0x60000, 3)] })

theorem wit_SliceQueueEvents_parked : ([none, some (queue0 [] []), some (queue0 [8, 9] [])] : List (Option SliceQueue)).all (fun old =>
    ((sParked old).ctx 0 0).opReady 0 == some (op0 (.queue .deqw 0 3) [(0x60000, 0)] []) && (((sParked old).ctx 0 0).dropOp 5).innerReady.isNone &&
      tget (sParked old).sliceQueues 0x60000 == old && !(sParked old).parkedAt 0 0 3 &&
      ((sParked old).ctx 0 0).ops.filter (fun (p : MemOp) => p.kind != .queue .deqw 0 3) == (((sParked old).ctx 0 0).dropOp 5).ops) = true := by decide +kernel

/-- A `qdeqw` that waits already, its queue's state sound or lost. -/
theorem wit_SliceQueueEvents_waits : (sParked (some (queue0 [] [(0, 0, 3)]))).parkedAt 0 0 3 = true ∧
    ((sParked (some (queue0 [] [(0, 0, 3)]))).ctx 0 0).opReady 0 = some (op0 (.queue .deqw 0 3) [(0x60000, 0)] []) ∧
    ((lostByte (sParked none) 0x60001).queueBytes .deqw 0x60000).find? (lostByte (sParked none) 0x60001).isLost = some 0x60001 ∧
    -- the oldest entry's place in the ring
    ((lostByte (sParked (some (queue0 [8, 9] []))) 0x60041).queueBytes .deqw 0x60000).find? (lostByte (sParked (some (queue0 [8, 9] []))) 0x60041).isLost =
      some 0x60041 := by decide +kernel

/-! ### Witnesses: engine events -/

/-- The geometry of stream `a` of `sEngine`. -/
def geoOf (a : Nat) : Geo := (env sEngine 0 0 a0 p0 (semOf .nop)).geo (base sEngine 0 0 a0 []) a

/-- `sEngine` with one command. -/
def sCmd (m : Cmd) : State := withTeam (sEngine.modCore 0 (fun k => { k with cmds := [m] })) (fun T => { T with
  tags := [(2, tagOf .aborted 1 2 4), (5, tagOf .bound 1 0 32)] })

def cpy0 : Cmd := { cmd0 with kind := .cpy, n := 1, dst := some (geoOf 1), src := some (geoOf 2), tag := some (5, 1) }

/-- A copy to exactly 16 MiB, the least that needs a permit (R256). -/
def bigCopy (st : CmdState) : Cmd := { cpy0 with st := st, dst := (some { geoOf 1 with d0 := 2048, d1 := 2048 }), src := (some { geoOf 2 with d0 := 2048, d1 := 2048 }) }

def w_start : Bool :=
  let m := { cpy0 with st := .queued }
  let s := sCmd m
  s.powered && (s.core 0).queueHead 0 == some m && (s.core 0).slotFree m && ((s.core 0).ctx m.ctx).doneBelow m.mark && !m.needsPermit && s.deadChan m == none &&
    (s.core 0).queueHead 1 == none

def w_permit : Bool :=
  let m := bigCopy .queued
  let s := sCmd m
  (s.core 0).queueHead 0 == some m && (s.core 0).slotFree m && ((s.core 0).ctx m.ctx).doneBelow m.mark && m.needsPermit && !m.granted

/-- Four copies run; one more waits. -/
def w_slots : Bool :=
  let s := sEngine.modCore 0 (fun k => { k with cmds := [{ cpy0 with id := 1 }, { cpy0 with id := 2 }, { cpy0 with id := 3 }, { cpy0 with id := 4 }, { cpy0 with st := .queued }] })
  (s.core 0).queueHead 0 == some { cpy0 with st := .queued } && !(s.core 0).slotFree { cpy0 with st := .queued }

def sPermit (n : Nat) : State := (sCmd (bigCopy .permit)).putDie 0 { Die.fresh with waiting := [(0, 7)], holding := (List.range n).map (fun i => (1, i)) }

def w_grant : Bool :=
  ((sPermit 31).die 0).waiting == [(0, 7)] && ((sPermit 31).core 0).cmd 7 == some (bigCopy .permit) && decide (((sPermit 31).die 0).holding.length < ((sPermit 31).die 0).permits) &&
    decide (((sPermit 32).die 0).permits ≤ ((sPermit 32).die 0).holding.length)

def w_zero : Bool :=
  let m := { cmd0 with kind := .mzero, acc := some 3 }
  (sCmd m).runningCmd 0 7 (fun k => k == .mzero) == some m && !((sCmd m).core 0).lostAccs.contains 3

/-- A drain whose contribution a buffer still holds. -/
def w_open : Bool :=
  let m := { cmd0 with kind := .drain, st := .finished }
  let s := { sCmd m with det := [{ pa := 0x80004, count := 4, isInt := false, got := [(0, 0, 7 * 2 ^ 20, 1)], rels := [], who := [(0, 7, 0x80004)] }] }
  (s.core 0).cmd 7 == some m && s.det.any (fun b => b.holds 0 7)

def w_finished : Bool :=
  ((sCmd { cmd0 with kind := .hist, st := .finished, entry := some 3 }).core 0).cmd 7 == some { cmd0 with kind := .hist, st := .finished, entry := some 3 } &&
    ((sCmd { cpy0 with st := .finished }).core 0).cmd 7 == some { cpy0 with st := .finished } &&
    (sCmd cpy0).det.isEmpty && !cpy0.lost

theorem wit_EngineStartAndCompletionEvents : w_start = true ∧ w_permit = true ∧ w_slots = true ∧ w_grant = true ∧ w_zero = true ∧ w_open = true ∧ w_finished = true := by
  decide +kernel

/-- A product of four rows and columns with k of them. -/
def mma0 (k prog : Nat) : Cmd := { cmd0 with kind := .mma, acc := some 0, flags := 1, prog := prog, src := (some { geoOf 3 with d0 := k, d1 := 4, pitch := 64 }),
                                              src2 := (some { geoOf 7 with d0 := 4, d1 := k, pitch := 8 }) }

def productReady (k prog : Nat) : Bool :=
  let m := mma0 k prog
  let s := sCmd m
  s.runningCmd 0 7 isProduct == some m && !s.accLost 0 0 &&
    (match m.src, m.src2 with
     | some a, some b =>
       let k1 := min (16 * prog + 16) k
       (s.productChase 0 m a b none 4 4 (16 * prog) k1).isNone && (allOk ((List.range 4).map (fun i => s.rowA 0 0 a none i (16 * prog) k1))).isOk &&
         (allOk ((List.range 4).map (fun j => s.colB 0 0 b j (16 * prog) k1))).isOk
     | _, _ => false)

def w_product : Bool := productReady 20 0 && productReady 20 1 && productReady 4 0

def drain0 (flags : Nat) : Cmd := { cmd0 with kind := .drain, acc := some 0, flags := flags, tag := some (5, 1), dst := (some { geoOf 1 with sbase := 0x86000, sstride := 32 }) }

def w_drain : Bool := [0, 1, 8].all (fun f =>
  let m := drain0 f
  let s := sCmd m
  s.runningCmd 0 7 (fun k => k == .drain) == some m && !isRed m && !s.accLost 0 0 &&
    (match m.dst with
     | some g =>
       let r := projectRow m.pset m.pj ((List.range 8).map (fun x => s.cell 0 0 0 x))
       (match writeRow 0 (s.cmdRoot 0 m) 0 0 g [] (r.y.map (drainCode false g)) none (List.range 8) s with
        | .ok t => f != 1 || (t.support 0 (s.cmdRoot 0 m) m g 0 r).isOk
        | .error _ => false)
     | none => false))

def w_padj : Bool :=
  let m := { cmd0 with kind := .padj, tag := some (5, 1), dst := some (geoOf 2), src := some (geoOf 1), src2 := some (geoOf 10), pj := 0x3F800000 * 2 ^ 96 }
  let s0 := sCmd m
  let s := s0.padjReach 0 (s0.cmdRoot 0 m) (geoOf 2) (geoOf 1) (geoOf 10) 0
  s0.runningCmd 0 7 (fun k => k == .padj) == some m && (m.keptRow (geoOf 2) 0).isNone && (s0.padjChase 0 0 (geoOf 1) (geoOf 10) 0).isNone &&
    (match s.padjRecord 0 (s.cmdRoot 0 m) m (geoOf 2) (geoOf 10) 0 with
     | .ok v => bits v 195 1 != 1 &&
       (match s.padjRowOf 0 (s.cmdRoot 0 m) m (geoOf 2) (geoOf 1) 0 v with
        | .ok row => (writeRow 0 (s.cmdRoot 0 m) 0 0 (geoOf 2) [] row none (List.range 8) s).isOk &&
          (m.keepRow (geoOf 2) 0 row).keptRow (geoOf 2) 0 == some row
        | .error _ => false)
     | .error _ => false)

theorem wit_MatrixAndProjectionEvents : w_product = true ∧ w_drain = true ∧ w_padj = true :=
  ⟨by decide +kernel, by decide +kernel, by decide +kernel⟩

/-- A copy, and a gather whose list entry is still to be read. -/
def copyReady (m : Cmd) : Bool :=
  let s := sCmd m
  s.runningCmd 0 7 isCopy == some m && m.storeVer.isNone && m.readVerAddr.isNone &&
    (match m.dst with
     | some d =>
       let e := pieceEnd (travLine d.trav d.d0 d.d1) d.w 0 m.tile
       let w := if isList m.kind && m.buf.isEmpty then { m with buf := List.replicate 32 0 } else m
       (!isList m.kind || (match s.readEntry 0 (s.cmdRoot 0 m) m 0 with | .ok b => b.2 == List.replicate 32 0 | .error _ => false)) &&
         (match m.src with
          | some g => (List.range e).all (fun k => s.copyChase 0 w g 0 (travElem d.trav d.d0 d.d1 k).1 (travElem d.trav d.d0 d.d1 k).2 == .met)
          | none => true) &&
         (w.identity || (copyElems 0 (s.cmdRoot 0 m) w d 0 false false none (List.range e) s).isOk)
     | none => false)

/-- The tile of a layout cut to rows of two elements. -/
def narrow (a : Nat) : Geo := { geoOf a with d0 := 2 }

def w_copy : Bool := copyReady { cpy0 with dst := some (narrow 1), src := some (narrow 2) } &&
  copyReady { cpy0 with dst := some (narrow 1), src := some (narrow 1) } && copyReady { cmd0 with kind := .cfill, n := 1, dst := some (narrow 2), val := 5 }

def w_gather : Bool :=
  copyReady { cmd0 with kind := .cpyg, dst := some (narrow 13), src := some (narrow 14), list := 0x85000, n := 1, tag := some (5, 1) }

def red0 (n : Nat) : Cmd := { drain0 2 with n := n }

def w_reduce : Bool := [0, 4].all (fun n =>
  let s := sCmd (red0 n)
  s.runningCmd 0 7 (fun k => k == .drain) == some (red0 n) && isRed (red0 n) && !s.accLost 0 0 && (red0 n).chunks == [] &&
    pieceEnd (travLine (geoOf 1).trav 8 4) 32 0 32 == 8 && decide (s.detUsed 0x80000 < 16384) && ((span 0x80000 4).find? s.isLost).isNone &&
    (match allOk ((List.range 8).map (fun t => s.redPlace 0 (s.cmdRoot 0 (red0 n)) (geoOf 1) t 0)) with
     | .ok l => l.head? == some (some 0x80000)
     | .error _ => false))

/-- The buffers of the slice of 0x80000 are all taken by contributions that wait. -/
def w_reduceFull : Bool :=
  let s := { sCmd (red0 4) with det := [{ pa := 0x80004, count := 1024, isInt := false, got := List.replicate 16384 (0, 0, 0, 0), rels := [], who := [] }] }
  decide (16384 ≤ s.detUsed 0x80000)

def hist0 : Cmd := { cmd0 with kind := .hist, src := some (geoOf 2), list := 0x87000, entry := some 3 }

def w_hist : Bool :=
  let s := sCmd hist0
  let g := geoOf 2
  s.runningCmd 0 7 (fun k => k == .hist) == some hist0 &&
    (List.range (pieceEnd (travLine g.trav g.d0 g.d1) g.w 0 (g.d0 * g.d1))).all (fun k =>
      match (let q := travElem g.trav g.d0 g.d1 k; g.place g.org q.1 q.2 q.2 g.clamp false true) with
      | .at_ b _ _ => (s.core 0).chaseOf 0 g b == .met
      | _ => true) &&
    (match g.place g.org 0 0 0 g.clamp false true with
     | .at_ bit sc co => ((s.reachPlace 0 (s.cmdRoot 0 hist0) g (.at_ bit sc co)).readPlace 0 (s.cmdRoot 0 hist0) 0 g (.at_ bit sc co)).isOk
     | _ => false) &&
    (match s.xlatSpan 0 (s.cmdRoot 0 hist0) (0x87000 + 4 * histBin 0 (elemNum 0 0)) 4 .write with | .ok pas => (pas.find? s.isLost).isNone && !pas.any isHost | _ => false)

theorem wit_CopyReductionAndHistogramEvents : w_copy = true ∧ w_gather = true := ⟨by decide +kernel, by decide +kernel⟩

theorem wit_CopyReductionAndHistogramEvents_add : w_reduce = true ∧ w_reduceFull = true ∧ w_hist = true :=
  ⟨by decide +kernel, by decide +kernel, by decide +kernel⟩

def jcard0 (st : CmdState) (replays : Nat) : Cmd := { cmd0 with kind := .jcard, acc := some 1, st := st, replays := replays, desc := leBytes 64 card0, list := 0x61000 }

def w_card : Bool :=
  let m := jcard0 .running 0
  let s1 := sCmd m
  let root := s1.cmdRoot 0 m
  let s := (s1.acquire 0 2).cardReach 0 root card0 1
  s1.runningCmd 0 7 (fun k => k == .jcard) == some m && m.cardCore 0 == 0 && m.chan == 0 && !s.accLost 0 1 &&
    (match allOk ((List.range 4).map (fun i => s.bf16Row 0 root (cardQuery card0 + i * 8) 4)) with
     | .ok qs =>
       (match s.cardBlocks 0 root card0 qs 1 0 (qs.map (fun _ => { m := f32NegInf, l := 0, o := List.replicate 4 0 })) with
        | .ok ts => ts.length == 4
        | .error _ => false)
     | .error _ => false) &&
    (s.xlatSpan 0 root (cardOut card0) 64 .write).toOption == some (span 0x11000 64) &&
    (match s.openTile 0 root m (cardVersion card0) 2 with
     | .ok (some (t, m1)) =>
       (match cardStore 0 root (cardOut card0) 4 [(0, 0, 1), (3, 3, 2)] t with
        | .ok u => (u.closeTile 0 root m1 (cardVersion card0) 2).isOk
        | .error _ => false)
     | _ => false)

/-- The card is re-queued and core 1, which runs its launch too, is idle. -/
def sReplay (guests : List Guest) : State :=
  let s := sCmd { jcard0 .requeued 1 with n := 1 }
  s.putCore 1 { Core.fresh with teams := (s.core 0).teams, guests := guests }

def guest0 : Guest := { core := 0, cmd := 7, before := 0, running := false }

def w_replay : Bool := ((sReplay []).core 0).cmd 7 == some { jcard0 .requeued 1 with n := 1 } && ((sReplay []).hostOf 0 7).isNone &&
  (sReplay []).replayCore 0 { jcard0 .requeued 1 with n := 1 } == some 1 && decide (((sReplay []).core 1).inQueue 1 < 8) &&
  (sReplay [guest0]).hostOf 0 7 == some 1 && ((sReplay [guest0]).core 1).guest 0 7 == some guest0 && ((sReplay [guest0]).core 1).guestFirst guest0 &&
  ((sReplay [guest0]).core 1).matrixFree .jcard &&
  (sCmd (jcard0 .running 15)).runningCmd 0 7 (fun k => k == .jcard) == some (jcard0 .running 15)

theorem wit_JobCardEvents_replay : w_replay = true := by decide +kernel

theorem wit_JobCardEvents_complete : w_card = true := by decide +kernel

/-- A copy whose source is not mapped, one that chases an aborted tag, and an engine command without a tag. -/
def chaser : Cmd := { cpy0 with src := (some { geoOf 2 with chase := some (2, 1) }) }

def haltOk (m : Cmd) : Bool :=
  (sCmd m).runningCmd 0 7 (fun _ => true) == some m &&
    (match (sCmd m).cmdStep 0 m with
     | .fail f _ left => f.cause == 11 && (match (left.core 0).cmd 7 with | some w => decide (w.ctx < 4) && endsOnFault w.kind == (m.kind == .jcard) | none => false)
     | _ => false)

def w_halt : Bool := haltOk { cpy0 with kind := .cpyg, list := 0x40000000 }
def w_haltCard : Bool := haltOk { jcard0 .running 0 with desc := leBytes 64 (card0 + 0x40000000 * 2 ^ 460) }

/-- A command that has lost something it reads (R271). -/
def w_haltLost : Bool :=
  let m := { cpy0 with lost := true }
  ((sCmd m).core 0).cmd 7 == some m && m.st == .running && ((sCmd m).brokenAt 0 m) == some (.command 0 7) && !endsOnFault m.kind && decide (m.ctx < 4)

def w_abort : Bool := (sCmd chaser).runningCmd 0 7 (fun _ => true) == some chaser && (match (sCmd chaser).cmdStep 0 chaser with | .aborted t => t == 2 | _ => false) &&
  (match tget ((sCmd chaser).core 0).teams 0 with | some T => (T.tag 5).gen == 1 && (T.tag 5).state == .bound | none => false)

theorem wit_EngineFaultEvents_halt : w_halt = true := by decide +kernel

theorem wit_EngineFaultEvents_haltLost : w_haltLost = true := by decide +kernel

theorem wit_EngineFaultEvents_haltCard : w_haltCard = true := by decide +kernel

theorem wit_EngineFaultEvents_abort : w_abort = true := by decide +kernel

def block0 : Cmd := { cmd0 with kind := .ldblk, list := 0x80000, n := 32, tag := some (5, 1) }

def w_block : Bool := (sCmd block0).runningCmd 0 7 (fun k => k == .ldblk) == some block0 && (((sCmd block0).core 0).ctx 0).doneBelow 0 &&
  (((List.range 32).foldl (fun (s : State) (i : Nat) => s.noteSpan 0 ((sCmd block0).cmdRoot 0 block0) (0x80000 + 128 * i) 128) (sCmd block0)).blockFillLines
    0 ((sCmd block0).cmdRoot 0 block0) 0x80000 32 0 []).isOk && decide (((sCmd block0).die 0).present.length + 32 ≤ Config.sliceLines) &&
  (match tget ((sCmd block0).core 0).teams 0 with | some T => (T.tag 5).gen == 1 && (T.tag 5).state == .bound && (T.tag 5).n == 32 && decide ((T.tag 5).f ≤ 32) | none => false)

def gld0 : Cmd := { cmd0 with kind := .gld, chan := 1, n := 4, src := some (geoOf 1), dst := some (geoOf 2), tag := some (5, 1) }
def hold0 (released : Bool) (asks : List GroupAsk) (data : List Nat) : Hold :=
  { seq := 4, released := released, timedOut := false, mismatch := false, src := geoOf 1, dst := geoOf 2, asks := asks, data := data, halted := false }

def sHold (holds : List Hold) : State :=
  let s := sCmd gld0
  { s with launches := s.launches.map (fun e => (e.1, { e.2 with groups := [(1, { members := 4, hold := 64, joined := [(0, 0), (0, 1)], next := 5, holds := holds })] })) }

def groupReady (holds : List Hold) : Bool :=
  let s := sHold holds
  s.runningCmd 0 7 (fun k => k == .gld) == some gld0 && (match s.groupOf 0 gld0 with | some (l, key, g) => l == 0 && key == 1 && g.holds == holds | none => false) &&
    ((s.core 0).ctx 0).doneBelow 0

def w_group : Bool := groupReady [] && groupReady [hold0 false [{ core := 0, ctx := 1, cmd := 6, served := false }] []] &&
  !(hold0 false [{ core := 0, ctx := 1, cmd := 6, served := false }] []).holds 0 7 &&
  sameRequest (hold0 false [] []) (geoOf 1) (geoOf 2) && decide ((sHold []).holdsAt 0 ((sHold []).holdSlice 0 ((sHold []).cmdRoot 0 gld0) (geoOf 1)) < 256)

/-- The table of the source's slice is full of other requests. -/
def others256 : List Hold := (List.range 256).map (fun i => { hold0 false [] [] with seq := 100 + i })

/-- The holds of one group, all of one slice and none complete, are counted among those in use there. -/
theorem holds_le_holdsAt {s : State} {c l key : Nat} {v : Launch} {g : Group} {sl : Option (Nat × Nat)} (hl : (l, v) ∈ s.launches) (hg : (key, g) ∈ v.groups)
    (h : ∀ q ∈ g.holds, q.released = false ∧ s.holdSlice c v.root q.src = sl) : g.holds.length ≤ s.holdsAt c sl := by
  have e : g.holds.filter (fun q => !(q.released && g.complete q) && s.holdSlice c v.root q.src == sl) = g.holds :=
    List.filter_eq_self.2 (fun q hq => by simp [h q hq])
  have hin : ∀ (m : List Nat), ∀ n ∈ m, n ≤ m.sum := fun m n hn => List.single_le_sum (by simp) n hn
  have h1 := hin _ _ (List.mem_map_of_mem (f := fun (y : Nat × Group) => (y.2.holds.filter (fun q =>
    !(q.released && y.2.complete q) && s.holdSlice c v.root q.src == sl)).length) hg)
  have h2 := hin _ _ (List.mem_map_of_mem (f := fun (w : Nat × Launch) => (w.2.groups.map (fun y => (y.2.holds.filter (fun q =>
    !(q.released && y.2.complete q) && s.holdSlice c w.2.root q.src == sl)).length)).sum) hl)
  simp only [e] at h1
  exact h1.trans h2

/-- The member's own request, of a released hold: before a read, and with its first piece read. -/
def mine : List GroupAsk := [{ core := 0, ctx := 0, cmd := 7, served := false }]

def w_fill : Bool := groupReady [hold0 true mine []] && ((sHold [hold0 true mine []]).leader (hold0 true mine [])).map (fun a => (a.core, a.cmd)) == some (0, 7) &&
  !fillReady (geoOf 2) [] 0 && ((sHold [hold0 true mine []]).holdRead 0 gld0 (geoOf 1) (geoOf 2) []).isOk &&
  groupReady [hold0 true mine (List.replicate 32 0)] && fillReady (geoOf 2) (List.replicate 32 0) 0 &&
  decide (pieceEnd (travLine (geoOf 2).trav 8 4) (geoOf 2).w 0 32 < 32) &&
  (writeElems 0 ((sHold []).cmdRoot 0 gld0) 0 (geoOf 2) false none 0 ((List.range 8).map (holdElem (List.replicate 32 0))) (sHold [hold0 true mine (List.replicate 32 0)])).toOption.isSome

/-- A late member, which reads for itself. -/
def w_late : Bool :=
  let m := { gld0 with flags := 1 }
  let h := hold0 true mine (List.replicate 32 0)
  let s0 := sHold [h]
  let s := s0.modCore 0 (fun k => { k with cmds := [m] })
  s.runningCmd 0 7 (fun k => k == .gld) == some m && (match s.groupOf 0 m with | some (l, key, g) => l == 0 && key == 1 && g.holds == [h] | none => false) &&
    !fillReady (geoOf 2) m.chunks 0 && (s.holdRead 0 m (geoOf 1) (geoOf 2) m.chunks).isOk && !h.halted

theorem wit_BlockAndGroupEvents_full : (∀ q ∈ others256, q.seq ≠ gld0.n) ∧ 256 ≤ (sHold others256).holdsAt 0
    ((sHold others256).holdSlice 0 ((sHold others256).cmdRoot 0 gld0) (geoOf 1)) := by
  refine ⟨by decide +kernel, ?_⟩
  have hl : ∃ v, (0, v) ∈ (sHold others256).launches ∧ v.root = (sHold others256).cmdRoot 0 gld0 ∧ v.groups = [(1, _)] := ⟨_, .head _, by decide +kernel, rfl⟩
  obtain ⟨v, hv, hr, hg⟩ := hl
  have := holds_le_holdsAt (c := 0) (sl := (sHold others256).holdSlice 0 ((sHold others256).cmdRoot 0 gld0) (geoOf 1)) hv (hg ▸ List.Mem.head _) (fun q hq => by
    obtain ⟨i, _, rfl⟩ := List.mem_map.1 hq
    exact ⟨rfl, by rw [hr]; rfl⟩)
  simpa [others256] using this

theorem wit_BlockAndGroupEvents_late : w_late = true := by decide +kernel

theorem wit_BlockAndGroupEvents : w_block = true ∧ w_group = true ∧ w_fill = true :=
  ⟨by decide +kernel, by decide +kernel, by decide +kernel⟩

/-! ### Witnesses: events of contexts, teams, errors, power -/

def trap0 (c : Nat) : Trap := { cause := c, record := 0, cmd := none, unitWd := false, ask := false }

/-- Context 0 as given; the rest as for a single instruction. -/
def sCtx (f : Ctx → Ctx) : State := with0 s0 f

/-- Launch 0 as given. -/
def onLaunch (s : State) (f : Launch → Launch) : State := { s with launches := s.launches.map (fun e => (e.1, f e.2)) }

def w_retry : Bool := (({ s0 with turn := 0 } : State).anew).nextInstr == some .nop &&
  (s0.modCore 0 (fun k => { k with run := 4096 })).turnOver 0 (s0.core 0).cur == false

/-- Two contexts of one core run, and the first has had its turn. -/
def sTwo : State :=
  let s := withTeam (s0.modCtx 0 1 (fun _ => s0.ctx 0 0)) (fun T => { T with size := 2 })
  s.modCore 0 (fun k => { k with run := 4096 })

def w_turn : Bool := sTwo.turnOver 0 (sTwo.core 0).cur && ([1, 2, 3].find? (sTwo.core 0).canTry == some 1)

def w_sev : Bool :=
  let e : Sev := { ctx := 0, issuer := 3, until_ := 9, due := 9 }
  let s := s0.modCore 0 (fun k => { k with sevs := [e] })
  (s.core 0).sevs.find? (fun (e : Sev) => e.ctx == 0) == some e && ((s.core 0).teamOf 0).isSome

def w_exit : Bool :=
  let s := withTeam (sCtx (fun v => { v with status := .exiting })) (fun T => { T with tags := [(3, tagOf .bound 13 2 4)] })
  (s.ctx 0 0).status == .exiting && !s.undrained 0 0 && (s.ctx 0 0).pending.isEmpty &&
    (match (s.core 0).teamOf 0 with | some (0, T) => (T.tag 3).state == .bound && (T.tag 3).producer == 13 && (T.tag 3).binder == 0 | _ => false)

/-- The unit has, or has not, run out of its time, and may be rerun `limit` times. -/
def sOver (expired : Bool) (limit : Nat) : State :=
  onLaunch (sCtx (fun v => { v with status := .exited })) (fun v => { v with
    rerunLimit := limit, units := [(0, { state := .resident 0 0, reruns := 0, die := 0, expired := expired })] })

/-- A unit of a class 2 launch, expired, that may be rerun. -/
def sAgain : State := onLaunch (sOver true 1) (fun v => { v with hdr := v.hdr ||| BitVec.ofNat 512 (2 ^ 63) })

def w_again : Bool := (match tget (sAgain.core 0).teams 0 with
  | some T => (match sAgain.launchOf T.launch with
    | some v => (v.unitRec T.unit).expired && decide ((v.unitRec T.unit).reruns < v.rerunLimit) && hdrClass v.hdr == 2 && !v.ended
    | none => false)
  | none => false)

def w_over : Bool := [sOver false 0, sOver true 1, sOver true 0, sAgain].all (fun s =>
  (match tget (s.core 0).teams 0 with
   | some T => decide (0 + T.size ≤ 4) && (s.launchOf T.launch).isSome && (T.members 0).all (fun y => (s.ctx 0 y).status == .exited)
   | none => false) && (s.core 0).cmds.all (fun m => m.team != 0))

def w_deliver : Bool := [sCtx (fun v => { v with pending := [trap0 18] }), sCtx (fun v => { v with pending := [trap0 18], status := .exiting }),
    sCtx (fun v => { v with pending := [trap0 18], status := .service (trap0 11) }), sCtx (fun v => { v with pending := [trap0 18], parks := [(5, 0)] })].all (fun s =>
  (s.ctx 0 0).pending == [trap0 18] && (s.ctx 0 0).handler.isNone && !(trap0 18).ask && (s.recordPlace 0 0).isOk &&
    (match (s.core 0).teamOf 0 with | some (_, T) => !T.stopping | none => false))

def w_service : Bool := [false, true].all (fun ask =>
  let s := sCtx (fun v => { v with status := .service { trap0 11 with ask := ask } })
  (s.ctx 0 0).status == .service { trap0 11 with ask := ask } && (s.ctx 0 0).parks.isEmpty && (s.ctx 0 0).handler.isNone && (s.recordPlace 0 0).isOk)

def w_limit : Bool :=
  let s := onLaunch s0 (fun v => { v with unitLimit := 1000 })
  match tget (s.core 0).teams 0 with
  | some T => (match s.launchOf T.launch with | some v => v.unitLimit != 0 && !v.ended && !(v.unitRec T.unit).expired | none => false) && !T.stopping &&
      (s.core 0).cmds.all (fun m => m.opened.isNone)
  | none => false

/-- A parked context with nothing outstanding has no access left that could be performed inside the core. -/
theorem wit_ContextAndTeamEvents_parked : ∀ y : Ctx, y.ops = [] → y.innerReady = none := fun y h => by simp [Ctx.innerReady, h]

/-- Two traps due in one cycle, of codes 14 and 18. -/
theorem wit_ContextAndTeamEvents_order : hbits (trap0 18).record 64 64 = hbits (trap0 14).record 64 64 ∧ (trap0 14).cause < (trap0 18).cause := by decide +kernel

theorem wit_ContextAndTeamEvents_issue : w_retry = true ∧ w_turn = true ∧ w_sev = true := by decide +kernel

theorem wit_ContextAndTeamEvents_exit : w_exit = true ∧ w_over = true ∧ w_again = true := by decide +kernel

theorem wit_ContextAndTeamEvents_trap : w_deliver = true ∧ w_service = true ∧ w_limit = true := by decide +kernel

theorem wit_ErrorPowerAndBootEvents : ({ State.reset with powered := false } : State).powered = false ∧ Instr.nop ≠ .moduleReset ∧
    State.reset.powered = true ∧ State.reset.platform.transients = [] ∧ State.reset.platform.boot = 0 ∧ ({ s0 with platform := { s0.platform with boot := 4 } } : State).platform.boot ≠ 0 ∧
    siteExists (.register 300 0 0) = false ∧ siteExists (.hbm 0x60000) = true ∧ siteExists (.register 255 3 559) = true ∧
    siteExists (.cacheLine (.slice 3 47) 0x60000 true) = true ∧ siteExists (.cacheLine (.l1 255) 0x60000 false) = true ∧
    siteExists (.cacheLine (.l1 255) 0x60000 true) = false ∧ siteExists (.channel 255 255) = true ∧ siteExists (.meshBuffer 0 0 1) = true ∧
    siteExists (.barrier 255 3 15) = true ∧ siteExists (.localStore 255 127) = true := by
  decide +kernel

/-! ### Witnesses: events of host queues and launches -/

/-- A ring of 16 packets at 0xA0000, enabled, at priority 2; queue 3 has one packet to take and holds slot 0. -/
def ring0 : HostQueue := { HostQueue.reset with ringBase := 0xA0000, control := 0x1204, notify := 1, slot := some 0 }

def sRing (p : W512) (f : HostQueue → HostQueue) : State :=
  { s0 with mem := mwrite s0.mem 0xA0000 (leBytes 64 p.toNat), queues := [(3, f ring0)] }

/-- A packet: kind, completion address, value, address, the rest. -/
def packet (kind completion value address rest : Nat) : W512 :=
  BitVec.ofNat 512 (kind + completion * 2 ^ 160 + value * 2 ^ 384 + address * 2 ^ 464 + rest)

def w_register : Bool :=
  let v := (sRing 0 id).queue 3
  v.size == 16 && v.reason == 0 && decide (v.readIndex ≤ 5) && decide (5 ≤ v.readIndex + v.size) && decide (v.readIndex + v.size < 17) &&
    decide (((sRing 0 (fun u => { u with readIndex := 4, notify := 4 })).queue 3).readIndex = 4) && v.graph.isNone &&
    (0x1204 : W64).getLsbD 12 && controlOk 0x1204 && (0x1203 : W64).getLsbD 12 && !controlOk 0x1203 && !(0x0204 : W64).getLsbD 12

/-- An empty graph's worth of state: one node, a launch. -/
def graph0 : Graph := { nodes := [packet 1 0 0 0 0], edges := [], completion := 0xA1000, bytes := 128 }
def run0 : GraphRun := { trigger := 0, begun := false, started := [], done := [] }

/-- Every slot is taken by a queue of priority 1, and queue 3, or none, wants one. -/
def sFullSlots : State :=
  { s0 with queues := (3, { ring0 with slot := none }) :: (List.range 32).map (fun n => (100 + n, { ring0 with control := 0x1104, slot := some n })) }

def w_bind : Bool :=
  let s := sRing 0 (fun v => { v with slot := none })
  s.nextBound == some 3 && s.slotsUsed.isEmpty && (s0.nextBound != some 3) && decide (32 ≤ sFullSlots.slotsUsed.length) && (sFullSlots.queue 100).slot.isSome &&
    sFullSlots.wanting.any (fun (e : Nat × HostQueue) => decide ((sFullSlots.queue 100).prio ≤ e.2.prio)) &&
    ((sRing 0 (fun v => { v with graph := some graph0 })).queue 3).graph.isSome &&
    ((sRing 0 (fun v => { v with graph := some graph0, runs := List.replicate 5 run0 })).queue 3).runs.length == 5

def w_head : Bool := [packet 0 0 0 0 0, packet 7 0 0 0 0].all (fun p => (sRing p id).headPacket 3 == some p && (pkKind p == 0 || pkKind p == 7)) &&
  (let v := (sRing 0 id).queue 3; v.slot.isSome && v.reason == 0 && v.waiting.isNone && decide (v.readIndex < v.notify))

theorem wit_HostRegisterAndSlotEvents : w_register = true ∧ w_bind = true ∧ w_head = true := by decide +kernel

/-- WAITV on the word at 0xB0000, which reads 0, to be at least 0, and at least 5. -/
def pkWaitv (v : Nat) : W512 := packet 3 0xA1000 v 0xB0000 (2 * 2 ^ 10)

def w_waitv : Bool := [0, 5].all (fun n =>
  let s := sRing (pkWaitv n) id
  let u := sRing (pkWaitv n) (fun v => { v with waiting := some (0, pkWaitv n), readIndex := 1, open_ := [0] })
  s.mem.wf && s.takeable 3 3 == some (pkWaitv n) && Machine.packetOk (pkWaitv n) && s.sysNat 0xB0000 8 == some 0 &&
    waitHolds (pkSelector (pkWaitv n)) 0 (BitVec.ofNat 64 n) == (n == 0) && (s.sysRead 0xA1000 32).isSome &&
    (u.queue 3).waiting == some (0, pkWaitv n) && (u.queue 3).slot.isSome)

def signalP : W512 := packet 4 0 77 0xB0000 0

def w_signal : Bool :=
  let s := sRing signalP id
  s.takeable 3 4 == some signalP && Machine.packetOk signalP && (s.queue 3).signals.isEmpty && (s.queue 3).open_.isEmpty && pkCompletion signalP == 0 &&
    (s.sysRead 0xB0000 8).isSome &&
    (let u := sRing signalP (fun v => { v with readIndex := 1, notify := 2, open_ := [0], ringBase := 0x9FFC0 })
     u.takeable 3 4 == some signalP && (u.queue 3).open_.any (fun j => decide (j < 1))) &&
    (let u := sRing 0 (fun v => { v with readIndex := 2, open_ := [1], signals := [(1, signalP)] })
     (u.queue 3).signals == [(1, signalP)] && (u.queue 3).open_.all (fun (n : Nat) => decide (1 ≤ n)))

/-- BARRIER on queue 4 having reached index 0, and index 9. -/
def barrierP (n : Nat) : W512 := BitVec.ofNat 512 (5 + 0xA1000 * 2 ^ 160 + (2 ^ 63 + 4 * 2 ^ 53 + n) * 2 ^ 256)

def w_barrier : Bool := [0, 9].all (fun n =>
  let s := { sRing (barrierP n) id with queues := [(3, ring0), (4, { ring0 with slot := none, readIndex := 1 })] }
  s.takeable 3 5 == some (barrierP n) && barrierOk (barrierP n) && (s.takeWaiting 3 (barrierP n)).barrierHolds 3 (barrierP n) == (n == 0))

/-- The image of a graph of one node at 0xB0000. -/
def sGraph (p : W512) (f : HostQueue → HostQueue) : State :=
  let s := sRing p f
  { s with mem := mwrite (mwrite s.mem 0xB0000 (leBytes 64 (1 + 0xA1000 * 2 ^ 64))) 0xB0040 (leBytes 64 1) }

def graphP : W512 := packet 2 0xA2000 0 0xB0000 0

def w_graph : Bool := [graphP, packet 2 0xA2000 0 0xB0000 (2 ^ 12), packet 2 0xA2000 0 0xC0000 0].all (fun p => (sGraph p id).takeable 3 2 == some p) &&
  Machine.packetOk graphP && !Machine.packetOk (packet 2 0xA2000 0 0xB0000 (2 ^ 12)) && (sGraph graphP id).readGraph 0xC0000 == none &&
  (sGraph graphP id).readGraph 0xB0000 == some { nodes := [1], edges := [], completion := 0xA1000, bytes := 128 } &&
  decide (((sGraph graphP id).modQueue 3 HostQueue.take).graphBytes 3 + 128 ≤ 8388608) &&
  decide (8388608 < (({ sGraph graphP id with queues := [(3, ring0), (4, { ring0 with graph := some { graph0 with bytes := 8388600 } })] } :
    State).modQueue 3 HostQueue.take).graphBytes 3 + 128) &&
  ((sGraph graphP (fun v => { v with runs := [run0] })).queue 3).runs == [run0] && ((sGraph graphP id).queue 3).nextGraphs.isEmpty

theorem wit_QueuePacketEvents_waits : w_waitv = true ∧ w_barrier = true := by decide +kernel

theorem wit_QueuePacketEvents_acts : w_signal = true ∧ w_graph = true := ⟨by decide +kernel, by decide +kernel⟩

/-- A header: `n` units on the cores of a die, of a class and a priority. -/
def headerOf (n cls prio : Nat) : W512 :=
  BitVec.ofNat 512 (slotCode * 2 ^ 460 + slotHandler * 2 ^ 396 + n * 2 ^ 64 + cls * 2 ^ 62 + prio * 2 ^ 60 + 1 * 2 ^ 57 + 2 * 2 ^ 45 + 31 * 2 ^ 38 +
    31 * 2 ^ 33 + 4 * 2 ^ 26)

/-- LAUNCH of the header at 0xB0000 under the tables of `s0`, on die 0, its record at 0xA1000. -/
def launchP (reserved : Nat) : W512 :=
  BitVec.ofNat 512 (0xB0000 * 2 ^ 460 + 0x60000 * 2 ^ 268 + slotRoot * 2 ^ 208 + 0xA1000 * 2 ^ 160 + reserved * 2 ^ 24 + 1 * 2 ^ 16 + 1)

def sLaunch (p : W512) (f : HostQueue → HostQueue) : State :=
  let s := sRing p f
  { s with mem := mwrite s.mem 0xB0000 (leBytes 64 (headerOf 1 0 0).toNat) }

def checked (s : State) (p : W512) : Option Nat :=
  let u : State := { s.modQueue 3 HostQueue.take with epochs := s.epochs + 1 }
  match u.checkLaunch p (Launch.ofPacket p (BitVec.ofNat 64 s.epochs) 3 0 none) with | .ok _ => none | .error r => some r

def w_take : Bool := [(launchP 0, none), (launchP 1, some 2)].all (fun e =>
  let s := sLaunch e.1 id
  s.takeable 3 1 == some e.1 && s.platform.ckpt.isNone && checked s e.1 == e.2 && (s.sysRead 0xA1000 32).isSome && s.mem.wf)

/-- Two nodes that launch, the second after the first; a run that has begun, the first node done. -/
def graph2 (p : W512) : Graph := { nodes := [launchP 0, p], edges := [(0, 1)], completion := 0, bytes := 196 }
def sRun (g : Graph) (r : GraphRun) : State := sLaunch 0 (fun v => { v with graph := some g, runs := [r] })

def w_run : Bool :=
  let t := 2 ^ 52 + 0xC0000
  let s := sRun (graph2 (launchP 0)) { run0 with trigger := BitVec.ofNat 64 t }
  let r1 := { run0 with begun := true, started := [0], done := [(0, { status := 0, cause := 0, tpc := 0 })] }
  let r0 := { run0 with begun := true }
  let node := fun (s : State) (p : W512) (n : Nat) (r : GraphRun) =>
    (({ s.putQueue 3 { s.queue 3 with runs := [{ r with started := r.started ++ [n] }] } with epochs := s.epochs + 1 } : State).checkLaunch p
      (Launch.ofPacket p (BitVec.ofNat 64 s.epochs) 3 0 (some n))).toOption.isSome
  let bad : State := { s with mem := mwrite s.mem 0xC0000 (leBytes 16 7) }
  (bad.patches (BitVec.ofNat 64 t)).all (fun l => !l.all (fun (a : Nat × Nat × Nat) => decide (a.1 < 2) && a.2.1 % 8 == 0)) &&
    s.patches (BitVec.ofNat 64 t) == some [(0, 0, 0)] && (s.queue 3).slot.isSome &&
    node (sRun (graph2 (launchP 0)) r1) (launchP 0) 1 r1 && !node (sRun { graph2 (launchP 0) with nodes := [launchP 1, launchP 0] } r0) (launchP 1) 0 r0

def w_done : Bool := [none, some 0].all (fun n =>
  let s := onLaunch (sRing 0 id) (fun v => { v with ended := true, node := n, completion := 0xA1000, units := [] })
  let s := s.putCore 0 { s.core 0 with teams := [] }
  match s.launchOf 0 with | some v => s.launchOver 0 v && v.node == n && (s.sysRead (v.completion / 32 * 32) 32).isSome | none => false)

theorem wit_LaunchAndGraphRunEvents_launch : w_take = true ∧ w_done = true := by decide +kernel

theorem wit_LaunchAndGraphRunEvents_run : w_run = true := by decide +kernel

/-! ### Witnesses: events of the dispatcher and the firmware -/

/-- Launch 1, of `n` units of a class and a priority, on die 0; core 1 is free, core 0 runs launch 0. -/
def sWait (n cls : Nat) : State :=
  { s0 with launches := tput s0.launches 1 { slotLaunch with hdr := headerOf n cls 0, epoch := 1, groupWords := [], units := [], budget := 100 } }

def launch1 (s : State) (p : Launch → Bool) : Bool := match s.launchOf 1 with | some v => p v | none => false

def w_dispatch : Bool := launch1 (sWait 1 0) (fun v =>
    v.nextUnit 0 == some 0 && ((sWait 1 0).nextResume 0).isNone && (sWait 1 0).canStart 1 v 0 && dieOf 1 == 0 &&
    !((sWait 1 0).launches.any (fun (e : Nat × Launch) => e.1 != 1 && e.2.before v && (sWait 1 0).canStart e.1 e.2 0)) && hdrClass v.hdr != 2 &&
    (v.coresFor 0 0).contains 1 && ((sWait 1 0).fit 1 v.hdr 1 0 false).isSome && (pairOf v.hdr 0).isNone)

def w_startAll : Bool := launch1 (sWait 2 2) (fun v =>
    v.nextUnit 0 == some 0 && (sWait 2 2).canStart 1 v 0 && hdrClass v.hdr == 2 && (startAll 1 v (hdrUnits v.hdr) 0 (sWait 2 2)).isSome)

def w_preload : Bool := launch1 (sWait 1 0) (fun v =>
    (sWait 1 0).nextFor 1 v 0 1 && !((sWait 1 0).core 1).retired && ((sWait 1 0).imageRead v.root v.hdr).isOk)

/-- The cores of die 0 but core 0 are retired; a unit of launch 1, of priority 1, waits, and the team of launch 0, of a class, is in its way. -/
def sPressed (cls : Nat) (hint : BitVec 27) (f : Team → Team) : State :=
  let s := withTeam (sCtx (fun v => { v with budget := hint })) f
  { s with
    cores := (0, s.core 0) :: ((List.range 63).map (fun n => (n + 1, { Core.fresh with retired := true })))
    launches := tput (tput s.launches 0 { slotLaunch with hdr := headerOf 1 cls 0, budget := 100 }) 1
      { slotLaunch with hdr := headerOf 1 0 1, epoch := 1, groupWords := [], units := [], budget := 100 } }

def w_evict : Bool := [0, 5].all (fun hint =>
  let s := sPressed 0 hint id
  match tget (s.core 0).teams 0, s.launchOf 0 with
  | some T, some v => T.launch == 0 && decide (0 + T.size ≤ 4) && !s.stoppingOn 0 && s.evictable 0 0 0 T v && hdrClass v.hdr != 2 && v.budget != 0 &&
      !T.stopping && !(v.unitRec T.unit).expired && s.launches.any (fun (e : Nat × Launch) => e.1 != 0 && s.waitsAt e.1 e.2 0) &&
      ((s.stopsWith 0 0).any (fun (p : Nat × Nat) => s.hinted p.1 p.2) == (hint != 0))
  | _, _ => false)

def w_deferred : Bool := match tget ((sPressed 0 5 (fun T => { T with deferred := true })).core 0).teams 0 with | some T => T.deferred | none => false

/-- A team that leaves with this one is in the midst of a reduce-drain's piece. -/
def pieceOpen (s : State) (b : Nat) (T : Team) (v : Launch) : Bool :=
  (s.leaving 0 b T v).any (fun (p : Nat × Nat) => (s.core p.1).cmds.any (fun (m : Cmd) => m.team == p.2 && m.inPiece))

def w_save : Bool := [0, 1].all (fun cls =>
  let s := sPressed cls 0 (fun T => { T with stopping := true })
  match tget (s.core 0).teams 0, s.launchOf 0 with
  | some T, some v => T.stopping && !v.ended && hdrClass v.hdr == cls && (s.core 0).together 0 == [0] &&
      !pieceOpen s 0 T v
  | _, _ => false) &&
  (let s := (sPressed 0 0 (fun T => { T with stopping := true })).modCore 0 (fun k => { k with cmds := [{ cmd0 with kind := .drain, chunks := [1] }] })
   match tget (s.core 0).teams 0, s.launchOf 0 with
   | some T, some v => pieceOpen s 0 T v
   | _, _ => false)

/-- The unit, of class 1, has run out of its time; it may be rerun `limit` times. -/
def w_saveExpired : Bool := [0, 1].all (fun limit =>
  let s := onLaunch (sPressed 1 0 (fun T => { T with stopping := true })) (fun v => { v with
    rerunLimit := limit, units := [(0, { state := .resident 0 0, reruns := 0, die := 0, expired := true })] })
  match tget (s.core 0).teams 0, s.launchOf 0 with
  | some T, some v => T.stopping && !v.ended && hdrClass v.hdr == 1 && !pieceOpen s 0 T v && (v.unitRec T.unit).expired &&
      decide ((v.unitRec T.unit).reruns < v.rerunLimit) == (limit == 1)
  | _, _ => false)

/-- A unit of launch 0 with a lower index waits to be resumed, and finds no room. -/
def w_displaced : Bool :=
  let s := sPressed 1 0 (fun T => { T with unit := 1, size := 4 })
  let s := onLaunch s (fun v => if v.epoch = 0 then { v with
    hdr := headerOf 2 1 0
    units := [(0, { state := .waiting, reruns := 0, die := 0, expired := false, preempted := true }), (1, { state := .resident 0 0, reruns := 0, die := 0, expired := false })] } else v)
  match tget (s.core 0).teams 0, s.launchOf 0 with
  | some T, some v => s.displaced 0 T v && !s.stoppingOn 0
  | _, _ => false

/-- The team of launch 0 has been saved, and core 0 is free. -/
def sSaved : State :=
  let s := onLaunch s0 (fun v => { v with hdr := headerOf 1 0 0, units := [(0, { state := .saved 0, reruns := 0, die := 0, expired := false })] })
  let T := match tget (s.core 0).teams 0 with | some T => [T] | none => []
  { s with
    saved := T.map (fun T => { launch := 0, unit := 0, die := 0, base := 0, team := T, ctxs := [(s.ctx 0 0)], cmds := [], accs := none, barriers := [],
                               xf := (s.core 0).xf, chans := [], chanImage := none, chanRoot := 0, lostChans := [] })
    cores := [(0, Core.fresh)] }

def w_resume : Bool := match sSaved.nextResume 0 with
  | some (l, u) => l == 0 && u == 0 && (match sSaved.savedUnit l u with
    | some S => S.base == 0 && (sSaved.restoreFit S 0).isSome && (sSaved.savedPair S).isNone && S.ctxs.length == 1
    | none => false)
  | none => false

theorem wit_DispatchAndPreemptionEvents_start : w_dispatch = true ∧ w_preload = true := by decide +kernel

theorem wit_DispatchAndPreemptionEvents_all : w_startAll = true := by decide +kernel

theorem wit_DispatchAndPreemptionEvents_stop : w_evict = true ∧ w_deferred = true ∧ w_save = true ∧ w_saveExpired = true ∧ w_displaced = true := by decide +kernel

theorem wit_DispatchAndPreemptionEvents_resume : w_resume = true := by decide +kernel

/-- A FIRMWARE packet; the firmware runs. -/
def pkFirmware (selector completion value address result : Nat) : W512 :=
  packet 6 completion value address (selector * 2 ^ 10 + result * 2 ^ 208)

def sFirm (p : W512) : State := { sRing p id with platform := { s0.platform with boot := 4 } }

def w_firm : Bool := [pkFirmware 0 0 7 0 0, pkFirmware 1 0 0 0 0, pkFirmware 2 0 0 0xB0000 0xC0000, pkFirmware 3 0 0 0 0].all (fun p =>
  (sFirm p).takeable 3 6 == some p && firmwareOk p == (pkSelector p != 3) && (sFirm p).firmwareUp && (sFirm p).platform.ckpt.isNone && pkCompletion p == 0) &&
  ((sFirm 0).sysRead 0xB0000 128).isSome && ((sFirm 0).sysRead 0xC0000 8).isSome && ((sFirm 0).sysRead (2 ^ 48 - 1) 128).isNone &&
  (sFirm (pkFirmware 2 0 0 (2 ^ 48 - 1) 0)).takeable 3 6 == some (pkFirmware 2 0 0 (2 ^ 48 - 1) 0)

def ckpt0 (restore : Bool) (stage : Nat) : Checkpoint :=
  { queue := 3, packet := 0, desc := pkFirmware (if restore then 1 else 0) 0 0 0 0, restore := restore, stage := stage }

def safe0 : SafeImage := { mem := [(5, 1)], epoch := 9, queues := [], graphs := [], digests := [], lost := [] }

def sCkpt (restore : Bool) (stage : Nat) (busy : Bool) : State :=
  let s := sRing 0 id
  { s with launches := if busy then s.launches else []
           platform := { s.platform with boot := 4, ckpt := some (ckpt0 restore stage)
                                         safe := [(0, safe0)] } }

def w_ckpt : Bool := [(true, 0, true), (false, 0, false), (true, 0, false), (false, 1, false), (true, 1, false)].all (fun e =>
  let s := sCkpt e.1 e.2.1 e.2.2
  s.platform.ckpt == some (ckpt0 e.1 e.2.1) && pkCompletion (ckpt0 e.1 e.2.1).desc == 0 && s.launches.isEmpty == !e.2.2)

/-- The packet names a tier where its descriptor, at 0, is of some length that the memory holds. -/
theorem wit_FirmwareEvents_tier (h : Config.tierBytes ≤ 4096) : ∃ n, ((sCkpt true 1 false).tierOf (ckpt0 true 1).desc).bind (tget [(n, safe0)]) = some safe0 := by
  have hp : pkAddress (ckpt0 true 1).desc = 0 := by decide +kernel
  have hl : (sCkpt true 1 false).platform.lost = [] ∧ (sCkpt true 1 false).platform.retiredPages = [] := ⟨rfl, rfl⟩
  have hs : (span 0 Config.tierBytes).all (fun a => physExists a && !(sCkpt true 1 false).isLost a) = true := by
    simp only [List.all_eq_true, span, List.mem_map, List.mem_range]
    rintro _ ⟨i, hi, rfl⟩
    simp only [State.isLost, hl.1, hl.2, physExists, Config.deviceTop]
    simp; omega
  refine ⟨Config.tierName (mread (sCkpt true 1 false).mem 0 Config.tierBytes), ?_⟩
  simp only [State.tierOf, hp, State.sysRead, hs, if_true, Option.map_some, Option.bind_some]
  simp [tget]

/-- No tier holds an image. -/
theorem wit_FirmwareEvents_noTier : (let s := sCkpt true 1 false
    let t : State := { s with platform := { s.platform with safe := [] } }
    (t.tierOf (ckpt0 true 1).desc).bind (tget t.platform.safe)) = none := by
  cases (sCkpt true 1 false).tierOf (ckpt0 true 1).desc <;> simp [tget, sCkpt, Option.bind] <;> split <;> rfl

/-- The same with a completion record: what fails writes it. -/
def w_failed : Bool := [(true, 0, true), (false, 1, false)].all (fun e =>
  let k := { ckpt0 e.1 e.2.1 with desc := pkFirmware (if e.1 then 1 else 0) 0xA1000 0 0 0 }
  let s := sCkpt e.1 e.2.1 e.2.2
  let s : State := { s with platform := { s.platform with ckpt := some k } }
  s.platform.ckpt == some k && pkCompletion k.desc == 0xA1000 && s.launches.isEmpty == !e.2.2 && s.mem.wf &&
    (s.sysRead (pkCompletion k.desc / 32 * 32) 32).isSome)

/-- A checkpoint whose descriptor lies outside the memory names no tier. -/
theorem wit_FirmwareEvents_noDescriptor (h : 0 < Config.tierBytes) : (sCkpt false 1 false).tierOf (pkFirmware 0 0 0 (0xF000000000) 0) = none := by
  have hp : pkAddress (pkFirmware 0 0 0 (0xF000000000) 0) = 0xF000000000 := by decide +kernel
  have hx : ¬ (span (0xF000000000) Config.tierBytes).all (fun a => physExists a && !(sCkpt false 1 false).isLost a) = true := by
    intro ha
    have h0 := List.all_eq_true.mp ha (0xF000000000) (by
      simp only [span, List.mem_map, List.mem_range]; exact ⟨0, h, rfl⟩)
    simp [physExists, isHost, Config.hostBit, Config.deviceTop] at h0
  simp only [State.tierOf, hp, State.sysRead, hx]
  rfl

theorem wit_FirmwareEvents_failed : w_failed = true := by decide +kernel

theorem wit_FirmwareEvents : w_firm = true ∧ w_ckpt = true := by decide +kernel

/-- An invalidation record at 0xB0000: of the page at VA 0x60000 under the root of `s0`, its word at 0xC0000; and one out of form. -/
def sInval (record : Nat) (ops : Bool) : State :=
  let s := sRing 0 id
  let s := { s with mem := mwrite s.mem 0xB0000 (leBytes 32 record), platform := { s.platform with boot := 4, inval := [0xB0000] } }
  let s := s.modCore 0 (fun k => { k with tlb := [{ root := slotRoot, va := 0, size := 0x20000000, pa := 0, w := true, x := true }] })
  if ops then with0 s (fun v => { v with ops := [{ id := 1, kind := .load false 0 none, bytes := [(0x60000, 0)], writes := [], ord := 0, scope := 0, bundle := 0, va := 0x60000 }] }) else s

def inval0 : Nat := 0x60000 * 2 ^ 204 + 0x6FFFF * 2 ^ 140 + slotRoot * 2 ^ 80 + 0xC0000 * 2 ^ 16

def w_inval : Bool := [(inval0, false), (inval0, true), (inval0 + 1, false)].all (fun e =>
  let s := sInval e.1 e.2
  s.platform.inval == [0xB0000] && s.firmwareUp && s.sysNat 0xB0000 32 == some e.1 && requestOk 0xB0000 e.1 == (e.1 == inval0) && s.platform.cut.isNone &&
    (let u := (s.removeEntries e.1).modPlatform (fun f => { f with cut := some (s.underWay e.1) })
     (u.stillUnderWay (s.underWay e.1) || u.serving (bits e.1 80 48)) == e.2 && u.platform.cut.isSome) && (s.sysRead 0xC0000 8).isSome && s.mem.wf)

/-- A fault service of the request's root is under way; the entries are gone, and what was under way through them is not over, or is. -/
def w_invalWaits : Bool :=
  (let s := with0 (sInval inval0 false) (fun v => { v with status := .service (trap0 11) })
   s.serving (bits inval0 80 48) && s.platform.cut.isNone) &&
  [true, false].all (fun ops =>
    let s := sInval inval0 true
    let w := s.underWay inval0
    let s := (sInval inval0 ops).modPlatform (fun f => { f with cut := some w })
    s.platform.cut == some w && s.stillUnderWay w == ops && s.platform.inval == [0xB0000])

theorem wit_ManagementEvents_waits : w_invalWaits = true := by decide +kernel

def w_manage : Bool := ({ s0.platform with signing := [(7, some 0)] } : Platform).signing == [(7, some 0)] && (List.replicate 16 (0 : W64)).length == 16 && (sFirm 0).firmwareUp && s0.platform.ckpt.isNone && (s0.launchOf 0).isSome &&
  ([{ kind := 0, site := .hbm 0, cycle := 5 }] : List LogEntry)[0 + 0]? == some { kind := 0, site := .hbm 0, cycle := 5 }

theorem wit_ManagementEvents : w_inval = true ∧ w_manage = true := by decide +kernel

/-! ### Witnesses: events of the mesh and the channels -/

/-- Channel `e` of core 0, on its image at 0x98000; one transfer of 128 bytes has arrived. -/
def chanLive (arrived : List (Nat × List Byte)) : Channel :=
  { core := 0, entry := chan0, imageVa := 0x98000, root := slotRoot, posted := 2, acked := 1, freed := 0, arrived := arrived, came := arrived.length, landing := [], state := 0, silent := 0 }

def sChan (m : Cmd) (arrived : List (Nat × List Byte)) : State := { sCmd m with channels := [(0, chanLive arrived), (1, chanLive arrived)] }

def chsend0 : Cmd := { cmd0 with kind := .chsend, src := (some { geoOf 2 with chase := none }), tag := none, chan := 0 }
def chrecv0 : Cmd := { cmd0 with kind := .chrecv, dst := some (geoOf 1), chan := 0, tag := some (5, 1) }
def mcst0 : Cmd := { chsend0 with kind := .mcst, desc := leBytes 16 set0 }
def rdld0 (buf : List Byte) : Cmd := { chrecv0 with kind := .rdld, desc := leBytes 24 load0, buf := buf }
def collC (n : Nat) (carry buf : List Byte) : Cmd :=
  { cmd0 with kind := .coll, src := some (geoOf 11), dst := some (geoOf 1), desc := leBytes 64 coll0, tag := some (5, 1), n := n, carry := carry, buf := buf }

def w_grants : Bool := match sGroup.launchOf 0 with
  | some v => (match v.grants[0]? with | some g => g.sendBuf.isEmpty && g.recvBuf.length == 1 | none => false)
  | none => false

/-- A payload to send with room on the way, and one on the way. -/
def sMoving : State := onLaunch sGroup (fun v => { v with
  grants := [{ word := 0, sendBuf := [1], moving := [2], recvBuf := [] }] })

def w_moving : Bool := match sMoving.launchOf 0 with
  | some v => (match v.grants[0]? with | some g => g.sendBuf == [1] && g.moving == [2] && decide (g.moving.length + g.recvBuf.length < 2) | none => false)
  | none => false

def w_arrive : Bool :=
  let s := sChan chrecv0 []
  let h := chanLive []
  h.state != 2 && (List.replicate 128 (0 : Byte)).length == chShape h.entry &&
    (chanLive [(1, []), (2, [])]).arrived.all (fun a => decide ((chanLive [(1, []), (2, [])]).came + 1 < a.1 + chDepth h.entry)) &&
    (match (s.noteSpan 0 slotRoot (chBuffer h.entry + chShape h.entry * (1 % chDepth h.entry)) 128).xlatSpan 0 slotRoot (chBuffer h.entry + chShape h.entry * (1 % chDepth h.entry)) 128 .write with
     | .ok pas => !pas.any s.isLost && !pas.any isHost | .error _ => false) &&
    s.stackRoom (stackOf 0x90000) && decide (h.acked < h.posted) && s.ackId 0 h == 2 && decide (chDone h.entry < 3) &&
    decide (3 ≤ chDone ({ h with entry := chan0 + BitVec.ofNat 256 (3 * 2 ^ 192) } : Channel).entry) &&
    (match ((((({ s.modChan 0 (fun (h : Channel) => { h with acked := 2 }) with outbox := [] } : State).acknowledgeCmds 0 2).noteSpan 0 slotRoot
      (0x98000 + 24) 8) : State)).xlatSpan 0 slotRoot (0x98000 + 24) 8 .write with | .ok pas => !pas.any s.isLost && !pas.any isHost | .error _ => false)

/-- A receive waits on a peer, with no transfer there, or goes on; the same of a saved team. -/
def sSilent : State :=
  let s := sChan chrecv0 []
  let T := match tget (s.core 0).teams 0 with | some T => [T] | none => []
  { s.modCore 0 (fun k => { k with cmds := [] }) with
    saved := T.map (fun T => { launch := 0, unit := 0, die := 0, base := 0, team := T, ctxs := [(s.ctx 0 0)], cmds := [chrecv0], accs := none, barriers := [],
                               xf := (s.core 0).xf, chans := [], chanImage := none, chanRoot := 0, lostChans := [] }) }

def w_silent : Bool :=
  let s := sChan chrecv0 []
  let t := sChan chrecv0 [(1, List.replicate 128 0)]
  s.chanUser [0] == some (0, chrecv0) && s.chanUser (s.setOf 0) == some (0, chrecv0) && s.waitsOn chrecv0 0 && t.chanUser [0] == some (0, chrecv0) &&
    t.chanUser (t.setOf 0) == some (0, chrecv0) && !t.waitsOn chrecv0 0 && (sSilent.chanUser [0]).isNone && sSilent.savedUser 0 == some chrecv0 &&
    (sSilent.chanUser (sSilent.setOf 0)).isNone && sSilent.waitsOn chrecv0 0

/-- No channel's number is below 0, so channel 0 is the one an expiry of its own timer names. -/
theorem expiring_zero (s : State) (m : Cmd) : s.expiring m 0 = 0 := by
  unfold State.expiring
  induction m.chanSet.filter (fun k => s.waitsOn m k && Config.choice s.free (910 + k)) with
  | nil => rfl
  | cons k l ih => rw [List.foldl_cons, show Nat.min 0 k = 0 from Nat.zero_min k]; exact ih

theorem wit_MeshAndChannelEvents_expiring : (sChan chrecv0 []).expiring chrecv0 0 = 0 ∧ sSilent.expiring chrecv0 0 = 0 := ⟨expiring_zero _ _, expiring_zero _ _⟩

def running2 (s : State) (m : Cmd) : Bool := s.runningCmd 0 7 (fun k => k.queue == some 2 && k != .coll) == some m && s.deadChan m == none

def w_send : Bool := [chsend0, mcst0].all (fun m =>
  let s := sChan m []
  match m.src with
  | some g => running2 s m && m.sent.isEmpty && (chanLive []).credit && g.space != 2 && (s.readHindered 0 m.team g (List.range (g.d0 * g.d1))).isNone &&
      ((s.reachElems 0 (s.cmdRoot 0 m) g (List.range (g.d0 * g.d1))).sendData 0 m g).isOk
  | none => false)

/-- A relay, whose transfer has come on channel 0 (the number its stream gives). -/
def w_relay : Bool :=
  let g := geoOf 6
  let m := { chsend0 with src := some g, chan := 1 }
  let s := sChan m [(1, List.replicate 128 0)]
  running2 s m && g.space == 2 && m.sent.isEmpty && (chanLive []).credit && (s.readHindered 0 m.team g (List.range (g.d0 * g.d1))).isNone &&
    s.oldest g.relayChan == some (1, List.replicate 128 0) && (s.core 0).nextTaker m g.relayChan &&
    (((s.consumeTransfer g.relayChan 1).core 0).cmd 7).isSome

theorem wit_MeshAndChannelEvents_relay : w_relay = true := by decide +kernel

/-- A receive that has no transfer yet, where one has come. -/
def w_takes : Bool := let s := sChan chrecv0 [(1, List.replicate 128 0)]
  running2 s chrecv0 && chrecv0.n == 0 && s.freshId 0 == some 1 && (s.core 0).nextTaker chrecv0 0

/-- Of a transfer of 512 bytes the first 256 have landed: the first piece of its receive is there, the last is not. -/
def w_landing : Bool :=
  let h := { chanLive [] with entry := BitVec.ofNat 256 (0x90000 * 2 ^ 76 + 100 * 2 ^ 48 + 4 * 2 ^ 40 + 512 * 2 ^ 24 + 3 * 2 ^ 16 + 5), landing := List.replicate 256 0 }
  let g := { geoOf 1 with d1 := 16 }
  let m := { chrecv0 with n := 1, dst := some g }
  chShape h.entry == 512 && h.pieceHere m g && !h.pieceHere { m with prog := 120 } g && h.landed 1 == (List.replicate 256 0, false)

def w_recv : Bool := [{ chrecv0 with n := 1 }, { chrecv0 with n := 1, prog := 24 }, { chrecv0 with n := 1, kind := .chred }].all (fun m =>
  let s := sChan m [(1, List.replicate 128 0)]
  running2 s m && (match m.dst with | some g => (chanLive [(1, List.replicate 128 0)]).pieceHere m g | none => false) &&
    (chanLive [(1, List.replicate 128 0)]).landed 1 == (List.replicate 128 0, true) && (match m.dst with
    | some g => (match s.recvPiece 0 m g (chFmt (chanLive []).entry) (chanWidth (chFmt (chanLive []).entry) g.xf)
        (fun j => chBuffer (chanLive []).entry + chShape (chanLive []).entry * (1 % chDepth (chanLive []).entry) + j) (List.replicate 128 0) with
      | .done u => (match (u.core 0).cmd 7 with | some w => (w.st == .finished) == (m.prog == 24) || m.kind == .chred | none => false) | _ => false)
    | none => false))

def w_reduceLoad : Bool := (let m := rdld0 []; let g := geoOf 1; running2 (sChan m []) m && xferBytes g.fmt g.w (g.d0 * g.d1) == 128) &&
  (let m := rdld0 (List.replicate 128 0); running2 (sChan m []) m &&
    (match (sChan m []).recvPiece 0 m (geoOf 1) (geoOf 1).fmt (geoOf 1).w (fun _ => 0) m.buf with | .done _ => true | _ => false))

def coll1 (s : State) (m : Cmd) : Bool := s.runningCmd 0 7 (fun k => k == .coll) == some m && s.deadChan m == none && decide (m.prog + 1 ≤ collSteps coll0)

def w_ring : Bool :=
  let p := collPlan coll0 1
  let c := List.replicate 64 (0 : Byte)
  (let m := collC 0 [] []; coll1 (sChan m []) m && p.own.isSome &&
    (match p.own with | some o => ((sChan m []).ownHindered 0 m o p.count).isNone && (((sChan m []).reachChunks 0 m o p.count).ownChunks 0 m o p.count).isOk | none => false)) &&
  (let m := { collC 0 c [] with puts := [(0, 0, c)] }; let s := sChan m []; coll1 s m && (match s.putPiece 0 m (geoOf 1) 0 0 c [] with | .done _ => true | _ => false)) &&
  (let m := collC 0 c []; let s := sChan m []; coll1 s m && (p.send == some 0 || p.send == some 1) && decide (m.n < s.collSends m p) && (chanLive []).credit) &&
  (let m := collC 1 c []; let s := sChan m [(1, List.replicate 128 0)]; coll1 s m && (p.recv == some 0 || p.recv == some 1) &&
    decide (s.collSends m p ≤ m.n) && decide (0 < s.collBytes m p) && m.next.isNone && (p.recv.bind s.oldest).isSome) &&
  (let m := collC 1 c (List.replicate 128 0); let s := sChan m []; coll1 s m && decide (s.collSends m p ≤ m.n) && decide (s.collBytes m p ≤ m.buf.length) &&
    (match s.collTake 0 m (geoOf 11) coll0 1 (stepBytes m.chunkBytes (s.planShape p.recv) (if p.recv.isSome then p.count else 0) m.buf) with
     | .done _ => true | _ => false)) &&
  (let m := { collC 1 c [] with next := some c }; let s := sChan m []; coll1 s m && decide (s.collSends m p ≤ m.n) &&
    (match s.collEnd 0 m (geoOf 1) coll0 1 c with | .done _ => true | _ => false))

theorem wit_MeshAndChannelEvents_mesh : w_grants = true ∧ w_moving = true ∧ (15 : Nat) < 16 := by decide +kernel

theorem wit_MeshAndChannelEvents_channel : w_arrive = true ∧ w_silent = true := by decide +kernel

theorem wit_MeshAndChannelEvents_send : w_send = true := by decide +kernel

theorem wit_MeshAndChannelEvents_receive : w_takes = true ∧ w_landing = true ∧ w_recv = true := by decide +kernel

theorem wit_MeshAndChannelEvents_reducingLoad : w_reduceLoad = true := by decide +kernel

theorem wit_MeshAndChannelEvents_ring : w_ring = true := by decide +kernel

/-! ### Decoding: a word of each instruction, its fields put together as the encoding tables of 12_encoding.md place them -/

def reads (l : List (Nat × Instr)) : Bool := l.all (fun p => decodeSyl none p.1 == some p.2 && decodeSyl none (p.1 + 2 ^ 31) == some p.2)

/-- One instruction of each class, bit by bit, a gap between fields. -/
theorem test_decodeBits : reads [(0b0_0001_0010111_00010_01010_10111_01000, .sel 2 10 23 8),
    (0b0_0010_0011_001_10_00000_10011_01111_011, .vfma 1 2 0 19 15 3),
    (0b0_0011_00000_10_00_01011_10010_100_00000, .exp2 2 0 11 18 4),
    (0b0_0100_0010000_10_11111_11111_00001_011, .vld 2 31 1 3),
    (0b0_0100_1010010_000001_0_0111011010110, .waitfImm 1 3798),
    (0b0_0110_00001_10111_01010_101_10_0_10_00_11, .packs 23 10 5 2 2 3),
    (0b0_0111_01000_011_1_10110_0000000000010, .nest 3 1 22 2),
    (0b0_1000_000000_1111_0011_001110_1111110, .cpy 15 3 14 126)] = true := by decide +kernel

theorem test_decode_scalar1 : reads [
    (0x08020620, .add 4 1 17), (0x081A5580, .sub 20 21 12), (0x0820D040, .mul 1 20 2), (0x08388CA0, .mulh 17 3 5), (0x0840A860, .mulhz 1 10 3),
    (0x085F0660, .div 30 1 19), (0x08611300, .divz 2 4 24), (0x0870B440, .rem 1 13 2), (0x088E8980, .remz 29 2 12), (0x0891B0E0, .and 3 12 7),
    (0x08A81FE0, .or 16 7 31), (0x08BC2020, .xor 24 8 1), (0x08C17BA0, .andn 2 30 29), (0x08D1D5E0, .shl 3 21 15), (0x08ED8EE0, .shr 27 3 23),
    (0x08FD77E0, .sra 26 29 31), (0x09075540, .min 14 21 10), (0x09109CA0, .max 1 7 5), (0x0921FC40, .minz 3 31 2), (0x09336840, .maxz 6 26 2),
    (0x094ECC00, .clz 29 19), (0x09518400, .ctz 3 1), (0x09682800, .popc 16 10), (0x09712AE8, .sel 2 10 23 8), (0x098EB9A4, .lea 29 14 13 4),
    (0x099C9620, .bfx 25 5 17), (0x09A0EFC0, .bfxz 1 27 30), (0x09BA1C60, .bins 20 7 3), (0x09CB8440, .adds 23 1 2), (0x09D8A660, .subs 17 9 19),
    (0x0A018AE0, .cmpeq 3 2 23), (0x0A119340, .cmpne 3 4 26)] = true := by decide +kernel

theorem test_decode_scalar2 : reads [
    (0x0A20A620, .cmplt 1 9 17), (0x0A32EE40, .cmple 5 27 18), (0x0A428440, .cmpltz 5 1 2), (0x0A511C80, .cmplez 2 7 4), (0x0A63C840, .cmpbit 7 18 2),
    (0x0A815C01, .cmpeqi 2 23 1), (0x0A91F107, .cmpnei 3 28 263), (0x0AA1A8CA, .cmplti 3 10 202), (0x0AB18AC3, .cmplei 3 2 523971),
    (0x0AC1880F, .cmpltzi 3 2 15), (0x0AD25998, .cmplezi 4 22 408), (0x0C0425F6, .addi 8 9 502), (0x0C187C19, .andi 16 31 25),
    (0x0C2187D6, .ori 3 1 524246), (0x0C312B3C, .xori 2 10 524092), (0x0C4EB002, .shli 29 12 2), (0x0C510C01, .shri 2 3 1),
    (0x0C61D839, .srai 3 22 57), (0x0C738BF0, .muli 7 2 524272), (0x0C8BB4EC, .mini 23 13 236), (0x0C967802, .maxi 12 30 2),
    (0x0E050003, .movi 10 3), (0x0E160003, .movup 12 3), (0x0E290003, .mfs 18 3), (0x0E34800F, .mts 9 15)] = true := by decide +kernel

theorem test_decode_vector : reads [
    (0x102183F7, .vadd 2 0 12 3 30 7), (0x1099961F, .vsub 1 2 12 22 3 7), (0x114515F2, .vmul 4 1 8 21 30 2), (0x1198137B, .vfma 1 2 0 19 15 3),
    (0x12398FCE, .vmin 3 2 12 15 25 6), (0x12CB572F, .vmax 4 2 26 23 5 7), (0x133BEE0C, .vadds 3 2 31 14 1 4), (0x13BBF559, .vsubs 3 2 31 21 11 1),
    (0x1438A926, .vcmpeq 3 2 5 9 4 6), (0x14E0FC49, .vcmplt 6 0 7 28 9 1), (0x1518F2F6, .vcmple 1 2 7 18 30 6), (0x15944B35, .vcvt 1 1 2 11 6 5),
    (0x16749B5A, .vsel 1 4 27 11 2), (0x16875182, .vand 1 26 17 16 2), (0x1697D0B5, .vor 1 30 16 22 5), (0x16A61372, .vxor 1 16 19 14 2),
    (0x16B83EC3, .vandn 2 1 30 24 3), (0x16C46C17, .vshl 1 3 12 2 7), (0x16D5497B, .vshr 1 10 9 15 3), (0x16E94D1C, .vsra 2 10 13 3 4),
    (0x16F5061F, .vrot 1 8 6 3 7), (0x17269B06, .vred 2 1 20 27 0 6), (0x17886907, .vmov 2 3 9 7), (0x17921719, .vbcast 0 16 23 3 1),
    (0x17A50F97, .vperm 1 8 15 18 7), (0x17B5A003, .vidx 1 13 3), (0x17C9211D, .vscan 2 9 1 3 5), (0x17D83DFB, .vext 2 1 29 31 3),
    (0x17E56815, .vins 1 11 8 2 5), (0x17F82007, .vtest 2 1 0 7)] = true := by decide +kernel

theorem test_decode_special : reads [
    (0x18217280, .exp2 2 0 11 18 4), (0x1861E1A0, .exp 2 0 15 1 5), (0x188602A0, .log2 0 1 16 2 5), (0x18D8CD60, .ln 1 2 6 13 3),
    (0x192467C0, .rcp 2 1 3 7 6), (0x195A4F60, .rsqrt 1 2 18 15 3), (0x19A56FC0, .sqrt 2 1 11 15 6), (0x19D931C0, .sin 1 2 9 17 6),
    (0x1A247380, .cos 2 1 3 19 4), (0x1A622FE0, .tanh 2 0 17 15 7), (0x1A9A7C80, .sigm 1 2 19 28 4), (0x1AE6E3E0, .gelu 2 1 23 3 7),
    (0x1B255A60, .silu 2 1 10 26 3), (0x1B519160, .erf 1 0 12 17 3)] = true := by decide +kernel

theorem test_decode_memory1 : reads [
    (0x200FC3C8, .ld8s 16 524232), (0x201F9001, .ld8z 4 1), (0x202FE2DD, .ld16s 24 523997), (0x203FCD9F, .ld16z 19 415), (0x204F8D22, .ld32s 3 290),
    (0x205FB9ED, .ld32z 14 493), (0x206FEEFB, .ld64 27 524027), (0x20809402, .st8 1 5 2), (0x209406CC, .st16 8 1 523980),
    (0x20A70C36, .st32 14 3 54), (0x20B6EC01, .st64 13 27 1), (0x210BFF0B, .vld 2 31 1 3), (0x2117E387, .vst 1 3 16 7), (0x2127EA17, .vlds 1 10 2 7),
    (0x213BED77, .vsts 2 13 14 7), (0x214BE3D7, .vgath 2 3 26 7), (0x215BE469, .vscat 2 4 13 1), (0x216449DB, .lld 1 2 9 27 3),
    (0x21782465, .lst 2 1 4 12 5), (0x2202792C, .ldblk 9 28 75), (0x22168000, .evblk 26), (0x222D0000, .gjoin 13), (0x22360000, .gleave 6),
    (0x224C2304, .gld 12 2 3 1), (0x225DE46C, .pfetch 27 25 108), (0x2300D071, .aadd 1 20 3 17), (0x23109D4F, .amin 1 7 10 15),
    (0x23208DB5, .amax 1 3 13 21), (0x2330CF6D, .aand 1 19 27 13), (0x2340AB14, .aor 1 10 24 20), (0x23508ED5, .axor 1 3 22 21),
    (0x2360D457, .axchg 1 21 2 23)] = true := by decide +kernel

theorem test_decode_memory2 : reads [
    (0x2377886E, .acas 15 2 3 14), (0x2380C1D3, .radd 1 16 14 19), (0x23905C3D, .raddf 23 1 29), (0x23A0F683, .rmax 1 29 20 3),
    (0x23B0D444, .rmin 1 21 2 4), (0x23C037CC, .vradd 13 30 12), (0x24003840, .qinit 14 2), (0x24107720, .qenq 29 25), (0x24203800, .qdeq 14),
    (0x24307C00, .qdeqw 31), (0x24403400, .qlen 13), (0x24868004, .dfr 1 20 4), (0x2499C004, .dfpop 2 14 4), (0x24A00000, .dfcnt),
    (0x25000003, .fence 3), (0x25165C9C, .waitv 3 23 4 28), (0x25204ED6, .waitfImm 1 3798), (0x252A3800, .waitfReg 40 24), (0x25302C00, .tany 11),
    (0x25401C00, .tall 7), (0x25507800, .tffr 30), (0x25604000, .tclr 1), (0x25790000, .fget 36), (0x25808200, .fpub 2 1), (0x259C4C00, .fbind 49 3),
    (0x26039580, .msend 28 43), (0x26129F00, .mrecv 20 62)] = true := by decide +kernel

theorem test_decode_tag : reads [
    (0x28275386, .unpk 19 21 1 3 6), (0x28512480, .unpks 8 18 2 1 0), (0x288BC386, .unpki 5 28 1 3 6)] = true := by decide +kernel

theorem test_decode_convert : reads [
    (0x3006E885, .pack 3 14 4 1 5), (0x306EAB23, .packs 23 10 5 2 2 3), (0x30AE6903, .pkmax 23 6 4 2 0 3), (0x30EFD882, .packi 23 29 4 1 2)] = true := by decide +kernel

theorem test_decode_control : reads [
    (0x38000000, .nop), (0x38573580, .prep 5 134165888), (0x38840000, .br 1), (0x38C80000, .brn 2), (0x39000001, .jmp 1), (0x39414DE5, .call 85477),
    (0x39800000, .ret), (0x39CD8000, .prepx 3 12), (0x3A1EC002, .nest 3 1 22 2), (0x3A400000, .lrot), (0x3A800000, .lbrk), (0x3AC00000, .exit),
    (0x3B000000, .yield), (0x3B400000, .wfe), (0x3B860000, .sev 3), (0x3BC11740, .trap 71488), (0x3C160000, .rte 11), (0x3C420982, .brk 133506),
    (0x3CB80000, .bar 14), (0x3CE80000, .barv 10), (0x3D010099, .budget 65689)] = true := by decide +kernel

theorem test_decode_engine : reads [
    (0x401E677E, .cpy 15 3 14 126), (0x40302E5B, .cpyt 8 1 28 91), (0x40434BF2, .cpyg 1 10 23 114), (0x406A7874, .cpys 5 3 48 116),
    (0x409E4ED1, .cfill 15 2 29 81), (0x40A80000, .mzero 1), (0x40D66801, .mma 2 12 13 1), (0x40FC3581, .mmasp 3 8 6 11 1),
    (0x4117EA17, .drain 2 15 53 0 1 7), (0x4126BD92, .padj 3 5 14 50 1), (0x41518380, .hist 8 24 7), (0x4174D000, .chsend 166 8),
    (0x41802620, .chrecv 1 3 4), (0x41BD7C92, .chred 235 14 18 2), (0x41D59E7C, .coll 21 9 14 31), (0x41F35000, .mcst 9 21),
    (0x421E3080, .rdld 15 3 2), (0x422C4000, .jcard 1 17), (0x42488000, .setxf 1 2), (0x426D4000, .sld 6 20), (0x42830C80, .sset 1 16 25),
    (0x42A6E000, .sget 3 14), (0x42C90000, .chset 9), (0x42EA8000, .chget 84)] = true := by decide +kernel

/-! ### Ill-formed terms, one for each check of WellFormed.lean -/

theorem test_illFormed1 : ([
    .add 31 1 17, .sub 31 21 12, .mul 31 20 2, .mulh 31 3 5, .mulhz 31 10 3, .div 31 1 19, .divz 31 4 24, .rem 31 13 2, .remz 31 2 12, .and 31 12 7,
    .or 31 7 31, .xor 31 8 1, .andn 31 30 29, .shl 31 21 15, .shr 31 3 23, .sra 31 29 31, .min 31 21 10, .max 31 7 5, .minz 31 31 2, .maxz 31 26 2,
    .clz 31 19, .ctz 31 1, .popc 31 10, .sel 31 10 23 8, .sel 2 10 23 12, .lea 31 14 13 4, .bfx 31 5 17, .bfxz 31 27 30, .bins 31 7 3, .adds 31 1 2,
    .subs 31 9 19, .cmpeq 12 2 23, .cmpne 12 4 26, .cmplt 12 9 17, .cmple 12 27 18, .cmpltz 12 1 2, .cmplez 12 7 4, .cmpbit 12 18 2, .cmpeqi 12 23 1,
    .cmpnei 12 28 263, .cmplti 12 10 202, .cmplei 12 2 523971, .cmpltzi 12 2 15, .cmplezi 12 22 408, .addi 31 9 502, .andi 31 31 25,
    .ori 31 1 524246, .xori 31 10 524092, .shli 31 12 2, .shli 29 12 64, .shri 31 3 1, .shri 2 3 64, .srai 31 22 57, .srai 3 22 64,
    .muli 31 2 524272, .mini 31 13 236, .maxi 31 30 2, .movi 31 3, .movup 31 3, .mfs 31 3] : List Instr).all (fun i => !i.wf) = true := by decide +kernel

theorem test_illFormed2 : ([
    .mfs 18 25, .mts 9 13, .prep 12 134165888, .br 12, .brn 12, .prepx 12 12, .nest 6 1 22 2, .vadd 2 3 12 3 30 7, .vadd 7 0 12 3 30 7,
    .vsub 1 3 12 22 3 7, .vsub 7 2 12 22 3 7, .vmul 4 3 8 21 30 2, .vmul 7 1 8 21 30 2, .vfma 1 3 0 19 15 3, .vfma 7 2 0 19 15 3,
    .vmin 3 3 12 15 25 6, .vmin 7 2 12 15 25 6, .vmax 4 3 26 23 5 7, .vmax 7 2 26 23 5 7, .vadds 3 3 31 14 1 4, .vadds 2 2 31 14 1 4,
    .vadds 7 2 31 14 1 4, .vsubs 3 3 31 21 11 1, .vsubs 2 2 31 21 11 1, .vsubs 7 2 31 21 11 1, .vcmpeq 3 3 5 9 4 6, .vcmpeq 7 2 5 9 4 6,
    .vcmplt 6 3 7 28 9 1, .vcmplt 7 0 7 28 9 1, .vcmple 1 3 7 18 30 6, .vcmple 7 2 7 18 30 6, .vcvt 1 3 2 11 6 5, .vcvt 7 1 2 11 6 5,
    .vcvt 1 1 2 11 7 5, .vcvt 1 1 2 11 1 5, .vcvt 3 1 2 11 4 5, .vsel 3 4 27 11 2, .vand 3 26 17 16 2, .vor 3 30 16 22 5, .vxor 3 16 19 14 2,
    .vandn 3 1 30 24 3, .vshl 3 3 12 2 7, .vshr 3 10 9 15 3, .vsra 3 10 13 3 4, .vrot 3 8 6 3 7, .vred 2 3 20 27 0 6, .vred 7 1 20 27 0 6,
    .vred 2 1 20 27 3 6, .vmov 3 3 9 7, .vbcast 3 16 23 3 1, .vbcast 0 16 23 7 1, .vperm 3 8 15 18 7, .vidx 3 13 3, .vscan 3 9 1 3 5,
    .vscan 2 9 1 7 5, .vext 3 1 29 31 3, .vext 2 31 29 31 3, .vext 0 1 29 8 3, .vins 3 11 8 2 5, .vins 0 11 8 8 5] : List Instr).all (fun i => !i.wf) = true := by decide +kernel

theorem test_illFormed3 : ([
    .vtest 3 1 0 7, .vtest 2 12 0 7, .exp2 3 0 11 18 4, .exp2 2 3 11 18 4, .exp 3 0 15 1 5, .exp 2 3 15 1 5, .log2 3 1 16 2 5, .log2 0 3 16 2 5,
    .ln 3 2 6 13 3, .ln 1 3 6 13 3, .rcp 3 1 3 7 6, .rcp 2 3 3 7 6, .rsqrt 3 2 18 15 3, .rsqrt 1 3 18 15 3, .sqrt 3 1 11 15 6, .sqrt 2 3 11 15 6,
    .sin 3 2 9 17 6, .sin 1 3 9 17 6, .cos 3 1 3 19 4, .cos 2 3 3 19 4, .tanh 3 0 17 15 7, .tanh 2 3 17 15 7, .sigm 3 2 19 28 4, .sigm 1 3 19 28 4,
    .gelu 3 1 23 3 7, .gelu 2 3 23 3 7, .silu 3 1 10 26 3, .silu 2 3 10 26 3, .erf 3 0 12 17 3, .erf 1 3 12 17 3, .unpk 19 21 1 3 51,
    .unpk 19 21 1 3 18, .unpk 19 21 1 3 23, .unpks 8 18 2 1 3, .unpks 8 30 2 1 0, .unpki 5 28 1 3 2, .unpki 5 28 1 3 7, .pack 3 14 4 1 51,
    .pack 3 14 4 1 18, .pack 3 14 4 1 23, .packs 23 10 5 2 3 3, .packs 30 10 5 2 2 3, .pkmax 23 6 4 2 3 3, .packi 23 29 4 1 7, .vld 3 31 1 3,
    .vld 2 31 31 3, .vst 3 3 16 7, .vst 1 3 31 7, .vlds 3 10 2 7, .vlds 1 10 31 7, .vlds 1 30 2 7, .vsts 3 13 14 7, .vsts 2 13 31 7, .vsts 2 30 14 7,
    .vgath 3 3 26 7, .vgath 2 30 26 7, .vscat 3 4 13 1, .vscat 2 30 13 1, .lld 3 2 9 27 3, .lst 3 1 4 12 5] : List Instr).all (fun i => !i.wf) = true := by decide +kernel

theorem test_illFormed4 : ([
    .pfetch 31 25 108, .aadd 1 20 3 31, .amin 1 7 10 31, .amax 1 3 13 31, .aand 1 19 27 31, .aor 1 10 24 31, .axor 1 3 22 31, .axchg 1 21 2 31,
    .acas 15 2 3 31, .radd 1 16 14 31, .raddf 23 1 31, .rmax 1 29 20 31, .rmin 1 21 2 31, .vradd 13 30 31, .dfr 3 20 4, .dfpop 3 14 4, .fence 31,
    .waitv 3 23 4 31, .waitv 4 23 4 28, .chred 235 14 18 3, .sset 8 30 25, .sset 1 31 25, .sget 8 30, .sget 1 31] : List Instr).all (fun i => !i.wf) = true := by decide +kernel


/-- The words the spec itself works out, in 01, 12, 13, 14, 16, 17, 19, 21, 23, 24, 25, 27, 28 and 30. -/
theorem test_workedScalar : reads [(0x08018440, .add 3 1 2), (0x0C420403, .shli 4 1 3), (0x09831843, .lea 6 6 2 3), (0x0AD16001, .cmplezi 2 24 1),
    (0x09262E80, .minz 12 11 20), (0x0E20800B, .mfs 1 11), (0x0E340011, .mts 8 17), (0x3A292003, .nest 5 0 9 3), (0x38C80000, .brn 2),
    (0x3C000000, .rte 0), (0x3AC00000, .exit), (0x38000000, .nop)] = true := by decide +kernel

theorem test_workedVector : reads [(0x11948112, .vfma 1 1 4 1 2 2), (0x1588E308, .vcvt 0 2 7 3 1 0), (0x1864C260, .exp 2 1 6 2 3),
    (0x30502081, .packs 8 2 0 1 0 1), (0x28588080, .unpks 12 8 0 1 0), (0x14B04110, .vcmplt 3 0 2 1 2 0)] = true := by decide +kernel

theorem test_workedMemory : reads [(0x204F9002, .ld32s 4 2), (0x230098E0, .aadd 1 6 7 0), (0x24303000, .qdeqw 12), (0x25214010, .waitfImm 5 16),
    (0x2520A500, .waitfReg 2 5), (0x214BF448, .vgath 2 20 9 0), (0x2143F6FA, .vgath 0 22 31 2), (0x2488A002, .dfr 2 5 2), (0x25000007, .fence 7),
    (0x23609A60, .axchg 1 6 19 0), (0x25125AFB, .waitv 1 22 23 27), (0x25141CDB, .waitv 2 7 6 27), (0x22200000, .gjoin 0), (0x22401000, .gld 0 1 0 0),
    (0x26008480, .msend 4 9), (0x2610A400, .mrecv 5 8), (0x25604000, .tclr 1), (0x24400800, .qlen 2), (0x24200800, .qdeq 2)] = true := by decide +kernel

theorem test_workedEngine : reads [(0x40020280, .cpy 1 0 5 0), (0x400201E0, .cpy 1 0 3 0x60), (0x4026448A, .cpyt 3 2 9 0x0A), (0x4088E100, .cfill 4 7 2 0),
    (0x42498000, .setxf 1 6), (0x4266C000, .sld 3 12), (0x42867280, .sset 3 7 5), (0x42A6A000, .sget 3 10), (0x40C11801, .mma 0 2 3 1),
    (0x40EAB380, .mmasp 1 5 6 7 0), (0x40B00000, .mzero 2), (0x41020C90, .drain 0 4 6 1 1 0), (0x410A9006, .drain 1 5 8 0 0 6),
    (0x410204A1, .drain 0 4 2 1 2 1), (0x4129123A, .padj 4 8 9 7 1), (0x4146A580, .hist 3 10 11), (0x423B0000, .jcard 3 12), (0x41606400, .chsend 3 2),
    (0x41806828, .chrecv 3 4 5), (0x41A02A30, .chred 1 5 6 0), (0x41CA1210, .coll 10 1 2 4), (0x41E68000, .mcst 3 8), (0x420891C0, .rdld 4 9 7),
    (0x42CC0000, .chset 12), (0x42E06000, .chget 3)] = true := by decide +kernel

/-- The packet 12_encoding.md works out: two lent immediates, at syllables 8 to 11; what stands before is a bundle of its own. -/
def lentPacket (header nop : Nat) : List Nat :=
  0xB8000000 :: List.replicate 7 0x38000000 ++ [header, 0x0E02A345, 0x0C030944, nop, 0x7FFFFFFF, 0x7FFFFFFF, 0x7FFFFFFF, 0x7FFFFFFF]

theorem test_lentBundle : fetchBundle (lentPacket 0x800BFE00 0x38000000) 8 =
    .bundle [(9, .inl (.movi 5 74565)), (10, .inl (.addi 6 2 (BitVec.ofInt 19 (-700)))), (11, .inl .nop)] := by decide +kernel

/-- Its variants that raise ILLBUNDLE: a third S syllable, and a lend field over the `nop`. -/
theorem test_lentBundle_bad : (match fetchBundle (lentPacket 0x800BFE00 0x08018440) 8 with | .malformed h _ => h == 8 | _ => false) = true ∧
    (match fetchBundle (lentPacket 0x800BFE01 0x38000000) 8 with | .malformed h _ => h == 8 | _ => false) = true := by decide +kernel

/-- The digest of FIPS 180-4's one-block example, the bytes of `abc`. -/
theorem test_sha256 : beNat (sha256 [0x61, 0x62, 0x63]) = 0xBA7816BF8F01CFEA414140DE5DAE2223B00361A396177A9CB410FF61F20015AD := by decide +kernel

/-- R188: the two bundles that build 0x0000_1234_5678_9ABC. -/
theorem test_constantBundles : decodeSyl (some 0x0F1) 0x0E029ABC = some (.movi 5 0x789ABC) ∧ decodeSyl (some 0x024) 0x0E12B456 = some (.movup 5 0x123456) := by
  decide +kernel

/-- Reserved classes, a pad, a constrained field that is not zero, an unused opcode, a width of 3: no instruction. -/
theorem test_reserved : [0x48000000, 0x70000000, 0x7FFFFFFF, 0x08018441, 0x09E00000, 0x102D83F7, 0x2520A501, 0x3AC00001].all
    (fun w => decodeSyl none w == none) = true := by decide +kernel

/-! ### One step -/

theorem test_step_nop : afterwards (step s0) (fun t => (t.ctx 0 0).pc == 0x50000 + 64 && (t.ctx 0 0).status == .ready) = true := by decide +kernel

theorem test_step_next_bundle : afterwards (step s2) (fun t => (t.ctx 0 0).pc == 0x50004) = true := by decide +kernel

/-- `movi s5, 100` opens its bundle: the value lands one bundle later (R188's bound of one cycle). -/
theorem test_step_movi : afterwards (step (State.reset.withFetchWord 32 0x8E028064)) (fun t => vget (t.ctx 0 0).landAll.s 5 0 == 100) = true := by decide +kernel

/-- `trap 3` is taken with its number, the handler at its address and `tpc` at the bundle after (R197, R263). -/
theorem test_step_trap : afterwards (step (State.reset.withFetchWord 32 0xBBC00003)) (fun t => (t.ctx 0 0).tcause == 0x14 && (t.ctx 0 0).tpc == 0x50040 && (t.ctx 0 0).pc == 0x70000) = true := by
  decide +kernel

/-- A word that is no instruction raises ILLSYL, and the handler is entered (R181, R263). -/
theorem test_step_illegal : afterwards (step (State.reset.withFetchWord 32 0x88018441)) (fun t => (t.ctx 0 0).tcause == 1 && (t.ctx 0 0).pc == 0x70000) = true := by decide +kernel

theorem test_decodeTableWord : decodeTableWord 32 0x08018440 = some (.add 3 1 2) ∧ decodeTableWord 32 0x7FFFFFFF = none := by decide +kernel

/-! ### Witnesses: encodings, the step, memory -/

theorem wit_EncodeDecodeRoundTrip : (Instr.addi 6 2 (BitVec.ofInt 19 (-700))).wf = true ∧
    encode (.addi 6 2 (BitVec.ofInt 19 (-700))) = some ⟨some 0x1FF, 0x0C030944⟩ ∧ (Instr.nop).wf = true ∧ encode .nop = some ⟨none, 0x38000000⟩ := by
  decide +kernel

theorem wit_DecodingIsExact : (0x88018440 : Nat) < 2 ^ 32 ∧ decodeSyl none 0x88018440 = some (.add 3 1 2) ∧ decodeSyl none 0x08018440 = some (.add 3 1 2) := by
  decide +kernel

/-- `s0` stands with one instruction to run next; with two syllables in its bundle it has none of its own. -/
def sPair : State := { s0 with mem := mwrite s0.mem 0x50004 (leBytes 4 0x08018440) }

/-- An event is due after eight steps (log entry 2). -/
def sDue : State := { s0 with free := 7 }

def w_stepRuns : Bool := s0.pick == some (0, 0) && packetOk p0 && p0[0]? == some 0xB8000000 && startsBundle 0xB8000000 && p0[1]? == some 0x7FFFFFFF &&
  isPad 0x7FFFFFFF && decodeSyl none 0xB8000000 == some .nop && s0.agenda.isEmpty && s0.nextInstr == some .nop && !s0.eventDue && !s2.eventDue &&
  p2[1]? == some 0xB8000000 && sPair.nextInstr == none && sPair.pick == some (0, 0) && !sPair.eventDue && sPair.powered &&
  State.reset.pick == none && State.reset.nextInstr == none && !State.reset.eventDue

def w_due : Bool := sDue.agenda.isEmpty && sDue.eventDue && sDue.pickEvent.isSome && (sDue.core sDue.turn).idle == 0 &&
  (let u := sDue.modCore 0 (fun k => { k with idle := 1 }); u.agenda.isEmpty && u.eventDue && (u.core u.turn).idle != 0)

theorem wit_StepRunsDecodedInstruction : w_stepRuns = true ∧ w_due = true := by decide +kernel

theorem wit_StepRunsDecodedInstruction_fetch : s0.fetchPacket 0 (s0.rootAt 0 0) (s0.ctx 0 0).pc = .ok (a0, p0) := ready_s0.fetch

theorem wit_StepRunsDecodedInstruction_event : encode (.notify 0 0) = none ∧ (encode .nop).isSome = true := by decide +kernel

theorem wit_MemoryCanonicalFormKept : completes (step s0) = true ∧ s0.mem.wf = true := by decide +kernel

theorem canonical_s0 : Canonical s0 := by
  refine ⟨by decide +kernel, fun d => ?_, fun c => ?_, fun r h k hr _ => ?_, by decide +kernel, fun t m h => ?_⟩
  · show (vget (Vector.replicate 4 Die.fresh) d Die.fresh).copies.wf = true
    match d with
    | 0 | 1 | 2 | 3 => decide
    | _ + 4 => rfl
  · by_cases hc : c = 0
    · subst hc; decide +kernel
    · have : s0.core c = Core.fresh := by
        simp [s0, State.withFetchWord, State.core, tget_tput_other _ _ _ _ hc, State.reset, tget]
      rw [this]; decide
  · exact absurd hr (by simp [s0, State.withFetchWord, State.reset, tdel, tget])
  · exact absurd h (by simp [s0, State.withFetchWord, State.reset, Platform.reset, tget])

/-! ### Witnesses: packing, landing -/

theorem wit_PackUnpackResults : Ready s0 0 0 a0 p0 ∧
    (∀ i ∈ ([.unpks 12 8 0 1 0, .unpki 12 8 7 2 6, .pack 12 8 0 3 0x13, .packs 8 2 0 1 0 1, .packi 8 2 3 0 6] : List Instr), Clear s0 0 0 a0 p0 (semOf i)) ∧
    (∀ i ∈ ([.unpk 12 8 7 0 0x13, .pkmax 8 2 0 1 0 1] : List Instr), Usable s0 0 0 a0 (semOf i)) ∧ (Instr.unpk 12 8 7 0 0x13).wf = true ∧
    (Instr.pkmax 8 2 0 1 0 1).wf = true :=
  ⟨ready_s0, clear_all (by decide +kernel), usable_all (by decide +kernel), by decide, by decide⟩

theorem wit_ResultsLandAtTheirBound : (0 : Nat) < 31 ∧ (31 : Nat) < 32 ∧ (7 : Nat) < 8 ∧ (30 : Nat) < 31 ∧ (11 : Nat) < 12 ∧ (0 : Nat) ≠ 31 := by
  decide

/-- What is written with a bound of 3 at cycle 5 has landed at 8, and not at 7. -/
theorem test_bound : ((Ctx.fresh.writeS 5 9 5 3).land 8).readS 0 5 = 9 ∧ ((Ctx.fresh.writeS 5 9 5 3).land 7).flight.length = 1 := by decide +kernel

end Sys2Proof.Tests
end

namespace Sys2Proof.Machine

/-! ### A bundle of one syllable, as it is fetched and decoded (R156 to R158) -/

/-- A syllable that decodes is of one of the eight classes of instructions (R156). -/
theorem sylClass_of_decodeSyl {l : Option Nat} {w : Nat} {i : Instr} (h : decodeSyl l w = some i) : 1 ≤ sylClass w ∧ sylClass w ≤ 8 := by
  unfold decodeSyl at h
  split at h
  · rename_i j hj
    unfold decodeRaw at hj
    split at hj <;> simp_all [sylClass]
  · cases h

/-- A word that opens a bundle, with a pad, another bundle or the packet's end after it, is the whole bundle (R157). -/
theorem bundleAt_lone {pk : List Nat} {p w : Nat} (hw : pk[p]? = some w)
    (hn : ∀ u : Nat, pk[p + 1]? = some u → startsBundle u = true ∨ isPad u = true) : bundleAt pk p = [(p, w)] := by
  obtain ⟨hp, rfl⟩ := List.getElem?_eq_some_iff.mp hw
  rw [bundleAt, List.drop_eq_getElem_cons hp]
  cases hd : pk.drop (p + 1) with
  | nil => rfl
  | cons u us =>
    have hu : pk[p + 1]? = some u := by rw [← List.head?_drop, hd]; rfl
    simp [bundleBody, hn u hu]

/-- A class holds at least one syllable of a bundle (R156). -/
theorem one_le_classLimit (c : Nat) : 1 ≤ classLimit c := by
  unfold classLimit; split <;> omega

/-- One V syllable stays within the lane budget (R163). -/
theorem vWidthOf_le (w : Nat) : vWidthOf w ≤ 2048 := by
  unfold vWidthOf
  split
  · rename_i h
    simp only [Bool.and_eq_true, decide_eq_true_eq] at h
    have : 2 ^ (w / 2 ^ 18 % 4) ≤ 2 ^ 3 := Nat.pow_le_pow_right (by omega) (by omega)
    omega
  · omega

/-- A bundle of one syllable of an instruction class keeps the rules of R157 and R163. -/
theorem bundleOk_lone {p w : Nat} (hs : startsBundle w = true) (h1 : 1 ≤ sylClass w) (h8 : sylClass w ≤ 8) :
    bundleOk [(p, w)] = true := by
  have hc : ∀ c, ([(p, w)].filter (fun x => sylClass x.2 == c)).length ≤ classLimit c :=
    fun c => (List.length_filter_le _ _).trans (one_le_classLimit c)
  simp only [bundleOk, Bool.and_eq_true, List.all_eq_true, decide_eq_true_eq]
  exact ⟨⟨⟨⟨hs, by simp⟩, by simp [h1, h8]⟩, fun c _ => hc c⟩, by simpa using vWidthOf_le w⟩

/-- What is fetched where a bundle of one decodable syllable stands. -/
theorem fetchBundle_lone {pk : List Nat} {p w : Nat} {i : Instr} (hk : Sys2Proof.packetOk pk = true) (hw : pk[p]? = some w)
    (hs : startsBundle w = true) (hn : ∀ u : Nat, pk[p + 1]? = some u → startsBundle u = true ∨ isPad u = true)
    (hd : decodeSyl none w = some i) : fetchBundle pk p = .bundle [(p, .inl i)] := by
  obtain ⟨h1, h8⟩ := sylClass_of_decodeSyl hd
  have h0 : (sylClass w == 0) = false := by simp; omega
  have hl : lendOf [(p, w)] p = none := by simp [lendOf, h0]
  have hok := bundleOk_lone (p := p) hs h1 h8
  simp [fetchBundle, bundleAt_lone hw hn, hk, hok, h0, hl, readSyl, hd, bne]

/-! ### What a step does (log entry 2) -/

theorem nextInstr_lone {s : State} {c x pa : Nat} {pk : List Nat} {w : Nat} {i : Instr} (ht : s.pick = some (c, x))
    (hf : s.fetchPacket c (s.rootAt c x) (s.ctx c x).pc = .ok (pa, pk)) (hk : Sys2Proof.packetOk pk = true)
    (hw : pk[(s.ctx c x).pc / 4 % 16]? = some w) (hs : startsBundle w = true)
    (hn : ∀ u : Nat, pk[(s.ctx c x).pc / 4 % 16 + 1]? = some u → startsBundle u = true ∨ isPad u = true)
    (hd : decodeSyl none w = some i) : s.nextInstr = some i := by
  simp [State.nextInstr, ht, State.fetched, hf, fetchBundle_lone hk hw hs hn hd, soleInstr]

/-- A step with no agenda and no event to put is the issue of the next bundle. -/
theorem step_eq_issueStep {s : State} (ha : s.agenda = []) (h : s.eventDue = false ∨ (s.core s.turn).idle ≠ 0 ∨ s.pickEvent = none) :
    step s = s.issueStep := by
  simp only [step, ha, State.arbitrate]
  rcases h with h | h | h
  · simp [h]
  · simp [h]
  · simp [h]

/-- A step with no agenda, an event due and no search of a core under way is the event the arbiter picks. -/
theorem step_eq_event {s : State} {e : Act} (ha : s.agenda = []) (hd : s.eventDue = true) (hi : (s.core s.turn).idle = 0)
    (he : s.pickEvent = some e) : step s = e { s with stall := 0, beat := s.beat + 1 } := by
  simp [step, ha, State.arbitrate, hd, hi, he]

theorem issueStep_of_nextInstr {s : State} {i : Instr} (h : s.nextInstr = some i) : s.issueStep = exec i s := by
  simp [State.issueStep, h]

theorem issueStep_of_none {s : State} (h : s.nextInstr = none) (hp : s.powered = true) : s.issueStep = .next s.tryIssue := by
  simp [State.issueStep, h, hp]

/-- With an agenda, a step is its head where that is an event; a syllable is passed over. -/
theorem step_cons {s : State} {i : Instr} {r : List Instr} (h : s.agenda = i :: r) :
    step s = if (encode i).isNone then exec i ({ s with agenda := r } : State).anew else .next { s with agenda := r }.tick := by
  simp only [step, h]; rfl

/-- Settles O58, by the two branches of `step` and, for the decoded instruction, the fetch of a bundle of one syllable. -/
theorem stepRunsDecodedInstruction : Obligations.StepRunsDecodedInstruction := by
  intro s
  refine ⟨fun c x pa pk w i ht hf hk hw hs hn hd => nextInstr_lone ht hf hk hw hs hn hd, fun ha => ⟨fun hd hi e he => step_eq_event ha hd hi he,
    fun h => ?_⟩, fun i r ha => ?_⟩
  · rw [step_eq_issueStep ha h]
    refine ⟨fun i hi => issueStep_of_nextInstr hi, fun hn hp => ?_⟩
    rw [issueStep_of_none hn hp]
    exact ⟨fun c x ht => by simp [State.tryIssue, ht], fun ht => by simp [State.tryIssue, ht]⟩
  · rw [step_cons ha]
    exact ⟨fun h => by simp [h], fun h => by simp [Option.isSome_iff_ne_none.mp h]⟩

end Sys2Proof.Machine

namespace Sys2Proof.Machine

/-! ### Results in flight, bit by bit (R169) -/

/-- How many bits a destination holds. -/
def Dest.width : Dest → Nat
  | .s _ | .m _ => 64
  | .v _ => 1024
  | .cond _ => 1

/-- The context has the register a destination names. -/
def Dest.there : Dest → Bool
  | .s n | .v n => decide (n < 32)
  | .m n => decide (n < 8)
  | .cond k => decide (k < 12)

/-- A register as `Ctx.overlay` takes it in. -/
def Ctx.held (x : Ctx) : Dest → V1024
  | .s n => (vget x.s n 0).setWidth 1024
  | .v n => vget x.v n 0
  | .m n => (vget x.m n 0).setWidth 1024
  | .cond k => if (vget x.st k Steer.zero).cond then 1 else 0

/-- What a register shows to a bundle. -/
def Ctx.shown (x : Ctx) (free : Nat) (d : Dest) : V1024 := x.overlay free d (x.held d)

theorem readS_eq_shown (x : Ctx) (free n : Nat) (h : 0 < n) : x.readS free n = (x.shown free (.s n)).setWidth 64 := by
  simp [Ctx.readS, Ctx.shown, Ctx.held, Nat.pos_iff_ne_zero.mp h]

theorem readV_eq_shown (x : Ctx) (free n : Nat) : x.readV free n = x.shown free (.v n) := rfl

theorem readM_eq_shown (x : Ctx) (free n : Nat) (h : 0 < n) : x.readM free n = (x.shown free (.m n)).setWidth 64 := by
  simp [Ctx.readM, Ctx.shown, Ctx.held, Nat.pos_iff_ne_zero.mp h]

theorem readCond_eq_shown (x : Ctx) (free k : Nat) : x.readCond free k = (x.shown free (.cond k)).getLsbD 0 := rfl

/-- A landing writes bit `i` of destination `d`. -/
def Landing.hits (l : Landing) (d : Dest) (i : Nat) : Bool := l.dest == d && l.mask.getLsbD i

theorem getLsbD_merge {n : Nat} (mask old new : BitVec n) (i : Nat) :
    (merge mask old new).getLsbD i = if mask.getLsbD i then new.getLsbD i else old.getLsbD i := by
  by_cases hi : i < n
  · simp only [merge, BitVec.getLsbD_or, BitVec.getLsbD_and, BitVec.getLsbD_not, hi, decide_true]
    cases mask.getLsbD i <;> simp
  · simp [BitVec.getLsbD_of_ge _ _ (Nat.le_of_not_lt hi)]

theorem getElem_merge {n : Nat} (mask old new : BitVec n) (i : Nat) (hi : i < n) :
    (merge mask old new)[i] = if mask.getLsbD i then new.getLsbD i else old.getLsbD i := by
  rw [← BitVec.getLsbD_eq_getElem, getLsbD_merge]

/-- A landing changes the bits it hits, of the register it names. -/
theorem held_commit (x : Ctx) (l : Landing) (d : Dest) (i : Nat) (hi : i < d.width) (hd : d.there = true) :
    ((x.commit l).held d).getLsbD i = if l.hits d i then l.val.getLsbD i else (x.held d).getLsbD i := by
  unfold Ctx.commit Landing.hits
  cases hl : l.dest with
  | s n =>
    cases d with
    | s k =>
      simp only [Dest.width, Dest.there, decide_eq_true_eq] at hi hd
      by_cases h : k = n
      · subst h; simp [Ctx.held, vget_vset_self _ _ _ _ hd, getElem_merge, hi, show i < 1024 by omega]
      · simp [Ctx.held, vget_vset_other _ _ _ _ _ h, Ne.symm h]
    | v _ | m _ | cond _ => simp [Ctx.held]
  | v n =>
    cases d with
    | v k =>
      simp only [Dest.there, decide_eq_true_eq] at hd
      by_cases h : k = n
      · subst h; simp [Ctx.held, vget_vset_self _ _ _ _ hd, getLsbD_merge]
      · simp [Ctx.held, vget_vset_other _ _ _ _ _ h, Ne.symm h]
    | s _ | m _ | cond _ => simp [Ctx.held]
  | m n =>
    cases d with
    | m k =>
      simp only [Dest.width, Dest.there, decide_eq_true_eq] at hi hd
      by_cases h : k = n
      · subst h; simp [Ctx.held, vget_vset_self _ _ _ _ hd, getElem_merge, hi, show i < 1024 by omega]
      · simp [Ctx.held, vget_vset_other _ _ _ _ _ h, Ne.symm h]
    | s _ | v _ | cond _ => simp [Ctx.held]
  | cond n =>
    cases d with
    | cond k =>
      simp only [Dest.width, Dest.there, decide_eq_true_eq, Nat.lt_one_iff] at hi hd
      subst hi
      by_cases h : k = n
      · subst h
        simp only [Ctx.held, vget_vset_self _ _ _ _ hd]
        cases l.mask.getLsbD 0 <;> cases l.val.getLsbD 0 <;> simp
      · simp [Ctx.held, vget_vset_other _ _ _ _ _ h, Ne.symm h]
    | s _ | v _ | m _ => simp [Ctx.held]

/-- Landings that do not hit a bit leave it. -/
theorem held_foldl_commit (ls : List Landing) (x : Ctx) (d : Dest) (i : Nat) (hi : i < d.width) (hd : d.there = true)
    (h : ∀ l ∈ ls, l.hits d i = false) : ((ls.foldl Ctx.commit x).held d).getLsbD i = (x.held d).getLsbD i := by
  induction ls generalizing x with
  | nil => rfl
  | cons l ls ih =>
    rw [List.foldl_cons, ih _ (fun k hk => h k (List.mem_cons_of_mem _ hk)), held_commit _ _ _ _ hi hd]
    simp [h l (List.mem_cons_self ..)]

@[simp] theorem commit_flight (x : Ctx) (l : Landing) : (x.commit l).flight = x.flight := by unfold Ctx.commit; split <;> rfl

@[simp] theorem foldl_commit_flight (ls : List Landing) (x : Ctx) : (ls.foldl Ctx.commit x).flight = x.flight := by
  induction ls generalizing x with
  | nil => rfl
  | cons l ls ih => rw [List.foldl_cons, ih, commit_flight]

theorem land_flight (x : Ctx) (t : Nat) : (x.land t).flight = x.flight.filter (fun l => !decide (l.due ≤ t)) := by
  simp [Ctx.land]

/-- A register changes by what lands in it alone; what the context has in flight does not matter to it. -/
theorem held_flight (x : Ctx) (fl : List Landing) (d : Dest) : ({ x with flight := fl } : Ctx).held d = x.held d := by cases d <;> rfl

/-- A register shows unspecified bits where a write is in flight to it. -/
theorem getLsbD_overlay (x : Ctx) (free : Nat) (d : Dest) (v : V1024) (i : Nat) :
    (x.overlay free d v).getLsbD i = if x.flight.any (fun l => l.hits d i) then (Config.freeBits free d.key).getLsbD i else v.getLsbD i := by
  unfold Ctx.overlay
  induction x.flight generalizing v with
  | nil => rfl
  | cons l ls ih =>
    rw [List.foldl_cons, ih, List.any_cons]
    by_cases hd : l.dest = d
    · cases hm : l.mask.getLsbD i <;> cases ha : ls.any (fun l => l.hits d i) <;> simp [Landing.hits, hd, getLsbD_merge, hm]
    · simp [Landing.hits, hd]

/-! ### A result written with its bound (R169, R170) -/

/-- The result a write puts in flight. -/
def landingOf (d : Dest) (mask val : V1024) (due : Nat) : Landing := { dest := d, mask := mask, val := val &&& mask, due := due }

/-- No earlier result in flight hits a bit that a later write has taken over (R169). -/
theorem overtake_hits (x : Ctx) (d : Dest) (mask : V1024) (i : Nat) (hm : mask.getLsbD i = true) :
    ∀ l ∈ (x.overtake d mask).flight, l.hits d i = false := by
  intro l hl
  simp only [Ctx.overtake, List.mem_filter, List.mem_map] at hl
  obtain ⟨⟨k, -, rfl⟩, -⟩ := hl
  by_cases hk : k.dest = d
  · simp [Landing.hits, hk, hm]
  · simp [Landing.hits, hk]

theorem overtake_held (x : Ctx) (d e : Dest) (mask : V1024) : (x.overtake d mask).held e = x.held e := held_flight x _ e

theorem write_flight (x : Ctx) (d : Dest) (mask val : V1024) (now bound : Nat) (h : 1 < bound) :
    x.write d mask val now bound =
      { x.overtake d mask with flight := (x.overtake d mask).flight ++ [landingOf d mask val (now + bound)] } := by
  simp [Ctx.write, landingOf, Nat.not_le.mpr h]

theorem write_commit (x : Ctx) (d : Dest) (mask val : V1024) (now bound : Nat) (h : bound ≤ 1) :
    x.write d mask val now bound = (x.overtake d mask).commit (landingOf d mask val (now + bound)) := by
  simp [Ctx.write, landingOf, h]

theorem landingOf_hits (d : Dest) (mask val : V1024) (due i : Nat) : (landingOf d mask val due).hits d i = mask.getLsbD i := by
  simp [Landing.hits, landingOf]

/-- From the cycle of issue plus the bound on, a bit that is written reads as written. -/
theorem shown_write_due (x : Ctx) (d : Dest) (mask val : V1024) (now bound free i : Nat) (hi : i < d.width) (hd : d.there = true)
    (hm : mask.getLsbD i = true) : (((x.write d mask val now bound).land (now + bound)).shown free d).getLsbD i = val.getLsbD i := by
  have ho := overtake_hits x d mask i hm
  have hi' : i < 1024 := by by_contra h; simp [BitVec.getLsbD_of_ge _ _ (Nat.le_of_not_lt h)] at hm
  rcases Nat.lt_or_ge 1 bound with hb | hb
  · have hf : ((x.write d mask val now bound).land (now + bound)).flight =
        (x.overtake d mask).flight.filter (fun l => !decide (l.due ≤ now + bound)) := by
      simp [land_flight, write_flight _ _ _ _ _ _ hb, List.filter_append, landingOf]
    have hany : ((x.write d mask val now bound).land (now + bound)).flight.any (fun l => l.hits d i) = false := by
      rw [hf, List.any_eq_false]
      exact fun l hl => by simp [ho l (List.mem_of_mem_filter hl)]
    simp only [Ctx.shown, getLsbD_overlay, hany, Bool.false_eq_true, if_false]
    rw [Ctx.land, write_flight _ _ _ _ _ _ hb]
    simp only [List.filter_append, landingOf, le_refl, decide_true, List.filter_cons_of_pos, List.filter_nil, List.foldl_append,
      List.foldl_cons, List.foldl_nil]
    rw [held_commit _ _ _ _ hi hd]
    simp [Landing.hits, hm]
  · have hf : ((x.write d mask val now bound).land (now + bound)).flight =
        (x.overtake d mask).flight.filter (fun l => !decide (l.due ≤ now + bound)) := by
      simp [land_flight, write_commit _ _ _ _ _ _ hb]
    have hany : ((x.write d mask val now bound).land (now + bound)).flight.any (fun l => l.hits d i) = false := by
      rw [hf, List.any_eq_false]
      exact fun l hl => by simp [ho l (List.mem_of_mem_filter hl)]
    simp only [Ctx.shown, getLsbD_overlay, hany, Bool.false_eq_true, if_false]
    rw [Ctx.land, held_foldl_commit _ _ _ _ hi hd, held_flight, write_commit _ _ _ _ _ _ hb, held_commit _ _ _ _ hi hd, landingOf_hits]
    · simp [hm, landingOf]
    · intro l hl
      rw [write_commit _ _ _ _ _ _ hb, commit_flight] at hl
      exact ho l (List.mem_of_mem_filter hl)

/-- Before that cycle the result is in flight. -/
theorem landing_in_flight (x : Ctx) (d : Dest) (mask val : V1024) (now bound t : Nat) (hb : 1 < bound) (ht : t < now + bound) :
    landingOf d mask val (now + bound) ∈ ((x.write d mask val now bound).land t).flight := by
  simp [land_flight, write_flight _ _ _ _ _ _ hb, List.filter_append, landingOf]
  omega

/-- Before that cycle the register holds what it held. -/
theorem held_write_early (x : Ctx) (d : Dest) (mask val : V1024) (now bound t i : Nat) (hb : 1 < bound) (ht : t < now + bound)
    (hi : i < d.width) (hd : d.there = true) (hm : mask.getLsbD i = true) :
    (((x.write d mask val now bound).land t).held d).getLsbD i = (x.held d).getLsbD i := by
  have hlate : ¬ now + bound ≤ t := by omega
  rw [Ctx.land, held_foldl_commit _ _ _ _ hi hd, held_flight, write_flight _ _ _ _ _ _ hb, held_flight, overtake_held]
  intro l hl
  simp only [write_flight _ _ _ _ _ _ hb, List.filter_append, landingOf, hlate, decide_false, Bool.false_eq_true, not_false_eq_true,
    List.filter_cons_of_neg, List.filter_nil, List.append_nil] at hl
  exact overtake_hits x d mask i hm l (List.mem_of_mem_filter hl)

/-- Before that cycle a bit that is written reads unspecified. -/
theorem shown_write_early (x : Ctx) (d : Dest) (mask val : V1024) (now bound free t i : Nat) (hb : 1 < bound) (ht : t < now + bound)
    (hm : mask.getLsbD i = true) :
    (((x.write d mask val now bound).land t).shown free d).getLsbD i = (Config.freeBits free d.key).getLsbD i := by
  rw [Ctx.shown, getLsbD_overlay, if_pos]
  exact List.any_eq_true.mpr ⟨_, landing_in_flight x d mask val now bound t hb ht, by rw [landingOf_hits, hm]⟩

/-- Another register shows what it showed. -/
theorem shown_write_other (x : Ctx) (d e : Dest) (mask val : V1024) (now bound free i : Nat) (h : e ≠ d) (hi : i < e.width)
    (hd : e.there = true) : ((x.write d mask val now bound).shown free e).getLsbD i = (x.shown free e).getLsbD i := by
  have ho : (x.overtake d mask).flight.any (fun l => l.hits e i) = x.flight.any (fun l => l.hits e i) := by
    simp only [Ctx.overtake, List.any_filter, List.any_map]
    congr 1
    funext l
    by_cases hl : l.dest = d
    · have hd : (d == e) = false := by simpa using Ne.symm h
      simp [Landing.hits, hl, hd]
    · by_cases h0 : l.mask = 0
      · simp [Landing.hits, hl, h0]
      · have h1 : (l.mask != 0) = true := by simpa using h0
        simp only [Landing.hits, Function.comp, hl, if_false, h1, Bool.true_and]
  simp only [Ctx.shown, getLsbD_overlay]
  have hn : ∀ due, (landingOf d mask val due).hits e i = false := fun _ => by simp [Landing.hits, landingOf, Ne.symm h]
  rcases Nat.lt_or_ge 1 bound with hb | hb
  · simp only [write_flight _ _ _ _ _ _ hb, List.any_append, List.any_cons, List.any_nil, ho, hn, Bool.or_false, held_flight, overtake_held]
  · simp only [write_commit _ _ _ _ _ _ hb, commit_flight, ho, held_commit _ _ _ _ hi hd, hn, Bool.false_eq_true, if_false, overtake_held]

/-! ### The registers by name -/

theorem mask64_getLsbD (i : Nat) (h : i < 64) : mask64.getLsbD i = true := by
  rw [mask64, BitVec.getLsbD_ofNat, Nat.testBit_two_pow_sub_one, decide_eq_true h, decide_eq_true (by omega), Bool.true_and]

theorem allOnes_getLsbD (i : Nat) (h : i < 64) : ((BitVec.allOnes 64).setWidth 1024 : V1024).getLsbD i = true := by
  rw [BitVec.getLsbD_setWidth, BitVec.getLsbD_allOnes, decide_eq_true h, decide_eq_true (by omega), Bool.true_and]

theorem one_getLsbD : (1 : V1024).getLsbD 0 = true := by simp

theorem condBit_getLsbD (c : Bool) : (if c then 1 else 0 : V1024).getLsbD 0 = c := by cases c <;> simp

theorem writeS_eq (x : Ctx) (n : Nat) (v : W64) (now bound : Nat) (h : 0 < n) :
    x.writeS n v now bound = x.write (.s n) mask64 (v.setWidth 1024) now bound := by
  simp [Ctx.writeS, Nat.pos_iff_ne_zero.mp h]

theorem writeV_eq (x : Ctx) (n : Nat) (m v : V1024) (now bound : Nat) (h : n < 31) (hm : m ≠ 0) :
    x.writeV n m v now bound = x.write (.v n) m v now bound := by
  unfold Ctx.writeV
  rw [if_neg (by omega), if_neg hm]

theorem writeM_eq (x : Ctx) (n : Nat) (sel v : W64) (now bound : Nat) (h : 0 < n) :
    x.writeM n sel v now bound = x.write (.m n) (sel.setWidth 1024) (v.setWidth 1024) now bound := by
  simp [Ctx.writeM, Nat.pos_iff_ne_zero.mp h]

/-- Two values agree on the bits of a mask when they agree on each. -/
theorem and_eq_and_of_getLsbD {n : Nat} {a b m : BitVec n} (h : ∀ i, m.getLsbD i = true → a.getLsbD i = b.getLsbD i) : a &&& m = b &&& m := by
  apply BitVec.eq_of_getLsbD_eq
  intro i hi
  rw [BitVec.getLsbD_and, BitVec.getLsbD_and]
  cases hm : m.getLsbD i
  · simp
  · rw [h i hm]

theorem setWidth_eq_of_getLsbD {a : V1024} {b : W64} (h : ∀ i, i < 64 → a.getLsbD i = b.getLsbD i) : a.setWidth 64 = b := by
  apply BitVec.eq_of_getLsbD_eq
  intro i hi
  rw [BitVec.getLsbD_setWidth, h i hi, decide_eq_true hi, Bool.true_and]

theorem getLsbD_lift (v : W64) (i : Nat) (h : i < 64) : (v.setWidth 1024).getLsbD i = v.getLsbD i := by
  simp [show i < 1024 by omega]

section

variable (x : Ctx) (n now bound free t : Nat) (v : W64)

/-- A scalar register reads its result from the bound on (R169). -/
theorem readS_writeS_due (h0 : 0 < n) (h : n < 31) : ((x.writeS n v now bound).land (now + bound)).readS free n = v := by
  rw [readS_eq_shown _ _ _ h0, writeS_eq _ _ _ _ _ h0]
  refine setWidth_eq_of_getLsbD fun i hi => ?_
  rw [shown_write_due _ _ _ _ _ _ _ _ hi (by simp [Dest.there]; omega) (mask64_getLsbD i hi), getLsbD_lift v i hi]

theorem readM_writeM_due (h0 : 0 < n) (h : n < 8) :
    ((x.writeM n (BitVec.allOnes 64) v now bound).land (now + bound)).readM free n = v := by
  rw [readM_eq_shown _ _ _ h0, writeM_eq _ _ _ _ _ _ h0]
  refine setWidth_eq_of_getLsbD fun i hi => ?_
  rw [shown_write_due _ _ _ _ _ _ _ _ hi (by simpa [Dest.there] using h) (allOnes_getLsbD i hi), getLsbD_lift v i hi]

theorem readV_writeV_due (m w : V1024) (h : n < 31) (hm : m ≠ 0) :
    ((x.writeV n m w now bound).land (now + bound)).readV free n &&& m = w &&& m := by
  rw [readV_eq_shown, writeV_eq _ _ _ _ _ _ h hm]
  refine and_eq_and_of_getLsbD fun i hi => ?_
  exact shown_write_due _ _ _ _ _ _ _ _ (by by_contra g; simp [BitVec.getLsbD_of_ge m i (Nat.le_of_not_lt g)] at hi)
    (by simp [Dest.there]; omega) hi

theorem readCond_writeCond_due (b : Bool) (h : n < 12) :
    ((x.writeCond n b now bound).land (now + bound)).readCond free n = b := by
  rw [readCond_eq_shown, Ctx.writeCond, shown_write_due _ (.cond n) _ _ _ _ _ 0 Nat.one_pos (by simpa [Dest.there] using h) one_getLsbD, condBit_getLsbD]

theorem writeS_early (hb : 1 < bound) (ht : t < now + bound) (h0 : 0 < n) (h : n < 31) :
    let y := (x.writeS n v now bound).land t
    vget y.s n 0 = vget x.s n 0 ∧ y.readS free n = (Config.freeBits free (Dest.s n).key).setWidth 64 ∧
      y.flight.any (fun l => l.dest == .s n && l.due == now + bound && l.val.setWidth 64 == v) = true := by
  have hd : (Dest.s n).there = true := by simp [Dest.there]; omega
  intro y
  refine ⟨?_, ?_, List.any_eq_true.mpr ⟨landingOf (.s n) mask64 (v.setWidth 1024) (now + bound), ?_, ?_⟩⟩
  · apply BitVec.eq_of_getLsbD_eq
    intro i hi
    have e := held_write_early x (.s n) mask64 (v.setWidth 1024) now bound t i hb ht hi hd (mask64_getLsbD i hi)
    rw [← writeS_eq _ _ _ _ _ h0] at e
    simpa only [Ctx.held, getLsbD_lift _ i hi] using e
  · rw [readS_eq_shown _ _ _ h0]
    refine setWidth_eq_of_getLsbD fun i hi => ?_
    rw [show y = (x.write (.s n) mask64 (v.setWidth 1024) now bound).land t by rw [← writeS_eq _ _ _ _ _ h0],
      shown_write_early _ _ _ _ _ _ _ _ _ hb ht (mask64_getLsbD i hi), BitVec.getLsbD_setWidth, decide_eq_true hi, Bool.true_and]
  · rw [show y = (x.write (.s n) mask64 (v.setWidth 1024) now bound).land t by rw [← writeS_eq _ _ _ _ _ h0]]
    exact landing_in_flight x _ _ _ _ _ _ hb ht
  · simp only [landingOf, beq_self_eq_true, Bool.true_and, beq_iff_eq]
    refine setWidth_eq_of_getLsbD fun i hi => ?_
    rw [BitVec.getLsbD_and, mask64_getLsbD i hi, getLsbD_lift v i hi, Bool.and_true]

theorem writeV_early (m w : V1024) (hb : 1 < bound) (ht : t < now + bound) (h : n < 31) (hm : m ≠ 0) :
    let y := (x.writeV n m w now bound).land t
    vget y.v n 0 &&& m = vget x.v n 0 &&& m ∧ y.readV free n &&& m = Config.freeBits free (Dest.v n).key &&& m := by
  rw [writeV_eq _ _ _ _ _ _ h hm]
  have hd : (Dest.v n).there = true := by simp [Dest.there]; omega
  refine ⟨and_eq_and_of_getLsbD fun i hi => ?_, and_eq_and_of_getLsbD fun i hi => shown_write_early _ _ _ _ _ _ _ _ _ hb ht hi⟩
  exact held_write_early x (.v n) m w now bound t i hb ht
    (by by_contra g; simp [BitVec.getLsbD_of_ge m i (Nat.le_of_not_lt g)] at hi) hd hi

theorem writeM_early (hb : 1 < bound) (ht : t < now + bound) (h0 : 0 < n) (h : n < 8) :
    let y := (x.writeM n (BitVec.allOnes 64) v now bound).land t
    vget y.m n 0 = vget x.m n 0 ∧ y.readM free n = (Config.freeBits free (Dest.m n).key).setWidth 64 := by
  have hd : (Dest.m n).there = true := by simpa [Dest.there] using h
  rw [writeM_eq _ _ _ _ _ _ h0]
  constructor
  · apply BitVec.eq_of_getLsbD_eq
    intro i hi
    simpa only [Ctx.held, getLsbD_lift _ i hi] using held_write_early x (.m n) _ (v.setWidth 1024) now bound t i hb ht hi hd (allOnes_getLsbD i hi)
  · rw [readM_eq_shown _ _ _ h0]
    refine setWidth_eq_of_getLsbD fun i hi => ?_
    rw [shown_write_early _ _ _ _ _ _ _ _ _ hb ht (allOnes_getLsbD i hi), BitVec.getLsbD_setWidth, decide_eq_true hi, Bool.true_and]

theorem writeCond_early (b : Bool) (hb : 1 < bound) (ht : t < now + bound) (h : n < 12) :
    (vget ((x.writeCond n b now bound).land t).st n Steer.zero).cond = (vget x.st n Steer.zero).cond := by
  have e := held_write_early x (.cond n) 1 (if b then 1 else 0) now bound t 0 hb ht Nat.one_pos (by simpa [Dest.there] using h) one_getLsbD
  rw [Ctx.held, Ctx.held, condBit_getLsbD, condBit_getLsbD] at e
  exact e

theorem readS_writeS_other (k : Nat) (hk : k ≠ n) (h : k < 32) : (x.writeS n v now bound).readS free k = x.readS free k := by
  rcases Nat.eq_zero_or_pos n with rfl | h0
  · rfl
  rcases Nat.eq_zero_or_pos k with rfl | k0
  · rfl
  rw [readS_eq_shown _ _ _ k0, readS_eq_shown _ _ _ k0, writeS_eq _ _ _ _ _ h0]
  refine setWidth_eq_of_getLsbD fun i hi => ?_
  rw [shown_write_other _ _ _ _ _ _ _ _ _ (by simpa using hk) hi (by simpa [Dest.there] using h), BitVec.getLsbD_setWidth,
    decide_eq_true hi, Bool.true_and]

end

/-- Settles O20, from what a bit shows before and after the bound of the write that hits it. -/
theorem resultsLandAtTheirBound : Obligations.ResultsLandAtTheirBound := by
  intro x n now bound free v
  refine ⟨readS_writeS_due x n now bound free v, fun t hb ht => ⟨writeS_early x n now bound free t v hb ht,
    fun m w => writeV_early x n now bound free t m w hb ht, writeM_early x n now bound free t v hb ht, fun b => writeCond_early x n now bound t b hb ht⟩,
    ⟨rfl, rfl⟩, readM_writeM_due x n now bound free v, fun _ => rfl, rfl, readV_writeV_due x n now bound free,
    readCond_writeCond_due x n now bound free, readS_writeS_other x n now bound free v⟩

end Sys2Proof.Machine

namespace Sys2Proof.Claim

open Sys2Proof.Machine

/-! ### What stays, step by step -/

theorem SameOutside.refl (s : State) : SameOutside s s := by constructor <;> rfl

theorem SameOutside.trans {a b c : State} (h : SameOutside a b) (g : SameOutside b c) : SameOutside a c := by
  obtain ⟨h1, h2, h3, h4, h5, h6, h7, h8, h9, h10, h11, h12, h13, h14, h15, h16⟩ := h
  obtain ⟨g1, g2, g3, g4, g5, g6, g7, g8, g9, g10, g11, g12, g13, g14, g15, g16⟩ := g
  constructor <;> simp only [*]

theorem SameOutside.putCore (s : State) (c : Nat) (k : Core) : SameOutside s (s.putCore c k) := by constructor <;> rfl

theorem SameOutside.modCore (s : State) (c : Nat) (f : Core → Core) : SameOutside s (s.modCore c f) := by constructor <;> rfl

theorem SameOutside.modCtx (s : State) (c x : Nat) (f : Ctx → Ctx) : SameOutside s (s.modCtx c x f) := by constructor <;> rfl

theorem SameOutside.issued (s : State) (c x b : Nat) (y : Bool) : SameOutside s (s.issued c x b y) := by constructor <;> rfl

theorem SameOutside.tick (s : State) : SameOutside s s.tick := by constructor <;> rfl

theorem SameOutside.base (s : State) (c x pa : Nat) (r : List Src) : SameOutside s (base s c x pa r) := by constructor <;> simp

theorem OnlyCtx.refl (s : State) (c x : Nat) : OnlyCtx s s c x :=
  ⟨.refl s, .refl _, fun _ _ => rfl, fun _ _ => rfl⟩

theorem OnlyCtx.trans {a b d : State} {c x : Nat} (h : OnlyCtx a b c x) (g : OnlyCtx b d c x) : OnlyCtx a d c x where
  outside := h.outside.trans g.outside
  core := h.core.trans g.core
  others := fun y hy => (g.others y hy).trans (h.others y hy)
  cores := fun j hj => (g.cores j hj).trans (h.cores j hj)

theorem OnlyCtx.modCtx (s : State) (c x : Nat) (f : Ctx → Ctx) : OnlyCtx s (s.modCtx c x f) c x where
  outside := .modCtx s c x f
  core := by rw [State.core_modCtx_self]; exact .putCtx _ _ _
  others := fun y hy => by rw [State.ctx_modCtx_other _ _ _ _ _ hy]
  cores := fun j hj => State.core_modCtx_other _ _ _ _ _ hj

theorem OnlyCtx.issued (s : State) (c x b : Nat) (y : Bool) : OnlyCtx s (s.issued c x b y) c x where
  outside := .issued s c x b y
  core := core_issued ..
  others := fun z _ => by rw [ctx_issued]
  cores := fun _ hj => core_issued_other _ _ _ _ _ _ hj

theorem OnlyCtx.tick (s : State) (c x : Nat) : OnlyCtx s s.tick c x :=
  ⟨.tick s, .refl _, fun _ _ => rfl, fun _ _ => rfl⟩

theorem OnlyCtx.base (s : State) (c x pa : Nat) (r : List Src) : OnlyCtx s (base s c x pa r) c x where
  outside := .base ..
  core := (base_core s c x pa r).1
  others := (base_core s c x pa r).2.2
  cores := fun _ hj => base_core_other _ _ _ _ _ _ hj

end Sys2Proof.Claim

namespace Sys2Proof.Machine

open Sys2Proof.Claim

/-! ### Translation looks at the tables and what is cached of them alone (R101 to R104) -/

/-- Two states whose walks for core `c` come out alike. -/
structure SameWalks (s t : State) (c : Nat) : Prop where
  tlb : (t.core c).tlb = (s.core c).tlb
  tlbs : t.tlbs = s.tlbs
  tables : t.tables = s.tables
  mem : t.mem = s.mem
  dies : t.dies = s.dies
  platform : t.platform = s.platform

theorem SameWalks.xlat {s t : State} {c : Nat} (h : SameWalks s t c) (root va : Nat) (acc : Access) :
    t.xlat c root va acc = s.xlat c root va acc := by
  obtain ⟨h1, h2, h3, h4, h5, h6⟩ := h
  have hr : t.tableRead = s.tableRead := funext fun a => by simp only [State.tableRead, State.die, h4, h5]
  have hi : t.isLost = s.isLost := funext fun a => by simp only [State.isLost, h6]
  have he : t.entry root va = s.entry root va := by funext sh age a; simp only [State.entry, State.kept, h3, hr]
  simp only [State.xlat, State.walkOf, State.cachedXlat, State.dieTlb, State.walk, State.kept, h1, h2, h3, hi, he]

theorem SameWalks.xlatSpan {s t : State} {c : Nat} (h : SameWalks s t c) (root va n : Nat) (acc : Access) :
    t.xlatSpan c root va n acc = s.xlatSpan c root va n acc := by
  simp only [State.xlatSpan, h.xlat]

/-- The root of a context's translations depends on its core's teams and the launches. -/
theorem rootAt_congr {s t : State} {c : Nat} (x : Nat) (h : (t.core c).teams = (s.core c).teams) (hl : t.launches = s.launches) :
    t.rootAt c x = s.rootAt c x := by
  simp only [State.rootAt, State.launchAt, Core.teamOf, State.launchOf, h, hl]

theorem hdrAt_congr {s t : State} {c : Nat} (x : Nat) (h : (t.core c).teams = (s.core c).teams) (hl : t.launches = s.launches) :
    t.hdrAt c x = s.hdrAt c x := by
  simp only [State.hdrAt, State.launchAt, Core.teamOf, State.launchOf, h, hl]

theorem launchAt_congr {s t : State} {c : Nat} (x : Nat) (h : (t.core c).teams = (s.core c).teams) (hl : t.launches = s.launches) :
    t.launchAt c x = s.launchAt c x := by
  simp only [State.launchAt, Core.teamOf, State.launchOf, h, hl]

/-- Where the record of a trap can be written depends on `trec`, whether it is lost, and the context's translations. -/
theorem recordPlace_congr {s t : State} {c x : Nat} (h : SameWalks s t c) (ht : (t.core c).teams = (s.core c).teams)
    (hl : t.launches = s.launches) (hr : (t.ctx c x).trec = (s.ctx c x).trec) (hd : (t.ctx c x).lostRegs = (s.ctx c x).lostRegs) :
    t.recordPlace c x = s.recordPlace c x := by
  have hi : t.isLost = s.isLost := funext fun a => by simp only [State.isLost, h.platform]
  simp only [State.recordPlace, h.xlatSpan, rootAt_congr x ht hl, hr, hd, hi]

/-- A translation kept changes what the core and its die cache, and the tables in force, alone. -/
theorem noteTlb_eq (s : State) (c root va : Nat) : s.noteTlb c root va = s ∨
    ∃ t u w, s.noteTlb c root va = { s.putCore c { s.core c with tlb := t } with tlbs := u, tables := w } := by
  have hw : ∃ w, s.noteWalk root va = { s with tables := w } := by
    unfold State.noteWalk State.keepTables
    (repeat' split) <;> exact ⟨_, rfl⟩
  obtain ⟨w, hw⟩ := hw
  unfold State.noteTlb
  split
  · exact .inr ⟨_, _, w, by rw [hw]; rfl⟩
  · exact .inl rfl

theorem noteTlb_core (s : State) (c root va : Nat) : ∃ t, (s.noteTlb c root va).core c = { s.core c with tlb := t } := by
  rcases noteTlb_eq s c root va with h | ⟨t, u, w, h⟩
  · exact ⟨(s.core c).tlb, by rw [h]⟩
  · exact ⟨t, by rw [h]; exact State.core_putCore_self _ _ _⟩

@[simp] theorem noteTlb_ctx (s : State) (c root va y : Nat) : (s.noteTlb c root va).ctx c y = s.ctx c y := by
  obtain ⟨t, h⟩ := noteTlb_core s c root va
  simp only [State.ctx, h]; rfl

end Sys2Proof.Machine

namespace Sys2Proof.Claim

open Sys2Proof.Machine

theorem OnlyCtx.noteTlb (s : State) (c x root va : Nat) : OnlyCtx s (s.noteTlb c root va) c x where
  outside := by
    rcases noteTlb_eq s c root va with h | ⟨t, u, w, h⟩ <;> rw [h]
    · exact .refl s
    · constructor <;> rfl
  core := by obtain ⟨t, h⟩ := noteTlb_core s c root va; rw [h]; constructor <;> rfl
  others := fun y _ => by rw [noteTlb_ctx]
  cores := fun j hj => by
    rcases noteTlb_eq s c root va with h | ⟨t, u, w, h⟩
    · rw [h]
    · rw [h]; exact State.core_putCore_other _ _ _ _ hj

theorem OnlyCtx.hdrAt {s t : State} {c x : Nat} (h : OnlyCtx s t c x) (y : Nat) : t.hdrAt c y = s.hdrAt c y :=
  hdrAt_congr y h.core.teams h.outside.launches

theorem OnlyCtx.rootAt {s t : State} {c x : Nat} (h : OnlyCtx s t c x) (y : Nat) : t.rootAt c y = s.rootAt c y :=
  rootAt_congr y h.core.teams h.outside.launches

theorem OnlyCtx.launchAt {s t : State} {c x : Nat} (h : OnlyCtx s t c x) (y : Nat) : t.launchAt c y = s.launchAt c y :=
  launchAt_congr y h.core.teams h.outside.launches

end Sys2Proof.Claim

namespace Sys2Proof.Machine

open Sys2Proof.Claim

/-! ### What a bundle finds of its context (R34, R169, R245) -/

/-- What a result landing, or an `sset` coming into force, leaves of a context: all but its registers, streams, what is lost of them, and what was
on its way. -/
structure Ctx.SameRest (v w : Ctx) : Prop where
  status : w.status = v.status
  pc : w.pc = v.pc
  pj : w.pj = v.pj
  lostA : w.lostA = v.lostA
  lq : w.lq = v.lq
  lqs : w.lqs = v.lqs
  sq : w.sq = v.sq
  dfq : w.dfq = v.dfq
  unit : w.unit = v.unit
  launch : w.launch = v.launch
  seqlen : w.seqlen = v.seqlen
  mpol : w.mpol = v.mpol
  tcause : w.tcause = v.tcause
  tpc : w.tpc = v.tpc
  trec : w.trec = v.trec
  lfsr : w.lfsr = v.lfsr
  epoch : w.epoch = v.epoch
  budget : w.budget = v.budget
  nest : w.nest = v.nest
  handler : w.handler = v.handler
  pending : w.pending = v.pending
  groups : w.groups = v.groups
  ops : w.ops = v.ops
  arrived : w.arrived = v.arrived
  parks : w.parks = v.parks
  resend : w.resend = v.resend
  condemned : w.condemned = v.condemned
  seq : w.seq = v.seq
  preps : w.preps = v.preps
  deadRegs : w.deadRegs = v.deadRegs

theorem Ctx.SameRest.refl (v : Ctx) : v.SameRest v := by constructor <;> rfl

theorem Ctx.SameRest.trans {u v w : Ctx} (h : u.SameRest v) (g : v.SameRest w) : u.SameRest w := by
  obtain ⟨h1, h2, h3, h4, h5, h6, h7, h8, h9, h10, h11, h12, h13, h14, h15, h16, h17, h18, h19, h20, h21, h22, h23, h24, h25, h26, h27, h28, h29, h30⟩ := h
  obtain ⟨g1, g2, g3, g4, g5, g6, g7, g8, g9, g10, g11, g12, g13, g14, g15, g16, g17, g18, g19, g20, g21, g22, g23, g24, g25, g26, g27, g28, g29, g30⟩ := g
  constructor <;> simp only [*]

theorem sameRest_commit (v : Ctx) (l : Landing) : v.SameRest (v.commit l) := by
  unfold Ctx.commit; split <;> constructor <;> rfl

theorem sameRest_foldl_commit (ls : List Landing) (v : Ctx) : v.SameRest (ls.foldl Ctx.commit v) := by
  induction ls generalizing v with
  | nil => exact .refl v
  | cons l ls ih => exact (sameRest_commit v l).trans (ih _)

theorem sameRest_flight (v : Ctx) (fl : List Landing) : v.SameRest { v with flight := fl } := by constructor <;> rfl

theorem sameRest_land (v : Ctx) (n : Nat) : v.SameRest (v.land n) := (sameRest_flight v _).trans (sameRest_foldl_commit _ _)

theorem sameRest_applySet (v : Ctx) (w : PendingSet) : v.SameRest (v.applySet w) := by
  unfold Ctx.applySet; (repeat' split) <;> constructor <;> rfl

theorem sameRest_foldl_applySet (ls : List PendingSet) (v : Ctx) : v.SameRest (ls.foldl Ctx.applySet v) := by
  induction ls generalizing v with
  | nil => exact .refl v
  | cons l ls ih => exact (sameRest_applySet v l).trans (ih _)

theorem sameRest_landSets (v : Ctx) (n : Nat) : v.SameRest (v.landSets n) :=
  Ctx.SameRest.trans (v := { v with sets := v.sets.filter (fun w => !decide (w.at_ + 3 ≤ n)) }) (by constructor <;> rfl)
    (sameRest_foldl_applySet _ _)

theorem sameRest_of_noLatch {v w : Ctx} (h : w.noLatch = v.noLatch) : v.SameRest w := by
  have e : ∀ {α : Type} (f : Ctx → α), (∀ u : Ctx, f u.noLatch = f u) → f w = f v := fun f hf => by rw [← hf w, h, hf v]
  constructor <;> exact e _ (fun _ => rfl)

/-- What is due at an issue leaves of the context (R34, R169, R245). -/
theorem sameRest_landed (s : State) (c x : Nat) (hx : x < 4) : (s.ctx c x).SameRest ((s.landed c x).ctx c x) := by
  obtain ⟨cs, h1, h2⟩ := landSevs_eq s (s.core c)
  have h : (s.landed c x).ctx c x = (((s.landSevs (s.core c)).ctx x).land (s.landSevs (s.core c)).clock).landSets (s.landSevs (s.core c)).clock := by
    simp only [State.landed, State.ctx, State.core_putCore_self, Core.ctx_putCtx_self _ _ _ hx]
  rw [h]
  refine .trans (.trans (sameRest_of_noLatch ?_) (sameRest_land _ _)) (sameRest_landSets _ _)
  rw [h1]; exact h2 x

/-- What a bundle finds of its context at issue. -/
theorem sameRest_view (s : State) (c x pa : Nat) (hx : x < 4) : (s.ctx c x).SameRest (view s c x pa) := by
  have h := sameRest_landed (fetched s c x pa) c x hx
  rwa [fetched_ctx] at h

/-- A context that the ports have been popped of. -/
theorem popped_eq (s : State) (c x pa : Nat) (r : List Src) :
    popped s c x pa r = { view s c x pa with lq := (popped s c x pa r).lq, lqs := (popped s c x pa r).lqs } := rfl

@[simp] theorem popped_nil (s : State) (c x pa : Nat) : popped s c x pa [] = view s c x pa := rfl

end Sys2Proof.Machine

namespace Sys2Proof.Machine

open Sys2Proof.Claim

/-! ### Entering the trap handler (R261) -/

/-- A context as trap entry leaves it: `pas` is where its record goes, `entry` the trap entry of its header. -/
def Ctx.trapped (v : Ctx) (cause : Nat) (record : W512) (tpc : Nat) (cmd : Option Nat) (unitWd : Bool) (pas : List Nat) (entry : Nat) : Ctx :=
  let w := v.landAll
  let ws := pas.zip (leBytes 64 record.toNat)
  let a := v.trec.toNat / 64 * 64
  { w with
    tpc := BitVec.ofNat 64 tpc, tcause := BitVec.ofNat 64 cause
    lostRegs := w.lostRegs.filter (fun j => (j != 716 && j != 717) || v.deadRegs.contains j)
    ops := w.ops ++
      [{ id := v.seq, kind := .store none, bytes := [], writes := ws.take 32, ord := 0, scope := 0, bundle := tpc, va := a },
       { id := v.seq + 1, kind := .store none, bytes := [], writes := ws.drop 32, ord := 0, scope := 0, bundle := tpc, va := a + 32 }]
    seq := v.seq + 2, status := .ready, pc := entry, resend := []
    handler := some { cause := cause, cmd := cmd, unitWd := unitWd || v.condemned, resend := v.resend.map (fun q => (q, tpc)) } }

/-- Of a context whose results all land, what stays but for its stores' waiting for their `sq` entries. -/
theorem landAll_rest (v : Ctx) : v.SameRest { v.landAll with sq := v.sq, ops := v.ops } := by
  obtain ⟨h1, h2, h3, h4, h5, h6, h7, h8, h9, h10, h11, h12, h13, h14, h15, h16, h17, h18, h19, h20, h21, h22, h23, h24, h25, h26, h27, h28, h29, h30⟩ :=
    (sameRest_flight v []).trans (sameRest_foldl_commit v.flight _)
  constructor <;> first | assumption | rfl

theorem withdraw_of_none {s : State} {c x : Nat} (h : (s.ctx c x).parks = []) : s.withdraw c x = s := by simp [State.withdraw, h]

/-- Trap entry outside the handler, with a place for the record and no `qdeqw` to withdraw. -/
theorem takeTrap_ok {s : State} {c x cause tpc : Nat} {record : W512} {cmd : Option Nat} {unitWd : Bool} {pas : List Nat}
    (hh : (s.ctx c x).handler = none) (hp : (s.ctx c x).parks = []) (hr : s.recordPlace c x = .ok pas) :
    s.takeTrap c x cause record tpc cmd unitWd =
      (s.noteTlb c (s.rootAt c x) ((s.ctx c x).trec.toNat / 64 * 64)).modCtx c x
        (fun v => v.trapped cause record tpc cmd unitWd pas (hdrTrap (s.hdrAt c x))) := by
  have hl := landAll_rest ((s.ctx c x))
  unfold State.takeTrap
  simp only [hh, Option.isSome_none, Bool.false_eq_true, if_false, hr, withdraw_of_none hp, (OnlyCtx.noteTlb s c x _ _).hdrAt x]
  unfold State.modCtx
  congr 1
  have e1 : ∀ v : Ctx, v.landAll.trec = v.trec := fun v => (landAll_rest v).trec
  have e2 : ∀ v : Ctx, v.landAll.seq = v.seq := fun v => (landAll_rest v).seq
  have e3 : ∀ v : Ctx, v.landAll.deadRegs = v.deadRegs := fun v => (landAll_rest v).deadRegs
  have e4 : ∀ v : Ctx, v.landAll.condemned = v.condemned := fun v => (landAll_rest v).condemned
  have e5 : ∀ v : Ctx, v.landAll.resend = v.resend := fun v => (landAll_rest v).resend
  simp [Ctx.trapped, Ctx.pushOp, e1, e2, e3, e4, e5]

/-- Trap entry changes nothing but the context and what its core caches. -/
theorem takeTrap_onlyCtx {s : State} {c x cause tpc : Nat} {record : W512} {cmd : Option Nat} {unitWd : Bool} {pas : List Nat}
    (hh : (s.ctx c x).handler = none) (hp : (s.ctx c x).parks = []) (hr : s.recordPlace c x = .ok pas) :
    OnlyCtx s (s.takeTrap c x cause record tpc cmd unitWd) c x := by
  rw [takeTrap_ok hh hp hr]
  exact (OnlyCtx.noteTlb s c x _ _).trans (.modCtx _ _ _ _)

theorem takeTrap_ctx {s : State} {c x cause tpc : Nat} {record : W512} {cmd : Option Nat} {unitWd : Bool} {pas : List Nat} (hx : x < 4)
    (hh : (s.ctx c x).handler = none) (hp : (s.ctx c x).parks = []) (hr : s.recordPlace c x = .ok pas) :
    (s.takeTrap c x cause record tpc cmd unitWd).ctx c x =
      (s.ctx c x).trapped cause record tpc cmd unitWd pas (hdrTrap (s.hdrAt c x)) := by
  rw [takeTrap_ok hh hp hr, State.ctx_modCtx_self _ _ _ _ hx, noteTlb_ctx]

/-! ### `trap` and `brk` (R197) -/

/-- The context whose turn it is is not parked. -/
theorem pick_parks {s : State} {c x : Nat} (h : s.pick = some (c, x)) : (s.ctx c x).parks = [] := by
  unfold State.pick at h
  obtain ⟨j, hj, h⟩ := Option.map_eq_some_iff.mp h
  simp only [Prod.mk.injEq] at h
  obtain ⟨rfl, rfl⟩ := h
  have hc := List.find?_some hj
  simp only [Core.canTry, Bool.and_eq_true, List.isEmpty_iff] at hc
  exact hc.2.1.2

/-- A syllable that names only registers and ports, checks and waits for nothing of its own, and transfers control to no bundle: its bundle is clear as
soon as its operands are usable. -/
theorem clear_of_bare {s : State} {c x pa : Nat} {pk : List Nat} {m : Sem} (u : Usable s c x pa m) (w : m.ins.wf = true)
    (hlqs : m.lqs = 0) (hlq : m.lq = 0) (hq : m.queue = none) (hs : m.streams = []) (ha : m.acc = none) (hr : m.record = false)
    (hc : m.check (env s c x pa pk m) (base s c x pa m.srcs) = []) (hw : m.waits (env s c x pa pk m) (base s c x pa m.srcs) = false)
    (hf : flowFaults (base s c x pa m.srcs) c x 0 (m.flow (env s c x pa pk m) (base s c x pa m.srcs)) = []) : Clear s c x pa pk m where
  usable := u
  room := by
    have h1 := u.lqs
    have h2 := u.lq
    have h3 := u.sq
    simp only [popCount, List.map_cons, List.map_nil, List.sum_cons, List.sum_nil, Nat.add_zero] at h1 h2
    simp [blocksBefore, portRoom, hq, hlqs, hlq, hs, Sem.readsRecord, hr, popCount, h1, h2, h3]
  wf := w
  streams := by simp [hs]
  checks := hc
  target := hf
  free := hw
  acc := by simp [Core.accBusy, ha]

/-- A syllable without effects that traps with cause `cause` and detail `code` leaves its context in the handler. -/
theorem traps_of_flow {s : State} {c x pa cause code : Nat} {pk : List Nat} {m : Sem} {pas : List Nat} (h : Ready s c x pa pk)
    (k : Clear s c x pa pk m) (hs : m.srcs = []) (hact : ∀ e s, m.act e s = s) (hflow : ∀ e s, m.flow e s = .trap cause code)
    (hh : (s.ctx c x).handler = none) (hr : (base s c x pa []).recordPlace c x = .ok pas) (hn : (s.ctx c x).nest = []) :
    ∃ t, issueOne m s = .next t ∧ OnlyCtx s t c x ∧
      t.ctx c x = ({ view s c x pa with pc := nextPc s c x pk, nest := [], preps := nextPreps (view s c x pa) [(posOf s c x, m)] } : Ctx).trapped cause
        (({ step := 0, cause := cause, detail := code } : Flt).record (s.ctx c x).pc s.cycle) (nextPc s c x pk) none false pas (hdrTrap (s.hdrAt c x)) := by
  have hx := pick_lt h.turn
  refine ⟨_, issueOne_done h k, ?_⟩
  have hv := sameRest_view s c x pa hx
  generalize hB : base s c x pa m.srcs = B
  have hBx : B.ctx c x = view s c x pa := by rw [← hB, hs, base_ctx _ _ _ _ _ hx, popped_nil]
  generalize hP : B.modCtx c x (fun w => { w with preps := nextPreps w [(posOf s c x, m)] }) = P
  have hPx : P.ctx c x = { view s c x pa with preps := nextPreps (view s c x pa) [(posOf s c x, m)] } := by
    rw [← hP, State.ctx_modCtx_self _ _ _ _ hx, hBx]
  have hset : P.settleOps c x = P := by
    apply settleOps_of_none
    rw [← h.settled]
    apply innerReady_congr
    rw [hPx]; exact hv.ops
  generalize hQ : P.modCtx c x (fun v => { v with pc := nextPc s c x pk, nest := [] }) = Q
  have hQx : Q.ctx c x = { view s c x pa with pc := nextPc s c x pk, nest := [], preps := nextPreps (view s c x pa) [(posOf s c x, m)] } := by
    rw [← hQ, State.ctx_modCtx_self _ _ _ _ hx, hPx]
  have hd : done s c x pa pk m = (Q.takeTrap c x cause (({ step := 0, cause := cause, detail := code } : Flt).record (s.ctx c x).pc s.cycle)
      (nextPc s c x pk) none false).issued c x 0 (m.ins == .yield) := by
    have hnest : (P.ctx c x).nest = [] := by rw [hPx]; exact hv.nest.trans hn
    have hcyc : Q.cycle = s.cycle := by rw [← hQ, ← hP, ← hB]; simp [base, State.landed]
    have hbub : bubblesOf (s.ctx c x) m.ins (.trap cause code) = 0 := by unfold bubblesOf; cases m.ins <;> rfl
    simp only [done, hact, hflow, hB, hP, hset, State.goOn, hnest, passDecision, hQ, hcyc, hbub]
  have hsame : SameWalks B Q c := by
    rw [← hQ, ← hP]
    exact ⟨by simp [State.core_modCtx_self, Core.putCtx], rfl, rfl, rfl, rfl, rfl⟩
  have hBQ : OnlyCtx B Q c x := by rw [← hQ, ← hP]; exact (OnlyCtx.modCtx _ _ _ _).trans (.modCtx _ _ _ _)
  have hsB : OnlyCtx s B c x := by rw [← hB]; exact .base ..
  have hrQ : Q.recordPlace c x = .ok pas := by
    rw [recordPlace_congr hsame hBQ.core.teams hBQ.outside.launches (by rw [hQx, hBx]) (by rw [hQx, hBx]), ← hB, hs, hr]
  have hhQ : (Q.ctx c x).handler = none := by rw [hQx]; exact hv.handler.trans hh
  have hpQ : (Q.ctx c x).parks = [] := by rw [hQx]; exact hv.parks.trans (pick_parks h.turn)
  rw [hd]
  refine ⟨((hsB.trans hBQ).trans (takeTrap_onlyCtx hhQ hpQ hrQ)).trans (.issued ..), ?_⟩
  rw [ctx_issued, takeTrap_ctx hx hhQ hpQ hrQ, hQx, (hsB.trans hBQ).hdrAt]

/-- A context gone elsewhere. -/
def Ctx.moved (v : Ctx) (pc : Nat) (nest : List Nest) (preps : List (Nat × Bool × Nat)) : Ctx := { v with pc := pc, nest := nest, preps := preps }

theorem commit_moved (v : Ctx) (pc : Nat) (nest : List Nest) (preps : List (Nat × Bool × Nat)) (l : Landing) :
    (v.moved pc nest preps).commit l = (v.commit l).moved pc nest preps := by
  unfold Ctx.commit; split <;> rfl

/-- What lands does not depend on where the context is. -/
theorem landAll_moved (v : Ctx) (pc : Nat) (nest : List Nest) (preps : List (Nat × Bool × Nat)) :
    (v.moved pc nest preps).landAll = v.landAll.moved pc nest preps := by
  have h : ∀ (ls : List Landing) (w : Ctx), ls.foldl Ctx.commit (w.moved pc nest preps) = (ls.foldl Ctx.commit w).moved pc nest preps := by
    intro ls
    induction ls with
    | nil => exact fun _ => rfl
    | cons l ls ih => exact fun w => by rw [List.foldl_cons, commit_moved, ih, List.foldl_cons]
  have e : (v.moved pc nest preps).flight.foldl Ctx.commit { v.moved pc nest preps with flight := [] } =
      (v.flight.foldl Ctx.commit { v with flight := [] }).moved pc nest preps := h v.flight { v with flight := [] }
  unfold Ctx.landAll
  rw [e]
  rfl

theorem landAll_a (v : Ctx) : v.landAll.a = v.a := by
  have h : ∀ (ls : List Landing) (w : Ctx), (ls.foldl Ctx.commit w).a = w.a := by
    intro ls
    induction ls with
    | nil => exact fun _ => rfl
    | cons l ls ih => exact fun w => by rw [List.foldl_cons, ih]; unfold Ctx.commit; split <;> rfl
  exact h _ _

/-- Settles O10, from what trap entry leaves of a context. -/
theorem trapAndBreakResults : Obligations.TrapAndBreakResults := by
  intro s c x pa pk i pas h hh hr hn q hq u
  have hx := pick_lt h.turn
  obtain ⟨t, h1, h2, h3⟩ : ∃ t, exec q.1 s = .next t ∧ OnlyCtx s t c x ∧
      t.ctx c x = ((view s c x pa).moved (nextPc s c x pk) [] (nextPreps (view s c x pa) [(posOf s c x, semOf q.1)])).trapped q.2
        (({ step := 0, cause := q.2, detail := i.toNat } : Flt).record (s.ctx c x).pc s.cycle) (nextPc s c x pk) none false pas
        (hdrTrap (s.hdrAt c x)) := by
    simp only [List.mem_cons, List.not_mem_nil, or_false] at hq
    rcases hq with rfl | rfl <;>
      exact traps_of_flow h (clear_of_bare u rfl rfl rfl rfl rfl rfl rfl rfl rfl rfl) rfl (fun _ _ => rfl) (fun _ _ => rfl) hh hr hn
  refine ⟨t, h1, h2.outside, h2.core, ?_⟩
  have hv := sameRest_view s c x pa hx
  have hl := landAll_rest (view s c x pa)
  rw [h3]
  simp only [Ctx.trapped, landAll_moved]
  have hf : (view s c x pa).landAll.flight = [] := foldl_commit_flight _ _
  have hres : (view s c x pa).resend = [] := hv.resend.trans h.noResend
  have ha := landAll_a (view s c x pa)
  refine ⟨trivial, trivial, trivial, trivial, hf, ?_, rfl, rfl, rfl, rfl, ha, hl.lq, hl.lqs⟩
  simp [Ctx.moved, hres]

end Sys2Proof.Machine

namespace Sys2Proof.Machine

open Sys2Proof.Claim

/-! ### The first fault in the order of R166 -/

/-- A fault is the first when those listed before it are of later steps, and those after it of none earlier. -/
theorem firstFault_eq {a b : List Flt} {f : Flt} (ha : ∀ g ∈ a, f.step < g.step) (hb : ∀ g ∈ b, f.step ≤ g.step) (hs : f.syl = 0) :
    firstFault (a ++ f :: b) = some f := by
  have h0 : firstFault (f :: b) = some f := by
    have hg : ∀ l : List Flt, ∀ g, firstFault l = some g → g ∈ l := by
      intro l
      induction l with
      | nil => intro g h; cases h
      | cons e l ih =>
        intro g h
        unfold firstFault at h
        split at h
        · rename_i k hk
          split at h
          · exact List.mem_cons_of_mem _ (Option.some.inj h ▸ ih k hk)
          · exact Option.some.inj h ▸ List.mem_cons_self ..
        · exact Option.some.inj h ▸ List.mem_cons_self ..
    unfold firstFault
    split
    · rename_i g hf
      have := hb g (hg _ _ hf)
      rw [if_neg (by omega)]
    · rfl
  induction a with
  | nil => exact h0
  | cons g a ih =>
    rw [List.cons_append, firstFault, ih (fun k hk => ha k (List.mem_cons_of_mem _ hk))]
    simp [ha g (List.mem_cons_self ..)]

/-! ### Every check of a syllable comes after those of its fields and registers (R166) -/

/-- Every fault of a list is found at step `n` of R166 or later. -/
structure FromStep (n : Nat) (l : List Flt) : Prop where
  le : ∀ f ∈ l, n ≤ f.step

section

variable {n : Nat}

@[simp] theorem fromStep_nil : FromStep n [] := ⟨by simp⟩

@[simp] theorem fromStep_cons (f : Flt) (l : List Flt) : FromStep n (f :: l) ↔ n ≤ f.step ∧ FromStep n l :=
  ⟨fun h => ⟨h.le f (List.mem_cons_self ..), ⟨fun g hg => h.le g (List.mem_cons_of_mem _ hg)⟩⟩,
    fun h => ⟨List.forall_mem_cons.mpr ⟨h.1, h.2.le⟩⟩⟩

@[simp] theorem fromStep_append (a b : List Flt) : FromStep n (a ++ b) ↔ FromStep n a ∧ FromStep n b :=
  ⟨fun h => ⟨⟨fun g hg => h.le g (List.mem_append_left _ hg)⟩, ⟨fun g hg => h.le g (List.mem_append_right _ hg)⟩⟩,
    fun h => ⟨fun g hg => (List.mem_append.mp hg).elim (h.1.le g) (h.2.le g)⟩⟩

@[simp] theorem fromStep_need_iff (b : Bool) (f : Flt) : FromStep n (need b f) ↔ (b = false → n ≤ f.step) := by
  unfold need; split <;> simp [*]

theorem fromStep_need (b : Bool) (f : Flt) (h : n ≤ f.step) : FromStep n (need b f) := (fromStep_need_iff b f).mpr fun _ => h

theorem fromStep_map {α : Type} (l : List α) (f : α → Flt) (h : ∀ x, n ≤ (f x).step) : FromStep n (l.map f) := by
  refine ⟨fun g hg => ?_⟩
  obtain ⟨x, -, rfl⟩ := List.mem_map.mp hg
  exact h x

theorem fromStep_foldl {α : Type} (l : List α) (g : α → List Flt) (h : ∀ x ∈ l, FromStep n (g x)) (a : List Flt) (ha : FromStep n a) :
    FromStep n (l.foldl (fun f x => f ++ g x) a) := by
  induction l generalizing a with
  | nil => exact ha
  | cons x l ih =>
    exact ih (fun y hy => h y (List.mem_cons_of_mem _ hy)) _ ((fromStep_append _ _).mpr ⟨ha, h x (List.mem_cons_self ..)⟩)

end

/-- The steps of R166 of the faults that checks name. -/
@[simp] theorem of_step (f : Flt) (g : Geo) : (f.of g).step = f.step := rfl
@[simp] theorem fResover_step : fResover.step = 3 := rfl
@[simp] theorem fFormat_step : fFormat.step = 4 := rfl
@[simp] theorem fBankGroup_step : fBankGroup.step = 5 := rfl
@[simp] theorem fOverlap_step : fOverlap.step = 6 := rfl
@[simp] theorem fAlign_step (a : Nat) : (fAlign a).step = 7 := rfl
@[simp] theorem fTagBusy_step (a b : Nat) : (fTagBusy a b).step = 8 := rfl
@[simp] theorem fChaseCycle_step : fChaseCycle.step = 9 := rfl
@[simp] theorem fGroupMis_step (a b : Nat) : (fGroupMis a b).step = 10 := rfl
@[simp] theorem fDfrOver_step : fDfrOver.step = 11 := rfl
@[simp] theorem fBound_step : fBound.step = 12 := rfl
@[simp] theorem fMchk_step (k a p d : Nat) : (fMchk k a p d).step = k := rfl

theorem le_fXlat_step (s : State) {k : Nat} (a : Nat) (e : Xlat) (h : 3 ≤ k) : 3 ≤ (s.fXlat k a e).step := by
  unfold State.fXlat
  split
  · rw [fMchk_step]; split <;> omega
  · exact h

theorem readRecord_step {s : State} {c x va n : Nat} {f : Flt} (h : s.readRecord c x va n = .error f) : 3 ≤ f.step := by
  unfold State.readRecord at h
  split at h
  · cases h; exact le_fXlat_step _ _ _ (by omega)
  · split at h
    · cases h; simp
    · cases h

@[simp] theorem fromStep_access (e : Env) (s : State) (va n : Nat) (acc : Access) (b : Bool) : FromStep 3 (e.access s va n acc b) := by
  unfold Env.access
  split
  · simp [le_fXlat_step]
  · exact fromStep_need _ _ (le_fXlat_step _ _ _ (by omega))

@[simp] theorem fromStep_storeLost (e : Env) (s : State) (va n : Nat) : FromStep 3 (e.storeLost s va n) := by
  unfold Env.storeLost
  split
  · simp
  · split <;> simp

@[simp] theorem fromStep_tagFree (e : Env) (s : State) (t : Nat) : FromStep 3 (e.tagFree s t) := fromStep_need _ _ (by simp)

@[simp] theorem fromStep_chaseOver (e : Env) (g : Geo) : FromStep 3 (e.chaseOver g) := by
  unfold Env.chaseOver; split <;> simp

@[simp] theorem fromStep_cycleCheck (e : Env) (s : State) (m : Cmd) (b : Bool) : FromStep 3 (e.cycleCheck s m b) := by
  simp [Env.cycleCheck]

@[simp] theorem fromStep_windowCheck (g : Geo) (h : W512) (n : Nat) : FromStep 3 (g.windowCheck h n) := by
  unfold Geo.windowCheck; split <;> simp

@[simp] theorem fromStep_streamCheck (e : Env) (s : State) (a : Nat) (b : Bool) : FromStep 3 (e.streamCheck s a b) := by
  unfold Env.streamCheck
  simp only [fromStep_append]
  refine ⟨⟨⟨⟨⟨⟨⟨?_, ?_⟩, ?_⟩, ?_⟩, ?_⟩, ?_⟩, ?_⟩, ?_⟩ <;> try exact fromStep_need _ _ (by simp)
  · split <;> simp
  · split
    · simp
    · split
      · rename_i h; simpa using readRecord_step h
      · simp

@[simp] theorem fromStep_rmwChecks (e : Env) (s : State) (a z al : Nat) : FromStep 3 (e.rmwChecks s a z al) := by
  simp [Env.rmwChecks, fromStep_access]

@[simp] theorem fromStep_queueChecks (e : Env) (s : State) (a : Nat) : FromStep 3 (e.queueChecks s a) := by
  simp [Env.queueChecks, fromStep_access]

@[simp] theorem fromStep_chunkChecks (e : Env) (s : State) (w : BitVec 2) (a : W64) (st : Int) (m : W64) (acc : Access) :
    FromStep 3 (e.chunkChecks s w a st m acc) := by
  unfold Env.chunkChecks
  refine (fromStep_append _ _).mpr ⟨by simp, ?_⟩
  simp only [List.append_assoc]
  refine fromStep_foldl _ _ (fun j _ => ?_) _ fromStep_nil
  refine (fromStep_append _ _).mpr ⟨fromStep_access .., ?_⟩
  split
  · exact fromStep_storeLost ..
  · simp

@[simp] theorem fromStep_gatherChecks (e : Env) (s : State) (b q : W64) (v : V1024) (js : List Nat) (acc : Access) :
    FromStep 3 (e.gatherChecks s b q v js acc) := by
  unfold Env.gatherChecks
  split
  · simp
  · refine fromStep_foldl _ _ (fun j _ => ?_) _ fromStep_nil
    split
    · simp
    · simp only [fromStep_append]
      refine ⟨⟨by simp, fromStep_access ..⟩, ?_⟩
      split
      · exact fromStep_storeLost ..
      · simp

@[simp] theorem fromStep_localChecks (e : Env) (s : State) (a : Nat) (w : BitVec 2) (x m : W64) : FromStep 3 (e.localChecks s a w x m) := by
  unfold Env.localChecks
  simp only [fromStep_append]
  refine ⟨⟨fromStep_streamCheck .., by simp⟩, ?_⟩
  split
  · simp only [fromStep_append]
    exact ⟨⟨by simp, by simp⟩, fromStep_map _ _ (fun _ => by simp)⟩
  · simp

@[simp] theorem fromStep_pjCheck (e : Env) (s : State) (k : Nat) (ok : BitVec 256 → Bool) : FromStep 3 (e.pjCheck s k ok) := by
  unfold Env.pjCheck
  split
  · rename_i f h
    unfold Env.pjRead at h
    split at h
    · cases h; simp
    · split at h
      · rename_i h'; cases h; simpa using readRecord_step h'
      · cases h
  · simp

@[simp] theorem fromStep_readAligned (e : Env) (s : State) (va n al : Nat) (ok : Nat → Bool) : FromStep 3 (e.readAligned s va n al ok) := by
  unfold Env.readAligned
  split
  · simp
  · split
    · rename_i h; simpa using readRecord_step h
    · simp

@[simp] theorem fromStep_histRecord (e : Env) (s : State) (va : Nat) : FromStep 3 (e.histRecord s va) := by
  unfold Env.histRecord
  split
  · exact fromStep_need _ _ (le_fXlat_step _ _ _ (by omega))
  · simp [le_fXlat_step]
  · simp

@[simp] theorem fromStep_deviceSpan (e : Env) (s : State) (va n : Nat) : FromStep 3 (e.deviceSpan s va n) := by
  unfold Env.deviceSpan
  refine fromStep_foldl _ _ (fun i _ => ?_) _ fromStep_nil
  split
  · exact fromStep_need _ _ (le_fXlat_step _ _ _ (by omega))
  · simp [le_fXlat_step]

@[simp] theorem fromStep_chanLost (e : Env) (s : State) (ns : List Nat) : FromStep 3 (e.chanLost s ns) := fromStep_map _ _ (fun _ => by simp)

@[simp] theorem fromStep_recvChecks (e : Env) (s : State) (c d t : Nat) (r : Bool) : FromStep 3 (e.recvChecks s c d t r) := by
  unfold Env.recvChecks
  simp only [fromStep_append]
  exact ⟨⟨⟨⟨⟨fromStep_windowCheck .., fromStep_streamCheck ..⟩, by simp⟩, by simp⟩, fromStep_tagFree ..⟩, fromStep_chanLost ..⟩

@[simp] theorem fromStep_drawsLost (e : Env) (x : BitVec 2) : FromStep 3 (e.drawsLost x) := fromStep_need _ _ (by simp)

@[simp] theorem fromStep_mismatch (e : Env) (s : State) (t : Nat) : FromStep 3 (e.mismatch s t) := fromStep_need _ _ (by simp)

@[simp] theorem fromStep_maskOver (e : Env) (m : W64) : FromStep 3 (e.maskOver m) := fromStep_need _ _ (by simp)


theorem fromStep_ite {n : Nat} {p : Prop} [Decidable p] {a b : List Flt} (ha : FromStep n a) (hb : FromStep n b) :
    FromStep n (if p then a else b) := by split <;> assumption

theorem nest_fromStep (l : BitVec 3) (r : BitVec 1) (k : BitVec 5) (n : BitVec 22) (e : Env) (s : State) :
    FromStep 3 ((semNest l r k n).check e s) := by
  simp only [semNest, fromStep_append]
  refine ⟨⟨⟨⟨by simp, by simp⟩, by simp⟩, by simp⟩, ?_⟩
  split
  · simp [le_fXlat_step]
  · split <;> simp

theorem lld_fromStep (w : BitVec 2) (d : BitVec 5) (b : BitVec 4) (x : BitVec 5) (m : BitVec 3) (e : Env) (s : State) :
    FromStep 3 ((semLld w d b x m).check e s) := by
  simp only [semLld, fromStep_append, fromStep_localChecks, fromStep_chaseOver, true_and]
  split <;> simp

theorem gjoin_fromStep (g : BitVec 4) (e : Env) (s : State) : FromStep 3 ((semGjoin g).check e s) := by
  simp only [semGjoin]
  split <;> simp

theorem waitv_fromStep (c : BitVec 3) (b v p : BitVec 5) (e : Env) (s : State) : FromStep 3 ((semWaitv c b v p).check e s) := by
  simp only [semWaitv, fromStep_append, fromStep_access, and_true]
  refine ⟨by simp, ?_⟩
  split <;> simp

theorem mrecv_fromStep (v : BitVec 5) (p : BitVec 6) (e : Env) (s : State) : FromStep 3 ((semMrecv v p).check e s) := by
  simp only [semMrecv, fromStep_append]
  refine ⟨by simp, ?_⟩
  split
  · exact fromStep_map _ _ fun _ => by simp
  · simp

theorem maskTags_fromStep (e : Env) (s : State) (m : W64) :
    FromStep 3 (e.maskOver m ++ (maskTags m).foldl (fun f i => f ++ e.mismatch s i) []) :=
  (fromStep_append _ _).mpr ⟨fromStep_maskOver e m, fromStep_foldl _ _ (fun _ _ => fromStep_mismatch ..) _ fromStep_nil⟩

theorem chset_fromStep (r : BitVec 5) (e : Env) (s : State) : FromStep 3 ((semChset r).check e s) := by
  simp only [semChset]
  refine fromStep_ite (by simp) ?_
  split
  · rename_i h; simpa using readRecord_step h
  · refine (fromStep_append _ _).mpr ⟨by simp, fromStep_ite ?_ fromStep_nil⟩
    simp only [fromStep_append, fromStep_deviceSpan, true_and]
    refine ⟨fromStep_foldl _ _ (fun _ _ => fromStep_ite fromStep_nil (fromStep_deviceSpan ..)) _ fromStep_nil, by simp⟩

theorem copyOf_fromStep (i : Instr) (k : CmdKind) (l : Bool) (d a : BitVec 4) (t : BitVec 6) (f : BitVec 7) (e : Env) (s : State) :
    FromStep 3 ((copyOf i k l d a t f).check e s) := by
  simp only [copyOf, fromStep_append, fromStep_windowCheck, fromStep_streamCheck, fromStep_tagFree, fromStep_cycleCheck, true_and, and_true]
  simp [fromStep_ite]

theorem product_fromStep (i : Instr) (k : CmdKind) (c : BitVec 2) (a b : BitVec 4) (md : Option (BitVec 4)) (z : BitVec 1) (e : Env) (s : State) :
    FromStep 3 ((product i k c a b md z).check e s) := by
  simp only [product, fromStep_append, fromStep_windowCheck, fromStep_streamCheck, fromStep_cycleCheck, true_and, and_true]
  cases md <;> simp [fromStep_ite]

theorem drain_fromStep (c : BitVec 2) (d : BitVec 4) (t : BitVec 6) (p : BitVec 2) (k : BitVec 3) (f : BitVec 4) (e : Env) (s : State) :
    FromStep 3 ((semDrain c d t p k f).check e s) := by
  simp only [semDrain, fromStep_append, fromStep_windowCheck, fromStep_streamCheck, fromStep_tagFree, fromStep_cycleCheck, true_and, and_true]
  simp [fromStep_ite]

theorem padj_fromStep (d g r : BitVec 4) (t : BitVec 6) (p : BitVec 2) (e : Env) (s : State) :
    FromStep 3 ((semPadj d g r t p).check e s) := by
  simp only [semPadj, fromStep_append, fromStep_windowCheck, fromStep_streamCheck, fromStep_tagFree, fromStep_cycleCheck, fromStep_pjCheck, true_and,
    and_true]
  simp [fromStep_ite]

/-- Every fault that an instruction's own checks find comes at step 3 of R166 or later; but an `rte` outside the handler is ILLSYL (R198). -/
theorem check_fromStep (i : Instr) (he : (encode i).isSome = true) (hr : ∀ k, i ≠ .rte k) (e : Env) (s : State) :
    FromStep 3 ((semOf i).check e s) := by
  cases i with
  | rte k => exact absurd rfl (hr k)
  | nest => exact nest_fromStep _ _ _ _ _ _
  | unpks => exact fromStep_need _ _ (by simp)
  | unpki => exact fromStep_need _ _ (by simp)
  | pack | packs | packi => exact (fromStep_append _ _).mpr ⟨fromStep_need _ _ (by simp), fromStep_drawsLost _ _⟩
  | ld8s | ld8z | ld16s | ld16z | ld32s | ld32z | ld64 => exact (fromStep_append _ _).mpr ⟨fromStep_need _ _ (by simp), fromStep_access _ _ _ _ _ _⟩
  | st8 | st16 | st32 | st64 =>
    exact (fromStep_append _ _).mpr ⟨(fromStep_append _ _).mpr ⟨fromStep_need _ _ (by simp), fromStep_access _ _ _ _ _ _⟩, fromStep_storeLost _ _ _ _⟩
  | vld | vst | vlds | vsts => exact fromStep_chunkChecks _ _ _ _ _ _ _
  | vgath | vscat => exact fromStep_gatherChecks _ _ _ _ _ _ _
  | lld => exact lld_fromStep _ _ _ _ _ _ _
  | lst => exact fromStep_localChecks _ _ _ _ _ _
  | ldblk => simp [semOf, semLdblk]
  | gjoin => exact gjoin_fromStep _ _ _
  | gld => simp [semOf, semGld]
  | aadd | amin | amax | aand | aor | axor | axchg | acas | radd | raddf | rmax | rmin | vradd => exact fromStep_rmwChecks _ _ _ _ _
  | qinit | qenq | qdeq | qdeqw | qlen => exact fromStep_queueChecks _ _ _
  | dfr => exact fromStep_need _ _ (by simp)
  | waitv => exact waitv_fromStep _ _ _ _ _ _
  | waitfImm | waitfReg => exact fromStep_mismatch _ _ _
  | tany | tall => exact maskTags_fromStep _ _ _
  | tffr => exact fromStep_maskOver _ _
  | tclr => simp [semOf, semTclr]
  | fpub => simp [semOf, semFpub]
  | fbind => simp [semOf, semFbind]
  | msend => exact fromStep_need _ _ (by simp)
  | mrecv => exact mrecv_fromStep _ _ _ _
  | cpy | cpyt | cpyg | cpys => exact copyOf_fromStep _ _ _ _ _ _ _ _ _
  | cfill => simp [semOf, semCfill]
  | mma | mmasp => exact product_fromStep _ _ _ _ _ _ _ _ _
  | drain => exact drain_fromStep _ _ _ _ _ _ _ _
  | padj => exact padj_fromStep _ _ _ _ _ _ _
  | hist => simp [semOf, semHist]
  | jcard => exact fromStep_readAligned _ _ _ _ _ _
  | chsend => simp [semOf, semChsend]
  | chrecv | chred => exact (fromStep_append _ _).mpr ⟨fromStep_recvChecks _ _ _ _ _ _, fromStep_cycleCheck _ _ _ _⟩
  | chset => exact chset_fromStep _ _ _
  | chget => exact fromStep_chanLost _ _ _
  | coll => simp [semOf, semColl]
  | mcst => simp [semOf, semMcst, fromStep_ite]
  | rdld => simp [semOf, semRdld, fromStep_ite]
  | setxf => exact fromStep_need _ _ (by simp)
  | sld => exact (fromStep_append _ _).mpr ⟨fromStep_need _ _ (by simp), fromStep_access _ _ _ _ _ _⟩
  | _ => first | exact fromStep_nil | cases he


/-! ### A bundle of one syllable that faults (R166, R260) -/

/-- What the checks of a bundle of one syllable find, in the order in which `State.verdict` looks. -/
def loneFaults (s : State) (c x pa : Nat) (pk : List Nat) (m : Sem) : List Flt :=
  lostPop (fetched s c x pa) c x ((s.ctx c x).pc / 4 % 16) [(posOf s c x, m)] (view s c x pa).lq (view s c x pa).lqs ++
    faultsOf (s.hdrAt c x) [(env s c x pa pk m, m)] (base s c x pa m.srcs) ++
    flowFaults (base s c x pa m.srcs) c x 0 (m.flow (env s c x pa pk m) (base s c x pa m.srcs))

theorem view_pc (s : State) (c x pa : Nat) (hx : x < 4) : (view s c x pa).pc = (s.ctx c x).pc := (sameRest_view s c x pa hx).pc

/-- A bundle that no condition of R11 (a) to (c) blocks and whose first fault is `f` faults. -/
theorem verdict_of_fault {s : State} {c x pa : Nat} {pk : List Nat} {m : Sem} {f : Flt} (hx : x < 4)
    (hb : blocksBefore (s.core c) (view s c x pa) (teamBase s c x) [(0, m)] = false) (hf : firstFault (loneFaults s c x pa pk m) = some f) :
    (fetched s c x pa).verdict c x [(posOf s c x, m)]
      ((fetched s c x pa).prepare c x (s.ctx c x).pc (nextPc s c x pk) [(posOf s c x, m)]) = .fault f := by
  obtain ⟨ic, t, n, hc⟩ := fetched_core s c x pa
  have hv : ((fetched s c x pa).landed c x).ctx c x = view s c x pa := rfl
  have hroom : blocksBefore ((fetched s c x pa).core c) (view s c x pa) (teamBase s c x) [(posOf s c x, m)] = false := by
    rw [blocksBefore_lone _ (s.core c) _ _ _ 0 m (by simp [hc]) (by simp [hc]) (by simp [hc])]
    exact hb
  have hteam : ((fetched s c x pa).core c).teamOf x = (s.core c).teamOf x := by simp [hc]
  rw [prepare_lone]
  unfold State.verdict
  simp only [hv, hteam]
  have hneg : ¬blocksBefore ((fetched s c x pa).core c) (view s c x pa) (teamBase s c x) [(posOf s c x, m)] = true := by simp [hroom]
  refine (if_neg hneg).trans ?_
  simp only [dupDst_lone, fetched_hdrAt, view_pc s c x pa hx, List.nil_append]
  unfold loneFaults at hf
  rw [hf]

/-- The state at the trap of a faulting bundle: the packet fetched, due results landed. -/
def atFault (s : State) (c x pa : Nat) : State := ((fetched s c x pa).landed c x).modCtx c x id

/-- A bundle of one syllable whose first fault is `f`, no loss of data and no walk that met V = 0, is left in the trap of `f`. -/
theorem issueOne_fault {s : State} {c x pa : Nat} {pk : List Nat} {m : Sem} {f : Flt} (h : Ready s c x pa pk)
    (hb : blocksBefore (s.core c) (view s c x pa) (teamBase s c x) [(0, m)] = false) (hf : firstFault (loneFaults s c x pa pk m) = some f)
    (hc : f.cause ≠ cMCHK) (hm : f.mismatch = none) (hz : f.vzero = false) :
    issueOne m s = .next (((atFault s c x pa).takeTrap c x f.cause (f.record (s.ctx c x).pc s.cycle)
      (s.ctx c x).pc none false).issued c x 0) := by
  have hg := verdict_of_fault (pick_lt h.turn) hb hf
  simp only [issueOne, h.power, h.turn, Bool.not_true, Bool.false_eq_true, if_false]
  have hint : (span (pa + (s.ctx c x).pc % 64) 4).find? (s.contest c x).isLost = none := h.intact
  have hset : (s.contest c x).settleOps c x = s.contest c x := settleOps_of_none (by simpa using h.settled)
  have hdue : (s.ctx c x).dueTrap = none := by simp [Ctx.dueTrap, h.noTrap]
  simp only [State.attempt, h.inTurn, State.issueSems, hset, contest_ctx, contest_rootAt, contest_fetchPacket, hdue, h.noTrap, h.noResend, h.noFence,
    h.fetch, hint, List.any_nil, Bool.false_eq_true, if_false]
  split
  · rename_i e; exact Verdict.noConfusion (e.symm.trans hg)
  · rename_i e; exact Verdict.noConfusion (e.symm.trans hg)
  · rename_i g e
    obtain rfl : g = f := by injection e.symm.trans hg
    have hr : ∀ t : State, t.cycle = s.cycle → t.raise c x (s.ctx c x).pc g = t.takeTrap c x g.cause (g.record (s.ctx c x).pc s.cycle) (s.ctx c x).pc none false := by
      intro t ht
      have hl : g.cause ≠ 14 := hc
      simp [State.raise, State.settleMismatch, hm, hz, State.logFault, hl, ht]
    simp only [hc, if_false]
    rw [hr]
    · rfl
    · exact fetched_cycle s c x pa
  · rename_i e; exact Verdict.noConfusion (e.symm.trans hg)


/-! ### The context and the rest after the trap of a fault -/

theorem atFault_ctx (s : State) (c x pa : Nat) (hx : x < 4) : (atFault s c x pa).ctx c x = view s c x pa :=
  State.ctx_modCtx_self _ _ _ _ hx

theorem atFault_eq_base (s : State) (c x pa : Nat) : atFault s c x pa = base s c x pa [] := rfl

/-- Taking a trap sets no engine format register. -/
theorem takeTrap_xfSets {s : State} {c x cause tpc : Nat} {record : W512} {cmd : Option Nat} {unitWd : Bool} {pas : List Nat}
    (hh : (s.ctx c x).handler = none) (hp : (s.ctx c x).parks = []) (hr : s.recordPlace c x = .ok pas) :
    ((s.takeTrap c x cause record tpc cmd unitWd).core c).xfSets = (s.core c).xfSets := by
  obtain ⟨t, ht⟩ := noteTlb_core s c (s.rootAt c x) ((s.ctx c x).trec.toNat / 64 * 64)
  rw [takeTrap_ok hh hp hr, State.core_modCtx_self, ht]
  rfl

/-- All that the trap of a fault leaves of the context but what trap entry writes, and of everything else. -/
def FaultFrame (s t : State) (c x pa : Nat) : Prop :=
  let w := (view s c x pa).landAll
  OnlyCtx s t c x ∧ (t.core c).xfSets = ((fetched s c x pa).landed c x |>.core c).xfSets ∧
    (t.ctx c x).ops.length = w.ops.length + 2 ∧ (t.ctx c x).ops.take w.ops.length = w.ops ∧
    { t.ctx c x with ops := w.ops, seq := w.seq, tpc := w.tpc, tcause := w.tcause, lostRegs := w.lostRegs, status := w.status, pc := w.pc
                     resend := w.resend, handler := w.handler } = w

/-- A bundle of one syllable that faults is left in the handler, precisely (R260, R261). -/
theorem traps_of_fault {s : State} {c x pa : Nat} {pk : List Nat} {m : Sem} {f : Flt} (h : Ready s c x pa pk) (hh : (s.ctx c x).handler = none)
    (hr : ((fetched s c x pa).landed c x |>.recordPlace c x).isOk = true)
    (hb : blocksBefore (s.core c) (view s c x pa) (teamBase s c x) [(0, m)] = false) (hf : firstFault (loneFaults s c x pa pk m) = some f)
    (hc : f.cause ≠ cMCHK) (hm : f.mismatch = none) (hz : f.vzero = false) :
    ∃ t, issueOne m s = .next t ∧ (t.ctx c x).tcause = BitVec.ofNat 64 f.cause ∧ (t.ctx c x).tpc = BitVec.ofNat 64 (s.ctx c x).pc ∧
      (t.ctx c x).pc = hdrTrap (s.hdrAt c x) ∧ (t.ctx c x).handler.isSome = true ∧ FaultFrame s t c x pa := by
  have hx := pick_lt h.turn
  have hv := sameRest_view s c x pa hx
  have hctx := atFault_ctx s c x pa hx
  have hB : OnlyCtx s (atFault s c x pa) c x := by rw [atFault_eq_base]; exact .base ..
  obtain ⟨pas, hpas⟩ : ∃ pas, (atFault s c x pa).recordPlace c x = .ok pas := by
    have hk : (atFault s c x pa).core c = (((fetched s c x pa).landed c x).core c).putCtx x (view s c x pa) := State.core_modCtx_self _ _ _ _
    have e : (atFault s c x pa).recordPlace c x = ((fetched s c x pa).landed c x).recordPlace c x :=
      recordPlace_congr ⟨(congrArg Core.tlb hk).trans rfl, rfl, rfl, rfl, rfl, rfl⟩ ((congrArg Core.teams hk).trans rfl) rfl (by rw [hctx]; rfl) (by rw [hctx]; rfl)
    rw [e]
    cases hp : ((fetched s c x pa).landed c x).recordPlace c x with
    | ok pas => exact ⟨pas, rfl⟩
    | error e => rw [hp] at hr; cases hr
  have hh' : ((atFault s c x pa).ctx c x).handler = none := by rw [hctx]; exact hv.handler.trans hh
  have hp' : ((atFault s c x pa).ctx c x).parks = [] := by rw [hctx]; exact hv.parks.trans (pick_parks h.turn)
  refine ⟨_, issueOne_fault h hb hf hc hm hz, ?_⟩
  unfold FaultFrame
  rw [ctx_issued, takeTrap_ctx hx hh' hp' hpas, hctx, hB.hdrAt]
  refine ⟨rfl, rfl, rfl, rfl, (hB.trans (takeTrap_onlyCtx hh' hp' hpas)).trans (.issued ..), ?_, List.length_append, List.take_left' rfl, rfl⟩
  rw [core_issued_self]
  refine (takeTrap_xfSets hh' hp' hpas).trans ?_
  simp [atFault, Core.putCtx]

/-! ### Illegal and undeclared syllables; branches through flagged halves -/

/-- What is popped lost is found at step 14 of R166. -/
theorem lostPop_step (s : State) (c x p q : Nat) (m : Sem) (lq lqs : List PortEntry) : FromStep 14 (lostPop s c x p [(q, m)] lq lqs) := by
  have h : ∀ (l : List Src) (a b : List PortEntry), FromStep 14 (lostSrcs s c x l a b).1 := by
    have hp : ∀ (k : Nat) (l : List PortEntry), FromStep 14 ((l.take 1).filterMap (fun e => e.lost.map (fun p =>
        { fMchk 14 p.2.1 p.2.2 (s.lossOf p.2.2) with unit := if p.2.2 = noByte then some (.register c x (k + e.cell)) else none }))) := by
      refine fun k l => ⟨fun f hf => ?_⟩
      obtain ⟨e, -, he⟩ := List.mem_filterMap.mp hf
      obtain ⟨p, -, rfl⟩ := Option.map_eq_some_iff.mp he
      exact Nat.le_refl 14
    intro l
    induction l with
    | nil => exact fun _ _ => fromStep_nil
    | cons r l ih =>
      intro a b
      unfold lostSrcs
      split
      · exact (fromStep_append _ _).mpr ⟨hp _ _, ih _ _⟩
      · exact (fromStep_append _ _).mpr ⟨hp _ _, ih _ _⟩
      · exact ih _ _
  simp only [lostPop, List.append_nil]
  refine ⟨fun f hf => ?_⟩
  obtain ⟨g, hg, rfl⟩ := List.mem_map.mp hf
  exact (h _ _ _).le g hg

theorem flowFaults_step (s : State) (c x : Nat) (fl : Flow) : FromStep 14 (flowFaults s c x 0 fl) := by
  have ht : ∀ t mis far, FromStep 14 (s.targetCheck c x t mis far) := by
    intro t mis far
    unfold State.targetCheck
    dsimp only
    refine fromStep_ite ((fromStep_cons _ _).mpr ⟨?_, fromStep_nil⟩) (fromStep_ite ((fromStep_cons _ _).mpr ⟨?_, fromStep_nil⟩) ?_)
    · exact Nat.le_succ 14
    · exact Nat.le_succ 14
    split
    · refine (fromStep_cons _ _).mpr ⟨?_, fromStep_nil⟩
      unfold State.fXlat; split <;> simp
    · split <;> simp
  have hm : ∀ l : List Flt, FromStep 14 l → FromStep 14 (l.map (fun f => { f with syl := 0 })) := by
    refine fun l hl => ⟨fun f hf => ?_⟩
    obtain ⟨g, hg, rfl⟩ := List.mem_map.mp hf
    exact hl.le g hg
  unfold flowFaults
  split
  · exact hm _ (ht _ _ _)
  · exact hm _ (ht _ _ _)
  · exact fromStep_nil

theorem lostReads_step (c y : Nat) (v : Ctx) (tags : Nat × List Nat) (sq : List SqEntry) (m : Sem) : FromStep 14 (lostReads c y v tags sq m) := by
  unfold lostReads
  dsimp only
  refine (fromStep_append _ _).mpr ⟨⟨fun f hf => ?_⟩, ⟨fun f hf => ?_⟩⟩
  · obtain ⟨k, -, hk⟩ := List.mem_filterMap.mp hf
    split at hk
    · cases hk; exact Nat.le_refl 14
    · split at hk
      · cases hk; exact Nat.le_refl 14
      · cases hk
  · obtain ⟨e, -, he⟩ := List.mem_filterMap.mp hf
    split at he
    · cases he; exact Nat.le_refl 14
    · cases he


/-- The faults of the one syllable: of its fields, of its registers, of data that is lost, and its own. -/
def ownFaults (s : State) (c x pa : Nat) (pk : List Nat) (m : Sem) : List Flt :=
  m.streams.filterMap (fun a => (tget (env s c x pa pk m).ctx.lostA a).map (fun p => fMchk 14 p.1 p.2 ((base s c x pa m.srcs).lossOf p.2))) ++
    lostReads c x (env s c x pa pk m).ctx ((base s c x pa m.srcs).lostTagsAt c x) ((base s c x pa m.srcs).ctx c x).sq m

theorem ownFaults_step (s : State) (c x pa : Nat) (pk : List Nat) (m : Sem) : FromStep 14 (ownFaults s c x pa pk m) := by
  refine (fromStep_append _ _).mpr ⟨⟨fun f hf => ?_⟩, lostReads_step ..⟩
  obtain ⟨a, -, ha⟩ := List.mem_filterMap.mp hf
  obtain ⟨p, -, rfl⟩ := Option.map_eq_some_iff.mp ha
  exact Nat.le_refl 14

theorem loneFaults_eq (s : State) (c x pa : Nat) (pk : List Nat) (m : Sem) : loneFaults s c x pa pk m =
    lostPop (fetched s c x pa) c x ((s.ctx c x).pc / 4 % 16) [(posOf s c x, m)] (view s c x pa).lq (view s c x pa).lqs ++
      ((need m.ins.wf fIllSyl ++ need (!m.over (s.hdrAt c x)) fResover ++ ownFaults s c x pa pk m ++
        m.check (env s c x pa pk m) (base s c x pa m.srcs)).map (fun f => { f with syl := 0 }) ++
      flowFaults (base s c x pa m.srcs) c x 0 (m.flow (env s c x pa pk m) (base s c x pa m.srcs))) := by
  have h0 : (env s c x pa pk m).pos - (env s c x pa pk m).pc / 4 % 16 = 0 := by simp [env, posOf]
  have hq : (env s c x pa pk m).snap = base s c x pa m.srcs ∧ (env s c x pa pk m).c = c ∧ (env s c x pa pk m).x = x := ⟨rfl, rfl, rfl⟩
  simp only [loneFaults, faultsOf, h0, hq, ownFaults, List.append_nil, List.append_assoc]

theorem FromStep.mono {n k : Nat} {l : List Flt} (h : FromStep n l) (hk : k ≤ n) : FromStep k l := ⟨fun f hf => hk.trans (h.le f hf)⟩

theorem FromStep.atSyl {n : Nat} {l : List Flt} (h : FromStep n l) : FromStep n (l.map (fun f => { f with syl := 0 })) := by
  refine ⟨fun f hf => ?_⟩
  obtain ⟨g, hg, rfl⟩ := List.mem_map.mp hf
  exact h.le g hg

/-- A syllable whose fields break its limits is ILLSYL (R166, R181). -/
theorem firstFault_illegal {s : State} {c x pa : Nat} {pk : List Nat} {i : Instr} (he : (encode i).isSome = true) (hw : i.wf = false) :
    firstFault (loneFaults s c x pa pk (semOf i)) = some fIllSyl := by
  have hc : FromStep 2 ((semOf i).check (env s c x pa pk (semOf i)) (base s c x pa (semOf i).srcs)) := by
    by_cases hr : ∃ k, i = .rte k
    · obtain ⟨k, rfl⟩ := hr; cases hw
    · exact (check_fromStep i he (fun k hk => hr ⟨k, hk⟩) _ _).mono (by omega)
  rw [loneFaults_eq, semOf_ins i he, hw, need]
  simp only [Bool.false_eq_true, if_false, List.cons_append, List.nil_append, List.map_cons]
  refine firstFault_eq (fun g hg => (lostPop_step ..).le g hg |>.trans' (by decide)) (fun g hg => ?_) rfl
  refine FromStep.le (n := 2) ((fromStep_append _ _).mpr ⟨FromStep.atSyl ?_, (flowFaults_step ..).mono (by omega)⟩) g hg
  simp only [fromStep_append]
  exact ⟨⟨fromStep_need _ _ (by decide), (ownFaults_step ..).mono (by omega)⟩, hc⟩

/-- An `rte` outside the handler is ILLSYL, whatever it names (log entry 56). -/
theorem firstFault_rte {s : State} {c x pa : Nat} {pk : List Nat} {k : BitVec 5} (hh : (s.ctx c x).handler = none) (hx : x < 4) :
    firstFault (loneFaults s c x pa pk (semOf (.rte k))) = some fIllSyl := by
  have hck : (semOf (.rte k)).check (env s c x pa pk (semOf (.rte k))) (base s c x pa (semOf (.rte k)).srcs) = [fIllSyl] := by
    have hn : (env s c x pa pk (semOf (.rte k))).ctx.handler = none := by
      rw [Env.ctx]
      exact (congrArg Ctx.handler (base_ctx s c x pa _ hx)).trans ((sameRest_view s c x pa hx).handler.trans hh)
    simp only [semOf, semRte] at hn ⊢
    rw [hn]
  have hwf : (semOf (.rte k)).ins.wf = true := rfl
  rw [loneFaults_eq, hck, hwf]
  simp only [need, if_true, List.nil_append, List.map_append, List.map_cons, List.map_nil, List.append_assoc]
  rw [← List.append_assoc, ← List.append_assoc]
  refine firstFault_eq (fun g hg => ?_) (fun g hg => (flowFaults_step ..).le g hg |>.trans' (by decide)) rfl
  refine FromStep.le (n := 3) ?_ g hg
  simp only [fromStep_append]
  exact ⟨⟨(lostPop_step ..).mono (by omega), (fromStep_need _ _ (by decide)).atSyl⟩, (ownFaults_step ..).atSyl.mono (by omega)⟩

/-- Another syllable that names an undeclared register is RESOVER (R28, R166). -/
theorem firstFault_over {s : State} {c x pa : Nat} {pk : List Nat} {i : Instr} (he : (encode i).isSome = true) (hw : i.wf = true)
    (ho : (semOf i).over (s.hdrAt c x) = true) (hr : ∀ k, i ≠ .rte k) : firstFault (loneFaults s c x pa pk (semOf i)) = some fResover := by
  rw [loneFaults_eq, semOf_ins i he, hw, ho]
  simp only [need, if_true, Bool.not_true, Bool.false_eq_true, if_false, List.cons_append, List.nil_append, List.map_cons]
  refine firstFault_eq (fun g hg => (lostPop_step ..).le g hg |>.trans' (by decide)) (fun g hg => ?_) rfl
  refine FromStep.le (n := 3) ((fromStep_append _ _).mpr ⟨FromStep.atSyl ?_, (flowFaults_step ..).mono (by omega)⟩) g hg
  exact (fromStep_append _ _).mpr ⟨(ownFaults_step ..).mono (by omega), check_fromStep i he hr _ _⟩

/-- A syllable with usable operands, no streams and no checks faults only where it sends control. -/
theorem loneFaults_of_usable {s : State} {c x pa : Nat} {pk : List Nat} {m : Sem} (hx : x < 4) (u : Usable s c x pa m) (hw : m.ins.wf = true)
    (hs : m.streams = []) (hc : ∀ e b, m.check e b = []) :
    loneFaults s c x pa pk m = flowFaults (base s c x pa m.srcs) c x 0 (m.flow (env s c x pa pk m) (base s c x pa m.srcs)) := by
  have hctx : (env s c x pa pk m).ctx = popped s c x pa m.srcs := base_ctx s c x pa m.srcs hx
  have hown : ownFaults s c x pa pk m = [] := by
    simp only [ownFaults, hs, List.filterMap_nil, List.nil_append, hctx, base_lostTagsAt, base_ctx s c x pa m.srcs hx]
    exact u.intact
  rw [loneFaults_eq, hw, u.declared, hown, hc, lostPop_lone s _ c x _ _ m _ _ u.arrived]
  rfl

/-- The conditions of R11 (a) to (c) on a syllable that names only registers and ports. -/
theorem blocksBefore_bare {s : State} {c x pa : Nat} {m : Sem} (u : Usable s c x pa m) (hlqs : m.lqs = 0) (hlq : m.lq = 0) (hq : m.queue = none)
    (hs : m.streams = []) (hr : m.record = false) : blocksBefore (s.core c) (view s c x pa) (teamBase s c x) [(0, m)] = false := by
  have h1 := u.lqs
  have h2 := u.lq
  have h3 := u.sq
  simp only [popCount, List.map_cons, List.map_nil, List.sum_cons, List.sum_nil, Nat.add_zero] at h1 h2
  simp [blocksBefore, portRoom, hq, hlqs, hlq, hs, Sem.readsRecord, hr, popCount, h1, h2, h3]

/-- A target half is misaligned in its flag alone (R190). -/
theorem target_aligned (h : Steer) (pc : Nat) : h.target pc % 4 = 0 := by
  unfold Steer.target
  omega

/-- A taken branch to a target with its misaligned or its far flag set: ALIGN, or XLATE (R160, R190). -/
theorem flowFaults_flagged (s : State) (c x pc : Nat) (h : Steer) (hf : h.mis = true ∨ h.far = true) :
    flowFaults s c x 0 (.jump (h.target pc) h.mis h.far) = [{ step := 15, cause := if h.mis then cALIGN else cXLATE, addr := h.target pc }] := by
  unfold flowFaults State.targetCheck
  cases hm : h.mis with
  | true => simp
  | false =>
    have hfar : h.far = true := by simpa [hm] using hf
    simp [target_aligned, hfar]

/-- Settles O11, from the first fault of the syllable's bundle and the trap it is left in. -/
theorem faultingBundlesTrap : Obligations.FaultingBundlesTrap := by
  unfold Obligations.FaultingBundlesTrap
  intro entry
  constructor
  · intro s c x pa pk i he h hh hr hb hbad
    have hx := pick_lt h.turn
    rw [exec_issue i s he]
    cases hw : i.wf with
    | false => exact traps_of_fault h hh hr hb (firstFault_illegal he hw) (by decide) rfl rfl
    | true =>
      have ho : (semOf i).over (s.hdrAt c x) = true := by simpa [hw] using hbad
      by_cases hrte : ∃ k, i = .rte k
      · obtain ⟨k, rfl⟩ := hrte
        exact traps_of_fault h hh hr hb (firstFault_rte hh hx) (by decide) rfl rfl
      · have e := traps_of_fault h hh hr hb (firstFault_over he hw ho (fun k hk => hrte ⟨k, hk⟩)) (by decide) rfl rfl
        cases i with
        | rte k => exact absurd ⟨k, rfl⟩ hrte
        | _ => exact e
  · intro s c x pa pk k h q hq v st hk u ha hf hh hr
    have hx := pick_lt h.turn
    obtain ⟨he, hw, hm⟩ : (encode q.1).isSome = true ∧ q.1.wf = true ∧ semOf q.1 = branch q.1 k q.2 := by
      simp only [List.mem_cons, List.not_mem_nil, or_false] at hq
      rcases hq with rfl | rfl <;> exact ⟨rfl, decide_eq_true hk, rfl⟩
    have hlone : loneFaults s c x pa pk (semOf q.1) =
        [{ step := 15, cause := if st.mis then cALIGN else cXLATE, addr := st.target (s.ctx c x).pc }] := by
      rw [hm] at u ⊢
      rw [loneFaults_of_usable hx u hw rfl (fun _ _ => rfl), ← flowFaults_flagged (base s c x pa (branch q.1 k q.2).srcs) c x _ st hf]
      congr 1
      have hst : (env s c x pa pk (branch q.1 k q.2)).steer k = st := by
        simp only [Env.steer, Env.ctx]
        exact congrArg (fun w : Ctx => vget w.st k.toNat Steer.zero) (base_ctx s c x pa [.cond k.toNat] hx)
      have hb0 : (env s c x pa pk (branch q.1 k q.2)).b 0 = q.2 := ha
      change (if (env s c x pa pk (branch q.1 k q.2)).b 0 = q.2 then _ else _) = _
      rw [if_pos hb0, hst]
      rfl
    have hb : blocksBefore (s.core c) (view s c x pa) (teamBase s c x) [(0, semOf q.1)] = false := by
      rw [hm] at u ⊢
      exact blocksBefore_bare u rfl rfl rfl rfl rfl
    rw [exec_issue _ s he]
    have e := traps_of_fault (f := { step := 15, cause := if st.mis then cALIGN else cXLATE, addr := st.target (s.ctx c x).pc }) h hh hr hb
      (by rw [hlone]; rfl) (by dsimp only; split <;> decide) rfl rfl
    obtain ⟨t, h1, h2, h3⟩ := e
    refine ⟨t, h1, h2.trans ?_, h3⟩
    cases st.mis <;> rfl

end Sys2Proof.Machine

namespace Sys2Proof.Machine

open Sys2Proof.Claim

/-! ### What is left when a bundle's effects keep to its context -/

/-- With nothing of its own due after its effects, a performed bundle leaves its context one bundle further (R159, R193). -/
theorem done_ctx {s : State} {c x pa : Nat} {pk : List Nat} {m : Sem} {w : Ctx} (hx : x < 4)
    (hf : m.flow (env s c x pa pk m) (base s c x pa m.srcs) = .next)
    (hw : (m.act (env s c x pa pk m) (base s c x pa m.srcs)).ctx c x = w) (hi : w.innerReady = none) :
    OnlyCtx (m.act (env s c x pa pk m) (base s c x pa m.srcs)) (done s c x pa pk m) c x ∧
    (done s c x pa pk m).ctx c x =
      (let d := passDecision (s.ctx c x).pc (nextPc s c x pk) w.nest
       { w with pc := d.2, nest := d.1, preps := nextPreps w [(posOf s c x, m)] }) := by
  generalize hT : m.act (env s c x pa pk m) (base s c x pa m.srcs) = T at hw ⊢
  have hs : (T.modCtx c x (fun w => { w with preps := nextPreps w [(posOf s c x, m)] })).settleOps c x =
      T.modCtx c x (fun w => { w with preps := nextPreps w [(posOf s c x, m)] }) := by
    apply settleOps_of_none
    rw [State.ctx_modCtx_self _ _ _ _ hx, hw, ← hi]
    exact innerReady_congr rfl
  simp only [done, hT, hf, hs, State.goOn]
  refine ⟨((OnlyCtx.modCtx _ _ _ _).trans (.modCtx _ _ _ _)).trans (.issued ..), ?_⟩
  simp only [ctx_issued, State.ctx_modCtx_self _ _ _ _ hx, hw]

/-- A clear syllable whose effects leave its context `w`, and all else, is performed so. -/
theorem performs_of_clear {s : State} {c x pa : Nat} {pk : List Nat} {i : Instr} {w : Ctx} (h : Ready s c x pa pk) (he : (encode i).isSome = true)
    (k : Clear s c x pa pk (semOf i)) (hf : (semOf i).flow (env s c x pa pk (semOf i)) (base s c x pa (semOf i).srcs) = .next)
    (ha : OnlyCtx (base s c x pa (semOf i).srcs) ((semOf i).act (env s c x pa pk (semOf i)) (base s c x pa (semOf i).srcs)) c x)
    (hw : ((semOf i).act (env s c x pa pk (semOf i)) (base s c x pa (semOf i).srcs)).ctx c x = w) (hi : w.innerReady = none) :
    Performs s c x pk i w := by
  obtain ⟨h1, h2⟩ := done_ctx (pick_lt h.turn) hf hw hi
  exact ⟨_, by rw [exec_issue i s he]; exact issueOne_done h k, ((OnlyCtx.base ..).trans ha).trans h1, h2⟩

/-! ### What the core performs itself (R137) -/

/-- An access that something outside the core performs. -/
def MemOp.outer (o : MemOp) : Bool := !(o.isMark || o.isLst)

/-- The accesses of a list that the core may perform itself, each held back by `pre` and those before it. -/
theorem innerReady_eq_none_iff (v : Ctx) : v.innerReady = none ↔
    ∀ k o, v.ops[k]? = some o → o.outer = true ∨ ∃ p ∈ v.ops.take k, o.passes p = false := by
  unfold Ctx.innerReady
  rw [List.findSome?_eq_none_iff]
  constructor
  · intro h k o hk
    obtain ⟨hl, rfl⟩ := List.getElem?_eq_some_iff.mp hk
    have := h (v.ops[k], k) (List.mem_iff_getElem?.mpr ⟨k, by simp [hl]⟩)
    by_contra hn
    push Not at hn
    have h1 : (v.ops[k].isMark || v.ops[k].isLst) = true := by
      have := hn.1
      unfold MemOp.outer at this
      cases e : (v.ops[k].isMark || v.ops[k].isLst) <;> simp_all
    have h2 : (v.ops.take k).all v.ops[k].passes = true := List.all_eq_true.mpr fun p hp => by simpa using hn.2 p hp
    simp only [h1, h2, Bool.and_self, if_true] at this
    cases this
  · rintro h ⟨o, k⟩ hk
    obtain ⟨j, hj⟩ := List.mem_iff_getElem?.mp hk
    obtain ⟨h1, h2⟩ := List.getElem?_zip_eq_some.mp hj
    obtain ⟨hlt, rfl⟩ := List.getElem?_eq_some_iff.mp h2
    simp only [List.getElem_range] at *
    rcases h j o h1 with h | ⟨p, hp, hpass⟩
    · have : (o.isMark || o.isLst) = false := by simpa [MemOp.outer] using h
      simp [this]
    · have : (v.ops.take j).all o.passes = false := by simpa [List.all_eq_false] using ⟨p, hp, hpass⟩
      simp [this]

/-- An access issued last makes nothing ready inside the core where something outside performs it, or an earlier one holds it back. -/
theorem innerReady_push {v w : Ctx} {o : MemOp} (h : v.innerReady = none) (hw : w.ops = v.ops ++ [o])
    (ho : o.outer = true ∨ ∃ p ∈ v.ops, o.passes p = false) : w.innerReady = none := by
  rw [innerReady_eq_none_iff] at h ⊢
  intro k q hk
  rw [hw] at hk ⊢
  rcases Nat.lt_trichotomy k v.ops.length with hl | rfl | hl
  · rw [List.getElem?_append_left hl] at hk
    rw [List.take_append_of_le_length hl.le]
    exact h k q hk
  · obtain rfl : o = q := by simpa using hk
    simpa using ho
  · simp [List.getElem?_append_right hl.le, show k - v.ops.length ≠ 0 by omega] at hk

/-- A fence, a pub or an arrive passes nothing (R134, R137). -/
theorem passes_of_mark {o : MemOp} (h : o.isMark = true) (p : MemOp) : o.passes p = false := by simp [MemOp.passes, h]

/-- The oldest access, where the core performs it itself, waits for nothing. -/
theorem innerReady_head {v : Ctx} {o : MemOp} {l : List MemOp} (h : v.ops = o :: l) (ho : (o.isMark || o.isLst) = true) :
    v.innerReady = some o := by
  unfold Ctx.innerReady
  rw [h, List.length_cons, List.range_succ_eq_map, List.zip_cons_cons, List.findSome?_cons]
  simp [ho]

theorem settleN_of_none {s : State} {c x : Nat} (n : Nat) (h : (s.ctx c x).innerReady = none) : settleN n s c x = s := by
  cases n with
  | zero => rfl
  | succ n => simp [settleN, h]

/-- One access is due inside the core, and none once it has been performed. -/
theorem settleOps_one {s : State} {c x : Nat} {o : MemOp} (h : (s.ctx c x).innerReady = some o)
    (h' : (((s.modCtx c x (fun v => v.dropOp o.id)).performInner c x o).ctx c x).innerReady = none) :
    s.settleOps c x = (s.modCtx c x (fun v => v.dropOp o.id)).performInner c x o := by
  unfold State.settleOps
  cases hl : (s.ctx c x).ops.length with
  | zero => simp [Ctx.innerReady, List.eq_nil_of_length_eq_zero hl] at h
  | succ n => simp only [settleN, h, settleN_of_none n h']

/-! ### A release is published (R153) -/

/-- What a release leaves of its core: the lines written since begin anew, and the signature is new. -/
def Core.released (k : Core) : Core := { k with written := [], sig := signature k.written }

/-- Cores that are alike pairwise are found alike. -/
theorem core_of_cores {s t : State} (h : t.cores = s.cores) (c : Nat) : t.core c = s.core c := by simp only [State.core, h]

theorem publish_cores (s : State) (c scope : Nat) :
    (s.publish c scope).cores = (s.modCore c (fun k => { k with written := [], sig := signature (s.core c).written })).cores := by
  unfold State.publish
  by_cases h : 2 ≤ scope
  · simp only [h, if_true]; rfl
  · simp only [h, if_false]; rfl

theorem publish_core (s : State) (c scope : Nat) : (s.publish c scope).core c = (s.core c).released := by
  rw [core_of_cores (publish_cores ..), State.core_modCore_self]; rfl

theorem publish_core_other (s : State) (c scope j : Nat) (h : j ≠ c) : (s.publish c scope).core j = s.core j := by
  rw [core_of_cores (publish_cores ..), State.core_modCore_other _ _ _ _ h]

@[simp] theorem publish_ctx (s : State) (c scope y : Nat) : (s.publish c scope).ctx c y = s.ctx c y := by
  rw [State.ctx, publish_core]; rfl

/-- What a release makes of memory and the dies depends on them and on the lines its core has written. -/
theorem publish_congr {s t : State} {c : Nat} (scope : Nat) (hm : t.mem = s.mem) (hd : t.dies = s.dies) (hw : (t.core c).written = (s.core c).written) :
    (t.publish c scope).mem = (s.publish c scope).mem ∧ (t.publish c scope).dies = (s.publish c scope).dies := by
  have hk : t.die (dieOf c) = s.die (dieOf c) := by simp only [State.die, hd]
  unfold State.publish
  by_cases h : 2 ≤ scope
  · simp only [h, if_true]
    rw [show ((t.dieFlush (dieOf c) fun _ => true).core c).written = (t.core c).written from rfl,
      show ((s.dieFlush (dieOf c) fun _ => true).core c).written = (s.core c).written from rfl, hw]
    constructor
    · show (t.dieFlush (dieOf c) fun _ => true).mem = (s.dieFlush (dieOf c) fun _ => true).mem
      unfold State.dieFlush; simp only [hk, hm]; rfl
    · exact congrArg (Vector.map _) (show (t.dieFlush (dieOf c) fun _ => true).dies = (s.dieFlush (dieOf c) fun _ => true).dies by
        unfold State.dieFlush State.putDie; simp only [hk, hd])
  · simp only [h, if_false, hw]
    refine ⟨hm, ?_⟩
    show vset t.dies (dieOf c) { t.die (dieOf c) with sigs := (t.die (dieOf c)).sigs ++ [_] } =
      vset s.dies (dieOf c) { s.die (dieOf c) with sigs := (s.die (dieOf c)).sigs ++ [_] }
    rw [hk, hd]

/-- The release part of a fence that has no acquire part, performed by a context's core. -/
theorem performInner_release (s : State) (c x : Nat) (o : MemOp) (hk : o.kind = .fence) (ho : o.ord = 2) :
    s.performInner c x o = if o.scope ≠ 0 then s.publish c o.scope else s := by
  simp [State.performInner, hk, ho]

/-! ### Accesses that join a context's list -/

/-- `w` is `v` with accesses that something outside the core performs joined to its outstanding ones, under new names. -/
structure Ctx.Grows (v w : Ctx) : Prop where
  ops : ∃ l, w.ops = v.ops ++ l ∧ ∀ o ∈ l, o.outer = true ∧ v.seq ≤ o.id
  seq : v.seq ≤ w.seq

theorem Ctx.Grows.refl (v : Ctx) : v.Grows v := ⟨⟨[], by simp, by simp⟩, le_refl _⟩

theorem Ctx.Grows.trans {u v w : Ctx} (h : u.Grows v) (g : v.Grows w) : u.Grows w := by
  obtain ⟨⟨l, hl, ho⟩, hs⟩ := h
  obtain ⟨⟨k, hk, hq⟩, hr⟩ := g
  refine ⟨⟨l ++ k, by rw [hk, hl, List.append_assoc], fun o hm => ?_⟩, hs.trans hr⟩
  rcases List.mem_append.mp hm with h | h
  · exact ho o h
  · exact ⟨(hq o h).1, hs.trans (hq o h).2⟩

/-- A plain access joins. -/
theorem Ctx.Grows.pushOp (v : Ctx) {k : OpKind} (rd : List (Nat × Nat)) (wr : List (Nat × Byte)) (ord scope bundle va : Nat)
    (hk : ∀ i, MemOp.outer { id := i, kind := k, bytes := rd, writes := wr, ord := ord, scope := scope, bundle := bundle, va := va } = true) :
    v.Grows (v.pushOp k rd wr ord scope bundle va) :=
  ⟨⟨_, rfl, by simpa using hk v.seq⟩, Nat.le_succ _⟩

theorem Ctx.Grows.reserveLqs (v : Ctx) : v.Grows v.reserveLqs := ⟨⟨[], (List.append_nil _).symm, by simp⟩, Nat.le_succ _⟩

theorem Ctx.Grows.reserveLq (v : Ctx) (n : Nat) : v.Grows (v.reserveLq n) := ⟨⟨[], (List.append_nil _).symm, by simp⟩, Nat.le_succ _⟩

theorem Ctx.Grows.foldl {α : Type} {f : Ctx → α → Ctx} (h : ∀ (v : Ctx) a, v.Grows (f v a)) (l : List α) (v : Ctx) : v.Grows (l.foldl f v) := by
  induction l generalizing v with
  | nil => exact .refl v
  | cons a l ih => exact (h v a).trans (ih _)

/-- Accesses that join make nothing ready inside the core. -/
theorem Ctx.Grows.innerReady {v w : Ctx} (h : v.Grows w) (hi : v.innerReady = none) : w.innerReady = none := by
  obtain ⟨⟨l, hl, ho⟩, -⟩ := h
  rw [innerReady_eq_none_iff] at hi ⊢
  intro k q hk
  rw [hl] at hk ⊢
  by_cases hlt : k < v.ops.length
  · rw [List.getElem?_append_left hlt] at hk
    rw [List.take_append_of_le_length hlt.le]
    exact hi k q hk
  · rw [List.getElem?_append_right (by omega)] at hk
    exact .inl (ho q (List.mem_of_getElem? hk)).1

/-- A release fence behind earlier accesses waits, and what is issued after it with it. -/
theorem innerReady_fenced {v : Ctx} (scope bundle va : Nat) (hi : v.innerReady = none) (ho : v.ops ≠ []) :
    (v.pushOp .fence [] [] 2 scope bundle va).innerReady = none := by
  obtain ⟨p, hp⟩ := List.exists_mem_of_ne_nil _ ho
  exact innerReady_push hi rfl (.inr ⟨p, hp, passes_of_mark rfl p⟩)

/-- A release fence that nothing is ahead of is the first thing due. -/
theorem Ctx.Grows.fence_first {v w : Ctx} {scope bundle va : Nat} (h : (v.pushOp .fence [] [] 2 scope bundle va).Grows w) (ho : v.ops = []) :
    w.innerReady = some { id := v.seq, kind := .fence, bytes := [], writes := [], ord := 2, scope := scope, bundle := bundle, va := va } := by
  obtain ⟨⟨l, hl, -⟩, -⟩ := h
  have hl' : w.ops = { id := v.seq, kind := .fence, bytes := [], writes := [], ord := 2, scope := scope, bundle := bundle, va := va } :: l := by
    rw [hl]
    show (v.ops ++ [_]) ++ l = _
    rw [ho]; rfl
  exact innerReady_head hl' rfl

/-- With the fence gone, what joined behind it is not due inside the core either. -/
theorem Ctx.Grows.fence_gone {v w : Ctx} {scope bundle va : Nat} (h : (v.pushOp .fence [] [] 2 scope bundle va).Grows w) (ho : v.ops = []) :
    (w.dropOp v.seq).innerReady = none := by
  obtain ⟨⟨l, hl, hq⟩, -⟩ := h
  rw [innerReady_eq_none_iff]
  intro k q hk
  have hm : q ∈ (w.dropOp v.seq).ops := List.mem_of_getElem? hk
  obtain ⟨hm, hne⟩ : q ∈ w.ops ∧ (q.id != v.seq) = true := List.mem_filter.mp hm
  have hf : (v.pushOp .fence [] [] 2 scope bundle va).ops = [{ id := v.seq, kind := .fence, bytes := [], writes := [], ord := 2, scope := scope, bundle := bundle, va := va }] := by
    show v.ops ++ [_] = _
    rw [ho]; rfl
  rw [hl, hf] at hm
  rcases List.mem_cons.mp hm with rfl | hm
  · simp at hne
  · exact .inl (hq q hm).1

@[simp] theorem dropOp_pushOp {v : Ctx} {id : Nat} (k : OpKind) (rd : List (Nat × Nat)) (wr : List (Nat × Byte)) (ord scope bundle va : Nat) (h : id < v.seq) :
    (v.pushOp k rd wr ord scope bundle va).dropOp id = (v.dropOp id).pushOp k rd wr ord scope bundle va := by
  simp [Ctx.pushOp, Ctx.dropOp, List.filter_append, h.ne']

/-- The fence just issued, with nothing else outstanding, leaves its name behind alone. -/
theorem dropOp_fence {v : Ctx} (scope bundle va : Nat) (h : v.ops = []) :
    (v.pushOp .fence [] [] 2 scope bundle va).dropOp v.seq = { v with seq := v.seq + 1 } := by
  simp [Ctx.pushOp, Ctx.dropOp, h]

theorem dropOp_foldl {α : Type} {f : Ctx → α → Ctx} (hf : ∀ v id a, id < v.seq → (f v a).dropOp id = f (v.dropOp id) a ∧ id < (f v a).seq)
    (l : List α) (v : Ctx) (id : Nat) (h : id < v.seq) : (l.foldl f v).dropOp id = l.foldl f (v.dropOp id) := by
  induction l generalizing v with
  | nil => rfl
  | cons a l ih => rw [List.foldl_cons, List.foldl_cons, ih _ (hf v id a h).2, (hf v id a h).1]

/-! ### A read with a release part (R134, R153) -/

theorem base_sigSeen (s : State) (c x pa : Nat) (r : List Src) : ((base s c x pa r).core c).sigSeen = (s.core c).sigSeen := by
  obtain ⟨ic, t, n, hf⟩ := fetched_core s c x pa
  obtain ⟨cs, h1, -⟩ := landSevs_eq (fetched s c x pa) ((fetched s c x pa).core c)
  simp only [base, State.landed]
  rw [State.core_putCtx_self, State.core_putCore_self, h1, hf]
  rfl

/-- What the release part of a fence does to the state `t` it finds, once its context has issued it. -/
theorem released_of_kept {s t : State} {c : Nat} (scope : Nat) (ho : SameOutside s t) (hk : KeptCore (s.core c) (t.core c))
    (hg : (t.core c).sigSeen = (s.core c).sigSeen) :
    let p := fencedState s c 2 scope
    let u := if scope ≠ 0 then t.publish c scope else t
    u.mem = p.mem ∧ u.dies = p.dies ∧ (u.core c).l1 = (p.core c).l1 ∧ (u.core c).l1Sectors = (p.core c).l1Sectors ∧
    (u.core c).written = (p.core c).written ∧ (u.core c).sig = (p.core c).sig ∧ (u.core c).sigSeen = (p.core c).sigSeen := by
  unfold fencedState
  by_cases h : scope = 0
  · simp only [h, ne_eq, not_true_eq_false, false_and, if_false]
    exact ⟨ho.mem, ho.dies, hk.l1, hk.l1Sectors, hk.written, hk.sig, hg⟩
  · obtain ⟨h1, h2⟩ := publish_congr (c := c) scope ho.mem ho.dies hk.written
    simp only [ne_eq, h, not_false_eq_true, true_and, le_refl, if_true, Nat.reduceMod, zero_ne_one, if_false, publish_core]
    exact ⟨h1, h2, hk.l1, hk.l1Sectors, rfl, congrArg signature hk.written, hg⟩

theorem onlyCtx_goOn (s : State) (c x pc next p : Nat) : OnlyCtx s (s.goOn c x pc next p .next) c x := by
  simp only [State.goOn]; exact OnlyCtx.modCtx _ _ _ _

/-- A clear syllable that issues a release fence with nothing ahead of it, and accesses behind it, has performed the fence when it is done. -/
theorem fences_of_clear {s : State} {c x pa : Nat} {pk : List Nat} {i : Instr} {v w : Ctx} {scope bundle va : Nat} (h : Ready s c x pa pk)
    (he : (encode i).isSome = true) (k : Clear s c x pa pk (semOf i))
    (hf : (semOf i).flow (env s c x pa pk (semOf i)) (base s c x pa (semOf i).srcs) = .next)
    (ha : OnlyCtx (base s c x pa (semOf i).srcs) ((semOf i).act (env s c x pa pk (semOf i)) (base s c x pa (semOf i).srcs)) c x)
    (hg : (((semOf i).act (env s c x pa pk (semOf i)) (base s c x pa (semOf i).srcs)).core c).sigSeen = (s.core c).sigSeen)
    (hw : ((semOf i).act (env s c x pa pk (semOf i)) (base s c x pa (semOf i).srcs)).ctx c x = w)
    (hv : v.ops = []) (hgr : (v.pushOp .fence [] [] 2 scope bundle va).Grows w) :
    Fences s c x 2 scope pk i (w.dropOp v.seq) := by
  have hx := pick_lt h.turn
  have hb := (OnlyCtx.base s c x pa (semOf i).srcs).trans ha
  generalize hT : (semOf i).act (env s c x pa pk (semOf i)) (base s c x pa (semOf i).srcs) = T at ha hg hw hb
  let P : Ctx → Ctx := fun w => { w with preps := nextPreps w [(posOf s c x, semOf i)] }
  let U := (T.modCtx c x P).modCtx c x (fun v' => v'.dropOp v.seq)
  have hU : OnlyCtx s U c x := (hb.trans (.modCtx _ _ _ _)).trans (.modCtx _ _ _ _)
  have hUg : (U.core c).sigSeen = (s.core c).sigSeen := by
    simp only [U, State.core_modCtx_self]; exact hg
  have hUx : U.ctx c x = (P w).dropOp v.seq := by
    simp only [U, State.ctx_modCtx_self _ _ _ _ hx, hw]
  have hs : (T.modCtx c x P).settleOps c x = if scope ≠ 0 then U.publish c scope else U := by
    have hr : ((T.modCtx c x P).ctx c x).innerReady = some { id := v.seq, kind := .fence, bytes := [], writes := [], ord := 2, scope := scope, bundle := bundle, va := va } := by
      rw [State.ctx_modCtx_self _ _ _ _ hx, hw, ← hgr.fence_first hv]
      exact innerReady_congr rfl
    have hp := performInner_release U c x { id := v.seq, kind := .fence, bytes := [], writes := [], ord := 2, scope := scope, bundle := bundle, va := va } rfl rfl
    rw [settleOps_one hr, hp]
    have hc : ((if scope ≠ 0 then U.publish c scope else U).ctx c x) = (P w).dropOp v.seq := by split <;> simp [hUx]
    rw [hp, hc, ← hgr.fence_gone hv]
    exact innerReady_congr rfl
  obtain ⟨r1, r2, r3, r4, r5, r6, r7⟩ := released_of_kept scope hU.outside hU.core hUg
  have ho : ∀ y, (if scope ≠ 0 then U.publish c scope else U).ctx c y = U.ctx c y := fun y => by split <;> simp
  have hc : ∀ j, j ≠ c → (if scope ≠ 0 then U.publish c scope else U).core j = U.core j := fun j hj => by
    split
    · exact publish_core_other _ _ _ _ hj
    · rfl
  refine ⟨_, by rw [exec_issue i s he]; exact issueOne_done h k, ?_⟩
  simp only [done, hT, hf]
  rw [show (T.modCtx c x fun w => { w with preps := nextPreps w [(posOf s c x, semOf i)] }) = T.modCtx c x P from rfl, hs]
  generalize hV : (if scope ≠ 0 then U.publish c scope else U) = V at *
  have hq := (onlyCtx_goOn V c x (s.ctx c x).pc (nextPc s c x pk) 0).trans
    (.issued _ c x (bubblesOf (s.ctx c x) (semOf i).ins .next) ((semOf i).ins == .yield))
  refine ⟨?_, hq.outside.mem.trans r1, hq.outside.dies.trans r2, hq.core.l1.trans r3, hq.core.l1Sectors.trans r4, hq.core.written.trans r5,
    hq.core.sig.trans r6, Eq.trans ?_ r7, fun y hy => ((hq.others y hy).trans (by rw [ho])).trans (hU.others y hy),
    fun j hj => ((hq.cores j hj).trans (hc j hj)).trans (hU.cores j hj)⟩
  · rw [ctx_issued, State.goOn, State.ctx_modCtx_self _ _ _ _ hx, ho, hUx]
    rfl
  · rw [core_issued_self, State.goOn, State.core_modCtx_self]; rfl

/-! ### Translations that join the TLB -/

theorem noteTlb_sigSeen (s : State) (c root va : Nat) : ((s.noteTlb c root va).core c).sigSeen = (s.core c).sigSeen := by
  obtain ⟨t, h⟩ := noteTlb_core s c root va
  rw [h]

/-- Notes of translations, and then a change `f` of the issuing context: what it makes of the core and of all else. -/
structure Noted (s t : State) (c x : Nat) : Prop where
  only : OnlyCtx s t c x
  sigSeen : (t.core c).sigSeen = (s.core c).sigSeen
  ctx : t.ctx c x = s.ctx c x

theorem Noted.refl (s : State) (c x : Nat) : Noted s s c x := ⟨.refl .., rfl, rfl⟩

theorem Noted.trans {s t u : State} {c x : Nat} (h : Noted s t c x) (g : Noted t u c x) : Noted s u c x :=
  ⟨h.only.trans g.only, g.sigSeen.trans h.sigSeen, g.ctx.trans h.ctx⟩

theorem noted_note (e : Env) (s : State) (x va n : Nat) : Noted s (e.note s va n) e.c x :=
  have h : ∀ (s : State) (va : Nat), Noted s (s.noteTlb e.c e.root va) e.c x := fun _ _ =>
    ⟨.noteTlb .., noteTlb_sigSeen .., noteTlb_ctx ..⟩
  (h _ _).trans (h _ _)

theorem noted_notes {α : Type} (e : Env) (x : Nat) (f : α → Nat) (n : Nat) (l : List α) (s : State) :
    Noted s (l.foldl (fun s j => e.note s (f j) n) s) e.c x := by
  induction l generalizing s with
  | nil => exact .refl ..
  | cons a l ih => exact (noted_note e s x (f a) n).trans (ih _)

/-- A clear syllable that notes translations and changes its context by `f`, with nothing due inside the core after it. -/
theorem performs_of_noted {s : State} {c x pa : Nat} {pk : List Nat} {i : Instr} {f : Ctx → Ctx} {u : State} (h : Ready s c x pa pk)
    (he : (encode i).isSome = true) (k : Clear s c x pa pk (semOf i))
    (hf : (semOf i).flow (env s c x pa pk (semOf i)) (base s c x pa (semOf i).srcs) = .next)
    (ha : (semOf i).act (env s c x pa pk (semOf i)) (base s c x pa (semOf i).srcs) = u.modCtx c x f)
    (hu : Noted (base s c x pa (semOf i).srcs) u c x) (hi : (f (popped s c x pa (semOf i).srcs)).innerReady = none) :
    Performs s c x pk i (f (popped s c x pa (semOf i).srcs)) := by
  have hx := pick_lt h.turn
  refine performs_of_clear h he k hf ?_ ?_ hi
  · rw [ha]; exact hu.only.trans (.modCtx ..)
  · rw [ha, State.ctx_modCtx_self _ _ _ _ hx, hu.ctx, base_ctx _ _ _ _ _ hx]

/-- The same where a release fence that nothing is ahead of is performed with it. -/
theorem fences_of_noted {s : State} {c x pa : Nat} {pk : List Nat} {i : Instr} {f : Ctx → Ctx} {u : State} {scope bundle va : Nat} (h : Ready s c x pa pk)
    (he : (encode i).isSome = true) (k : Clear s c x pa pk (semOf i))
    (hf : (semOf i).flow (env s c x pa pk (semOf i)) (base s c x pa (semOf i).srcs) = .next)
    (ha : (semOf i).act (env s c x pa pk (semOf i)) (base s c x pa (semOf i).srcs) = u.modCtx c x f)
    (hu : Noted (base s c x pa (semOf i).srcs) u c x) (hv : (popped s c x pa (semOf i).srcs).ops = [])
    (hg : ((popped s c x pa (semOf i).srcs).pushOp .fence [] [] 2 scope bundle va).Grows (f (popped s c x pa (semOf i).srcs))) :
    Fences s c x 2 scope pk i ((f (popped s c x pa (semOf i).srcs)).dropOp (popped s c x pa (semOf i).srcs).seq) := by
  have hx := pick_lt h.turn
  refine fences_of_clear h he k hf ?_ ?_ ?_ hv hg
  · rw [ha]; exact hu.only.trans (.modCtx ..)
  · rw [ha, State.core_modCtx_self]; exact hu.sigSeen.trans (base_sigSeen ..)
  · rw [ha, State.ctx_modCtx_self _ _ _ _ hx, hu.ctx, base_ctx _ _ _ _ _ hx]

/-- A syllable finds nothing due inside the core. -/
theorem popped_innerReady {s : State} {c x pa : Nat} {pk : List Nat} (r : List Src) (h : Ready s c x pa pk) : (popped s c x pa r).innerReady = none := by
  rw [← h.settled]; exact innerReady_congr (popped_ops _ _ _ _ _ (pick_lt h.turn))

theorem need_eq_nil {b : Bool} {f : Flt} : need b f = [] ↔ b = true := by unfold need; split <;> simp_all

theorem msAddr_eq (b : W64) (i : BitVec 19) (z : Nat) : msAddr b i z = (b + BitVec.ofInt 64 (i.toInt * z)).toNat := by
  rw [msAddr, BitVec.ofInt_mul, BitVec.ofInt_natCast]; rfl

theorem env_s (s : State) (c x pa : Nat) (pk : List Nat) (m : Sem) (k : Nat) : (env s c x pa pk m).s k = arg s c x pa m.srcs k := rfl

theorem env_root (s : State) (c x pa : Nat) (pk : List Nat) (m : Sem) : (env s c x pa pk m).root = s.rootAt c x :=
  (OnlyCtx.base s c x pa m.srcs).rootAt x

theorem env_ctx (s : State) (c x pa : Nat) (pk : List Nat) (m : Sem) (hx : x < 4) : (env s c x pa pk m).ctx = popped s c x pa m.srcs :=
  base_ctx _ _ _ _ _ hx

theorem env_phys {s : State} {c x pa : Nat} {pk : List Nat} {m : Sem} {va n : Nat} {acc : Access} {pas : List Nat} {b : State}
    (h : b.xlatSpan c (s.rootAt c x) va n acc = .ok pas) : (env s c x pa pk m).phys b va n acc = pas := by
  simp only [Env.phys, env_root, show (env s c x pa pk m).c = c from rfl, h]

/-! ### Scalar loads (R224) -/

/-- A scalar load's access, joined to `v`. -/
def Ctx.scalarLd (v : Ctx) (pas : List Nat) (z : Nat) (sx : Option Nat) (pol : W64) (pc va : Nat) : Ctx :=
  v.reserveLqs.pushOp (.load false v.seq sx) (pas.zip (List.range z)) [] (polOrd pol) (polScope pol) pc va

theorem grows_scalarLd (v : Ctx) (pas : List Nat) (z : Nat) (sx : Option Nat) (pol : W64) (pc va : Nat) : v.Grows (v.scalarLd pas z sx pol pc va) :=
  (Ctx.Grows.reserveLqs v).trans (.pushOp _ _ _ _ _ _ _ fun _ => rfl)

theorem scalarLoad_act (i : Instr) (b : BitVec 5) (im : BitVec 19) (z : Nat) (sx : Bool) (e : Env) (t : State) :
    (scalarLoad i b im z sx).act e t = (e.note t (msAddr (e.s 0) im z) z).modCtx e.c e.x (fun w =>
      (w.preFence (polOrd e.ctx.mpol) (polScope e.ctx.mpol) e.pc).scalarLd (e.phys t (msAddr (e.s 0) im z) z .read) z
        (if sx then some (8 * z) else none) e.ctx.mpol e.pc (msAddr (e.s 0) im z)) := rfl

/-- What a scalar load does under the ordering of `mpol`, with its effect as a change of its context. -/
theorem scalarLoad_issues {s : State} {c x pa : Nat} {pk : List Nat} {i : Instr} {b : BitVec 5} {im : BitVec 19} {z : Nat} {sx : Bool} {pas : List Nat}
    (h : Ready s c x pa pk) (he : (encode i).isSome = true) (hm : semOf i = scalarLoad i b im z sx) (k : Clear s c x pa pk (semOf i))
    (hp : (base s c x pa [.s b.toNat]).xlatSpan c (s.rootAt c x) (arg s c x pa [.s b.toNat] 0 + BitVec.ofInt 64 (im.toInt * z)).toNat z .read = .ok pas) :
    let v := popped s c x pa [.s b.toNat]
    let A := (arg s c x pa [.s b.toNat] 0 + BitVec.ofInt 64 (im.toInt * z)).toNat
    let ld := fun (v1 : Ctx) => v1.scalarLd pas z (if sx then some (8 * z) else none) v.mpol (s.ctx c x).pc A
    A % z = 0 ∧
    (polOrd v.mpol < 2 → Performs s c x pk i (ld v)) ∧
    (2 ≤ polOrd v.mpol → v.ops ≠ [] → Performs s c x pk i (ld (v.pushOp .fence [] [] 2 (polScope v.mpol) (s.ctx c x).pc 0))) ∧
    (2 ≤ polOrd v.mpol → v.ops = [] → Fences s c x 2 (polScope v.mpol) pk i (ld { v with seq := v.seq + 1 })) := by
  intro v A ld
  have hx := pick_lt h.turn
  have hs : (semOf i).srcs = [.s b.toNat] := by rw [hm]; rfl
  have hf : (semOf i).flow (env s c x pa pk (semOf i)) (base s c x pa (semOf i).srcs) = .next := by rw [hm]; rfl
  have hA : msAddr ((env s c x pa pk (semOf i)).s 0) im z = A := by rw [env_s, msAddr_eq, hs]
  have hcp : (env s c x pa pk (semOf i)).ctx.mpol = v.mpol := by rw [env_ctx _ _ _ _ _ _ hx, hs]
  have hph : (env s c x pa pk (semOf i)).phys (base s c x pa (semOf i).srcs) A z .read = pas := by rw [hs]; exact env_phys hp
  let f : Ctx → Ctx := fun w => ld (w.preFence (polOrd v.mpol) (polScope v.mpol) (s.ctx c x).pc)
  have ha : (semOf i).act (env s c x pa pk (semOf i)) (base s c x pa (semOf i).srcs) =
      ((env s c x pa pk (semOf i)).note (base s c x pa (semOf i).srcs) A z).modCtx c x f := by
    rw [congrArg Sem.act hm, scalarLoad_act, hA, hcp, hph]; rfl
  have hu := noted_note (env s c x pa pk (semOf i)) (base s c x pa (semOf i).srcs) x A z
  have hr : v.innerReady = none := popped_innerReady _ h
  refine ⟨?_, fun hl => ?_, fun hl ho => ?_, fun hl ho => ?_⟩
  · have hc := k.checks
    rw [congrArg Sem.check hm] at hc
    have := need_eq_nil.mp (List.append_eq_nil_iff.mp hc).1
    rw [hA] at this
    simpa using this
  · have hp := performs_of_noted h he k hf ha hu (by
      rw [hs]; simp only [f, Ctx.preFence, show ¬ 2 ≤ polOrd v.mpol by omega, if_false]
      exact (grows_scalarLd ..).innerReady hr)
    rw [hs] at hp
    simpa only [f, Ctx.preFence, show ¬ 2 ≤ polOrd v.mpol by omega, if_false] using hp
  · have hp := performs_of_noted h he k hf ha hu (by
      rw [hs]; simp only [f, Ctx.preFence, hl, if_true]
      exact (grows_scalarLd ..).innerReady (innerReady_fenced _ _ _ hr ho))
    rw [hs] at hp
    simpa only [f, Ctx.preFence, hl, if_true] using hp
  · have hp := fences_of_noted (scope := polScope v.mpol) (bundle := (s.ctx c x).pc) (va := 0) h he k hf ha hu (by rw [hs]; exact ho) (by
      rw [hs]; simp only [f, Ctx.preFence, hl, if_true]
      exact grows_scalarLd ..)
    rw [hs] at hp
    simp only [f, Ctx.preFence, hl, if_true] at hp
    have hd : (ld (v.pushOp .fence [] [] 2 (polScope v.mpol) (s.ctx c x).pc 0)).dropOp v.seq = ld { v with seq := v.seq + 1 } := by
      have e := dropOp_fence (polScope v.mpol) (s.ctx c x).pc 0 ho
      simp only [ld, Ctx.scalarLd]
      rw [dropOp_pushOp _ _ _ _ _ _ _ (by show v.seq < v.seq + 1 + 1; omega)]
      rw [← e]; rfl
    rw [← hd]; exact hp

/-- Settles O21: what a scalar load leaves, with the fence of a release part held back by what is outstanding, or else performed at once. -/
theorem scalarLoadsIssue : Obligations.ScalarLoadsIssue := by
  unfold Obligations.ScalarLoadsIssue
  intro s c x pa pk b i pas h r v pc q hq A ld k hp
  simp only [List.mem_cons, List.not_mem_nil, or_false] at hq
  rcases hq with rfl | rfl | rfl | rfl | rfl | rfl | rfl
  all_goals exact scalarLoad_issues h rfl rfl k hp

end Sys2Proof.Machine

namespace Sys2Proof.Machine

open Sys2Proof.Claim

/-! ### Vector accesses in chunks (R225) -/

/-- A vector load's accesses, joined to `v` chunk by chunk: bytes `bs j` of chunk `j`. -/
def Ctx.vectorLd (v : Ctx) (js : List Nat) (bs : Nat → List (Nat × Nat)) (va : Nat → Nat) (pol : W64) (pc : Nat) : Ctx :=
  js.foldl (fun (y : Ctx) j => y.pushOp (.load true v.seq none) (bs j) [] (polOrd pol) (polScope pol) pc (va j)) (v.reserveLq js.length)

theorem grows_vectorLd (v : Ctx) (js : List Nat) (bs : Nat → List (Nat × Nat)) (va : Nat → Nat) (pol : W64) (pc : Nat) :
    v.Grows (v.vectorLd js bs va pol pc) :=
  (Ctx.Grows.reserveLq v _).trans (.foldl (fun _ _ => .pushOp _ _ _ _ _ _ _ fun _ => rfl) _ _)

/-- With its fence performed, a vector load stands as if its names alone had been passed over. -/
theorem dropOp_vectorLd {v : Ctx} (js : List Nat) (bs : Nat → List (Nat × Nat)) (va : Nat → Nat) (pol : W64) (pc scope bundle fva : Nat) (h : v.ops = []) :
    ((v.pushOp .fence [] [] 2 scope bundle fva).vectorLd js bs va pol pc).dropOp v.seq = ({ v with seq := v.seq + 1 } : Ctx).vectorLd js bs va pol pc := by
  unfold Ctx.vectorLd
  refine Eq.trans (dropOp_foldl (f := fun (y : Ctx) j => y.pushOp (.load true (v.seq + 1) none) (bs j) [] (polOrd pol) (polScope pol) pc (va j))
    (fun y id j hid => ⟨dropOp_pushOp _ _ _ _ _ _ _ hid, hid.trans (Nat.lt_succ_self _)⟩) js _ v.seq
    (Nat.lt_succ_of_lt (Nat.lt_succ_self v.seq))) ?_
  rw [← dropOp_fence scope bundle fva h]
  rfl

/-- The bytes of chunk `j` that take part, of those at physical addresses `pas`. -/
def chunkLdBytes (M : W64) (pas : List Nat) (j : Nat) : List (Nat × Nat) :=
  (pas.zip ((List.range 32).map (fun k => 32 * j + k))).filter (fun z => byteOn M z.2)

theorem chunkLoad_eq (e : Env) (t : State) (w : BitVec 2) (a : W64) (st : Int) (M pol : W64) :
    e.chunkLoad t w a st M pol = ((chunksOf w M).foldl (fun s j => e.note s (chunkAt a st j) 32) t).modCtx e.c e.x (fun v =>
      (if (chunksOf w M).isEmpty then v else v.preFence (polOrd pol) (polScope pol) e.pc).vectorLd (chunksOf w M)
        (fun j => chunkLdBytes M (e.phys t (chunkAt a st j) 32 .read) j) (chunkAt a st) pol e.pc) := rfl

theorem vectorLd_congr (v : Ctx) {js : List Nat} {bs bs' : Nat → List (Nat × Nat)} (va : Nat → Nat) (pol : W64) (pc : Nat) (h : ∀ j ∈ js, bs j = bs' j) :
    v.vectorLd js bs va pol pc = v.vectorLd js bs' va pol pc :=
  List.foldl_ext _ _ _ fun _ j hj => by rw [h j hj]

/-- What a vector load does under the ordering of its policy. -/
theorem chunkLoad_issues {s : State} {c x pa : Nat} {pk : List Nat} {i : Instr} {r : List Src} {w : BitVec 2} {a : W64} {st : Int} {M pol : W64}
    {P : Nat → List Nat} (h : Ready s c x pa pk) (he : (encode i).isSome = true) (hs : (semOf i).srcs = r) (k : Clear s c x pa pk (semOf i))
    (hf : (semOf i).flow (env s c x pa pk (semOf i)) (base s c x pa (semOf i).srcs) = .next)
    (hact : (semOf i).act (env s c x pa pk (semOf i)) (base s c x pa (semOf i).srcs) = (env s c x pa pk (semOf i)).chunkLoad (base s c x pa (semOf i).srcs) w a st M pol)
    (hp : ∀ j ∈ chunksOf w M, (base s c x pa r).xlatSpan c (s.rootAt c x) (chunkAt a st j) 32 .read = .ok (P j)) :
    let v := popped s c x pa r
    let ld := fun (v1 : Ctx) => v1.vectorLd (chunksOf w M) (fun j => chunkLdBytes M (P j) j) (chunkAt a st) pol (s.ctx c x).pc
    (polOrd pol < 2 ∨ chunksOf w M = [] → Performs s c x pk i (ld v)) ∧
    (2 ≤ polOrd pol → chunksOf w M ≠ [] → v.ops ≠ [] → Performs s c x pk i (ld (v.pushOp .fence [] [] 2 (polScope pol) (s.ctx c x).pc 0))) ∧
    (2 ≤ polOrd pol → chunksOf w M ≠ [] → v.ops = [] → Fences s c x 2 (polScope pol) pk i (ld { v with seq := v.seq + 1 })) := by
  intro v ld
  subst hs
  let f : Ctx → Ctx := fun v => ld (if (chunksOf w M).isEmpty then v else v.preFence (polOrd pol) (polScope pol) (s.ctx c x).pc)
  have ha : (semOf i).act (env s c x pa pk (semOf i)) (base s c x pa (semOf i).srcs) = ((chunksOf w M).foldl (fun t j =>
      (env s c x pa pk (semOf i)).note t (chunkAt a st j) 32) (base s c x pa (semOf i).srcs)).modCtx c x f := by
    rw [hact, chunkLoad_eq]
    exact congrArg (State.modCtx _ c x) (funext fun u => vectorLd_congr _ _ _ _ fun j hj => by rw [env_phys (hp j hj)])
  have hu := noted_notes (env s c x pa pk (semOf i)) x (chunkAt a st) 32 (chunksOf w M) (base s c x pa (semOf i).srcs)
  have hr : v.innerReady = none := popped_innerReady _ h
  refine ⟨fun hl => ?_, fun hl hne ho => ?_, fun hl hne ho => ?_⟩
  · have hfv : f v = ld v := by
      rcases hl with hl | hl
      · simp only [f, Ctx.preFence, show ¬ 2 ≤ polOrd pol by omega, if_false, ite_self]
      · simp only [f, hl, List.isEmpty_nil, if_true]
    rw [← hfv]
    exact performs_of_noted h he k hf ha hu (hfv ▸ (grows_vectorLd ..).innerReady hr)
  all_goals
    have hfv : f v = ld (v.pushOp .fence [] [] 2 (polScope pol) (s.ctx c x).pc 0) := by
      simp only [f, List.isEmpty_iff, hne, if_false, Ctx.preFence, hl, if_true]
  · rw [← hfv]
    exact performs_of_noted h he k hf ha hu (hfv ▸ (grows_vectorLd ..).innerReady (innerReady_fenced _ _ _ hr ho))
  · rw [show ld { v with seq := v.seq + 1 } = (f v).dropOp v.seq by rw [hfv, dropOp_vectorLd _ _ _ _ _ _ _ _ ho]]
    exact fences_of_noted (bundle := (s.ctx c x).pc) (va := 0) h he k hf ha hu ho (hfv ▸ grows_vectorLd ..)

/-- The filled bytes of chunk `j` of the `sq` entry `q` that take part. -/
def chunkStBytes (M : W64) (q : SqEntry) (pas : List Nat) (j : Nat) : List (Nat × Nat) :=
  (pas.zip ((List.range 32).map (fun k => 32 * j + k))).filter (fun z => byteOn M z.2 && q.bytes.getLsbD z.2)

/-- Chunk `j` of a vector store from the `sq` entry `q` joins, where it writes any byte. -/
def Ctx.storeChunk (y : Ctx) (q : SqEntry) (ws : List (Nat × Nat)) (pol : W64) (pc va : Nat) : Ctx :=
  if ws = [] then y else y.pushOp (.store (if q.filled then none else some q.id)) []
    (ws.map (fun z => (z.1, BitVec.ofNat 8 (bits q.val.toNat (8 * z.2) 8)))) (polOrd pol) (polScope pol) pc va

theorem storeChunk_eq (y : Ctx) (q : SqEntry) (ws : List (Nat × Nat)) (pol : W64) (pc va : Nat) :
    y.storeChunk q ws pol pc va = if ws.isEmpty then y else y.pushOp (.store (if q.filled then none else some q.id)) []
      (ws.map (fun z => (z.1, BitVec.ofNat 8 (bits q.val.toNat (8 * z.2) 8)))) (polOrd pol) (polScope pol) pc va := by
  cases ws <;> rfl

theorem grows_storeChunk (y : Ctx) (q : SqEntry) (ws : List (Nat × Nat)) (pol : W64) (pc va : Nat) : y.Grows (y.storeChunk q ws pol pc va) := by
  unfold Ctx.storeChunk
  split
  · exact .refl y
  · exact .pushOp _ _ _ _ _ _ _ fun _ => rfl

/-- The oldest `sq` entry leaves, and `f` says what is done with it. -/
def Ctx.takeSq (v : Ctx) (f : SqEntry → Ctx → Ctx) : Ctx :=
  match v.sq with
  | [] => v
  | q :: rest => f q { v with sq := rest }

theorem takeSq_cons {v : Ctx} {q : SqEntry} {rest : List SqEntry} (f : SqEntry → Ctx → Ctx) (h : v.sq = q :: rest) :
    v.takeSq f = f q { v with sq := rest } := by simp only [Ctx.takeSq, h]

theorem chunkStore_eq (e : Env) (t : State) (w : BitVec 2) (a : W64) (st : Int) (M pol : W64) :
    e.chunkStore t w a st M pol = ((chunksOf w M).foldl (fun s j => e.note s (chunkAt a st j) 32) t).modCtx e.c e.x (fun v => v.takeSq fun q u =>
      (chunksOf w M).foldl (fun (y : Ctx) j =>
        y.storeChunk q (chunkStBytes M q (e.phys t (chunkAt a st j) 32 .write) j) pol e.pc (chunkAt a st j)) u) := by
  unfold Env.chunkStore Env.upd
  refine congrArg (State.modCtx _ e.c e.x) (funext fun v => ?_)
  rcases hq : v.sq with _ | ⟨q, rest⟩
  · simp only [Ctx.takeSq, hq]
  · simp only [Ctx.takeSq, hq, storeChunk_eq, chunkStBytes]

/-- What a vector store does with the oldest `sq` entry. -/
theorem chunkStore_issues {s : State} {c x pa : Nat} {pk : List Nat} {i : Instr} {r : List Src} {w : BitVec 2} {a : W64} {st : Int} {M pol : W64}
    {P : Nat → List Nat} {q : SqEntry} {rest : List SqEntry} (h : Ready s c x pa pk) (he : (encode i).isSome = true) (hs : (semOf i).srcs = r)
    (k : Clear s c x pa pk (semOf i)) (hf : (semOf i).flow (env s c x pa pk (semOf i)) (base s c x pa (semOf i).srcs) = .next)
    (hact : (semOf i).act (env s c x pa pk (semOf i)) (base s c x pa (semOf i).srcs) = (env s c x pa pk (semOf i)).chunkStore (base s c x pa (semOf i).srcs) w a st M pol)
    (hq : (popped s c x pa r).sq = q :: rest)
    (hp : ∀ j ∈ chunksOf w M, (base s c x pa r).xlatSpan c (s.rootAt c x) (chunkAt a st j) 32 .write = .ok (P j)) :
    Performs s c x pk i ((chunksOf w M).foldl (fun (y : Ctx) j => y.storeChunk q (chunkStBytes M q (P j) j) pol (s.ctx c x).pc (chunkAt a st j))
      { popped s c x pa r with sq := rest }) := by
  subst hs
  have hu := noted_notes (env s c x pa pk (semOf i)) x (chunkAt a st) 32 (chunksOf w M) (base s c x pa (semOf i).srcs)
  have ha := hact.trans (chunkStore_eq ..)
  have hfv := (takeSq_cons (fun q u => (chunksOf w M).foldl (fun (y : Ctx) j => y.storeChunk q
      (chunkStBytes M q ((env s c x pa pk (semOf i)).phys (base s c x pa (semOf i).srcs) (chunkAt a st j) 32 .write) j) pol (s.ctx c x).pc (chunkAt a st j)) u) hq).trans
    (List.foldl_ext _ (fun (y : Ctx) j => y.storeChunk q (chunkStBytes M q (P j) j) pol (s.ctx c x).pc (chunkAt a st j)) _
      fun _ j hj => by rw [env_phys (hp j hj)])
  rw [← hfv]
  refine performs_of_noted h he k hf ha hu (hfv ▸ (Ctx.Grows.foldl (fun _ _ => grows_storeChunk ..) _ _).innerReady ?_)
  exact (innerReady_congr rfl).trans (popped_innerReady (semOf i).srcs h)

/-- Settles O23, the loads as a fence and the chunks behind it, the stores as the chunks of the oldest `sq` entry. -/
theorem vectorAccessesIssue : Obligations.VectorAccessesIssue := by
  unfold Obligations.VectorAccessesIssue
  intro s c x pa pk w b p m P h pc load store r2 r3 pol2 pol3
  have hx := pick_lt h.turn
  have hpol : ∀ (m : Sem) (k : Nat), policyOf (env s c x pa pk m).ctx p.toNat ((env s c x pa pk m).s k) =
      if p = 0 then (popped s c x pa m.srcs).mpol else arg s c x pa m.srcs k := by
    intro m k
    have h0 : p.toNat = 0 ↔ p = 0 := by rw [← BitVec.toNat_inj]; rfl
    simp only [env_ctx _ _ _ _ _ _ hx, policyOf, env_s, h0]
  refine ⟨fun k hp => ?_, fun k hp => ?_, fun q rest hq k hp => ?_, fun q rest hq k hp => ?_⟩
  · exact chunkLoad_issues h rfl rfl k rfl (by rw [show pol2 = _ from (hpol (semVld w b p m) 1).symm]; rfl) hp
  · exact chunkLoad_issues h rfl rfl k rfl (by rw [show pol3 = _ from (hpol (semVlds w b p m) 2).symm]; rfl) hp
  · exact chunkStore_issues h rfl rfl k rfl (by rw [show pol2 = _ from (hpol (semVst w b p m) 1).symm]; rfl) hq hp
  · exact chunkStore_issues h rfl rfl k rfl (by rw [show pol3 = _ from (hpol (semVsts w b p m) 2).symm]; rfl) hq hp

end Sys2Proof.Machine

namespace Sys2Proof.Machine

open Sys2Proof.Claim

/-! ### Accesses to the local store (R227) -/

theorem teamOf_congr {k k' : Core} (h : k'.teams = k.teams) (x : Nat) : k'.teamOf x = k.teamOf x := by simp only [Core.teamOf, h]

theorem teamBase_base (s : State) (c x pa : Nat) (r : List Src) : teamBase (base s c x pa r) c x = teamBase s c x := by
  simp only [teamBase, teamOf_congr (base_core s c x pa r).1.teams]

theorem env_base (s : State) (c x pa : Nat) (pk : List Nat) (m : Sem) : (env s c x pa pk m).base = teamBase s c x :=
  teamBase_base s c x pa m.srcs

theorem window_congr {k k' : Core} (h : k'.teams = k.teams) (b : Nat) : k'.window b = k.window b := by simp only [Core.window, h]

theorem ownWindow_congr {k k' : Core} {x : Nat} (h : k'.teams = k.teams) (ho : (k'.ctx x).ops = (k.ctx x).ops) (b : Nat) :
    k'.ownWindow b x = k.ownWindow b x := by simp only [Core.ownWindow, window_congr h, ho]

/-- A context outside every team runs under a header of zeros. -/
theorem hdrAt_of_no_team {s : State} {c x : Nat} (h : (s.core c).teamOf x = none) : s.hdrAt c x = 0 := by
  simp only [State.hdrAt, State.launchAt, h]

/-- A window of no bytes holds nothing. -/
theorem spanInside_zero (p : Int × Int) : spanInside 0 p = false := by
  have : ¬ p.2 % 0x80000 < 0 := by omega
  simp [spanInside, this]

theorem hdrWindow_zero : hdrWindow 0 = 0 := by
  have h : (0 : W512).toNat = 0 := BitVec.toNat_zero
  simp only [hdrWindow, hbits, h, bits, Nat.zero_div, Nat.zero_mod, Nat.zero_mul]

/-- Elements of the window are accessed by a context of a team alone. -/
theorem teamOf_of_localChecks {s : State} {c x pa : Nat} {pk : List Nat} {m : Sem} {a : Nat} {w : BitVec 2} {y z : W64}
    (h : (env s c x pa pk m).localChecks (base s c x pa m.srcs) a w y z = [])
    (hne : (if (env s c x pa pk m).stageOn a then localElems ((env s c x pa pk m).geo (base s c x pa m.srcs) a) w z else []) ≠ []) :
    ((s.core c).teamOf x).isSome = true := by
  by_contra hn
  have hh : (env s c x pa pk m).hdr = 0 := by
    simp only [Env.hdr, env]
    rw [(OnlyCtx.base s c x pa m.srcs).hdrAt, hdrAt_of_no_team (by simpa using hn)]
  split at hne
  · next hs =>
    simp only [Env.localChecks, hs, if_true] at h
    have h1 := (List.append_eq_nil_iff.mp (List.append_eq_nil_iff.mp (List.append_eq_nil_iff.mp h).2).1).2
    rw [need_eq_nil, List.all_eq_true, hh, hdrWindow_zero] at h1
    refine hne (List.filter_eq_nil_iff.mpr fun j hj => ?_)
    have := h1 j hj
    rw [spanInside_zero] at this
    cases this
  · exact hne rfl

/-- An access issued last, which nothing holds back, is due where none of the others is. -/
theorem innerReady_last {v w : Ctx} {o : MemOp} (h : v.innerReady = none) (hw : w.ops = v.ops ++ [o]) (ho : (o.isMark || o.isLst) = true)
    (hp : ∀ p ∈ v.ops, o.passes p = true) : w.innerReady = some o := by
  unfold Ctx.innerReady at h ⊢
  rw [hw, List.length_append, List.length_singleton, List.range_succ, List.zip_append (by simp), List.findSome?_append]
  have h1 : (v.ops.zip (List.range v.ops.length)).findSome? (fun p =>
      if (p.1.isMark || p.1.isLst) && ((v.ops ++ [o]).take p.2).all p.1.passes then some p.1 else none) = none := by
    rw [List.findSome?_eq_none_iff] at h ⊢
    rintro ⟨q, k⟩ hk
    have hlt : k < v.ops.length := by simpa using (List.of_mem_zip hk).2
    have := h (q, k) hk
    rwa [List.take_append_of_le_length hlt.le]
  rw [h1, Option.none_or, List.zip_cons_cons, List.findSome?_cons, List.take_left' rfl, ho, List.all_eq_true.mpr hp]
  rfl

/-- What holds an `lst` back (R141; log entry 82). -/
def Ctx.holdsLst (v : Ctx) : Bool := v.ops.any (fun p => p.readsFirst || p.isLst || p.isMark || p.ord % 2 == 1)

/-- The access of an `lst` of the elements `es`. -/
def lstOp (id : Nat) (es : List (Nat × Nat × Nat)) (pc : Nat) : MemOp :=
  { id := id, kind := .lst es, bytes := [], writes := [], ord := 0, scope := 0, bundle := pc, va := 0 }

/-- An `lst` waits for an access exactly where that is a read or what may read alone, an `lst`, a mark or an acquire. -/
theorem lst_passes (id : Nat) (es : List (Nat × Nat × Nat)) (pc : Nat) (p : MemOp) :
    (lstOp id es pc).passes p = !(p.readsFirst || p.isLst || p.isMark || p.ord % 2 == 1) := by
  have h1 : (lstOp id es pc).meets p = false := rfl
  have h2 : (p.kind != .fence) = false → p.isMark = true := fun h => by
    have : p.kind = .fence := by simpa using h
    simp only [MemOp.isMark, this]
  have h3 : (p.ord % 2 == 0) = !(p.ord % 2 == 1) := by
    rcases Nat.mod_two_eq_zero_or_one p.ord with h | h <;> rw [h] <;> rfl
  unfold MemOp.passes
  rw [h1, show (lstOp id es pc).isMark = false from rfl, show (lstOp id es pc).isRead = false from rfl, show (lstOp id es pc).isLst = true from rfl,
    show (lstOp id es pc).ord = 0 from rfl, h3]
  cases hf : (p.kind != .fence)
  · rw [h2 hf]; simp
  · cases p.ord % 2 == 1 <;> cases p.readsFirst <;> cases p.isLst <;> cases p.isMark <;> rfl

/-- With an `lst` gone, or never issued, nothing the core performs itself is left where nothing held it back. -/
theorem innerReady_filter {v w : Ctx} (p : MemOp → Bool) (h : v.holdsLst = false) (hw : w.ops = v.ops.filter p) : w.innerReady = none := by
  rw [innerReady_eq_none_iff]
  intro k o hk
  have hm : o ∈ v.ops := List.mem_of_mem_filter (hw ▸ List.mem_of_getElem? hk)
  have := List.any_eq_false.mp h o hm
  simp only [Bool.or_eq_true, not_or, Bool.not_eq_true] at this
  obtain ⟨⟨⟨-, h1⟩, h2⟩, -⟩ := this
  exact .inl (by simp only [MemOp.outer, h1, h2]; rfl)

theorem putWindow_window {s : State} {c b : Nat} (m : Memory) (h : (tget (s.core c).teams b).isSome = true) :
    ((s.putWindow c b m).core c).window b = m := by
  obtain ⟨t, ht⟩ := Option.isSome_iff_exists.mp h
  simp only [State.putWindow, State.core_modCore_self, ht, Core.putTeam, Core.window, tget_tput_self]

theorem putWindow_ctx (s : State) (c b : Nat) (m : Memory) (y : Nat) : (s.putWindow c b m).ctx c y = s.ctx c y := by
  simp only [State.putWindow, State.ctx, State.core_modCore_self]
  split <;> rfl

/-- A team found for a context is in the table of teams. -/
theorem tget_of_teamOf {k : Core} {x b : Nat} {t : Team} (h : k.teamOf x = some (b, t)) : (tget k.teams b).isSome = true := by
  have hm : (b, t) ∈ k.teams := List.mem_of_find?_eq_some h
  generalize k.teams = l at hm
  induction l with
  | nil => cases hm
  | cons e l ih =>
    obtain ⟨j, u⟩ := e
    unfold tget
    split
    · rfl
    · next hne =>
      rcases List.mem_cons.mp hm with hq | hq
      · exact absurd (congrArg Prod.fst hq) hne
      · exact ih hq

/-- The `lst` of a context of a team is performed: its elements are in the team's window. -/
theorem performInner_lst {s : State} {c x id pc : Nat} (es : List (Nat × Nat × Nat)) :
    s.performInner c x (lstOp id es pc) = s.putWindow c (teamBase s c x) (winPut ((s.core c).window (teamBase s c x)) es) := rfl

/-- An `lst` that nothing holds back is performed with its bundle: its elements are in the window, and nothing of it is left outstanding. -/
theorem lst_settles {s : State} {c x pc b : Nat} {t : Team} {v : Ctx} {es : List (Nat × Nat × Nat)} (hx : x < 4) (hv : s.ctx c x = v)
    (ht : (s.core c).teamOf x = some (b, t)) (hr : v.innerReady = none) (hh : v.holdsLst = false) :
    ∃ u, SameOutside s u ∧ u.ctx c x = { v with ops := v.ops.filter (fun o => o.id != v.seq), seq := v.seq + 1 } ∧
      (u.core c).window b = winPut ((s.core c).window b) es ∧
      (s.modCtx c x (fun v => v.pushOp (.lst es) [] [] 0 0 pc 0)).settleOps c x = u := by
  let w := v.pushOp (.lst es) [] [] 0 0 pc 0
  let U := (s.modCtx c x (fun v => v.pushOp (.lst es) [] [] 0 0 pc 0)).modCtx c x (fun u => u.dropOp v.seq)
  have hw : (s.modCtx c x (fun v => v.pushOp (.lst es) [] [] 0 0 pc 0)).ctx c x = w := by rw [State.ctx_modCtx_self _ _ _ _ hx, hv]
  have hi : w.innerReady = some (lstOp v.seq es pc) := innerReady_last hr rfl rfl fun p hp => by
    rw [lst_passes]; simpa using List.any_eq_false.mp hh p hp
  have hU : OnlyCtx s U c x := (OnlyCtx.modCtx ..).trans (.modCtx ..)
  have hUx : U.ctx c x = { v with ops := v.ops.filter (fun o => o.id != v.seq), seq := v.seq + 1 } := by
    simp only [U]
    rw [State.ctx_modCtx_self _ _ _ _ hx, hw]
    simp [w, Ctx.pushOp, Ctx.dropOp, List.filter_append]
  have hb : teamBase U c x = b := by simp only [teamBase, teamOf_congr hU.core.teams, ht]
  have hp : U.performInner c x (lstOp v.seq es pc) = U.putWindow c b (winPut ((s.core c).window b) es) := by
    rw [performInner_lst, hb, window_congr hU.core.teams]
  refine ⟨U.putWindow c b (winPut ((s.core c).window b) es), hU.outside.trans (.modCore ..), (putWindow_ctx ..).trans hUx,
    putWindow_window _ (by rw [hU.core.teams]; exact tget_of_teamOf ht), ?_⟩
  rw [← hp]
  refine settleOps_one (hw.symm ▸ hi) ?_
  rw [show (lstOp v.seq es pc).id = v.seq from rfl, show (State.modCtx _ c x _ : State) = U from rfl, hp, putWindow_ctx, hUx]
  exact innerReady_filter _ hh rfl

/-- Settles O25: an `lld` reads the window at issue; an `lst` waits as `lst_passes` says, or is performed with its bundle. -/
theorem localStoreAccesses : Obligations.LocalStoreAccesses := by
  unfold Obligations.LocalStoreAccesses
  intro s c x pa pk w d a k m h
  have hx := pick_lt h.turn
  refine ⟨?_, ?_⟩
  · intro i r e g js win cl
    refine ⟨fun _ => ⟨_, by rw [exec_issue i s rfl]; exact issueOne_done h cl⟩, fun hacq => ?_⟩
    have hwin : ((base s c x pa r).core c).ownWindow e.base x = win := by
      rw [show e.base = teamBase s c x from env_base ..]
      exact ownWindow_congr (base_core s c x pa r).1.teams ((congrArg Ctx.ops (base_ctx s c x pa r hx)).trans (popped_ops s c x pa r hx)) _
    have hact : (semOf i).act e (base s c x pa r) = (base s c x pa r).modCtx c x (fun v => v.writeV d.toNat
        (js.foldl (fun (u : V1024) (j : Nat) => u ||| BitVec.ofNat 1024 ((2 ^ g.w - 1) * 2 ^ (j * g.w))) 0)
        (js.foldl (fun (u : V1024) (j : Nat) =>
          u ||| BitVec.ofNat 1024 (bitsAt (mget win) (g.elemBit ((arg s c x pa r 0).toNat + j)).toNat g.w * 2 ^ (j * g.w))) 0) (now s c) 8) := by
      rw [← hwin, ← env_now s c x pa pk (semOf i)]
      show (semLld w d a k m).act e (base s c x pa r) = _
      have hna : ¬ ((base s c x pa r).ctx e.c e.x).acquiring = true := by
        rw [show (base s c x pa r).ctx e.c e.x = popped s c x pa r from base_ctx s c x pa r hx, hacq]; simp
      simp only [semLld, hna]
      rfl
    exact performs_of_noted h rfl cl rfl hact (.refl ..) ((innerReady_congr (writeV_ops ..)).trans (popped_innerReady r h))
  · intro i r e g js v es held cl
    have hact : (semOf i).act e (base s c x pa r) = if es.isEmpty then base s c x pa r else
      ((base s c x pa r).modCtx c x (fun v => v.pushOp (.lst es) [] [] 0 0 (s.ctx c x).pc 0)).settleOps c x := rfl
    have hr : v.innerReady = none := popped_innerReady r h
    have hb : (base s c x pa r).ctx c x = v := base_ctx s c x pa r hx
    have hq : ((base s c x pa r).modCtx c x (fun v => v.pushOp (.lst es) [] [] 0 0 (s.ctx c x).pc 0)).ctx c x =
        v.pushOp (.lst es) [] [] 0 0 (s.ctx c x).pc 0 := by rw [State.ctx_modCtx_self _ _ _ _ hx, hb]
    refine ⟨fun hn => ?_, fun hn hh => ?_, fun hn hh => ?_⟩
    · rw [hn, List.isEmpty_nil, if_pos rfl] at hact
      exact performs_of_clear h rfl cl rfl (by
        show OnlyCtx (base s c x pa r) ((semOf i).act e (base s c x pa r)) c x
        rw [hact]; exact .refl ..)
        ((congrArg (State.ctx · c x) hact).trans hb) hr
    · have hi : (v.pushOp (.lst es) [] [] 0 0 (s.ctx c x).pc 0).innerReady = none := by
        obtain ⟨p, hp, hh⟩ := List.any_eq_true.mp hh
        exact innerReady_push hr rfl (.inr ⟨p, hp, (lst_passes v.seq es (s.ctx c x).pc p).trans (by rw [hh]; rfl)⟩)
      rw [if_neg (by simpa using hn), settleOps_of_none (by rw [hq]; exact hi)] at hact
      exact performs_of_noted h rfl cl rfl hact (.refl ..) hi
    · obtain ⟨⟨b, t⟩, ht⟩ := Option.isSome_iff_exists.mp (teamOf_of_localChecks cl.checks (fun h0 => hn (congrArg (List.map _) h0)))
      have htb : teamBase s c x = b := by simp only [teamBase, ht]
      have hk := (base_core s c x pa r).1
      obtain ⟨u, hu, hc, hw, hs⟩ := lst_settles (pc := (s.ctx c x).pc) (es := es) hx hb ((teamOf_congr hk.teams x).trans ht) hr hh
      rw [if_neg (by simpa using hn), hs] at hact
      obtain ⟨h1, h2⟩ := done_ctx (pk := pk) (m := semOf i) hx rfl ((congrArg (State.ctx · c x) hact).trans hc) (innerReady_filter _ hh rfl)
      have ho : OnlyCtx u (done s c x pa pk (semOf i)) c x := by rw [← hact]; exact h1
      refine ⟨_, by rw [exec_issue i s rfl]; exact issueOne_done h cl, ((SameOutside.base ..).trans hu).trans ho.outside, h2, ?_⟩
      rw [htb, window_congr ho.core.teams, hw, window_congr hk.teams]
      rfl

end Sys2Proof.Machine

namespace Sys2Proof.Machine

open Sys2Proof.Claim

/-! ### Events on their way (R34) -/

/-- The four arrivals that a `sev` of core `c` at cycle `n` sends to a core whose clock is `clock`. -/
def sevsTo (c n clock : Nat) : List Sev := [0, 1, 2, 3].map (fun y => { ctx := y, issuer := c, until_ := n + 64, due := clock + 64 })

/-- Core `d` × 64 + `p` is sent its arrivals where bit `p` of the mask is set. -/
def sevStep (c n d : Nat) (m : W64) (s : State) (p : Nat) : State :=
  if m.getLsbD p then s.modCore (d * 64 + p) (fun q => { q with sevs := q.sevs ++ sevsTo c n q.clock }) else s

theorem sevStep_outside (c n d : Nat) (m : W64) (s : State) (p : Nat) : SameOutside s (sevStep c n d m s p) := by
  unfold sevStep; split
  · exact .modCore ..
  · exact .refl s

theorem sevStep_ctx (c n d : Nat) (m : W64) (s : State) (p j y : Nat) : (sevStep c n d m s p).ctx j y = s.ctx j y := by
  unfold sevStep; split
  · by_cases h : j = d * 64 + p
    · subst h; simp only [State.ctx, State.core_modCore_self]; rfl
    · simp only [State.ctx, State.core_modCore_other _ _ _ _ h]
  · rfl

theorem sevStep_core_other (c n d : Nat) (m : W64) (s : State) (p j : Nat) (h : j ≠ d * 64 + p) : (sevStep c n d m s p).core j = s.core j := by
  unfold sevStep; split
  · exact State.core_modCore_other _ _ _ _ h
  · rfl

theorem sevStep_core (c n d : Nat) (m : W64) (s : State) (p : Nat) : (sevStep c n d m s p).core (d * 64 + p) =
    { s.core (d * 64 + p) with sevs := (s.core (d * 64 + p)).sevs ++ (if m.getLsbD p then sevsTo c n (s.core (d * 64 + p)).clock else []) } := by
  unfold sevStep; split
  · rw [State.core_modCore_self]
  · rw [List.append_nil]

/-- What a `sev` leaves: arrivals on their way to the cores its mask picks, and nothing else. -/
theorem sevSteps (c n d : Nat) (m : W64) (l : List Nat) (hl : l.Nodup) (s : State) :
    SameOutside s (l.foldl (sevStep c n d m) s) ∧ (∀ j y, (l.foldl (sevStep c n d m) s).ctx j y = s.ctx j y) ∧
    (∀ j, (∀ p ∈ l, j ≠ d * 64 + p) → (l.foldl (sevStep c n d m) s).core j = s.core j) ∧
    ∀ p ∈ l, ((l.foldl (sevStep c n d m) s).core (d * 64 + p)).sevs =
      (s.core (d * 64 + p)).sevs ++ (if m.getLsbD p then sevsTo c n (s.core (d * 64 + p)).clock else []) := by
  induction l generalizing s with
  | nil => exact ⟨.refl s, fun _ _ => rfl, fun _ _ => rfl, fun _ h => absurd h List.not_mem_nil⟩
  | cons q l ih =>
    obtain ⟨hq, hl⟩ := List.nodup_cons.mp hl
    obtain ⟨h1, h2, h3, h4⟩ := ih hl (sevStep c n d m s q)
    refine ⟨(sevStep_outside ..).trans h1, fun j y => (h2 j y).trans (sevStep_ctx ..), fun j hj => ?_, fun p hp => ?_⟩
    · exact (h3 j fun p hp => hj p (List.mem_cons_of_mem _ hp)).trans (sevStep_core_other _ _ _ _ _ _ _ (hj q List.mem_cons_self))
    · rcases List.mem_cons.mp hp with rfl | hp
      · rw [List.foldl_cons, h3 _ fun p' hp' => by have : p ≠ p' := fun e => hq (e ▸ hp'); omega, sevStep_core]
      · have : d * 64 + p ≠ d * 64 + q := by have : p ≠ q := fun e => hq (e ▸ hp); omega
        rw [List.foldl_cons, h4 p hp, sevStep_core_other _ _ _ _ _ _ _ this]

theorem semSev_act (k : BitVec 5) (e : Env) (s : State) :
    (semSev k).act e s = (List.range 64).foldl (sevStep e.c e.now (dieOf e.c) (e.s 0)) s := by
  unfold semSev
  dsimp only
  refine congrArg (fun f => (List.range 64).foldl f s) (funext fun t => funext fun p => ?_)
  rfl

/-- What a performed bundle with nothing of its own due leaves of each core but its contexts, clock and turn. -/
theorem done_sevs {s : State} {c x pa : Nat} {pk : List Nat} {m : Sem} {w : Ctx} (hx : x < 4)
    (hf : m.flow (env s c x pa pk m) (base s c x pa m.srcs) = .next)
    (hw : (m.act (env s c x pa pk m) (base s c x pa m.srcs)).ctx c x = w) (hi : w.innerReady = none) (j : Nat) :
    ((done s c x pa pk m).core j).sevs = ((m.act (env s c x pa pk m) (base s c x pa m.srcs)).core j).sevs := by
  generalize hT : m.act (env s c x pa pk m) (base s c x pa m.srcs) = T at hw ⊢
  have hs : (T.modCtx c x (fun w => { w with preps := nextPreps w [(posOf s c x, m)] })).settleOps c x =
      T.modCtx c x (fun w => { w with preps := nextPreps w [(posOf s c x, m)] }) := by
    apply settleOps_of_none
    rw [State.ctx_modCtx_self _ _ _ _ hx, hw, ← hi]
    exact innerReady_congr rfl
  simp only [done, hT, hf, hs, State.goOn]
  by_cases h : j = c
  · subst h
    rw [core_issued_self, State.core_modCtx_self, State.core_modCtx_self]; rfl
  · rw [core_issued_other _ _ _ _ _ _ h, State.core_modCtx_other _ _ _ _ _ h, State.core_modCtx_other _ _ _ _ _ h]

/-- Nothing is due inside the core where the accesses are those of a context in which nothing is. -/
theorem innerReady_none_of_ops {v w : Ctx} (h : v.innerReady = none) (ho : w.ops = v.ops) : w.innerReady = none := (innerReady_congr ho).trans h

/-- `exit` (R30): the context drains, its nests ended, at its pc. -/
theorem exit_results {s : State} {c x pa : Nat} {pk : List Nat} (h : Ready s c x pa pk) (k : Clear s c x pa pk (semOf .exit)) :
    ∃ t, exec .exit s = .next t ∧ OnlyCtx s t c x ∧ (t.ctx c x).status = .exiting ∧ (t.ctx c x).nest = [] ∧ (t.ctx c x).pc = (s.ctx c x).pc := by
  have hx := pick_lt h.turn
  have hr := popped_innerReady (s := s) (pa := pa) [] h
  have hs : ((base s c x pa []).modCtx c x (fun w => { w with preps := nextPreps w [(posOf s c x, semExit)] })).settleOps c x =
      (base s c x pa []).modCtx c x (fun w => { w with preps := nextPreps w [(posOf s c x, semExit)] }) := by
    apply settleOps_of_none
    rw [State.ctx_modCtx_self _ _ _ _ hx, base_ctx _ _ _ _ _ hx, ← hr]
    exact innerReady_congr rfl
  refine ⟨_, by rw [exec_issue _ s rfl]; exact issueOne_done h k, ?_⟩
  have hd : done s c x pa pk (semOf .exit) = (((base s c x pa []).modCtx c x (fun w => { w with preps := nextPreps w [(posOf s c x, semExit)] })).modCtx c x
      (fun v => { v with status := .exiting, nest := [] })).issued c x (bubblesOf (s.ctx c x) .exit .exit) false :=
    (congrArg (fun u : State => (u.goOn c x (s.ctx c x).pc (nextPc s c x pk) 0 .exit).issued c x (bubblesOf (s.ctx c x) .exit .exit) false) hs :)
  rw [hd]
  refine ⟨(((OnlyCtx.base ..).trans (.modCtx ..)).trans (.modCtx ..)).trans (.issued ..), ?_⟩
  simp only [ctx_issued, State.ctx_modCtx_self _ _ _ _ hx, base_ctx _ _ _ _ _ hx, true_and]
  exact (sameRest_view s c x pa hx).pc

/-- `wfe` (R34) goes on with the latch set, and clears it. -/
theorem wfe_results {s : State} {c x pa : Nat} {pk : List Nat} (h : Ready s c x pa pk) (u : Usable s c x pa (semOf .wfe))
    (he : (view s c x pa).evt = true) : Performs s c x pk .wfe { popped s c x pa [] with evt := false } := by
  have hx := pick_lt h.turn
  have hw : semWfe.waits (env s c x pa pk semWfe) (base s c x pa []) = false := by
    show (!(env s c x pa pk semWfe).ctx.evt) = false
    rw [env_ctx _ _ _ _ _ _ hx]
    exact congrArg not he
  exact performs_of_noted (f := fun v => { v with evt := false }) h rfl (clear_of_bare u rfl rfl rfl rfl rfl rfl rfl rfl hw rfl) rfl rfl (.refl ..)
    (innerReady_none_of_ops (popped_innerReady [] h) rfl)

/-- `sev` (R34) sends its arrivals. -/
theorem sev_results {s : State} {c x pa : Nat} {pk : List Nat} (k : BitVec 5) (h : Ready s c x pa pk) (u : Usable s c x pa (semOf (.sev k))) :
    let m := arg s c x pa [.s k.toNat] 0
    let b := base s c x pa [.s k.toNat]
    ∃ t, exec (.sev k) s = .next t ∧ SameOutside s t ∧ t.ctx c x = onward s c x pk (.sev k) (popped s c x pa [.s k.toNat]) ∧
      (∀ p, p < 64 → (t.core (c / 64 * 64 + p)).sevs =
        (b.core (c / 64 * 64 + p)).sevs ++ (if m.getLsbD p then sevsTo c (now s c) (b.core (c / 64 * 64 + p)).clock else [])) ∧
      (∀ j, j ≠ c → j / 64 ≠ c / 64 → t.core j = s.core j) := by
  intro m b
  have hx := pick_lt h.turn
  obtain ⟨h1, h2, h3, h4⟩ := sevSteps c (now s c) (c / 64) m (List.range 64) List.nodup_range b
  have hact : (semOf (.sev k)).act (env s c x pa pk (semOf (.sev k))) b = (List.range 64).foldl (sevStep c (now s c) (c / 64) m) b := by
    show (semSev k).act (env s c x pa pk (semSev k)) b = _
    rw [semSev_act, env_now]; rfl
  have hc := (congrArg (State.ctx · c x) hact).trans ((h2 c x).trans (base_ctx s c x pa _ hx))
  have hr := popped_innerReady (s := s) (pa := pa) [.s k.toNat] h
  obtain ⟨d1, d2⟩ := done_ctx (pk := pk) (m := semOf (.sev k)) hx rfl hc hr
  have d3 := done_sevs (pk := pk) (m := semOf (.sev k)) hx rfl hc hr
  have d4 : OnlyCtx ((List.range 64).foldl (sevStep c (now s c) (c / 64) m) b) (done s c x pa pk (semOf (.sev k))) c x := by rw [← hact]; exact d1
  refine ⟨_, by rw [exec_issue _ s rfl]; exact issueOne_done h (clear_of_bare u rfl rfl rfl rfl rfl rfl rfl rfl rfl rfl),
    ((SameOutside.base ..).trans h1).trans d4.outside, d2, fun p hp => ?_, fun j hj hd => ?_⟩
  · rw [d3, show (semOf (.sev k)).srcs = [.s k.toNat] from rfl, hact]
    exact h4 p (List.mem_range.mpr hp)
  · rw [d4.cores j hj, h3 j fun p hp => by have := List.mem_range.mp hp; omega]
    exact base_core_other _ _ _ _ _ _ hj

/-! ### Barriers (R32, R33) -/

theorem settleBarrier_eq (k : Core) (key : Nat) : ∃ bs, k.settleBarrier key = { k with barriers := bs } := by
  unfold Core.settleBarrier
  dsimp only
  split
  · exact ⟨_, rfl⟩
  · exact ⟨k.barriers, rfl⟩

theorem settleBarrier_ctx (k : Core) (key y : Nat) : (k.settleBarrier key).ctx y = k.ctx y := by
  obtain ⟨bs, h⟩ := settleBarrier_eq k key
  rw [h]; rfl

theorem settleBarrier_teams (k : Core) (key : Nat) : (k.settleBarrier key).teams = k.teams := by
  obtain ⟨bs, h⟩ := settleBarrier_eq k key
  rw [h]

theorem mem_insertNat {y x : Nat} (l : List Nat) : y ∈ insertNat x l ↔ y = x ∨ y ∈ l := by
  induction l with
  | nil => simp [insertNat]
  | cons a l ih =>
    unfold insertNat
    split
    · simp
    · split
      · next h => subst h; simp
      · simp only [List.mem_cons, ih]; tauto

/-- An arrival changes the barriers of the core, and in the context what it has arrived for, alone. -/
theorem arrive_ctx (k : Core) (x b pc : Nat) (o : Bool) (hx : x < 4) :
    (k.arrive x b pc o).teams = k.teams ∧ ∃ l, (k.arrive x b pc o).ctx x = { k.ctx x with arrived := l } := by
  unfold Core.arrive
  dsimp only
  split
  · exact ⟨rfl, (k.ctx x).arrived, rfl⟩
  · rw [settleBarrier_ctx, settleBarrier_teams]
    exact ⟨rfl, _, Core.ctx_putCtx_self k _ _ hx⟩

theorem leave_ctx (k : Core) (x b pc : Nat) (hx : x < 4) : (k.leave x b pc).ctx x = (k.ctx x).dropArrived (k.barKey x b) pc := by
  unfold Core.leave
  dsimp only
  split <;> exact Core.ctx_putCtx_self _ _ _ hx

theorem barKey_congr {k k' : Core} (h : k'.teams = k.teams) (x b : Nat) : k'.barKey x b = k.barKey x b := by
  simp only [Core.barKey, teamOf_congr h]

theorem barrier_congr {k k' : Core} (h : k'.barriers = k.barriers) (key : Nat) : k'.barrier key = k.barrier key := by
  simp only [Core.barrier, h]

theorem participants_congr {k k' : Core} (h : k'.teams = k.teams) (b : Nat) : k'.participants b = k.participants b := by
  simp only [Core.participants, teamOf_congr h]

/-- The barrier once a `barv`'s arrival is performed: complete where every other participant has arrived or exited. -/
theorem arriveAt_barrier (k : Core) (x key : Nat) : (k.arriveAt x key).barrier key =
    if (k.participants (key / 16)).all (fun y => (k.barrier key).arrived.contains y || y == x || (k.ctx y).status == .exited) then
      { phase := (k.barrier key).phase + 1, arrived := [], owing := [], owed := (k.barrier key).owing.map (fun y => (y, 0)) }
    else { k.barrier key with arrived := insertNat x (k.barrier key).arrived } := by
  let q : Barrier := { k.barrier key with arrived := insertNat x (k.barrier key).arrived }
  let k' : Core := { k with barriers := tput k.barriers key q }
  have hb : k'.barrier key = q := by simp only [Core.barrier, k', tget_tput_self, Option.getD_some]
  have hy : ∀ y, ((k'.barrier key).arrived.contains y || (k'.ctx y).status == .exited) =
      ((k.barrier key).arrived.contains y || y == x || (k.ctx y).status == .exited) := fun y => by
    rw [hb]
    have : (insertNat x (k.barrier key).arrived).contains y = ((k.barrier key).arrived.contains y || y == x) := by
      rw [Bool.eq_iff_iff]; simp [mem_insertNat, or_comm]
    simp only [q, this]; rfl
  show (k'.settleBarrier key).barrier key = _
  unfold Core.settleBarrier
  simp only [hy, show k'.participants (key / 16) = k.participants (key / 16) from rfl]
  split
  · rw [hb]
    simp only [Core.barrier, tget_tput_self, Option.getD_some, q]
  · exact hb

/-- `bar` (R32) goes on once the phase it arrived in is complete. -/
theorem bar_results {s : State} {c x pa : Nat} {pk : List Nat} (n : BitVec 4) (h : Ready s c x pa pk) (cl : Clear s c x pa pk (semOf (.bar n))) :
    let key := (s.core c).barKey x n.toNat
    let b := base s c x pa []
    let k := if (view s c x pa).ops = [] then (b.core c).arrive x n.toNat (s.ctx c x).pc false else b.core c
    k.passed x n.toNat (s.ctx c x).pc = true ∧
    ∃ t, exec (.bar n) s = .next t ∧ SameOutside s t ∧
      (t.core c).barriers = (k.leave x n.toNat (s.ctx c x).pc).barriers ∧
      (t.ctx c x).arrived = (k.ctx x).arrived.filter (fun a => !(a.1 == key && a.2.1 == (s.ctx c x).pc)) ∧
      (t.ctx c x).s = (view s c x pa).s ∧ (t.ctx c x).v = (view s c x pa).v ∧
      (t.ctx c x).pc = (onward s c x pk (.bar n) (popped s c x pa [])).pc := by
  intro key b k
  have hx := pick_lt h.turn
  have harr : (env s c x pa pk (semBar n)).barArrive n.toNat (b.core c) = k := by
    simp only [Env.barArrive, env_ctx _ _ _ _ _ _ hx, k, List.isEmpty_iff]
    rw [show ((env s c x pa pk (semBar n)).pos != (env s c x pa pk (semBar n)).pc / 4 % 16) = false from bne_self_eq_false ..]
    rfl
  have hk : k.teams = (s.core c).teams ∧ ∃ l, k.ctx x = { popped s c x pa [] with arrived := l } := by
    have hb : (b.core c).ctx x = popped s c x pa [] := base_ctx s c x pa [] hx
    have ht := (base_core s c x pa []).1.teams
    simp only [k]
    split
    · obtain ⟨h1, l, h2⟩ := arrive_ctx (b.core c) x n.toNat (s.ctx c x).pc false hx
      exact ⟨h1.trans ht, l, h2.trans (by rw [hb])⟩
    · exact ⟨ht, (popped s c x pa []).arrived, hb⟩
  obtain ⟨ht, l, hkx⟩ := hk
  have hfree := cl.free
  refine ⟨?_, ?_⟩
  · have : (!((env s c x pa pk (semBar n)).barArrive n.toNat (b.core c)).passed x n.toNat (s.ctx c x).pc) = false := hfree
    rw [harr] at this
    simpa using this
  · have hact : (semOf (.bar n)).act (env s c x pa pk (semOf (.bar n))) b = b.modCore c (fun _ => k.leave x n.toNat (s.ctx c x).pc) := by
      show b.putCore c (((env s c x pa pk (semBar n)).barArrive n.toNat (b.core c)).leave x n.toNat (s.ctx c x).pc) = _
      rw [harr]; rfl
    let w : Ctx := { popped s c x pa [] with arrived := l.filter (fun a => !(a.1 == key && a.2.1 == (s.ctx c x).pc)) }
    have hw : ((b.modCore c (fun _ => k.leave x n.toNat (s.ctx c x).pc)).core c).ctx x = w := by
      rw [State.core_modCore_self, leave_ctx k x n.toNat _ hx, barKey_congr ht, hkx]; rfl
    have hc := (congrArg (State.ctx · c x) hact).trans hw
    obtain ⟨d1, d2⟩ := done_ctx (pk := pk) (m := semOf (.bar n)) hx rfl hc (innerReady_none_of_ops (popped_innerReady [] h) rfl)
    have d : OnlyCtx (b.modCore c (fun _ => k.leave x n.toNat (s.ctx c x).pc)) (done s c x pa pk (semOf (.bar n))) c x := by rw [← hact]; exact d1
    refine ⟨_, by rw [exec_issue _ s rfl]; exact issueOne_done h cl, ((SameOutside.base ..).trans (.modCore ..)).trans d.outside, ?_, ?_⟩
    · rw [d.core.barriers, State.core_modCore_self]
    · rw [d2, hkx]
      exact ⟨rfl, rfl, rfl, rfl⟩

/-- What performing a `barv`'s arrival leaves of a context. -/
theorem arriveAt_ctx (k : Core) (x key y : Nat) : (k.arriveAt x key).ctx y = k.ctx y := by
  show (Core.settleBarrier _ key).ctx y = _
  rw [settleBarrier_ctx]; rfl

/-- `barv` (R32) with nothing outstanding arrives at once. -/
theorem barv_results {s : State} {c x pa : Nat} {pk : List Nat} (n : BitVec 4) (h : Ready s c x pa pk) (cl : Clear s c x pa pk (semOf (.barv n)))
    (ho : (view s c x pa).ops = []) :
    let key := (s.core c).barKey x n.toNat
    let all := ((s.core c).participants (key / 16)).all (fun y =>
      ((s.core c).barrier key).arrived.contains y || y == x || (s.ctx c y).status == .exited)
    ∃ t, exec (.barv n) s = .next t ∧ SameOutside s t ∧ (t.ctx c x).s = (view s c x pa).s ∧ (t.ctx c x).v = (view s c x pa).v ∧
      (t.ctx c x).pc = (onward s c x pk (.barv n) (popped s c x pa [])).pc ∧
      (t.core c).barrier key =
        (if all then { phase := ((s.core c).barrier key).phase + 1, arrived := [], owing := []
                       owed := ((s.core c).barrier key).owing.map (fun y => (y, 0)) }
         else { (s.core c).barrier key with arrived := insertNat x ((s.core c).barrier key).arrived }) := by
  intro key all
  have hx := pick_lt h.turn
  let v := popped s c x pa []
  let b := base s c x pa []
  let o : MemOp := { id := v.seq, kind := .arrive key, bytes := [], writes := [], ord := 0, scope := 0, bundle := (s.ctx c x).pc, va := 0 }
  have hk := (base_core s c x pa []).1
  have hkey : (b.core c).barKey x n.toNat = key := barKey_congr hk.teams ..
  let U := (b.modCtx c x (fun v => v.pushOp (.arrive key) [] [] 0 0 (s.ctx c x).pc 0)).modCtx c x (fun u => u.dropOp v.seq)
  have hU : OnlyCtx s U c x := ((OnlyCtx.base ..).trans (.modCtx ..)).trans (.modCtx ..)
  have hq : (b.modCtx c x (fun v => v.pushOp (.arrive key) [] [] 0 0 (s.ctx c x).pc 0)).ctx c x = v.pushOp (.arrive key) [] [] 0 0 (s.ctx c x).pc 0 := by
    rw [State.ctx_modCtx_self _ _ _ _ hx, base_ctx _ _ _ _ _ hx]
  have hUx : U.ctx c x = { v with seq := v.seq + 1 } := by
    simp only [U]
    rw [State.ctx_modCtx_self _ _ _ _ hx, hq]
    simp [Ctx.pushOp, Ctx.dropOp, show v.ops = [] from ho]
  have hw : (U.modCore c (fun k => k.arriveAt x key)).ctx c x = { v with seq := v.seq + 1 } := by
    rw [← hUx]; simp only [State.ctx, State.core_modCore_self, arriveAt_ctx]
  have hin : ({ v with seq := v.seq + 1 } : Ctx).innerReady = none := innerReady_none_of_ops (popped_innerReady [] h) rfl
  have hact : (semOf (.barv n)).act (env s c x pa pk (semOf (.barv n))) b = U.modCore c (fun k => k.arriveAt x key) := by
    show (b.modCtx c x (fun v => v.pushOp (.arrive ((b.core c).barKey x n.toNat)) [] [] 0 0 (s.ctx c x).pc 0)).settleOps c x = _
    rw [hkey]
    refine settleOps_one (o := o) ?_ (by show ((U.modCore c (fun k => k.arriveAt x key)).ctx c x).innerReady = none; rw [hw]; exact hin)
    rw [hq]
    exact innerReady_head (l := []) (by show v.ops ++ [_] = _; rw [show v.ops = [] from ho]; rfl) rfl
  obtain ⟨d1, d2⟩ := done_ctx (pk := pk) (m := semOf (.barv n)) hx rfl ((congrArg (State.ctx · c x) hact).trans hw) hin
  have d : OnlyCtx (U.modCore c (fun k => k.arriveAt x key)) (done s c x pa pk (semOf (.barv n))) c x := by rw [← hact]; exact d1
  refine ⟨_, by rw [exec_issue _ s rfl]; exact issueOne_done h cl, (hU.outside.trans (.modCore ..)).trans d.outside, ?_⟩
  rw [d2]
  refine ⟨rfl, rfl, rfl, ?_⟩
  rw [barrier_congr d.core.barriers, State.core_modCore_self, arriveAt_barrier, barrier_congr hU.core.barriers, participants_congr hU.core.teams]
  have hst : ∀ y, ((U.core c).ctx y).status = (s.ctx c y).status := fun y => by
    by_cases hy : y = x
    · subst hy; exact (congrArg Ctx.status hUx).trans (sameRest_view s c y pa hx).status
    · exact (congrArg Ctx.status (hU.others y hy) :)
  simp only [hst, all]

/-- Settles O9: each syllable of context control, and the two barriers. -/
theorem contextAndBarrierResults : Obligations.ContextAndBarrierResults := by
  refine ⟨fun s c x pa pk k h => ⟨exit_results h, wfe_results h, sev_results k h⟩, fun s c x pa pk n h => ?_⟩
  exact ⟨bar_results n h, barv_results n h⟩

end Sys2Proof.Machine

namespace Sys2Proof.Machine

open Sys2Proof.Claim

/-! ### Commands enter their queues (R14, R114, R248) -/

theorem noted_noteSpan (e : Env) (s : State) (x root va n : Nat) : Noted s (s.noteSpan e.c root va n) e.c x := by
  have h : ∀ (s : State) (va : Nat), Noted s (s.notePage e.c root va) e.c x := fun s va => by
    unfold State.notePage
    split
    · exact .refl ..
    · exact ⟨.noteTlb .., noteTlb_sigSeen .., noteTlb_ctx ..⟩
  unfold State.noteSpan
  dsimp only
  split
  · exact h _ _
  · exact (h _ _).trans (h _ _)

theorem noted_layouts (e : Env) (x : Nat) (gs : List (Option Geo)) (s : State) : Noted s (e.noteLayouts s gs) e.c x := by
  unfold Env.noteLayouts
  induction gs generalizing s with
  | nil => exact .refl ..
  | cons g gs ih =>
    refine Noted.trans ?_ (ih _)
    dsimp only
    split
    · exact noted_noteSpan ..
    · exact .refl ..

/-- The core once command `m` of the team at base `b` is in its queue: a matrix command takes the accumulators no team holds (R71), and the one it names
is busy (R125). -/
def Core.enter (k : Core) (b : Nat) (m : Cmd) : Core :=
  let k := if m.kind.queue = some 1 ∧ k.accOwner = none then { k with accOwner := some b, accs := Vector.replicate 4 Acc.zero } else k
  let k := match m.acc with
    | some a => { k with accs := vset k.accs a { vget k.accs a Acc.zero with busy := some m.id } }
    | none => k
  { k with cmds := k.cmds ++ [m], cmdSeq := k.cmdSeq + 1 }

theorem enqueue_eq (e : Env) (s : State) (m : Cmd) :
    e.enqueue s m = (e.noteLayouts s [m.dst, m.src, m.src2, m.src3]).modCore e.c (fun k => k.enter e.base m) := rfl

/-- What entering a queue leaves of a core: all but the accumulators, the queue and the next command's name. -/
theorem enter_eq (k : Core) (b : Nat) (m : Cmd) : ∃ o as, k.enter b m = { k with accOwner := o, accs := as, cmds := k.cmds ++ [m], cmdSeq := k.cmdSeq + 1 } := by
  unfold Core.enter
  dsimp only
  split <;> split <;> exact ⟨_, _, rfl⟩

theorem enter_cmds (k : Core) (b : Nat) (m : Cmd) : (k.enter b m).cmds = k.cmds ++ [m] := by
  obtain ⟨o, as, h⟩ := enter_eq k b m
  rw [h]

theorem enter_cmdSeq (k : Core) (b : Nat) (m : Cmd) : (k.enter b m).cmdSeq = k.cmdSeq + 1 := by
  obtain ⟨o, as, h⟩ := enter_eq k b m
  rw [h]

theorem enter_teams (k : Core) (b : Nat) (m : Cmd) : (k.enter b m).teams = k.teams := by
  obtain ⟨o, as, h⟩ := enter_eq k b m
  rw [h]

theorem enter_ctx (k : Core) (b : Nat) (m : Cmd) (y : Nat) : (k.enter b m).ctx y = k.ctx y := by
  obtain ⟨o, as, h⟩ := enter_eq k b m
  rw [h]; rfl

theorem modTag_ctx (k : Core) (b n : Nat) (f : Tag → Tag) (y : Nat) : (k.modTag b n f).ctx y = k.ctx y := by
  simp only [Core.ctx, Core.modTag_ctxs]

/-- What a change of a tag leaves of a core. -/
theorem modTag_eq (k : Core) (b n : Nat) (f : Tag → Tag) : ∃ ts, k.modTag b n f = { k with teams := ts } := by
  unfold Core.modTag Core.putTeam
  split
  · exact ⟨_, rfl⟩
  · exact ⟨k.teams, rfl⟩

theorem tagAt_modTag (k : Core) {b : Nat} (n : Nat) (f : Tag → Tag) (h : (tget k.teams b).isSome = true) :
    (k.modTag b n f).tagAt b n = f (k.tagAt b n) := by
  obtain ⟨t, ht⟩ := Option.isSome_iff_exists.mp h
  simp only [Core.modTag, Core.tagAt, ht, Core.putTeam, tget_tput_self, Team.tag, Option.getD_some]

theorem tagAt_congr {k k' : Core} (h : k'.teams = k.teams) (b n : Nat) : k'.tagAt b n = k.tagAt b n := by
  simp only [Core.tagAt, h]

/-- A declared tag is one of a team. -/
theorem team_of_declared {s : State} {c x : Nat} {m : Sem} {n : Nat} (hn : n ∈ m.tags) (h : m.over (s.hdrAt c x) = false) :
    (tget (s.core c).teams (teamBase s c x)).isSome = true := by
  rcases ht : (s.core c).teamOf x with _ | ⟨b, t⟩
  · rw [hdrAt_of_no_team ht] at h
    have h0 : hdrTags 0 = 0 := by simp only [hdrTags, hbits, show (0 : W512).toNat = 0 from BitVec.toNat_zero, bits, Nat.zero_div, Nat.zero_mod]
    have : m.tags.any (fun n => decide (hdrTags 0 ≤ n)) = true := List.any_eq_true.mpr ⟨n, hn, decide_eq_true (h0 ▸ Nat.zero_le n)⟩
    simp only [Sem.over, this, Bool.or_true, Bool.true_or, reduceCtorEq] at h
  · simp only [teamBase, ht]
    exact tget_of_teamOf ht

/-- What a command names of its bundle, its team and its core at issue (R14). -/
structure Issued (s : State) (c x pa : Nat) (kind : CmdKind) (m : Cmd) : Prop where
  id : m.id = (s.core c).cmdSeq
  kind : m.kind = kind
  st : m.st = .queued
  ctx : m.ctx = x
  team : m.team = teamBase s c x
  bundle : m.bundle = (s.ctx c x).pc
  pos : m.pos = posOf s c x
  mark : m.mark = (view s c x pa).seq

theorem newCmd_issued (s : State) {c x : Nat} (pa : Nat) (pk : List Nat) (m : Sem) (kind : CmdKind) (hx : x < 4) :
    Issued s c x pa kind ((env s c x pa pk m).newCmd (base s c x pa m.srcs) kind) where
  id := (base_core s c x pa m.srcs).1.cmdSeq
  kind := rfl
  st := rfl
  ctx := rfl
  team := env_base ..
  bundle := rfl
  pos := rfl
  mark := by
    show ((base s c x pa m.srcs).ctx c x).seq = _
    rw [base_ctx s c x pa m.srcs hx]; rfl

/-- A syllable whose command enters a queue, its context left as `w`: what is in the core afterwards. -/
theorem queued_issues {s : State} {c x pa : Nat} {pk : List Nat} {i : Instr} {cmd : Cmd} {B : State} {w : Ctx} (h : Ready s c x pa pk)
    (he : (encode i).isSome = true) (cl : Clear s c x pa pk (semOf i))
    (hf : (semOf i).flow (env s c x pa pk (semOf i)) (base s c x pa (semOf i).srcs) = .next)
    (ho : SameOutside s B)
    (ha : OnlyCtx ((env s c x pa pk (semOf i)).enqueue B cmd) ((semOf i).act (env s c x pa pk (semOf i)) (base s c x pa (semOf i).srcs)) c x)
    (hw : ((semOf i).act (env s c x pa pk (semOf i)) (base s c x pa (semOf i).srcs)).ctx c x = w)
    (hops : w.ops = (popped s c x pa (semOf i).srcs).ops) :
    ∃ t, exec i s = .next t ∧ SameOutside s t ∧ t.ctx c x = onward s c x pk i w ∧
      KeptCore (((env s c x pa pk (semOf i)).noteLayouts B [cmd.dst, cmd.src, cmd.src2, cmd.src3] |>.core c).enter (teamBase s c x) cmd) (t.core c) := by
  have hx := pick_lt h.turn
  obtain ⟨h1, h2⟩ := done_ctx hx hf hw (innerReady_none_of_ops (popped_innerReady _ h) hops)
  refine ⟨_, by rw [exec_issue i s he]; exact issueOne_done h cl, ?_, h2, ?_⟩
  · have hn := (noted_layouts (env s c x pa pk (semOf i)) x [cmd.dst, cmd.src, cmd.src2, cmd.src3] B).only.outside
    exact (ho.trans (hn.trans (.modCore ..))).trans (ha.trans h1).outside
  · have := (ha.trans h1).core
    rw [enqueue_eq, env_base] at this
    have e : (env s c x pa pk (semOf i)).c = c := rfl
    rwa [e, State.core_modCore_self] at this

theorem enqueue_ctx (e : Env) (s : State) (m : Cmd) : (e.enqueue s m).ctx e.c e.x = s.ctx e.c e.x := by
  rw [enqueue_eq, State.ctx, State.core_modCore_self, enter_ctx]
  exact (noted_layouts e e.x _ s).ctx

theorem bindTag_ctx (e : Env) (s : State) (t producer n : Nat) (geo : Option TagGeo) (group : Nat) :
    (e.bindTag s t producer n geo group).ctx e.c e.x = s.ctx e.c e.x := by
  unfold Env.bindTag State.modTag
  rw [State.ctx, State.core_modCore_self, modTag_ctx]; rfl

theorem outside_bindTag (e : Env) (s : State) (t producer n : Nat) (geo : Option TagGeo) (group : Nat) :
    SameOutside s (e.bindTag s t producer n geo group) := by
  unfold Env.bindTag State.modTag
  exact .modCore ..

theorem nextGen_eq (s : State) (c x pa : Nat) (pk : List Nat) (m : Sem) (n : Nat) :
    (env s c x pa pk m).nextGen (base s c x pa m.srcs) n = ((s.core c).tagAt (teamBase s c x) n).gen + 1 := by
  rw [Env.nextGen, env_base]
  exact congrArg (fun t : Tag => t.gen + 1) (tagAt_congr (base_core s c x pa m.srcs).1.teams _ _)

/-- What a command's tag names, once it is bound to its producer at frontier 0. -/
structure TagBound (u t : Tag) (code ext : Nat) : Prop where
  producer : t.producer = code
  f : t.f = 0
  n : t.n = ext
  gen : t.gen = u.gen + 1
  state : t.state = if ext = 0 then .ready else .bound

/-- What a command's issue leaves of its context. -/
theorem entered_ctx {s : State} {c x pa : Nat} {pk : List Nat} {m : Sem} {N : State} (cmd : Cmd) (n code ext : Nat) (geo : Option TagGeo) (hx : x < 4)
    (hN : Noted (base s c x pa m.srcs) N c x) :
    ((env s c x pa pk m).enqueue ((env s c x pa pk m).bindTag N n code ext geo 0) cmd).ctx c x = popped s c x pa m.srcs :=
  ((enqueue_ctx ..).trans (bindTag_ctx ..)).trans (hN.ctx.trans (base_ctx _ _ _ _ _ hx))

theorem TagBound.of_eq {u t : Tag} {code ext ext' : Nat} (h : TagBound u t code ext) (e : ext' = ext) : TagBound u t code ext' := e ▸ h

/-- What control going on leaves of a context. -/
theorem onward_kept {s t : State} {c x pa : Nat} {pk : List Nat} {i : Instr} {w : Ctx} (h : t.ctx c x = onward s c x pk i w)
    (hn : w.nest = (view s c x pa).nest) (hs : w.s = (view s c x pa).s) (hv : w.v = (view s c x pa).v) (ha : w.a = (view s c x pa).a) :
    (t.ctx c x).pc = (passDecision (s.ctx c x).pc (nextPc s c x pk) (view s c x pa).nest).2 ∧
    (t.ctx c x).s = (view s c x pa).s ∧ (t.ctx c x).v = (view s c x pa).v ∧ (t.ctx c x).a = (view s c x pa).a := by
  rw [h, ← hn, ← hs, ← hv, ← ha]; exact ⟨rfl, rfl, rfl, rfl⟩

/-- A syllable whose command, under tag `n`, enters a queue and leaves its context `w`: the tag is bound to its producer, and the command is the
last of its core's. -/
theorem tagged_issues {s : State} {c x pa : Nat} {pk : List Nat} {i : Instr} (cmd : Cmd) {N : State} {w : Ctx} {n code ext : Nat} {geo : Option TagGeo}
    (h : Ready s c x pa pk) (he : (encode i).isSome = true) (cl : Clear s c x pa pk (semOf i))
    (hf : (semOf i).flow (env s c x pa pk (semOf i)) (base s c x pa (semOf i).srcs) = .next)
    (hn : n ∈ (semOf i).tags) (hN : Noted (base s c x pa (semOf i).srcs) N c x)
    (ha : OnlyCtx ((env s c x pa pk (semOf i)).enqueue ((env s c x pa pk (semOf i)).bindTag N n code ext geo 0) cmd)
      ((semOf i).act (env s c x pa pk (semOf i)) (base s c x pa (semOf i).srcs)) c x)
    (hw : ((semOf i).act (env s c x pa pk (semOf i)) (base s c x pa (semOf i).srcs)).ctx c x = w)
    (hops : w.ops = (popped s c x pa (semOf i).srcs).ops) :
    ∃ t, exec i s = .next t ∧ SameOutside s t ∧ t.ctx c x = onward s c x pk i w ∧
      (t.core c).cmds = (s.core c).cmds ++ [cmd] ∧ (t.core c).cmdSeq = (s.core c).cmdSeq + 1 ∧
      TagBound ((s.core c).tagAt (teamBase s c x) n) ((t.core c).tagAt (teamBase s c x) n) code ext := by
  have hb := (base_core s c x pa (semOf i).srcs).1.trans hN.only.core
  obtain ⟨t, h1, h2, h3, h4⟩ := queued_issues (B := (env s c x pa pk (semOf i)).bindTag N n code ext geo 0) (cmd := cmd) h he cl hf
    (((SameOutside.base ..).trans hN.only.outside).trans (outside_bindTag ..)) ha hw hops
  have hl := (noted_layouts (env s c x pa pk (semOf i)) x [cmd.dst, cmd.src, cmd.src2, cmd.src3]
    ((env s c x pa pk (semOf i)).bindTag N n code ext geo 0)).only.core
  generalize ((env s c x pa pk (semOf i)).noteLayouts ((env s c x pa pk (semOf i)).bindTag N n code ext geo 0)
    [cmd.dst, cmd.src, cmd.src2, cmd.src3]) = L at h4 hl
  have hT : ((env s c x pa pk (semOf i)).bindTag N n code ext geo 0).core c = (N.core c).modTag (teamBase s c x) n (fun g => g.bind code ext geo x 0) := by
    rw [← env_base s c x pa pk (semOf i)]; exact State.core_modCore_self ..
  rw [show (env s c x pa pk (semOf i)).c = c from rfl, hT] at hl
  obtain ⟨ts, hts⟩ := modTag_eq (N.core c) (teamBase s c x) n (fun g => g.bind code ext geo x 0)
  have hg : (t.core c).tagAt (teamBase s c x) n = ((s.core c).tagAt (teamBase s c x) n).bind code ext geo x 0 := by
    rw [tagAt_congr h4.teams, tagAt_congr (enter_teams ..), tagAt_congr hl.teams,
      tagAt_modTag _ _ _ (by rw [hb.teams]; exact team_of_declared hn cl.usable.declared), tagAt_congr hb.teams]
  refine ⟨t, h1, h2, h3, ?_, ?_, ?_⟩
  · rw [h4.cmds, enter_cmds, hl.cmds, hts]
    show (N.core c).cmds ++ [cmd] = _
    rw [hb.cmds]
  · rw [h4.cmdSeq, enter_cmdSeq, hl.cmdSeq, hts]
    show (N.core c).cmdSeq + 1 = _
    rw [hb.cmdSeq]
  · rw [hg]; exact ⟨rfl, rfl, rfl, rfl, rfl⟩

/-- A command's own fields taken away, what it names of its bundle, its team and its core. -/
def Cmd.stem (m : Cmd) : Cmd := Cmd.blank m.id m.kind m.ctx m.team m.bundle m.pos m.mark

/-- A command made of a new one names what that does. -/
theorem issued_of_stem {s : State} {c x pa : Nat} {pk : List Nat} {m : Sem} {kind : CmdKind} {cmd : Cmd} (hx : x < 4)
    (h : cmd.stem = (env s c x pa pk m).newCmd (base s c x pa m.srcs) kind) (hst : cmd.st = .queued) : Issued s c x pa kind cmd := by
  obtain ⟨h1, h2, -, h4, h5, h6, h7, h8⟩ := newCmd_issued s pa pk m kind hx
  rw [← h] at h1 h2 h4 h5 h6 h7 h8
  exact ⟨h1, h2, hst, h4, h5, h6, h7, h8⟩

theorem copyCmd_stem (e : Env) (t : State) (kind : CmdKind) (d a n f list k : Nat) : (e.copyCmd t kind d a n f list k).stem = e.newCmd t kind := rfl

theorem recvCmd_stem (e : Env) (t : State) (kind : CmdKind) (ch d n o : Nat) : (e.recvCmd t kind ch d n o).stem = e.newCmd t kind := rfl

theorem collCmd_stem (e : Env) (t : State) (a d n : Nat) : (e.collCmd t a d n).stem = e.newCmd t .coll := rfl

theorem rdldCmd_stem (e : Env) (t : State) (d n : Nat) : (e.rdldCmd t d n).stem = e.newCmd t .rdld := rfl

theorem drainCmd_stem (e : Env) (t : State) (k : BitVec 2) (d : BitVec 4) (n : BitVec 6) (p : BitVec 2) (st : BitVec 3) (fl : BitVec 4) :
    (e.drainCmd t k d n p st fl).stem = e.newCmd t .drain := rfl

theorem padjCmd_stem (e : Env) (t : State) (d a b : BitVec 4) (n : BitVec 6) (k : BitVec 2) : (e.padjCmd t d a b n k).stem = e.newCmd t .padj := rfl

/-- The command of a `cfill` (R254). -/
def Env.fillCmd (e : Env) (t : State) (d f n : Nat) : Cmd :=
  { e.newCmd t .cfill with dst := some (e.geo t d), flags := f, tag := some (n, e.nextGen t n), val := e.s 0, n := 1 }

theorem fillCmd_stem (e : Env) (t : State) (d f n : Nat) : (e.fillCmd t d f n).stem = e.newCmd t .cfill := rfl

/-- What the statement says of a tagged command, with what is its own (`dst`, `src`, `src2`, `own`) given. -/
theorem tagged_close {s t : State} {c x pa : Nat} {pk : List Nat} {i : Instr} {cmd : Cmd} {w : Ctx} {kind : CmdKind} {n code ext : Nat} {u : Tag}
    {dst src src2 : Option Geo} {own : Prop} {pj : Vector (BitVec 256) 4}
    (h : exec i s = .next t ∧ SameOutside s t ∧ t.ctx c x = onward s c x pk i w ∧
      (t.core c).cmds = (s.core c).cmds ++ [cmd] ∧ (t.core c).cmdSeq = (s.core c).cmdSeq + 1 ∧
      TagBound u ((t.core c).tagAt (teamBase s c x) n) code ext)
    (j : Issued s c x pa kind cmd) (hg : cmd.tag = some (n, u.gen + 1)) (hd : cmd.dst = dst) (hs : cmd.src = src) (h2 : cmd.src2 = src2) (ho : own)
    (hp : w.pj = pj) (hn : w.nest = (view s c x pa).nest) (hws : w.s = (view s c x pa).s) (hv : w.v = (view s c x pa).v) (ha : w.a = (view s c x pa).a) :
    exec i s = .next t ∧ SameOutside s t ∧ (t.core c).cmds = (s.core c).cmds ++ [cmd] ∧
      cmd.id = (s.core c).cmdSeq ∧ (t.core c).cmdSeq = (s.core c).cmdSeq + 1 ∧ cmd.kind = kind ∧ cmd.st = .queued ∧ cmd.ctx = x ∧
      cmd.team = teamBase s c x ∧ cmd.bundle = (s.ctx c x).pc ∧ cmd.pos = posOf s c x ∧ cmd.mark = (view s c x pa).seq ∧
      cmd.tag = some (n, u.gen + 1) ∧ cmd.dst = dst ∧ cmd.src = src ∧ cmd.src2 = src2 ∧ own ∧ (t.ctx c x).pj = pj ∧
      ((t.core c).tagAt (teamBase s c x) n).producer = code ∧ ((t.core c).tagAt (teamBase s c x) n).f = 0 ∧
      ((t.core c).tagAt (teamBase s c x) n).n = ext ∧ ((t.core c).tagAt (teamBase s c x) n).gen = u.gen + 1 ∧
      ((t.core c).tagAt (teamBase s c x) n).state = (if ext = 0 then .ready else .bound) ∧
      (t.ctx c x).pc = (passDecision (s.ctx c x).pc (nextPc s c x pk) (view s c x pa).nest).2 ∧
      (t.ctx c x).s = (view s c x pa).s ∧ (t.ctx c x).v = (view s c x pa).v ∧ (t.ctx c x).a = (view s c x pa).a := by
  obtain ⟨e1, e2, e3, e4, e5, e6⟩ := h
  exact ⟨e1, e2, e4, j.id, e5, j.kind, j.st, j.ctx, j.team, j.bundle, j.pos, j.mark, hg, hd, hs, h2, ho, (congrArg Ctx.pj e3).trans hp,
    e6.producer, e6.f, e6.n, e6.gen, e6.state, onward_kept e3 hn hws hv ha⟩

/-- What a command's issue and a change `f` of its context after it come to. -/
theorem entered_modCtx {s : State} {c x pa : Nat} {pk : List Nat} {m : Sem} {N : State} (cmd : Cmd) (n code ext : Nat) (geo : Option TagGeo) (hx : x < 4)
    (hN : Noted (base s c x pa m.srcs) N c x) (f : Ctx → Ctx) :
    (((env s c x pa pk m).enqueue ((env s c x pa pk m).bindTag N n code ext geo 0) cmd).modCtx c x f).ctx c x = f (popped s c x pa m.srcs) := by
  rw [State.ctx_modCtx_self _ _ _ _ hx, entered_ctx cmd n code ext geo hx hN]

theorem onlyCtx_of_modCtx {s t : State} {c x : Nat} {f : Ctx → Ctx} (h : t = s.modCtx c x f) : OnlyCtx s t c x := h ▸ .modCtx ..

/-- A `padj` keeps its record in `pj` (R312). -/
def Ctx.keepPj (v : Ctx) (k : Nat) (q : BitVec 256) : Ctx := { v with pj := vset v.pj k q }

theorem keepPj_kept (v : Ctx) (k : Nat) (q : BitVec 256) : (v.keepPj k q).ops = v.ops ∧ (v.keepPj k q).pj = vset v.pj k q ∧
    (v.keepPj k q).nest = v.nest ∧ (v.keepPj k q).s = v.s ∧ (v.keepPj k q).v = v.v ∧ (v.keepPj k q).a = v.a := ⟨rfl, rfl, rfl, rfl, rfl, rfl⟩

/-- A `drain` keeps its record where its set is not 0, and reserves the entry its support goes to (R312, R340). -/
def Ctx.drained (v : Ctx) (st : BitVec 3) (fl : BitVec 4) (k : Nat) (q : BitVec 256) : Ctx :=
  let w := if st = 0 then v else v.keepPj k q
  if drainSup fl then w.reserveLqs else w

theorem drained_kept (v : Ctx) (st : BitVec 3) (fl : BitVec 4) (k : Nat) (q : BitVec 256) :
    (v.drained st fl k q).ops = v.ops ∧ (v.drained st fl k q).pj = (if st = 0 then v.pj else vset v.pj k q) ∧
    (v.drained st fl k q).nest = v.nest ∧ (v.drained st fl k q).s = v.s ∧ (v.drained st fl k q).v = v.v ∧ (v.drained st fl k q).a = v.a := by
  unfold Ctx.drained Ctx.keepPj
  dsimp only
  split <;> split <;> exact ⟨rfl, rfl, rfl, rfl, rfl, rfl⟩

section Projection

variable {s : State} {c x pa : Nat} {pk : List Nat} (d a b : BitVec 4) (n : BitVec 6) (k : BitVec 2) (st : BitVec 3) (fl : BitVec 4)

theorem semDrain_act (e : Env) (t : State) : (semDrain k d n k st fl).act e t =
    (e.enqueue (e.bindTag (if st = 0 then t else e.note t (e.pjAddr k.toNat) 32) n.toNat 6 ((e.geo t d.toNat).d0 * (e.geo t d.toNat).d1)
      (if drainRed fl then none else some ((e.geo t d.toNat).tagGeo (e.geo t d.toNat).d1)) 0) (e.drainCmd t k d n k st fl)).modCtx e.c e.x
        (fun v => v.drained st fl k.toNat (e.drainCmd t k d n k st fl).pj) := rfl

theorem semPadj_act (e : Env) (t : State) : (semPadj d a b n k).act e t =
    (e.enqueue (e.bindTag (e.note t (e.pjAddr k.toNat) 32) n.toNat 7 ((e.geo t d.toNat).d0 * (e.geo t d.toNat).d1)
      (some ((e.geo t d.toNat).tagGeo (e.geo t d.toNat).d1)) 0) (e.padjCmd t d a b n k)).modCtx e.c e.x
        (fun v => v.keepPj k.toNat (e.padjCmd t d a b n k).pj) := rfl

end Projection

/-- Settles O35, command by command. -/
theorem taggedCommandsIssue : Obligations.TaggedCommandsIssue := by
  unfold Obligations.TaggedCommandsIssue
  intro s c x pa pk d a b n f k st fl r ch o h T tag q hq m B E G A g lists cl
  have hx := pick_lt h.turn
  simp only [List.mem_cons, List.not_mem_nil, or_false] at hq
  have hgen : ∀ j, E.nextGen B j = ((s.core c).tagAt T j).gen + 1 := fun j => nextGen_eq s c x pa pk m j
  have htag : some (n.toNat, E.nextGen B n.toNat) = some (n.toNat, tag.gen + 1) := by rw [hgen]
  rcases hq with rfl | rfl | rfl | rfl | rfl | rfl | rfl | rfl | rfl | rfl | rfl
  · obtain ⟨t, h1, h2, h3, h4, h5, h6⟩ := tagged_issues (E.copyCmd B .cpy d.toNat a.toNat n.toNat f.toNat (E.s 0).toNat 1)
      (n := n.toNat) h rfl cl rfl (List.mem_singleton_self _) (.refl ..) (.refl ..)
      (entered_ctx _ _ _ _ _ hx (.refl ..)) rfl
    exact ⟨t, _, tagged_close ⟨h1, h2, h3, h4, h5, h6.of_eq (Nat.one_mul _)⟩ (issued_of_stem hx (copyCmd_stem E B ..) rfl) htag rfl rfl rfl ⟨rfl, rfl⟩ rfl rfl rfl rfl rfl⟩
  · obtain ⟨t, h1, h2, h3, h4, h5, h6⟩ := tagged_issues (E.copyCmd B .cpyt d.toNat a.toNat n.toNat f.toNat (E.s 0).toNat 1)
      (n := n.toNat) h rfl cl rfl (List.mem_singleton_self _) (.refl ..) (.refl ..)
      (entered_ctx _ _ _ _ _ hx (.refl ..)) rfl
    exact ⟨t, _, tagged_close ⟨h1, h2, h3, h4, h5, h6.of_eq (Nat.one_mul _)⟩ (issued_of_stem hx (copyCmd_stem E B ..) rfl) htag rfl rfl rfl ⟨rfl, rfl⟩ rfl rfl rfl rfl rfl⟩
  · obtain ⟨t, h1, h2, h3, h4, h5, h6⟩ := tagged_issues (E.copyCmd B .cpyg d.toNat a.toNat n.toNat f.toNat (E.s 0).toNat (E.s 1).toNat)
      (n := n.toNat) h rfl cl rfl (List.mem_singleton_self _) (.refl ..) (.refl ..)
      (entered_ctx _ _ _ _ _ hx (.refl ..)) rfl
    exact ⟨t, _, tagged_close ⟨h1, h2, h3, h4, h5, h6.of_eq rfl⟩ (issued_of_stem hx (copyCmd_stem E B ..) rfl) htag rfl rfl rfl ⟨rfl, rfl, rfl⟩ rfl rfl rfl rfl rfl⟩
  · obtain ⟨t, h1, h2, h3, h4, h5, h6⟩ := tagged_issues (E.copyCmd B .cpys d.toNat a.toNat n.toNat f.toNat (E.s 0).toNat (E.s 1).toNat)
      (n := n.toNat) h rfl cl rfl (List.mem_singleton_self _) (.refl ..) (.refl ..)
      (entered_ctx _ _ _ _ _ hx (.refl ..)) rfl
    exact ⟨t, _, tagged_close ⟨h1, h2, h3, h4, h5, h6.of_eq rfl⟩ (issued_of_stem hx (copyCmd_stem E B ..) rfl) htag rfl rfl rfl ⟨rfl, rfl, rfl⟩ rfl rfl rfl rfl rfl⟩
  · obtain ⟨t, h1, h2, h3, h4, h5, h6⟩ := tagged_issues (E.fillCmd B d.toNat f.toNat n.toNat)
      (n := n.toNat) h rfl cl rfl (List.mem_singleton_self _) (.refl ..) (.refl ..)
      (entered_ctx _ _ _ _ _ hx (.refl ..)) rfl
    exact ⟨t, _, tagged_close ⟨h1, h2, h3, h4, h5, h6.of_eq (Nat.one_mul _)⟩ (issued_of_stem hx (fillCmd_stem E B ..) rfl) htag rfl rfl rfl ⟨rfl, rfl⟩ rfl rfl rfl rfl rfl⟩
  · have act := semDrain_act d n k st fl E B
    obtain ⟨k1, k2, k3, k4, k5, k6⟩ := drained_kept (popped s c x pa m.srcs) st fl k.toNat (E.drainCmd B k d n k st fl).pj
    have hN : Noted B (if st = 0 then B else E.note B (E.pjAddr k.toNat) 32) c x := by
      split
      · exact .refl ..
      · exact noted_note E B x _ _
    obtain ⟨t, h1, h2, h3, h4, h5, h6⟩ := tagged_issues (E.drainCmd B k d n k st fl) (n := n.toNat) h rfl cl rfl (List.mem_singleton_self _)
      hN (onlyCtx_of_modCtx act) ((congrArg (State.ctx · c x) act).trans (entered_modCtx _ _ _ _ _ hx hN _)) k1
    have hpol : (E.drainCmd B k d n k st fl).val = BitVec.ofNat 64 (polScope (view s c x pa).mpol) := by
      show BitVec.ofNat 64 (polScope E.ctx.mpol) = _
      rw [show E.ctx = popped s c x pa m.srcs from env_ctx _ _ _ _ _ _ hx]; rfl
    have hcnt : (E.drainCmd B k d n k st fl).n = if fl.getLsbD 2 then A.toNat % 2 ^ 11 else 0 := by
      show (if drainDet fl then bits (E.s 0).toNat 0 11 else 0) = _
      simp only [bits, Nat.pow_zero, Nat.div_one]; rfl
    refine ⟨t, _, tagged_close ⟨h1, h2, h3, h4, h5, h6.of_eq (Nat.one_mul _)⟩ (issued_of_stem hx (drainCmd_stem E B ..) rfl) htag rfl rfl rfl
      ⟨rfl, rfl, rfl, rfl, hpol, hcnt⟩ (k2.trans ?_) k3 k4 k5 k6⟩
    by_cases h0 : st = 0
    · simp only [h0, if_true, ne_eq, not_true_eq_false, and_false, or_false, reduceCtorEq, if_false]; rfl
    · simp only [h0, if_false, ne_eq, not_false_eq_true, and_true, or_true, if_true, Env.drainCmd]; rfl
  · have act := semPadj_act d a b n k E B
    obtain ⟨k1, k2, k3, k4, k5, k6⟩ := keepPj_kept (popped s c x pa m.srcs) k.toNat (E.padjCmd B d a b n k).pj
    obtain ⟨t, h1, h2, h3, h4, h5, h6⟩ := tagged_issues (E.padjCmd B d a b n k) (n := n.toNat) h rfl cl rfl (List.mem_singleton_self _)
      (noted_note E B x (E.pjAddr k.toNat) 32) (onlyCtx_of_modCtx act)
      ((congrArg (State.ctx · c x) act).trans (entered_modCtx _ _ _ _ _ hx (noted_note E B x (E.pjAddr k.toNat) 32) _)) k1
    exact ⟨t, _, tagged_close ⟨h1, h2, h3, h4, h5, h6.of_eq (Nat.one_mul _)⟩ (issued_of_stem hx (padjCmd_stem E B ..) rfl) htag rfl rfl rfl rfl k2 k3 k4 k5 k6⟩
  · obtain ⟨t, h1, h2, h3, h4, h5, h6⟩ := tagged_issues (E.recvCmd B .chrecv ch.toNat d.toNat n.toNat 0)
      (n := n.toNat) h rfl cl rfl (List.mem_singleton_self _) (.refl ..) (.refl ..)
      (entered_ctx _ _ _ _ _ hx (.refl ..)) rfl
    exact ⟨t, _, tagged_close ⟨h1, h2, h3, h4, h5, h6.of_eq (Nat.one_mul _)⟩ (issued_of_stem hx (recvCmd_stem E B ..) rfl) htag rfl rfl rfl rfl rfl rfl rfl rfl rfl⟩
  · obtain ⟨t, h1, h2, h3, h4, h5, h6⟩ := tagged_issues (E.recvCmd B .chred ch.toNat d.toNat n.toNat o.toNat)
      (n := n.toNat) h rfl cl rfl (List.mem_singleton_self _) (.refl ..) (.refl ..)
      (entered_ctx _ _ _ _ _ hx (.refl ..)) rfl
    exact ⟨t, _, tagged_close ⟨h1, h2, h3, h4, h5, h6.of_eq (Nat.one_mul _)⟩ (issued_of_stem hx (recvCmd_stem E B ..) rfl) htag rfl rfl rfl ⟨rfl, rfl⟩ rfl rfl rfl rfl rfl⟩
  · obtain ⟨t, h1, h2, h3, h4, h5, h6⟩ := tagged_issues (E.collCmd B a.toNat d.toNat n.toNat)
      (n := n.toNat) h rfl cl rfl (List.mem_singleton_self _) (noted_note E B x A.toNat 64) (.refl ..)
      (entered_ctx _ _ _ _ _ hx (noted_note E B x A.toNat 64)) rfl
    exact ⟨t, _, tagged_close ⟨h1, h2, h3, h4, h5, h6.of_eq (Nat.one_mul _)⟩ (issued_of_stem hx (collCmd_stem E B ..) rfl) htag rfl rfl rfl ⟨rfl, rfl, rfl⟩ rfl rfl rfl rfl rfl⟩
  · obtain ⟨t, h1, h2, h3, h4, h5, h6⟩ := tagged_issues (E.rdldCmd B d.toNat n.toNat)
      (n := n.toNat) h rfl cl rfl (List.mem_singleton_self _) (noted_note E B x A.toNat (setBytes (E.setHead B) 16)) (.refl ..)
      (entered_ctx _ _ _ _ _ hx (noted_note E B x A.toNat (setBytes (E.setHead B) 16))) rfl
    exact ⟨t, _, tagged_close ⟨h1, h2, h3, h4, h5, h6.of_eq (Nat.one_mul _)⟩ (issued_of_stem hx (rdldCmd_stem E B ..) rfl) htag rfl rfl rfl rfl rfl rfl rfl rfl rfl⟩

end Sys2Proof.Machine

namespace Sys2Proof.Machine

open Sys2Proof.Claim

/-! ### Commands that take an accumulator (R71, R125) -/

theorem vget_zero (i : Nat) : vget (Vector.replicate 4 Acc.zero) i Acc.zero = Acc.zero := by
  unfold vget
  by_cases h : i < 4
  · rw [Vector.getElem?_eq_getElem h, Vector.getElem_replicate]; rfl
  · rw [Vector.getElem?_eq_none (by omega)]; rfl

/-- A matrix command that finds room finds the accumulators its team's, or no one's (R71). -/
theorem owner_of_room {k : Core} {v : Ctx} {b : Nat} {m : Sem} (h : blocksBefore k v b [(0, m)] = false) (hq : m.queue = some 1) :
    k.accOwner = none ∨ k.accOwner = some b := by
  simp only [blocksBefore, List.all_cons, List.all_nil, Bool.and_true, hq, Bool.not_eq_eq_eq_not, Bool.not_false, Bool.and_eq_true, Core.queueRoom] at h
  have := h.1.1.1.1.1.1.1.2
  cases ho : k.accOwner with
  | none => exact .inl rfl
  | some o => rw [ho] at this; exact .inr (by simpa using this)

/-- What a matrix command of the team at base `b` that names accumulator `j` leaves of the accumulators it found in `k`. -/
structure Taken (k k' : Core) (b j id : Nat) : Prop where
  owner : k'.accOwner = some b
  busy : (vget k'.accs j Acc.zero).busy = some id
  cells : k.accOwner = none → ∀ i, i < 4 → (vget k'.accs i Acc.zero).cells = []

theorem taken_of_enter {k : Core} {b j : Nat} {m : Cmd} (hq : m.kind.queue = some 1) (ha : m.acc = some j) (hj : j < 4)
    (ho : k.accOwner = none ∨ k.accOwner = some b) : Taken k (k.enter b m) b j m.id := by
  unfold Core.enter
  simp only [hq, ha, true_and]
  rcases ho with ho | ho
  · simp only [ho, if_true]
    refine ⟨rfl, by simp only [vget_vset_self _ _ _ _ hj], fun _ i _ => ?_⟩
    by_cases h : i = j
    · subst h; simp only [vget_vset_self _ _ _ _ hj, vget_zero]; rfl
    · simp only [vget_vset_other _ _ _ _ _ h, vget_zero]; rfl
  · simp only [ho, reduceCtorEq, if_false]
    exact ⟨rfl, by simp only [vget_vset_self _ _ _ _ hj], fun h => absurd (ho.symm.trans h) (by simp)⟩

theorem Taken.of_kept {k k' k'' l : Core} {b j id : Nat} (h : Taken k k' b j id) (g : KeptCore k' k'') (hl : l.accOwner = k.accOwner) : Taken l k'' b j id where
  owner := g.accOwner.trans h.owner
  busy := by rw [g.accs]; exact h.busy
  cells := fun ho i hi => by rw [g.accs]; exact h.cells (hl.symm.trans ho) i hi

/-- An accumulator's kind, set (R328), leaves the commands and who holds it. -/
theorem setAccKind_core (s : State) (c a : Nat) (n : Bool) :
    (s.setAccKind c a n).core c = { s.core c with accs := vset (s.core c).accs a { vget (s.core c).accs a Acc.zero with isInt := n } } :=
  State.core_modCore_self ..

theorem setAccKind_ctx (s : State) (c a y : Nat) (n : Bool) : (s.setAccKind c a n).ctx c y = s.ctx c y := by
  rw [State.ctx, setAccKind_core]; rfl

theorem Taken.setAccKind {s : State} {k : Core} {c b j id a : Nat} (n : Bool) (ha : a < 4) (h : Taken k (s.core c) b j id) :
    Taken k ((s.setAccKind c a n).core c) b j id := by
  rw [setAccKind_core]
  refine ⟨h.owner, ?_, fun ho i hi => ?_⟩
  · by_cases e : j = a
    · subst e; simp only [vget_vset_self _ _ _ _ ha]; exact h.busy
    · simp only [vget_vset_other _ _ _ _ _ e]; exact h.busy
  · by_cases e : i = a
    · subst e; simp only [vget_vset_self _ _ _ _ ha]; exact h.cells ho i hi
    · simp only [vget_vset_other _ _ _ _ _ e]; exact h.cells ho i hi

/-- What the issue of command `cmd` leaves of the core `k`. -/
structure Entered (k k' : Core) (b : Nat) (cmd : Cmd) : Prop where
  cmds : k'.cmds = k.cmds ++ [cmd]
  cmdSeq : k'.cmdSeq = k.cmdSeq + 1
  teams : k'.teams = k.teams
  taken : ∀ j, cmd.kind.queue = some 1 → cmd.acc = some j → j < 4 → k.accOwner = none ∨ k.accOwner = some b → Taken k k' b j cmd.id

theorem entered_of_enter (k : Core) (b : Nat) (cmd : Cmd) : Entered k (k.enter b cmd) b cmd where
  cmds := enter_cmds ..
  cmdSeq := enter_cmdSeq ..
  teams := enter_teams ..
  taken := fun _ hq ha hj ho => taken_of_enter hq ha hj ho

theorem Entered.of_kept {k l k' k'' : Core} {b : Nat} {cmd : Cmd} (h : Entered l k' b cmd) (hk : KeptCore k l) (g : KeptCore k' k'') : Entered k k'' b cmd where
  cmds := by rw [g.cmds, h.cmds, hk.cmds]
  cmdSeq := by rw [g.cmdSeq, h.cmdSeq, hk.cmdSeq]
  teams := g.teams.trans (h.teams.trans hk.teams)
  taken := fun j hq ha hj ho => (h.taken j hq ha hj (by rwa [hk.accOwner])).of_kept g hk.accOwner.symm

theorem Entered.setAccKind {s : State} {k : Core} {c b a : Nat} {cmd : Cmd} (n : Bool) (ha : a < 4) (h : Entered k (s.core c) b cmd) :
    Entered k ((s.setAccKind c a n).core c) b cmd where
  cmds := by rw [setAccKind_core]; exact h.cmds
  cmdSeq := by rw [setAccKind_core]; exact h.cmdSeq
  teams := by rw [setAccKind_core]; exact h.teams
  taken := fun j hq hc hj ho => (h.taken j hq hc hj ho).setAccKind n ha

/-- The core once a command without a tag is in its queue. -/
theorem entered_enqueue {s : State} {c x pa : Nat} {pk : List Nat} {m : Sem} {N : State} (cmd : Cmd) (hN : Noted (base s c x pa m.srcs) N c x) :
    SameOutside s ((env s c x pa pk m).enqueue N cmd) ∧ Entered (s.core c) (((env s c x pa pk m).enqueue N cmd).core c) (teamBase s c x) cmd := by
  have hb := (base_core s c x pa m.srcs).1.trans hN.only.core
  have hl := (noted_layouts (env s c x pa pk m) x [cmd.dst, cmd.src, cmd.src2, cmd.src3] N).only
  rw [enqueue_eq, env_base]
  refine ⟨(((SameOutside.base ..).trans hN.only.outside).trans hl.outside).trans (.modCore ..), ?_⟩
  rw [show (env s c x pa pk m).c = c from rfl, State.core_modCore_self]
  exact (entered_of_enter ..).of_kept (hb.trans hl.core) (.refl _)

theorem enqueued_ctx {s : State} {c x pa : Nat} {pk : List Nat} {m : Sem} {N : State} (cmd : Cmd) (hx : x < 4) (hN : Noted (base s c x pa m.srcs) N c x) :
    ((env s c x pa pk m).enqueue N cmd).ctx c x = popped s c x pa m.srcs :=
  (enqueue_ctx ..).trans (hN.ctx.trans (base_ctx _ _ _ _ _ hx))

/-- A syllable that leaves `U`, in which its command has entered, but for its context, which is left as `w`. -/
theorem untagged_issues {s : State} {c x pa : Nat} {pk : List Nat} {i : Instr} (cmd : Cmd) {U : State} {w : Ctx}
    (h : Ready s c x pa pk) (he : (encode i).isSome = true) (cl : Clear s c x pa pk (semOf i))
    (hf : (semOf i).flow (env s c x pa pk (semOf i)) (base s c x pa (semOf i).srcs) = .next)
    (ho : SameOutside s U) (hU : Entered (s.core c) (U.core c) (teamBase s c x) cmd)
    (ha : OnlyCtx U ((semOf i).act (env s c x pa pk (semOf i)) (base s c x pa (semOf i).srcs)) c x)
    (hw : ((semOf i).act (env s c x pa pk (semOf i)) (base s c x pa (semOf i).srcs)).ctx c x = w)
    (hops : w.ops = (popped s c x pa (semOf i).srcs).ops) :
    ∃ t, exec i s = .next t ∧ SameOutside s t ∧ t.ctx c x = onward s c x pk i w ∧ Entered (s.core c) (t.core c) (teamBase s c x) cmd := by
  obtain ⟨h1, h2⟩ := done_ctx (pick_lt h.turn) hf hw (innerReady_none_of_ops (popped_innerReady _ h) hops)
  exact ⟨_, by rw [exec_issue i s he]; exact issueOne_done h cl, ho.trans (ha.trans h1).outside, h2, hU.of_kept (.refl _) (ha.trans h1).core⟩

/-- What the statement says of a command without a tag, with what is its own given. -/
theorem untagged_close {s t : State} {c x pa : Nat} {pk : List Nat} {i : Instr} {cmd : Cmd} {w : Ctx} {kind : CmdKind} {acc : Option (BitVec 2)}
    {src src2 src3 : Option Geo} {own : Prop} {n : Nat} {m : Sem}
    (h : exec i s = .next t ∧ SameOutside s t ∧ t.ctx c x = onward s c x pk i w ∧ Entered (s.core c) (t.core c) (teamBase s c x) cmd)
    (j : Issued s c x pa kind cmd) (hg : cmd.tag = none) (hd : cmd.dst = none) (hs : cmd.src = src) (h2 : cmd.src2 = src2) (h3 : cmd.src3 = src3) (ho : own)
    (hq : ∀ j, acc = some j → cmd.acc = some j.toNat ∧ kind.queue = some 1 ∧ ((s.core c).accOwner = none ∨ (s.core c).accOwner = some (teamBase s c x)))
    (hl : w.lqs.length = (popped s c x pa m.srcs).lqs.length + n) (hws : w.s = (view s c x pa).s) (hv : w.v = (view s c x pa).v) :
    exec i s = .next t ∧ SameOutside s t ∧ (t.core c).cmds = (s.core c).cmds ++ [cmd] ∧
      cmd.id = (s.core c).cmdSeq ∧ (t.core c).cmdSeq = (s.core c).cmdSeq + 1 ∧ cmd.kind = kind ∧ cmd.st = .queued ∧ cmd.ctx = x ∧
      cmd.team = teamBase s c x ∧ cmd.bundle = (s.ctx c x).pc ∧ cmd.pos = posOf s c x ∧ cmd.mark = (view s c x pa).seq ∧ cmd.tag = none ∧
      (t.core c).teams = (s.core c).teams ∧ cmd.dst = none ∧ cmd.src = src ∧ cmd.src2 = src2 ∧ cmd.src3 = src3 ∧ own ∧
      (∀ j, acc = some j → (cmd.acc = some j.toNat ∧ (t.core c).accOwner = some (teamBase s c x) ∧
        (vget (t.core c).accs j.toNat Acc.zero).busy = some cmd.id ∧
        ((s.core c).accOwner = none → ∀ i, i < 4 → (vget (t.core c).accs i Acc.zero).cells = []))) ∧
      (t.ctx c x).lqs.length = (popped s c x pa m.srcs).lqs.length + n ∧
      (t.ctx c x).s = (view s c x pa).s ∧ (t.ctx c x).v = (view s c x pa).v := by
  obtain ⟨e1, e2, e3, e4⟩ := h
  refine ⟨e1, e2, e4.cmds, j.id, e4.cmdSeq, j.kind, j.st, j.ctx, j.team, j.bundle, j.pos, j.mark, hg, e4.teams, hd, hs, h2, h3, ho, fun q e => ?_,
    (congrArg (fun v : Ctx => v.lqs.length) e3).trans hl, (congrArg Ctx.s e3).trans hws, (congrArg Ctx.v e3).trans hv⟩
  obtain ⟨q1, q2, q3⟩ := hq q e
  have := e4.taken _ (j.kind ▸ q2) q1 q.isLt q3
  exact ⟨q1, this.owner, this.busy, this.cells⟩

/-- The context has room for its command among the accumulators. -/
theorem owner_of_clear {s : State} {c x pa : Nat} {pk : List Nat} {m : Sem} (cl : Clear s c x pa pk m) (hq : m.queue = some 1) :
    (s.core c).accOwner = none ∨ (s.core c).accOwner = some (teamBase s c x) := owner_of_room cl.room hq

/-- The command of an `mzero` (R336), a product (R329), a `jcard` (R346), a `chsend` (R369), a `mcst` (R371), and what each names. -/
def Env.zeroCmd (e : Env) (t : State) (k : Nat) : Cmd := { e.newCmd t .mzero with acc := some k }
def Env.prodCmd (e : Env) (t : State) (kind : CmdKind) (k a b : Nat) (md : Option (BitVec 4)) (z : Nat) : Cmd :=
  { e.newCmd t kind with src := some (e.geo t a), src2 := some (e.geo t b), src3 := md.map (fun m => e.geo t m.toNat), flags := z, acc := some k }
def Env.cardCmd (e : Env) (t : State) (k : Nat) : Cmd :=
  { e.newCmd t .jcard with acc := some k, desc := e.recordBytes t (e.s 0).toNat 64, list := (e.s 0).toNat }
def Env.sendCmd (e : Env) (t : State) (ch a : Nat) : Cmd := { e.newCmd t .chsend with src := some (e.geo t a), chan := ch }
def Env.castCmd (e : Env) (t : State) (a : Nat) : Cmd :=
  { e.newCmd t .mcst with src := some (e.geo t a), desc := e.recordBytes t (e.s 0).toNat (setBytes (e.setHead t) 8) }

theorem zeroCmd_stem (e : Env) (t : State) (k : Nat) : (e.zeroCmd t k).stem = e.newCmd t .mzero := rfl
theorem prodCmd_stem (e : Env) (t : State) (kind : CmdKind) (k a b : Nat) (md : Option (BitVec 4)) (z : Nat) :
    (e.prodCmd t kind k a b md z).stem = e.newCmd t kind := rfl
theorem cardCmd_stem (e : Env) (t : State) (k : Nat) : (e.cardCmd t k).stem = e.newCmd t .jcard := rfl
theorem sendCmd_stem (e : Env) (t : State) (ch a : Nat) : (e.sendCmd t ch a).stem = e.newCmd t .chsend := rfl
theorem castCmd_stem (e : Env) (t : State) (a : Nat) : (e.castCmd t a).stem = e.newCmd t .mcst := rfl
theorem histCmd_stem (e : Env) (t : State) (a : Nat) : (e.histCmd t a).stem = e.newCmd t .hist := rfl

/-- Settles O36, command by command. -/
theorem untaggedCommandsIssue : Obligations.UntaggedCommandsIssue := by
  unfold Obligations.UntaggedCommandsIssue
  intro s c x pa pk k a b md z r r' ch h T q hq m B E G A cl
  have hx := pick_lt h.turn
  have hB : Noted (base s c x pa m.srcs) B c x := .refl ..
  simp only [List.mem_cons, List.not_mem_nil, or_false] at hq
  rcases hq with rfl | rfl | rfl | rfl | rfl | rfl | rfl
  · obtain ⟨u1, u2⟩ := entered_enqueue (pk := pk) (E.zeroCmd B k.toNat) hB
    obtain ⟨t, ht⟩ := untagged_issues (E.zeroCmd B k.toNat) (U := (E.enqueue B (E.zeroCmd B k.toNat)).setAccKind c k.toNat false) h rfl cl rfl
      (u1.trans (.modCore ..)) (u2.setAccKind _ k.isLt) (.refl ..) ((setAccKind_ctx ..).trans (enqueued_ctx _ hx hB)) rfl
    exact ⟨t, _, untagged_close ht (issued_of_stem hx (zeroCmd_stem E B ..) rfl) rfl rfl rfl rfl rfl trivial
      (fun j e => ⟨by rw [← Option.some.inj e]; rfl, rfl, owner_of_clear cl rfl⟩) rfl rfl rfl⟩
  · obtain ⟨u1, u2⟩ := entered_enqueue (pk := pk) (E.prodCmd B .mma k.toNat a.toNat b.toNat none z.toNat) hB
    obtain ⟨t, ht⟩ := untagged_issues (E.prodCmd B .mma k.toNat a.toNat b.toNat none z.toNat)
      (U := (E.enqueue B (E.prodCmd B .mma k.toNat a.toNat b.toNat none z.toNat)).setAccKind c k.toNat (matClass (G a).fmt == 3)) h rfl cl rfl
      (u1.trans (.modCore ..)) (u2.setAccKind _ k.isLt) (.refl ..) ((setAccKind_ctx ..).trans (enqueued_ctx _ hx hB)) rfl
    exact ⟨t, _, untagged_close ht (issued_of_stem hx (prodCmd_stem E B ..) rfl) rfl rfl rfl rfl rfl rfl
      (fun j e => ⟨by rw [← Option.some.inj e]; rfl, rfl, owner_of_clear cl rfl⟩) rfl rfl rfl⟩
  · obtain ⟨u1, u2⟩ := entered_enqueue (pk := pk) (E.prodCmd B .mmasp k.toNat a.toNat b.toNat (some md) z.toNat) hB
    obtain ⟨t, ht⟩ := untagged_issues (E.prodCmd B .mmasp k.toNat a.toNat b.toNat (some md) z.toNat)
      (U := (E.enqueue B (E.prodCmd B .mmasp k.toNat a.toNat b.toNat (some md) z.toNat)).setAccKind c k.toNat (matClass (G a).fmt == 3)) h rfl cl rfl
      (u1.trans (.modCore ..)) (u2.setAccKind _ k.isLt) (.refl ..) ((setAccKind_ctx ..).trans (enqueued_ctx _ hx hB)) rfl
    exact ⟨t, _, untagged_close ht (issued_of_stem hx (prodCmd_stem E B ..) rfl) rfl rfl rfl rfl rfl rfl
      (fun j e => ⟨by rw [← Option.some.inj e]; rfl, rfl, owner_of_clear cl rfl⟩) rfl rfl rfl⟩
  · have hN : Noted (base s c x pa m.srcs) (E.note B A.toNat 64) c x := noted_note E B x _ _
    obtain ⟨u1, u2⟩ := entered_enqueue (pk := pk) (E.cardCmd B k.toNat) hN
    have act : m.act E B = ((E.enqueue (E.note B A.toNat 64) (E.cardCmd B k.toNat)).setAccKind c k.toNat false).modCtx c x
      (fun v => { v with seqlen := BitVec.ofNat 64 (cardSeq (leNat (E.cardCmd B k.toNat).desc)) }) := rfl
    let w : Ctx := { popped s c x pa m.srcs with seqlen := BitVec.ofNat 64 (cardSeq (leNat (E.cardCmd B k.toNat).desc)) }
    obtain ⟨t, ht⟩ := untagged_issues (E.cardCmd B k.toNat) (w := w) (U := (E.enqueue (E.note B A.toNat 64) (E.cardCmd B k.toNat)).setAccKind c k.toNat false) h rfl cl rfl
      (u1.trans (.modCore ..)) (u2.setAccKind _ k.isLt) (onlyCtx_of_modCtx act)
      ((congrArg (State.ctx · c x) act).trans (by rw [State.ctx_modCtx_self _ _ _ _ hx, setAccKind_ctx, enqueued_ctx _ hx hN])) rfl
    exact ⟨t, _, untagged_close ht (issued_of_stem hx (cardCmd_stem E B ..) rfl) rfl rfl rfl rfl rfl ⟨rfl, rfl, congrArg Ctx.seqlen ht.2.2.1⟩
      (fun j e => ⟨by rw [← Option.some.inj e]; rfl, rfl, owner_of_clear cl rfl⟩) rfl rfl rfl⟩
  · obtain ⟨u1, u2⟩ := entered_enqueue (pk := pk) (E.histCmd B a.toNat) hB
    have act : m.act E B = (E.enqueue B (E.histCmd B a.toNat)).modCtx c x (fun v => v.reserveLqs) := rfl
    obtain ⟨t, ht⟩ := untagged_issues (E.histCmd B a.toNat) (w := (popped s c x pa m.srcs).reserveLqs) h rfl cl rfl u1 u2 (onlyCtx_of_modCtx act)
      ((congrArg (State.ctx · c x) act).trans (by rw [State.ctx_modCtx_self _ _ _ _ hx, enqueued_ctx _ hx hB])) rfl
    exact ⟨t, _, untagged_close ht (issued_of_stem hx (histCmd_stem E B ..) rfl) rfl rfl rfl rfl rfl ⟨rfl, rfl⟩ (fun j e => nomatch e)
      (List.length_append ..) rfl rfl⟩
  · obtain ⟨u1, u2⟩ := entered_enqueue (pk := pk) (E.sendCmd B ch.toNat a.toNat) hB
    obtain ⟨t, ht⟩ := untagged_issues (E.sendCmd B ch.toNat a.toNat) h rfl cl rfl u1 u2 (.refl ..) (enqueued_ctx _ hx hB) rfl
    exact ⟨t, _, untagged_close ht (issued_of_stem hx (sendCmd_stem E B ..) rfl) rfl rfl rfl rfl rfl rfl (fun j e => nomatch e) rfl rfl rfl⟩
  · have hN : Noted (base s c x pa m.srcs) (E.note B A.toNat (setBytes (E.setHead B) 8)) c x := noted_note E B x _ _
    obtain ⟨u1, u2⟩ := entered_enqueue (pk := pk) (E.castCmd B a.toNat) hN
    obtain ⟨t, ht⟩ := untagged_issues (E.castCmd B a.toNat) h rfl cl rfl u1 u2 (.refl ..) (enqueued_ctx _ hx hN) rfl
    exact ⟨t, _, untagged_close ht (issued_of_stem hx (castCmd_stem E B ..) rfl) rfl rfl rfl rfl rfl rfl (fun j e => nomatch e) rfl rfl rfl⟩

end Sys2Proof.Machine

namespace Sys2Proof.Machine

open Sys2Proof.Claim

/-! ### What leaves every context as it is (R72, R77, R154) -/

/-- `t` is `s` but for what the parties of core `c` hold of memory: every context, every other core and the launches stay. -/
structure KeepsCtxs (s t : State) (c : Nat) : Prop where
  ctx : ∀ y, t.ctx c y = s.ctx c y
  cores : ∀ j, j ≠ c → t.core j = s.core j
  launches : t.launches = s.launches

theorem KeepsCtxs.refl (s : State) (c : Nat) : KeepsCtxs s s c := ⟨fun _ => rfl, fun _ _ => rfl, rfl⟩

theorem KeepsCtxs.trans {s t u : State} {c : Nat} (h : KeepsCtxs s t c) (g : KeepsCtxs t u c) : KeepsCtxs s u c :=
  ⟨fun y => (g.ctx y).trans (h.ctx y), fun j hj => (g.cores j hj).trans (h.cores j hj), g.launches.trans h.launches⟩

theorem KeepsCtxs.of_cores {s t : State} (c : Nat) (h : t.cores = s.cores) (hl : t.launches = s.launches) : KeepsCtxs s t c :=
  ⟨fun y => congrArg (Core.ctx · y) (core_of_cores h c), fun j _ => core_of_cores h j, hl⟩

theorem KeepsCtxs.modCore (s : State) (c : Nat) {f : Core → Core} (h : ∀ y, (f (s.core c)).ctx y = (s.core c).ctx y) : KeepsCtxs s (s.modCore c f) c :=
  ⟨fun y => by rw [State.ctx, State.core_modCore_self]; exact h y, fun j hj => State.core_modCore_other _ _ _ _ hj, rfl⟩

theorem KeepsCtxs.foldl {α : Type} {c : Nat} {f : State → α → State} (h : ∀ s a, KeepsCtxs s (f s a) c) (l : List α) (s : State) :
    KeepsCtxs s (l.foldl f s) c := by
  induction l generalizing s with
  | nil => exact .refl s c
  | cons a l ih => exact (h s a).trans (ih _)

theorem dieRoom_cases (s : State) (d pa : Nat) : s.dieRoom d pa = s ∨ ∃ p, s.dieRoom d pa = s.dieEvict d p := by
  unfold State.dieRoom
  dsimp only
  split
  · exact .inl rfl
  · split
    · exact .inl rfl
    · split
      · exact .inr ⟨_, rfl⟩
      · exact .inl rfl

theorem keepsCtxs_dieFill (s : State) (c d pa : Nat) : KeepsCtxs s (s.dieFill d pa) c := by
  unfold State.dieFill
  split
  · exact .refl ..
  · obtain h | ⟨p, h⟩ := dieRoom_cases s d pa
    · rw [h]; exact .of_cores _ rfl rfl
    · rw [h]; exact .of_cores _ rfl rfl

theorem l1Room_ctx (k : Core) (free pa y : Nat) : (k.l1Room free pa).ctx y = k.ctx y := by
  unfold Core.l1Room
  dsimp only
  split
  · rfl
  · split
    · rfl
    · split <;> rfl

theorem keepsCtxs_l1Fill (s : State) (c pa : Nat) : KeepsCtxs s (s.l1Fill c pa) c := by
  unfold State.l1Fill
  split
  · exact .refl ..
  · exact (keepsCtxs_dieFill s c _ pa).trans (.modCore _ _ fun y => l1Room_ctx ..)

theorem keepsCtxs_dieEvict (s : State) (c d : Nat) (p : Nat → Bool) : KeepsCtxs s (s.dieEvict d p) c := .of_cores _ rfl rfl

theorem keepsCtxs_fillLines (s : State) (c : Nat) (ls : List Nat) : KeepsCtxs s (s.fillLines c ls) c :=
  .foldl (fun s _ => .foldl (fun s _ => keepsCtxs_l1Fill s c _) _ s) ls s

theorem keepsCtxs_refresh (s : State) (c : Nat) (pas : List Nat) (lvl : Nat) (acq : Bool) : KeepsCtxs s (s.refresh c pas lvl acq) c := by
  have h1 : ∀ s : State, KeepsCtxs s (if 2 ≤ lvl then s.dieEvict (dieOf c) (fun l => pas.any (fun a => lineOf a == l)) else s) c := fun s => by
    split
    · exact keepsCtxs_dieEvict ..
    · exact .refl ..
  have h2 : ∀ (s : State) (p : Nat → Bool), KeepsCtxs s (if 1 ≤ lvl then s.modCore c (fun k => k.l1Drop p) else s) c := fun s p => by
    split
    · exact .modCore _ _ fun _ => rfl
    · exact .refl ..
  exact ((h1 s).trans (h2 _ _)).trans (.foldl (fun s _ => keepsCtxs_l1Fill s c _) pas _)

theorem keepsCtxs_acquire (s : State) (c scope : Nat) : KeepsCtxs s (s.acquire c scope) c :=
  ((keepsCtxs_dieEvict ..).trans (.modCore _ _ fun _ => rfl)).trans (keepsCtxs_fillLines ..)

theorem keepsCtxs_readFor (s : State) (c : Nat) (o : MemOp) (lvl : Nat) : KeepsCtxs s (s.readFor c o lvl) c := by
  unfold State.readFor
  dsimp only
  split
  · exact (keepsCtxs_acquire ..).trans (keepsCtxs_refresh ..)
  · exact keepsCtxs_refresh ..

theorem keepsCtxs_publish (s : State) (c scope : Nat) : KeepsCtxs s (s.publish c scope) c :=
  ⟨publish_ctx s c scope, publish_core_other s c scope, by unfold State.publish; split <;> rfl⟩

/-! ### What the core performs itself (R137) -/

theorem keepsCtxs_fence (s : State) (c : Nat) (o : MemOp) (x : Nat) (h : o.kind = .fence) : KeepsCtxs s (s.performInner c x o) c := by
  have h1 : ∀ (p : Prop) [Decidable p] (s : State), KeepsCtxs s (if p then s.publish c o.scope else s) c := fun p _ s => by
    split
    · exact keepsCtxs_publish ..
    · exact .refl ..
  have h2 : ∀ (p : Prop) [Decidable p] (s : State), KeepsCtxs s (if p then s.acquire c o.scope else s) c := fun p _ s => by
    split
    · exact keepsCtxs_acquire ..
    · exact .refl ..
  simp only [State.performInner, h]
  exact (h1 _ s).trans (h2 _ _)

theorem keepsCtxs_performInner (s : State) (c x : Nat) (o : MemOp) : KeepsCtxs s (s.performInner c x o) c := by
  cases h : o.kind with
  | fence => exact keepsCtxs_fence s c o x h
  | lst es =>
    simp only [State.performInner, h]
    refine .modCore _ _ fun y => ?_
    split <;> rfl
  | pub t gen n =>
    simp only [State.performInner, h]
    refine .modCore _ _ fun y => ?_
    unfold Core.modTag
    split <;> rfl
  | arrive key => simp only [State.performInner, h]; exact .modCore _ _ fun y => arriveAt_ctx ..
  | _ => simp only [State.performInner, h]; exact .refl ..

/-- `t` is `s` with fewer outstanding accesses of context `x` of core `c`, and those performed in the core. -/
structure Settles (s t : State) (c x : Nat) : Prop where
  ctx : ∃ l, t.ctx c x = { s.ctx c x with ops := l }
  others : ∀ y, y ≠ x → t.ctx c y = s.ctx c y
  cores : ∀ j, j ≠ c → t.core j = s.core j
  launches : t.launches = s.launches

theorem settleN_settles (n : Nat) (s : State) (c x : Nat) (hx : x < 4) : Settles s (settleN n s c x) c x := by
  induction n generalizing s with
  | zero => exact ⟨⟨_, rfl⟩, fun _ _ => rfl, fun _ _ => rfl, rfl⟩
  | succ n ih =>
    unfold settleN
    split
    · next o h =>
      have hd := keepsCtxs_performInner (s.modCtx c x (fun v => v.dropOp o.id)) c x o
      obtain ⟨⟨l, h1⟩, h2, h3, h4⟩ := ih ((s.modCtx c x (fun v => v.dropOp o.id)).performInner c x o)
      refine ⟨⟨l, ?_⟩, fun y hy => ?_, fun j hj => ?_, h4.trans hd.launches⟩
      · rw [h1, hd.ctx, State.ctx_modCtx_self _ _ _ _ hx]; rfl
      · rw [h2 y hy, hd.ctx, State.ctx_modCtx_other _ _ _ _ _ hy]
      · rw [h3 j hj, hd.cores j hj, State.core_modCtx_other _ _ _ _ _ hj]
    · exact ⟨⟨_, rfl⟩, fun _ _ => rfl, fun _ _ => rfl, rfl⟩

/-- Two changes of one context are one. -/
theorem modCtx_modCtx (s : State) (c x : Nat) (f g : Ctx → Ctx) (hx : x < 4) : (s.modCtx c x f).modCtx c x g = s.putCtx c x (g (f (s.ctx c x))) := by
  have h : (s.modCtx c x f).modCtx c x g = (s.putCtx c x (f (s.ctx c x))).putCtx c x (g (f (s.ctx c x))) := by
    rw [State.modCtx, State.ctx_modCtx_self _ _ _ _ hx]; rfl
  rw [h]
  simp only [State.putCtx, State.putCore, State.core, tget_tput_self, Option.getD_some, tput_tput, Core.putCtx, vset, Vector.setIfInBounds_setIfInBounds]

/-- An access of context `x` is performed in a state that `u` has brought its core's caches to, and `f` is what its entries take. -/
theorem opDone_settles {s u : State} {c x : Nat} (f : Ctx → Ctx) (id : Nat) (hx : x < 4) (h : KeepsCtxs s u c) :
    let w := (f (s.ctx c x)).dropOp id
    let t := (u.modCtx c x f).opDone c x id
    (∃ l, t.ctx c x = { w with ops := l } ∧ (w.innerReady = none → l = w.ops)) ∧ (∀ y, y ≠ x → t.ctx c y = s.ctx c y) ∧
    (∀ j, j ≠ c → t.core j = s.core j) ∧ t.launches = s.launches := by
  intro w t
  have hw : ((u.modCtx c x f).modCtx c x (fun v => v.dropOp id)).ctx c x = w := by
    rw [State.ctx_modCtx_self _ _ _ _ hx, State.ctx_modCtx_self _ _ _ _ hx, h.ctx]
  obtain ⟨⟨l, h1⟩, h2, h3, h4⟩ := settleN_settles (((u.modCtx c x f).modCtx c x (fun v => v.dropOp id)).ctx c x).ops.length
    ((u.modCtx c x f).modCtx c x (fun v => v.dropOp id)) c x hx
  refine ⟨⟨l, by rw [← hw]; exact h1, fun hi => ?_⟩, fun y hy => ?_, fun j hj => ?_, h4.trans h.launches⟩
  · have := settleN_of_none (((u.modCtx c x f).modCtx c x (fun v => v.dropOp id)).ctx c x).ops.length (hw ▸ hi)
    rw [this, hw] at h1
    exact (congrArg Ctx.ops h1 :).symm
  · exact (h2 y hy).trans (by rw [State.ctx_modCtx_other _ _ _ _ _ hy, State.ctx_modCtx_other _ _ _ _ _ hy, h.ctx])
  · exact (h3 j hj).trans (by rw [State.core_modCtx_other _ _ _ _ _ hj, State.core_modCtx_other _ _ _ _ _ hj, h.cores j hj])

/-- Where nothing inside the core waited for it alone, the access and its entry are all that changes. -/
theorem opDone_eq (s : State) (c x : Nat) (f : Ctx → Ctx) (id : Nat) (hx : x < 4) (h : ((f (s.ctx c x)).dropOp id).innerReady = none) :
    (s.modCtx c x f).opDone c x id = s.putCtx c x ((f (s.ctx c x)).dropOp id) := by
  rw [← modCtx_modCtx s c x f (fun v => v.dropOp id) hx]
  refine settleOps_of_none ?_
  rw [State.ctx_modCtx_self _ _ _ _ hx, State.ctx_modCtx_self _ _ _ _ hx, h]

/-! ### Loads and descriptor loads return (R15, R247) -/

theorem whole_of_none {s : State} {c x : Nat} {pas : List Nat} (h : s.halves c x pas = []) : s.whole c x pas = s := by
  rw [State.whole, h]; rfl

theorem op_of_opReady {v : Ctx} {k : Nat} {o : MemOp} (h : v.opReady k = some o) : v.ops[k]? = some o := by
  unfold Ctx.opReady at h
  split at h
  · next p hp =>
    split at h
    · rwa [← Option.some.inj h]
    · cases h
  · cases h

theorem coversAt_of_opReady {s : State} {c x k : Nat} {o : MemOp} (h : (s.ctx c x).opReady k = some o) : s.coversAt c x k = o.covers := by
  rw [State.coversAt, op_of_opReady h]

theorem happen_eq {s : State} (f : State → State) (h : s.powered = true) : happen f s = .next (f s).tick := by
  simp [happen, h]

/-- What a load's entry takes from its bytes `p`: those of `lq` as they stand, of `lqs` sign-extended. -/
def Ctx.takes (v : Ctx) (toLq : Bool) (entry : Nat) (sext : Option Nat) (p : V1024 × V1024) : Ctx :=
  if toLq then v.fillLq entry p.2 p.1
  else v.fillLqs entry ((sext.map (fun (n : Nat) => BitVec.ofInt 64 (sbits p.1.toNat 0 n))).getD (p.1.setWidth 64))

theorem takes_dropOp (v : Ctx) (toLq : Bool) (entry : Nat) (sext : Option Nat) (p : V1024 × V1024) (id : Nat) :
    (v.takes toLq entry sext p).dropOp id = (v.dropOp id).takes toLq entry sext p := by
  unfold Ctx.takes; split <;> rfl

theorem takes_ops (v : Ctx) (toLq : Bool) (entry : Nat) (sext : Option Nat) (p : V1024 × V1024) : (v.takes toLq entry sext p).ops = v.ops := by
  unfold Ctx.takes; split <;> rfl

section Loads
variable {s : State} {c x k lvl : Nat} {o : MemOp} {toLq : Bool} {entry : Nat} {sext : Option Nat}

theorem exec_load (hp : s.powered = true) (h : (s.ctx c x).opReady k = some o) (hh : s.halves c x o.covers = []) :
    exec (.loadDataReturn c x k lvl) s = .next (s.loadNow c x k lvl).tick := by
  have : s.loadReturn c x k lvl = s.loadNow c x k lvl := by
    rw [State.loadReturn, coversAt_of_opReady h, whole_of_none hh]
  exact (happen_eq (fun s => s.loadReturn c x k lvl) hp).trans (congrArg (fun u : State => Host.Outcome.next u.tick) this)

theorem loadNow_good (h : (s.ctx c x).opReady k = some o) (hk : o.kind = .load toLq entry sext) (hg : ∀ b ∈ o.unread, s.isLost b.1 = false) :
    s.loadNow c x k lvl = ((s.readFor c o.rest lvl).modCtx c x (fun v =>
      v.takes toLq entry sext (placeBytes (o.part ++ (s.readFor c o.rest lvl).returned c x k o.rest)))).opDone c x o.id := by
  have hn : o.unread.find? (fun b => s.isLost b.1) = none := List.find?_eq_none.mpr fun b hb => by simp [hg b hb]
  simp only [State.loadNow, h, hk, hn, Ctx.takes]
  cases sext <;> rfl

theorem loadNow_lost {b : Nat × Nat} (h : (s.ctx c x).opReady k = some o) (hk : o.kind = .load toLq entry sext)
    (hb : o.unread.find? (fun b => s.isLost b.1) = some b) :
    s.loadNow c x k lvl = (s.modCtx c x (fun v => v.loseEntry entry b.2 o.va b.1)).opDone c x o.id := by
  simp only [State.loadNow, h, hk, hb]

end Loads

theorem loads_return (s : State) (c x : Nat) (hp : s.powered = true) (hx : x < 4) (k lvl : Nat) (o : MemOp) (toLq : Bool) (entry : Nat) (sext : Option Nat)
    (h : (s.ctx c x).opReady k = some o) (hk : o.kind = .load toLq entry sext) (hh : s.halves c x o.covers = []) :
    let v := (s.ctx c x).dropOp o.id
    ((∀ b ∈ o.unread, s.isLost b.1 = false) →
      let p := placeBytes (o.part ++ (s.readFor c o.rest lvl).returned c x k o.rest)
      let w : W64 := (sext.map (fun (n : Nat) => BitVec.ofInt 64 (sbits p.1.toNat 0 n))).getD (p.1.setWidth 64)
      ∃ t l, exec (.loadDataReturn c x k lvl) s = .next t ∧
        t.ctx c x = { (if toLq then v.fillLq entry p.2 p.1 else v.fillLqs entry w) with ops := l } ∧ (v.innerReady = none → l = v.ops) ∧
        (∀ y, y ≠ x → t.ctx c y = s.ctx c y) ∧ (∀ c', c' ≠ c → t.core c' = s.core c') ∧ t.launches = s.launches) ∧
    (∀ b, o.unread.find? (fun b => s.isLost b.1) = some b →
      (∃ t l, exec (.loadDataReturn c x k lvl) s = .next t ∧ t.ctx c x = { v.loseEntry entry b.2 o.va b.1 with ops := l }) ∧
      (v.innerReady = none → exec (.loadDataReturn c x k lvl) s = .next (s.putCtx c x (v.loseEntry entry b.2 o.va b.1)).tick)) := by
  intro v
  rw [exec_load hp h hh]
  refine ⟨fun hg => ?_, fun b hb => ⟨?_, fun hi => ?_⟩⟩
  · intro p w
    obtain ⟨⟨l, h1, h2⟩, h3, h4, h5⟩ := opDone_settles (fun v => v.takes toLq entry sext p) o.id hx (keepsCtxs_readFor s c o.rest lvl)
    rw [takes_dropOp] at h1 h2
    refine ⟨_, l, rfl, ?_, fun hi => ?_, ?_, ?_, ?_⟩
    · rw [loadNow_good h hk hg]; exact h1
    · rw [h2 (innerReady_none_of_ops hi (takes_ops ..)), takes_ops]
    · rw [loadNow_good h hk hg]; exact h3
    · rw [loadNow_good h hk hg]; exact h4
    · rw [loadNow_good h hk hg]; exact h5
  · obtain ⟨⟨l, h1, -⟩, -⟩ := opDone_settles (fun v => v.loseEntry entry b.2 o.va b.1) o.id hx (KeepsCtxs.refl s c)
    exact ⟨_, l, rfl, by rw [loadNow_lost h hk hb]; exact h1⟩
  · rw [loadNow_lost h hk hb]
    exact congrArg (fun u : State => Host.Outcome.next u.tick) (opDone_eq s c x _ o.id hx (innerReady_none_of_ops (w := (v.loseEntry entry b.2 o.va b.1)) hi rfl))

/-- The oldest part of a descriptor that may be read, where it stands. -/
theorem sldReady_eq {v : Ctx} {a k : Nat} {o : MemOp} (h : v.opReady k = some o) (hk : o.kind = .sld a)
    (hm : ∀ j, j < k → ∀ p, v.opReady j = some p → p.kind ≠ .sld a) : v.sldReady a = some k := by
  have hlt : k < v.ops.length := (List.getElem?_eq_some_iff.mp (op_of_opReady h)).1
  unfold Ctx.sldReady
  rw [List.find?_range_eq_some]
  refine ⟨by simp [h, hk], List.mem_range.mpr hlt, fun j hj => ?_⟩
  cases hr : v.opReady j with
  | none => rfl
  | some p => simpa using hm j hj p hr

/-- What a part of stream `a`'s descriptor, its bytes `p`, leaves of its context: the reserved bits are 0. -/
def Ctx.takesPart (v : Ctx) (a id : Nat) (p : V1024 × V1024) : Ctx :=
  { v with
    a := vset v.a a ((merge p.2 ((vget v.a a 0).setWidth 1024) p.1).setWidth 512 &&& BitVec.ofNat 512 descMask)
    lostRegs := if v.ops.any (fun q => q.kind == .sld a && q.id != id) then v.lostRegs else v.mended (400 + a) }

theorem sldNow_good {s : State} {c x a k : Nat} {o : MemOp} (hr : (s.ctx c x).sldReady a = some k) (h : (s.ctx c x).opReady k = some o)
    (hg : ∀ b ∈ o.unread, s.isLost b.1 = false) :
    s.sldNow c x a = ((s.readFor c o.rest 0).modCtx c x (fun v =>
      v.takesPart a o.id (placeBytes (o.part ++ (s.readFor c o.rest 0).returned c x k o.rest)))).opDone c x o.id := by
  have hn : (o.unread.map (fun b => b.1)).find? s.isLost = none := by
    refine List.find?_eq_none.mpr fun pa hpa => ?_
    obtain ⟨b, hb, rfl⟩ := List.mem_map.mp hpa
    simp [hg b hb]
  simp only [State.sldNow, hr, h, hn]
  rfl

theorem descriptors_return (s : State) (c x : Nat) (hp : s.powered = true) (hx : x < 4) (a k : Nat) (o : MemOp) (h : (s.ctx c x).opReady k = some o)
    (hk : o.kind = .sld a) (ha : a < 16) (hm : ∀ j, j < k → ∀ p, (s.ctx c x).opReady j = some p → p.kind ≠ .sld a)
    (hh : s.halves c x o.covers = []) (hg : ∀ b ∈ o.unread, s.isLost b.1 = false) :
    let p := placeBytes (o.part ++ (s.readFor c o.rest 0).returned c x k o.rest)
    ∃ t, exec (.sldDataReturn c x a) s = .next t ∧
      vget (t.ctx c x).a a 0 =
        ((merge p.2 ((vget (s.ctx c x).a a 0).setWidth 1024) p.1).setWidth 512 &&& BitVec.ofNat 512 descMask) ∧
      (∀ b, b ≠ a → vget (t.ctx c x).a b 0 = vget (s.ctx c x).a b 0) ∧
      (((s.ctx c x).dropOp o.id).innerReady = none → (t.ctx c x).ops = (s.ctx c x).ops.filter (fun (q : MemOp) => q.id != o.id)) ∧
      (t.ctx c x).s = (s.ctx c x).s := by
  intro p
  have hr := sldReady_eq h hk hm
  have he : s.sldReturn c x a = s.sldNow c x a := by simp only [State.sldReturn, hr, coversAt_of_opReady h, whole_of_none hh]
  obtain ⟨⟨l, h1, h2⟩, -⟩ := opDone_settles (fun v => v.takesPart a o.id p) o.id hx (keepsCtxs_readFor s c o.rest 0)
  rw [← sldNow_good hr h hg, ← he] at h1
  refine ⟨_, happen_eq (fun s => s.sldReturn c x a) hp, ?_⟩
  rw [show ((s.sldReturn c x a).tick).ctx c x = (s.sldReturn c x a).ctx c x from rfl, h1]
  exact ⟨vget_vset_self _ _ _ _ ha, fun b hb => vget_vset_other _ _ _ _ _ hb, fun hi => h2 (innerReady_none_of_ops hi rfl), rfl⟩

/-! ### Results land, and `sq` entries are filled (R16, R169) -/

theorem landFirst_cons {v : Ctx} {l : Landing} {r : List Landing} (h : v.flight = l :: r) : v.landFirst = { v with flight := r }.commit l := by
  rw [Ctx.landFirst, h]

theorem results_land (s : State) (c x : Nat) (hp : s.powered = true) (hx : x < 4) (l : Landing) (r : List Landing) (h : (s.ctx c x).flight = l :: r) :
    ∃ t, exec (.resultLanding c x) s = .next t ∧ OnlyCtx s t c x ∧ t.ctx c x = { s.ctx c x with flight := r }.commit l :=
  ⟨_, happen_eq (fun s => s.modCtx c x Ctx.landFirst) hp, (OnlyCtx.modCtx ..).trans (.tick ..),
    (State.ctx_modCtx_self s c x _ hx).trans (landFirst_cons h)⟩

theorem commit_s {v : Ctx} {l : Landing} {n : Nat} (h : l.dest = .s n) : v.commit l =
    { v with s := vset v.s n (merge (l.mask.setWidth 64) (vget v.s n 0) (l.val.setWidth 64)), lostRegs := v.mended n } := by
  unfold Ctx.commit; rw [h]

theorem commit_v {v : Ctx} {l : Landing} {n : Nat} (h : l.dest = .v n) : v.commit l =
    { v with
      v := vset v.v n (merge l.mask (vget v.v n 0) l.val), lostRegs := if l.mask = BitVec.allOnes 1024 then v.mended (100 + n) else v.lostRegs } := by
  unfold Ctx.commit; rw [h]

theorem commit_m {v : Ctx} {l : Landing} {n : Nat} (h : l.dest = .m n) : v.commit l =
    { v with
      m := vset v.m n (merge (l.mask.setWidth 64) (vget v.m n 0) (l.val.setWidth 64))
      lostRegs := if l.mask.setWidth 64 = BitVec.allOnes 64 then v.mended (200 + n) else v.lostRegs } := by
  unfold Ctx.commit; rw [h]

theorem commit_cond {v : Ctx} {l : Landing} {n : Nat} (h : l.dest = .cond n) (hm : l.mask.getLsbD 0 = true) : v.commit l =
    { v with st := vset v.st n { vget v.st n Steer.zero with cond := l.val.getLsbD 0 } } := by
  unfold Ctx.commit; rw [h]; simp only [hm, if_true]

theorem sqFill_of_oldest {v : Ctx} {id : Nat} (h : v.sqOldest = some id) : v.sqFill = { v with
    sq := v.sq.map (fun e => if e.id = id then { e with filled := true } else e)
    ops := v.ops.map (fun o => if o.kind = .store (some id) then { o with kind := .store none } else o) } := by
  rw [Ctx.sqFill, h]

theorem entries_fill (s : State) (c x : Nat) (hp : s.powered = true) (hx : x < 4) (id : Nat) (h : (s.ctx c x).sqOldest = some id) :
    ∃ t, exec (.sqEntryFill c x) s = .next t ∧ OnlyCtx s t c x ∧ t.ctx c x = { s.ctx c x with
      sq := (s.ctx c x).sq.map (fun e => if e.id = id then { e with filled := true } else e)
      ops := (s.ctx c x).ops.map (fun o => if o.kind = .store (some id) then { o with kind := .store none } else o) } :=
  ⟨_, happen_eq (fun s => s.modCtx c x Ctx.sqFill) hp, (OnlyCtx.modCtx ..).trans (.tick ..),
    (State.ctx_modCtx_self s c x _ hx).trans (sqFill_of_oldest h)⟩

/-- Settles O37: each event of an outstanding access or a result, by what it leaves of its context. -/
theorem dataReturnAndLandingEvents : Obligations.DataReturnAndLandingEvents := by
  refine fun s c x hp hx => ⟨fun k lvl o toLq entry sext h hk hh => loads_return s c x hp hx k lvl o toLq entry sext h hk hh,
    fun a k o h hk ha _ hm hh hg => descriptors_return s c x hp hx a k o h hk ha hm hh hg, fun l r h => ?_, fun id h => ?_⟩
  · obtain ⟨t, h1, h2, h3⟩ := results_land s c x hp hx l r h
    refine ⟨t, h1, h2, by rw [h3, commit_flight], by rw [h3, (sameRest_commit _ l).pc], ?_, ?_, ?_, ?_⟩
    · intro n hd _; rw [h3, commit_s hd]; rfl
    · intro n hd _; rw [h3, commit_v hd]; rfl
    · intro n hd _; rw [h3, commit_m hd]; rfl
    · intro n hd hn hm
      rw [h3, commit_cond hd hm, vget_vset_self _ _ _ _ hn]
      exact ⟨rfl, rfl⟩
  · obtain ⟨t, h1, h2, h3⟩ := entries_fill s c x hp hx id h
    exact ⟨t, h1, h2, by rw [h3], by rw [h3], by rw [h3], by rw [h3]⟩

end Sys2Proof.Machine

namespace Sys2Proof.Machine

open Sys2Proof.Claim

/-! ### A command leaves its core (R17) -/

theorem tget_map {α β : Type} (f : α → β) (t : Table α) (k : Nat) : tget (t.map (fun e => (e.1, f e.2))) k = (tget t k).map f := by
  induction t with
  | nil => rfl
  | cons e t ih =>
    obtain ⟨j, v⟩ := e
    simp only [List.map_cons, tget, ih]
    split <;> rfl

/-- Core `k` without the guest that is command `id` of core `c`. -/
def Core.noGuest (k : Core) (c id : Nat) : Core := { k with guests := k.guests.filter (fun g => !(g.core == c && g.cmd == id)) }

theorem dropGuest_core (s : State) (c id j : Nat) : (s.dropGuest c id).core j = (s.core j).noGuest c id := by
  show (tget (s.cores.map (fun e => (e.1, e.2.noGuest c id))) j).getD Core.fresh = ((tget s.cores j).getD Core.fresh).noGuest c id
  rw [tget_map (fun k : Core => k.noGuest c id)]
  cases tget s.cores j <;> rfl

/-- What freeing the tags of a team leaves as it was: all but the teams. -/
theorem freeTags_eq (k : Core) (b : Nat) : ∃ ts, k.freeTags b = { k with teams := ts } := by
  unfold Core.freeTags
  split
  · exact ⟨_, rfl⟩
  · exact ⟨k.teams, rfl⟩

/-- An accumulator that command `id` held is free. -/
def Acc.freed (id : Nat) (a : Acc) : Acc := if a.busy = some id then { a with busy := none } else a

theorem dropCmd_core (s : State) (c : Nat) (m : Cmd) : ∃ ts gs, (s.dropCmd c m).core c = { s.core c with
    cmds := (s.core c).cmds.filter (fun n => n.id != m.id), accs := (s.core c).accs.map (Acc.freed m.id), teams := ts, guests := gs } := by
  unfold State.dropCmd
  simp only [State.core_modCore_self, dropGuest_core]
  obtain ⟨ts, h⟩ := freeTags_eq ({ (s.core c).noGuest c m.id with
    cmds := (s.core c).cmds.filter (fun n => n.id != m.id), accs := (s.core c).accs.map (Acc.freed m.id) }) m.team
  exact ⟨ts, _, h⟩

theorem dropCmd_ctx (s : State) (c : Nat) (m : Cmd) (y : Nat) : (s.dropCmd c m).ctx c y = s.ctx c y := by
  obtain ⟨ts, gs, h⟩ := dropCmd_core s c m
  rw [State.ctx, h]; rfl

theorem cmd_filter_none (l : List Cmd) (id : Nat) : (l.filter (fun n => n.id != id)).find? (fun n => n.id == id) = none := by
  rw [List.find?_eq_none]
  intro n hn
  simpa using (List.mem_filter.mp hn).2

theorem dropCmd_cmd (s : State) (c : Nat) (m : Cmd) : ((s.dropCmd c m).core c).cmd m.id = none := by
  obtain ⟨ts, gs, h⟩ := dropCmd_core s c m
  rw [h]; exact cmd_filter_none ..

theorem cmd_id {k : Core} {id : Nat} {m : Cmd} (h : k.cmd id = some m) : m.id = id := by simpa using List.find?_some h

theorem dropCmd_length {s : State} {c id : Nat} {m : Cmd} (h : (s.core c).cmd id = some m) :
    ((s.dropCmd c m).core c).cmds.length < (s.core c).cmds.length := by
  obtain ⟨ts, gs, hd⟩ := dropCmd_core s c m
  rw [hd]
  exact List.length_filter_lt_length_iff_exists.mpr ⟨m, List.mem_of_find?_eq_some h, by simp⟩

/-- The command's permit is given back (R308). -/
theorem dropCmd_holding (s : State) (c : Nat) (m : Cmd) : ((s.dropCmd c m).die (dieOf c)).holding.contains (c, m.id) = false := by
  show (vget (vset s.dies (dieOf c) { s.die (dieOf c) with
    waiting := (s.die (dieOf c)).waiting.filter (fun w => w != (c, m.id)), holding := (s.die (dieOf c)).holding.filter (fun w => w != (c, m.id)) })
    (dieOf c) Die.fresh).holding.contains (c, m.id) = false
  by_cases h : dieOf c < 4
  · rw [vget_vset_self _ _ _ _ h]
    simp
  · rw [vget, Vector.getElem?_eq_none (by omega)]; rfl

theorem vget_map_freed (v : Vector Acc 4) (id b : Nat) : vget (v.map (Acc.freed id)) b Acc.zero = (vget v b Acc.zero).freed id := by
  simp only [vget, Vector.getElem?_map]
  cases v[b]? <;> rfl

theorem freed_cells (a : Acc) (id : Nat) : (a.freed id).cells = a.cells ∧ (a.freed id).isInt = a.isInt := by
  unfold Acc.freed; split <;> exact ⟨rfl, rfl⟩

theorem dropCmd_acc (s : State) (c : Nat) (m : Cmd) (b : Nat) :
    vget ((s.dropCmd c m).core c).accs b Acc.zero = (vget (s.core c).accs b Acc.zero).freed m.id := by
  obtain ⟨ts, gs, h⟩ := dropCmd_core s c m
  rw [h]; exact vget_map_freed ..

/-! ### An engine starts the head of its queue (R17, R256, R308) -/

section Starts
variable {s : State} {c e : Nat} {m : Cmd}

theorem exec_start (hp : s.powered = true) : exec (.engineCommandStart c e) s = .next (s.engineStart c e).tick :=
  happen_eq (fun s => s.engineStart c e) hp

theorem engineStart_runs (h : (s.core c).queueHead e = some m) (hs : (s.core c).slotFree m = true) (hd : ((s.core c).ctx m.ctx).doneBelow m.mark = true)
    (hg : m.needsPermit = true → m.granted = true) (hc : s.deadChan m = none) :
    s.engineStart c e = if (s.stacksOf c m).all s.stackRoom then
      (s.joinStack c m).putCmd c { m with st := if m.empty then .finished else .running } else s := by
  have hn : (m.needsPermit && !m.granted) = false := by
    cases hq : m.needsPermit with
    | false => rfl
    | true => simp [hg hq]
  simp only [State.engineStart, h, hs, hd, hn, hc]
  cases (s.stacksOf c m).all s.stackRoom <;> rfl

theorem engineStart_asks (h : (s.core c).queueHead e = some m) (hs : (s.core c).slotFree m = true) (hd : ((s.core c).ctx m.ctx).doneBelow m.mark = true)
    (hn : m.needsPermit = true) (hg : m.granted = false) (hq : m.st = .queued) :
    s.engineStart c e = (s.putCmd c { m with st := .permit }).putDie (dieOf c)
      { s.die (dieOf c) with waiting := (s.die (dieOf c)).waiting ++ [(c, m.id)] } := by
  simp only [State.engineStart, h, hs, hd, hn, hg, hq]
  rfl

theorem engineStart_waits (h : (s.core c).queueHead e = none ∨
    (s.core c).queueHead e = some m ∧ ((s.core c).slotFree m = false ∨ ((s.core c).ctx m.ctx).doneBelow m.mark = false)) : s.engineStart c e = s := by
  rcases h with h | ⟨h, hw⟩
  · simp only [State.engineStart, h]
  · have : (!(s.core c).slotFree m || !((s.core c).ctx m.ctx).doneBelow m.mark) = true := by
      rcases hw with hw | hw <;> simp [hw]
    simp only [State.engineStart, h, this, if_true]

end Starts

/-! ### Permits, `mzero`, completion (R308, R336, R340) -/

theorem permitGrant_grants {s : State} {d o id : Nat} {r : List (Nat × Nat)} {m : Cmd} (h : (s.die d).waiting = (o, id) :: r)
    (hm : (s.core o).cmd id = some m) (hk : (s.die d).holding.length < (s.die d).permits) :
    s.permitGrant d = (s.putDie d { s.die d with waiting := r, holding := (s.die d).holding ++ [(o, id)] }).putCmd o { m with granted := true, st := .queued } := by
  have hm' : ∀ v, (((s.putDie d v).core o).cmd id) = some m := fun _ => hm
  simp only [State.permitGrant, h, Nat.not_le.mpr hk, if_false, hm']

theorem permitGrant_full {s : State} {d o id : Nat} {r : List (Nat × Nat)} (h : (s.die d).waiting = (o, id) :: r)
    (hk : (s.die d).permits ≤ (s.die d).holding.length) : s.permitGrant d = s := by
  simp only [State.permitGrant, h, hk, if_true]

theorem accFresh_accs (k : Core) (a : Nat) : (k.accFresh a).accs = k.accs := by
  unfold Core.accFresh
  split
  · split
    · split <;> rfl
    · rfl
  · rfl

theorem runningCmd_id {s : State} {c id : Nat} {p : CmdKind → Bool} {m : Cmd} (h : s.runningCmd c id p = some m) : (s.core c).cmd id = some m := by
  unfold State.runningCmd at h
  split at h
  · next n hn =>
    split at h
    · rw [← Option.some.inj h]; exact hn
    · cases h
  · cases h

/-- The core whose accumulator `a` an `mzero` has made +0. -/
def Core.zeroed (k : Core) (a : Nat) : Core :=
  { k.accFresh a with accs := vset k.accs a { vget k.accs a Acc.zero with isInt := false, cells := [] } }

theorem mzeroComplete_eq {s : State} {c id a : Nat} {m : Cmd} (h : s.runningCmd c id (fun k => k == .mzero) = some m) (ha : m.acc = some a)
    (hl : (s.core c).lostAccs.contains a = false) : s.mzeroComplete c id = (s.modCore c (fun k => k.zeroed a)).dropCmd c m := by
  have hf : m.acc.filter (s.core c).lostAccs.contains = none := by rw [ha, Option.filter_some, hl]; rfl
  simp only [State.mzeroComplete, h, State.mzeroStep, hf, Stepped.orElse]
  rw [ha]; rfl

theorem mzero_completes (s : State) (c : Nat) (hp : s.powered = true) (id a : Nat) (m : Cmd) (h : s.runningCmd c id (fun k => k == .mzero) = some m)
    (ha : m.acc = some a) (hlt : a < 4) (hl : (s.core c).lostAccs.contains a = false) :
    ∃ t, exec (.mzeroComplete c id) s = .next t ∧ t.mem = s.mem ∧ (t.core c).cmd m.id = none ∧
      (vget (t.core c).accs a Acc.zero).cells = [] ∧ (vget (t.core c).accs a Acc.zero).isInt = false ∧
      ((vget (s.core c).accs a Acc.zero).busy = some m.id → (vget (t.core c).accs a Acc.zero).busy = none) ∧
      (∀ b, b ≠ a → (vget (t.core c).accs b Acc.zero).cells = (vget (s.core c).accs b Acc.zero).cells) := by
  have hc : (s.modCore c (fun k => k.zeroed a)).core c = (s.core c).zeroed a := State.core_modCore_self ..
  refine ⟨_, happen_eq (fun s => s.mzeroComplete c id) hp, ?_⟩
  rw [mzeroComplete_eq h ha hl]
  simp only [State.core_tick]
  refine ⟨rfl, dropCmd_cmd .., ?_⟩
  simp only [dropCmd_acc, hc, (freed_cells _ _).1, (freed_cells _ _).2]
  have hz : vget ((s.core c).zeroed a).accs a Acc.zero = { vget (s.core c).accs a Acc.zero with isInt := false, cells := [] } :=
    vget_vset_self _ _ _ _ hlt
  refine ⟨by rw [hz], by rw [hz], fun hb => ?_, fun b hb => congrArg Acc.cells (vget_vset_other _ _ _ _ _ hb)⟩
  rw [hz, Acc.freed, if_pos hb]

theorem engineComplete_open {s : State} {c id : Nat} {m : Cmd} (h : (s.core c).cmd id = some m)
    (hd : s.det.any (fun (b : DetBuf) => b.holds c id) = true) : s.engineComplete c id = s := by
  simp only [State.engineComplete, h, hd, Bool.true_eq_false, and_false, if_false]

/-- The module once a completing command has filled the entry it owes. -/
def State.paidEntry (s : State) (c : Nat) (m : Cmd) : State :=
  match m.entry with
  | some e => s.modCtx c m.ctx (fun x => x.fillLqs e (BitVec.ofNat 64 m.sum))
  | none => s

theorem engineComplete_eq {s : State} {c id : Nat} {m : Cmd} (h : (s.core c).cmd id = some m) (hf : m.st = .finished)
    (hd : s.det.any (fun (b : DetBuf) => b.holds c id) = false) (hl : m.lost = false) : s.engineComplete c id = (s.paidEntry c m).dropCmd c m := by
  simp only [State.engineComplete, h, hf, hd, hl, State.paidEntry]
  rfl

theorem paidEntry_frame (s : State) (c : Nat) (m : Cmd) : (s.paidEntry c m).mem = s.mem ∧ ((s.paidEntry c m).core c).cmds = (s.core c).cmds := by
  unfold State.paidEntry
  split
  · exact ⟨rfl, by rw [State.core_modCtx_self]; rfl⟩
  · exact ⟨rfl, rfl⟩

theorem paidEntry_ctx {s : State} {c e : Nat} {m : Cmd} (he : m.entry = some e) (hx : m.ctx < 4) :
    (s.paidEntry c m).ctx c m.ctx = (s.ctx c m.ctx).fillLqs e (BitVec.ofNat 64 m.sum) := by
  unfold State.paidEntry
  rw [he]
  exact State.ctx_modCtx_self _ _ _ _ hx

theorem dropCmd_ctxs (s : State) (c : Nat) (m : Cmd) : ((s.dropCmd c m).core c).ctxs = (s.core c).ctxs := by
  obtain ⟨ts, gs, h⟩ := dropCmd_core s c m
  rw [h]

theorem command_completes (s : State) (c : Nat) (hp : s.powered = true) (id : Nat) (m : Cmd) (h : (s.core c).cmd id = some m) (hf : m.st = .finished)
    (hd : s.det.any (fun (b : DetBuf) => b.holds c id) = false) (hl : m.lost = false) :
    ∃ t, exec (.engineCommandCompletion c id) s = .next t ∧ t.mem = s.mem ∧ (t.core c).cmd id = none ∧
      (t.core c).cmds.length < (s.core c).cmds.length ∧ (t.die (dieOf c)).holding.contains (c, m.id) = false ∧
      (∀ e, m.entry = some e → m.ctx < 4 → t.ctx c m.ctx = (s.ctx c m.ctx).fillLqs e (BitVec.ofNat 64 m.sum)) ∧
      (m.entry = none → (t.core c).ctxs = (s.core c).ctxs) := by
  obtain ⟨f1, f2⟩ := paidEntry_frame s c m
  have hc : ((s.paidEntry c m).core c).cmd id = some m := by rw [Core.cmd, f2]; exact h
  have hcmd := dropCmd_cmd (s.paidEntry c m) c m
  have hlen := dropCmd_length hc
  rw [cmd_id h] at hcmd
  rw [f2] at hlen
  have hctx : ∀ e, m.entry = some e → m.ctx < 4 → ((s.paidEntry c m).dropCmd c m).ctx c m.ctx = (s.ctx c m.ctx).fillLqs e (BitVec.ofNat 64 m.sum) :=
    fun e he hx => by rw [dropCmd_ctx, paidEntry_ctx he hx]
  have hctxs : m.entry = none → (((s.paidEntry c m).dropCmd c m).core c).ctxs = (s.core c).ctxs := fun he => by
    rw [dropCmd_ctxs, State.paidEntry, he]
  refine ⟨((s.paidEntry c m).dropCmd c m).tick, ?_, f1, hcmd, hlen, dropCmd_holding (s.paidEntry c m) c m, hctx, hctxs⟩
  exact (happen_eq (fun s => s.engineComplete c id) hp).trans (by rw [engineComplete_eq h hf hd hl])

/-- Settles O40: each event of an engine, by the branch of its definition that the hypotheses pick. -/
theorem engineStartAndCompletionEvents : Obligations.EngineStartAndCompletionEvents := by
  refine fun s c hp => ⟨fun e m h hs hd => ⟨fun hg hc => ?_, fun hn hg hq => ?_⟩, fun e m h => ?_, fun d o id r m h hm => ⟨fun hk => ?_, fun hk => ?_⟩,
    mzero_completes s c hp, fun id m h hd => ?_, command_completes s c hp⟩
  · rw [exec_start hp, engineStart_runs h hs hd hg hc]
    split <;> rfl
  · rw [exec_start hp, engineStart_asks h hs hd hn hg hq]
  · rw [exec_start hp, engineStart_waits h]
  · exact (happen_eq (fun s => s.permitGrant d) hp).trans (by rw [permitGrant_grants h hm hk])
  · exact (happen_eq (fun s => s.permitGrant d) hp).trans (by rw [permitGrant_full h hk])
  · exact (happen_eq (fun s => s.engineComplete c id) hp).trans (by rw [engineComplete_open h hd])

end Sys2Proof.Machine

namespace Sys2Proof.Machine

open Sys2Proof.Claim

/-! ### A drained context of a core whose table of teams is out of order (R30, R114) -/

/-- A team of `size` contexts with one software tag, number 3, that context 1 has bound and not published whole. -/
def overlapTeam (size : Nat) : Team :=
  { launch := 0, unit := 0, size := size, place := 0, win := [], tags := [(3, { Tag.freeOf 0 with state := .bound, producer := 13, binder := 1 })],
    blocks := [], barKey := 0, stopping := false, deferred := false, since := 0, lostWin := [], lostAccs := [], lostTags := [], lostBars := [] }

def overlapGeo : Geo :=
  { desc := 0, space := 0, fmt := 0, trav := 0, xf := 0, base := 0, pitch := 0, d0 := 1, d1 := 1, clamp := false, org := [], layout := none,
    sbase := 0, sstride := 0, chase := none }

/-- A released hold that still owes a fill to the group load 7 of core 0. -/
def overlapHold : Hold :=
  { seq := 0, released := true, timedOut := false, mismatch := false, src := overlapGeo, dst := overlapGeo,
    asks := [{ core := 0, ctx := 0, cmd := 7, served := false }], data := [], halted := false }

def overlapLaunch : Launch :=
  { epoch := 0, queue := 0, packet := 0, node := none, hdrVa := 0, hdr := 0, groupWords := [], params := 0, recBase := 0, root := 0, completion := 0,
    seed := 0, dieMask := 1, firmware := false, unitLimit := 0, budget := 0, rerunLimit := 0, interrupt := false, image := [], grants := [], units := [],
    groups := [(1, { members := 2, hold := 64, joined := [(0, 0), (0, 1)], next := 1, holds := [overlapHold] })],
    status := 0, cause := 0, tpc := 0, ended := false }

/-- Core 0's table of teams names the team at base 1 before the one at base 0, which reaches over context 1 too; context 1 drains, a member of group 1. -/
def overlapCore : Core :=
  { Core.fresh with
    teams := [(1, overlapTeam 1), (0, overlapTeam 2)]
    cmds := [{ Cmd.blank 7 .gld 0 0 0 0 0 with tag := some (5, 0) }]
    ctxs := vset Core.fresh.ctxs 1 { Ctx.fresh with status := .exiting, groups := [(1, 0)] } }

def overlapState : State := { State.reset with cores := [(0, overlapCore)], launches := [(0, overlapLaunch)] }

/-- What the refuted clause supposes of context 1: it drains, with nothing under way and no trap due, in the team at base 1. -/
theorem overlap_drains : (overlapState.ctx 0 1).status = .exiting ∧ overlapState.undrained 0 1 = false ∧ (overlapState.ctx 0 1).pending = [] ∧
    (overlapState.core 0).teamOf 1 = some (1, overlapTeam 1) := by decide +kernel

/-- Leaving the group puts the status of the hold into a tag of the team at base 0, which then stands first in the table: the context stops as one of
that team, and the tag it bound in its own team stays BOUND. -/
theorem overlap_exit : (tget ((overlapState.exitDrain 0 1).core 0).teams 1).map (fun T => (T.tag 3).state) = some .bound := by decide +kernel

/-- Refutes O46: its clause on a drained context supposes nothing of the core's table of teams, and where that is not in the order of its keys, as no
dispatch leaves it, the exit of `overlapState` aborts a tag of another team than the context's. -/
theorem not_contextAndTeamEvents : ¬ Obligations.ContextAndTeamEvents := by
  intro h
  obtain ⟨hs, hd, hp, ht⟩ := overlap_drains
  obtain ⟨-, -, -, hexit, -⟩ := h overlapState 0 1 rfl (by decide)
  obtain ⟨t, he, -, -, -, -, -, -, -, -, -, htag⟩ := hexit hs hd hp
  obtain rfl : (overlapState.exitDrain 0 1).tick = t :=
    Host.Outcome.next.inj ((happen_eq (fun s => s.exitDrain 0 1) (s := overlapState) rfl).symm.trans he)
  obtain ⟨T, hT, hst⟩ := htag 3 1 (overlapTeam 1) ht rfl rfl rfl rfl
  have := overlap_exit
  rw [show tget ((overlapState.exitDrain 0 1).core 0).teams 1 = some T from hT, Option.map_some, hst] at this
  cases this

end Sys2Proof.Machine

namespace Sys2Proof.Machine

open Sys2Proof.Claim

/-! ### A restartable team leaves a group in which a saved team still has a request (R95, R304) -/

/-- A team of one context that is asked to stop. -/
def leavingTeam : Team := { overlapTeam 1 with tags := [], stopping := true }

/-- A saved team of the same launch, its group load 7 still under way with tag 5. -/
def absentTeam : SavedTeam :=
  { launch := 0, unit := 1, die := 0, base := 0, team := { leavingTeam with unit := 1 }, ctxs := [Ctx.fresh]
    cmds := [{ Cmd.blank 7 .gld 0 0 0 0 0 with tag := some (5, 0) }], accs := none, barriers := [], xf := Vector.replicate 4 0, chans := [],
    chanImage := none, chanRoot := 0, lostChans := [] }

/-- A launch of class 1, whose group 1 has a released hold that owes a fill to the saved team. -/
def restartLaunch : Launch :=
  { overlapLaunch with
    hdr := BitVec.ofNat 512 (2 ^ 62)
    groups := [(1, { members := 2, hold := 64, joined := [(0, 0), (savedCore 0 1, 0)], next := 1,
                     holds := [{ overlapHold with asks := [{ core := savedCore 0 1, ctx := 0, cmd := 7, served := false }] }] })] }

/-- Context 0 of core 0, its team stopped, is the other member of that group. -/
def leavingState : State :=
  { State.reset with
    cores := [(0, { Core.fresh with teams := [(0, leavingTeam)], ctxs := vset Core.fresh.ctxs 0 { Ctx.fresh with status := .ready, groups := [(1, 0)] } })]
    launches := [(0, restartLaunch)]
    saved := [absentTeam] }

/-- The team at base 0 is one that its save lets run again: of class 1, not ended, and at no command in the midst of a piece. -/
theorem leaving_restarts : hdrClass restartLaunch.hdr = 1 ∧ (leavingState.leaving 0 0 leavingTeam restartLaunch).any (fun (p : Nat × Nat) =>
    (leavingState.core p.1).cmds.any (fun (m : Cmd) => m.team == p.2 && m.inPiece)) = false := by decide +kernel

/-- As it leaves the group, the status of the hold is put into the tag of the saved team, which held none. -/
theorem leaving_notes : (leavingState.teamSave 0 0).saved.map (fun S => (tget S.team.tags 5).isSome) = [true] ∧
    leavingState.saved.map (fun S => (tget S.team.tags 5).isSome) = [false] := by decide +kernel

/-- Refutes O51: its clause on a restartable team says that the saved teams stay as they are. The team leaves its groups, and where a hold there owes a
fill to a saved team, as in `leavingState`, the tag of that team takes the hold's status (R95, R113). The clause does not exclude a saved team of a
class 1 launch, which no save makes. -/
theorem not_dispatchAndPreemptionEvents : ¬ Obligations.DispatchAndPreemptionEvents := by
  intro h
  obtain ⟨hclass, hpiece⟩ := leaving_restarts
  obtain ⟨-, -, -, -, hteam, -⟩ := h leavingState 0 0 0 0 restartLaunch rfl rfl
  obtain ⟨-, -, -, -, -, hsave⟩ := hteam leavingTeam rfl rfl (by decide)
  obtain ⟨t, w, he, hsaved, -⟩ := hsave rfl rfl hpiece hclass
  obtain rfl : (leavingState.teamSave 0 0).tick = t :=
    Host.Outcome.next.inj ((happen_eq (fun s => s.teamSave 0 0) (s := leavingState) rfl).symm.trans he)
  obtain ⟨h1, h2⟩ := leaving_notes
  rw [← State.tick_saved, hsaved, h2] at h1
  cases h1

end Sys2Proof.Machine

namespace Sys2Proof.Machine

open Sys2Proof.Claim

/-! ### Syllables that write registers of their own context -/

/-- A clear syllable that changes its own context alone, by what its environment says, and not that context's accesses, is performed so. -/
theorem performs_of_upd {s : State} {c x pa : Nat} {pk : List Nat} {i : Instr} {g : Env → Ctx → Ctx} (h : Ready s c x pa pk)
    (he : (encode i).isSome = true) (k : Clear s c x pa pk (semOf i)) (ha : ∀ e s, (semOf i).act e s = e.upd s (g e))
    (hf : ∀ e s, (semOf i).flow e s = .next) (ho : ∀ e v, (g e v).ops = v.ops) :
    Performs s c x pk i (g (env s c x pa pk (semOf i)) (popped s c x pa (semOf i).srcs)) :=
  performs_of_noted h he k (hf _ _) (ha _ _) (.refl ..) ((innerReady_congr (ho _ _)).trans (popped_innerReady _ h))

/-- The same of a register syllable with usable operands. -/
theorem performs_of_plainUpd {s : State} {c x pa : Nat} {pk : List Nat} {i : Instr} {g : Env → Ctx → Ctx} (h : Ready s c x pa pk)
    (he : (encode i).isSome = true) (u : Usable s c x pa (semOf i)) (w : i.wf = true) (p : (semOf i).Plain)
    (ha : ∀ e s, (semOf i).act e s = e.upd s (g e)) (ho : ∀ e v, (g e v).ops = v.ops) :
    Performs s c x pk i (g (env s c x pa pk (semOf i)) (popped s c x pa (semOf i).srcs)) :=
  performs_of_upd h he (clear_of_plain p u (by rw [semOf_ins i he]; exact w)) ha p.flow ho

/-! ### Conversions, reductions and scans (R209, R212, R213) -/

/-- The sum of an add tree: saturating for the signed integer types (R212). -/
theorem nodeAdd_eq (t : Nat) : nodeAdd t = if t = 3 ∨ t = 4 then laneAdds t else laneAdd t := by
  funext a b
  by_cases h : t = 3 ∨ t = 4
  · simp [nodeAdd, isSigned, h]
  · have : isSigned t = false := by simpa [isSigned, not_or] using h
    simp [nodeAdd, this, h]

/-- What `vred` combines: the tree of its operation over the masked lanes, each other lane its identity (R55, R212). -/
def reduced (op ty n : Nat) (v : V1024) (m : W64) : Nat :=
  match op with
  | 0 => treeOf (nodeAdd ty) 6 (entering ty n (identAdd ty) v m)
  | 1 => treeOf (laneMax ty) 6 (entering ty n (identMax ty) v m)
  | _ => treeOf (laneMin ty) 6 (entering ty n (identMin ty) v m)

theorem reduced_eq (op ty n : Nat) (v : V1024) (m : W64) : reduced op ty n v m =
    if op = 0 then treeOf (nodeAdd ty) 6 (entering ty n (identAdd ty) v m)
    else if op = 1 then treeOf (laneMax ty) 6 (entering ty n (identMax ty) v m)
    else treeOf (laneMin ty) 6 (entering ty n (identMin ty) v m) := by
  unfold reduced
  split
  · rfl
  · rfl
  · next h0 h1 => rw [if_neg h0, if_neg h1]

theorem semVred_act (t : BitVec 3) (w : BitVec 2) (d a b : BitVec 5) (m : BitVec 3) (e : Env) (s : State) :
    (semVred t w d a b m).act e s = e.upd s (fun x => x.writeV d.toNat (laneMask (laneSize t.toNat) 1 (fun _ => true))
      (lanes (laneSize t.toNat) 1 (fun _ => reduced b.toNat t.toNat (widthOf w.toNat / laneSize t.toNat) (e.v 0) (e.s 1))) e.now 6) := rfl

section

variable {s : State} {c x pa : Nat} {pk : List Nat} (t : BitVec 3) (w : BitVec 2) (d a b : BitVec 5) (m : BitVec 3)

theorem vcvt_performs (h : Ready s c x pa pk) (u : Usable s c x pa (semOf (.vcvt t w d a b m))) (wf : (Instr.vcvt t w d a b m).wf = true) :
    let r : List Src := [.v a.toNat, .m m.toNat]
    let wide := max (laneSize t.toNat) (laneSize b.toNat)
    let n := widthOf w.toNat / wide
    Performs s c x pk (.vcvt t w d a b m) ((popped s c x pa r).writeV d.toNat (laneMask (laneSize b.toNat) n (predBit (arg s c x pa r 1) wide))
      (lanes (laneSize b.toNat) n (fun i => laneConvert t.toNat b.toNat (lane (argV s c x pa r 0) (laneSize t.toNat) i))) (now s c) 4) := by
  have p := performs_of_plainUpd h rfl u wf ⟨rfl, rfl, rfl, rfl, rfl, rfl, fun _ _ => rfl, fun _ _ => rfl, fun _ _ => rfl⟩ (fun _ _ => rfl)
    (fun _ _ => writeV_ops ..)
  rw [env_now] at p
  exact p

theorem vred_performs (h : Ready s c x pa pk) (u : Usable s c x pa (semOf (.vred t w d a b m))) (wf : (Instr.vred t w d a b m).wf = true) :
    let r : List Src := [.v a.toNat, .m m.toNat]
    Performs s c x pk (.vred t w d a b m) ((popped s c x pa r).writeV d.toNat (laneMask (laneSize t.toNat) 1 (fun _ => true))
      (lanes (laneSize t.toNat) 1 (fun _ => reduced b.toNat t.toNat (widthOf w.toNat / laneSize t.toNat) (argV s c x pa r 0) (arg s c x pa r 1)))
      (now s c) 6) := by
  have p := performs_of_plainUpd h rfl u wf ⟨rfl, rfl, rfl, rfl, rfl, rfl, fun _ _ => rfl, fun _ _ => rfl, fun _ _ => rfl⟩
    (semVred_act t w d a b m) (fun _ _ => writeV_ops ..)
  rw [env_now] at p
  exact p

theorem vscan_performs (h : Ready s c x pa pk) (u : Usable s c x pa (semOf (.vscan w d a b m))) (wf : (Instr.vscan w d a b m).wf = true) :
    let r : List Src := [.v a.toNat, .m m.toNat]
    let n := widthOf w.toNat / laneSize b.toNat
    Performs s c x pk (.vscan w d a b m) ((popped s c x pa r).writeV d.toNat (laneMask (laneSize b.toNat) n (fun _ => true))
      (lanes (laneSize b.toNat) n (fun i => (scanOf (nodeAdd b.toNat) 6 1
        (entering b.toNat n (identAdd b.toNat) (argV s c x pa r 0) (arg s c x pa r 1))).getD i 0)) (now s c) 6) := by
  have p := performs_of_plainUpd h rfl u wf ⟨rfl, rfl, rfl, rfl, rfl, rfl, fun _ _ => rfl, fun _ _ => rfl, fun _ _ => rfl⟩ (fun _ _ => rfl)
    (fun _ _ => writeV_ops ..)
  rw [env_now] at p
  exact p

end

/-- Settles O16: each of the three is a register syllable, and its add tree is the model's. -/
theorem vectorReductionResults : Obligations.VectorReductionResults := by
  intro s c x pa pk t w d a b m h hw r V M v flt sum put
  have hsum : ∀ ty, sum ty = nodeAdd ty := fun ty => by
    rw [nodeAdd_eq]
    funext p q
    simp only [sum]
    split <;> rfl
  refine ⟨fun ht hb hne hf u => ?_, fun ht hb u => ?_, fun hb u => ?_⟩
  · refine vcvt_performs t w d a b m h u ?_
    simp only [Instr.wf, decide_eq_true_eq, BitVec.le_def]
    exact ⟨hw, ht, hb, hne, hf⟩
  · have p := vred_performs t w d a b m h u (by simp only [Instr.wf, decide_eq_true_eq, BitVec.le_def]; exact ⟨hw, ht, hb⟩)
    simp only [hsum]
    simp only [reduced_eq] at p
    exact p
  · simp only [hsum]
    refine vscan_performs w d a b m h u ?_
    simp only [Instr.wf, decide_eq_true_eq, BitVec.le_def]
    exact ⟨hw, hb⟩

end Sys2Proof.Machine

namespace Sys2Proof.Machine

open Sys2Proof.Claim

/-! ### The value of a magnitude's code, and rounding to it (R38, R49) -/

/-- A power of two as a multiple of a lesser one. -/
theorem two_zpow_of_le {p q : Int} (h : p ≤ q) : (2 : ℚ) ^ q = ((2 ^ (q - p).toNat : Nat) : ℚ) * 2 ^ p := by
  push_cast
  rw [← zpow_natCast (2 : ℚ) (q - p).toNat, ← zpow_add₀ (by norm_num)]
  congr 1
  omega

/-- The value of a code without a sign; that of an infinity or NaN is not used. -/
def Fp.mag (f : Fp) (k : Nat) : ℚ := match f.decode k with | .fin _ n g => (n : ℚ) * 2 ^ g | _ => 0

/-- The code of binade `d` and multiple `r` of its unit, up to the next binade's first, is a finite value (R38). -/
theorem decode_binade {f : Fp} (hi : f.ieee = true) {d r : Nat} (hr : r ≤ 2 ^ (f.fbits + 1)) (hd : d = 0 ∨ 2 ^ f.fbits ≤ r)
    (hk : d * 2 ^ f.fbits + r < (2 ^ f.ebits - 1) * 2 ^ f.fbits) :
    ∃ n g, f.decode (d * 2 ^ f.fbits + r) = .fin false n g ∧ (n : ℚ) * 2 ^ g = r * 2 ^ (f.qmin + d) := by
  have hP : 0 < 2 ^ f.fbits := Nat.two_pow_pos _
  have h2 : 2 ^ (f.fbits + 1) = 2 * 2 ^ f.fbits := by rw [pow_succ]; ring
  have hw : 2 ^ (f.ebits + f.fbits) = 2 ^ f.ebits * 2 ^ f.fbits := pow_add ..
  have hc : ∀ e m, m < 2 ^ f.fbits → e * 2 ^ f.fbits + m < (2 ^ f.ebits - 1) * 2 ^ f.fbits →
      f.decode (e * 2 ^ f.fbits + m) = if e = 0 then .fin false m f.qmin else .fin false (2 ^ f.fbits + m) (f.qmin + e - 1) := by
    intro e m hm hlt
    have he : e < 2 ^ f.ebits - 1 := by
      by_contra hn
      have := Nat.mul_le_mul_right (2 ^ f.fbits) (Nat.le_of_not_lt hn)
      omega
    have hs : bits (e * 2 ^ f.fbits + m) (f.ebits + f.fbits) 1 = 0 := by
      have hsub := Nat.mul_le_mul_right (2 ^ f.fbits) (Nat.sub_le (2 ^ f.ebits) 1)
      rw [bits, Nat.div_eq_of_lt (by omega), Nat.zero_mod]
    have h1 : bits (e * 2 ^ f.fbits + m) f.fbits f.ebits = e := by
      rw [bits, Nat.mul_comm e, Nat.mul_add_div hP, Nat.div_eq_of_lt hm, Nat.add_zero, Nat.mod_eq_of_lt (by omega)]
    have h3 : bits (e * 2 ^ f.fbits + m) 0 f.fbits = m := by
      rw [bits, pow_zero, Nat.div_one, Nat.mul_comm e, Nat.mul_add_mod, Nat.mod_eq_of_lt hm]
    have hne : (e == 2 ^ f.ebits - 1) = false := by simpa using by omega
    simp [Fp.decode, hs, h1, h3, hi, hne]
  rcases Nat.lt_or_ge r (2 ^ f.fbits) with h | h
  · obtain rfl : d = 0 := hd.resolve_right (by omega)
    rw [hc 0 r h hk]
    exact ⟨r, f.qmin, if_pos rfl, by simp⟩
  · rcases Nat.lt_or_ge r (2 * 2 ^ f.fbits) with h' | h'
    · have e : d * 2 ^ f.fbits + r = (d + 1) * 2 ^ f.fbits + (r - 2 ^ f.fbits) := by rw [Nat.add_mul]; omega
      rw [e, hc (d + 1) _ (by omega) (e ▸ hk), if_neg (by omega)]
      refine ⟨_, _, rfl, ?_⟩
      rw [Nat.add_sub_cancel' h]
      push_cast
      congr 2
      ring
    · have e : d * 2 ^ f.fbits + r = (d + 2) * 2 ^ f.fbits + 0 := by rw [Nat.add_mul]; omega
      rw [e, hc (d + 2) 0 hP (e ▸ hk), if_neg (by omega)]
      refine ⟨_, _, rfl, ?_⟩
      rw [show r = 2 * 2 ^ f.fbits by omega, show f.qmin + ((d + 2 : Nat) : Int) - 1 = f.qmin + d + 1 by push_cast; ring,
        zpow_add_one₀ (by norm_num)]
      push_cast
      ring

theorem mag_binade {f : Fp} (hi : f.ieee = true) {d r : Nat} (hr : r ≤ 2 ^ (f.fbits + 1)) (hd : d = 0 ∨ 2 ^ f.fbits ≤ r)
    (hk : d * 2 ^ f.fbits + r < (2 ^ f.ebits - 1) * 2 ^ f.fbits) : f.mag (d * 2 ^ f.fbits + r) = r * 2 ^ (f.qmin + d) := by
  obtain ⟨n, g, h1, h2⟩ := decode_binade hi hr hd hk
  rw [Fp.mag, h1]
  exact h2

/-- A multiple of `2^q` that rounding to zero takes is the greatest at or below the value. -/
theorem roundTo_rz (neg : Bool) (m : Nat) (e q : Int) :
    (roundTo .rz neg m e q : ℚ) * 2 ^ q ≤ m * 2 ^ e ∧ (m : ℚ) * 2 ^ e < (roundTo .rz neg m e q + 1) * 2 ^ q := by
  have hq : (0 : ℚ) < 2 ^ q := zpow_pos (by norm_num) _
  have he : (0 : ℚ) < 2 ^ e := zpow_pos (by norm_num) _
  unfold roundTo
  split
  · next h =>
    rw [two_zpow_of_le h]
    push_cast
    constructor <;> nlinarith
  · next h =>
    simp only [Round.away, Bool.false_eq_true, and_false, if_false]
    rw [two_zpow_of_le (show e ≤ q by omega), ← mul_assoc, ← mul_assoc]
    have hp := Nat.two_pow_pos (q - e).toNat
    constructor
    · refine mul_le_mul_of_nonneg_right ?_ he.le
      exact_mod_cast Nat.div_mul_le_self m _
    · refine mul_lt_mul_of_pos_right ?_ he
      rw [mul_comm]
      exact_mod_cast Nat.lt_mul_div_succ m hp

/-- A magnitude lies in the binade of its leading bit. -/
theorem top_bounds {m : Nat} (hm : m ≠ 0) (e : Int) :
    (2 : ℚ) ^ (e + (Nat.log2 m : Int)) ≤ m * 2 ^ e ∧ (m : ℚ) * 2 ^ e < 2 ^ (e + (Nat.log2 m : Int) + 1) := by
  have he : (0 : ℚ) < 2 ^ e := zpow_pos (by norm_num) _
  have h : ∀ k : Nat, (2 : ℚ) ^ (e + (k : Int)) = ((2 ^ k : Nat) : ℚ) * 2 ^ e := fun k => by
    rw [two_zpow_of_le (show e ≤ e + (k : Int) by omega), show (e + (k : Int) - e).toNat = k by omega]
  constructor
  · rw [h]
    exact mul_le_mul_of_nonneg_right (by exact_mod_cast Nat.log2_self_le hm) he.le
  · rw [show e + (Nat.log2 m : Int) + 1 = e + ((Nat.log2 m + 1 : Nat) : Int) by push_cast; ring, h]
    exact mul_lt_mul_of_pos_right (by exact_mod_cast Nat.lt_log2_self) he

/-- The exponent of the unit that `m × 2^e`, not zero, is rounded to. -/
def roundUnit (f : Fp) (m : Nat) (e : Int) : Int := max (e + (Nat.log2 m : Int) - f.fbits) f.qmin

theorem roundMag_eq (f : Fp) (md : Round) (neg : Bool) {m : Nat} (hm : m ≠ 0) (e : Int) :
    f.roundMag md neg m e = (roundUnit f m e - f.qmin).toNat * 2 ^ f.fbits + roundTo md neg m e (roundUnit f m e) := by
  rw [Fp.roundMag, if_neg hm]
  rfl

/-- The multiple that rounding to zero takes fills the significand, but in the least binade. -/
theorem roundTo_rz_unit (f : Fp) (neg : Bool) {m : Nat} (hm : m ≠ 0) (e : Int) :
    roundTo .rz neg m e (roundUnit f m e) < 2 ^ (f.fbits + 1) ∧
      ((roundUnit f m e - f.qmin).toNat = 0 ∨ 2 ^ f.fbits ≤ roundTo .rz neg m e (roundUnit f m e)) := by
  obtain ⟨h1, h2⟩ := roundTo_rz neg m e (roundUnit f m e)
  obtain ⟨h3, h4⟩ := top_bounds hm e
  have hq : (0 : ℚ) < 2 ^ roundUnit f m e := zpow_pos (by norm_num) _
  have hu : roundUnit f m e = max (e + (Nat.log2 m : Int) - (f.fbits : Int)) f.qmin := rfl
  constructor
  · have h : (2 : ℚ) ^ (e + (Nat.log2 m : Int) + 1) ≤ ((2 ^ (f.fbits + 1) : Nat) : ℚ) * 2 ^ roundUnit f m e := by
      rw [← show (roundUnit f m e + ((f.fbits + 1 : Nat) : Int) - roundUnit f m e).toNat = f.fbits + 1 by omega,
        ← two_zpow_of_le (by omega)]
      exact zpow_le_zpow_right₀ (by norm_num) (by push_cast; omega)
    exact_mod_cast lt_of_mul_lt_mul_right (h1.trans_lt (h4.trans_le h)) hq.le
  · by_cases hd : roundUnit f m e = f.qmin
    · exact .inl (by omega)
    · right
      have h : (2 : ℚ) ^ (e + (Nat.log2 m : Int)) = ((2 ^ f.fbits : Nat) : ℚ) * 2 ^ roundUnit f m e := by
        rw [two_zpow_of_le (show roundUnit f m e ≤ e + (Nat.log2 m : Int) by omega),
          show (e + (Nat.log2 m : Int) - roundUnit f m e).toNat = f.fbits by omega]
      have := lt_of_mul_lt_mul_right ((h ▸ h3).trans_lt h2) hq.le
      exact Nat.lt_succ_iff.mp (by exact_mod_cast this)

theorem roundMag_zero (f : Fp) (md : Round) (neg : Bool) (e : Int) : f.roundMag md neg 0 e = 0 := if_pos rfl

/-- Rounding to zero gives the code of a binade and a multiple of its unit, the greatest at or below the value. -/
theorem roundMag_rz (f : Fp) (neg : Bool) (m : Nat) (e : Int) : ∃ d r, f.roundMag .rz neg m e = d * 2 ^ f.fbits + r ∧ r < 2 ^ (f.fbits + 1) ∧
    (d = 0 ∨ 2 ^ f.fbits ≤ r) ∧ (r : ℚ) * 2 ^ (f.qmin + d) ≤ m * 2 ^ e ∧ (m : ℚ) * 2 ^ e < (r + 1) * 2 ^ (f.qmin + d) := by
  by_cases hm : m = 0
  · subst hm
    refine ⟨0, 0, by rw [roundMag_zero]; omega, Nat.two_pow_pos _, .inl rfl, by simp, ?_⟩
    have : (0 : ℚ) < 2 ^ (f.qmin + (0 : Nat)) := zpow_pos (by norm_num) _
    push_cast at this ⊢
    linarith
  · obtain ⟨h1, h2⟩ := roundTo_rz neg m e (roundUnit f m e)
    obtain ⟨h3, h4⟩ := roundTo_rz_unit f neg hm e
    refine ⟨_, _, roundMag_eq f .rz neg hm e, h3, h4, ?_⟩
    have hu : f.qmin ≤ roundUnit f m e := le_max_right ..
    rw [Int.toNat_of_nonneg (by omega), add_sub_cancel]
    exact ⟨h1, h2⟩

/-- In an IEEE format, the greatest finite code is the last of the last binade. -/
theorem maxCode_eq {f : Fp} (hi : f.ieee = true) (he : 2 ≤ f.ebits) :
    f.maxCode = (2 ^ f.ebits - 3) * 2 ^ f.fbits + (2 ^ (f.fbits + 1) - 1) ∧ f.maxCode + 1 = (2 ^ f.ebits - 1) * 2 ^ f.fbits := by
  have h4 : 2 ^ 2 ≤ 2 ^ f.ebits := Nat.pow_le_pow_right (by omega) he
  have hP : 0 < 2 ^ f.fbits := Nat.two_pow_pos _
  have h2 : 2 ^ (f.fbits + 1) = 2 * 2 ^ f.fbits := by rw [pow_succ]; ring
  have hm : f.maxCode = (2 ^ f.ebits - 1) * 2 ^ f.fbits - 1 := by rw [Fp.maxCode, if_pos hi]
  have hs : (2 ^ f.ebits - 1) * 2 ^ f.fbits = (2 ^ f.ebits - 3) * 2 ^ f.fbits + 2 * 2 ^ f.fbits := by
    rw [← Nat.add_mul]
    congr 1
    omega
  omega

/-- Rounding to zero brackets a value: its code is the greatest of a finite value at or below, where that is a code of the format. -/
theorem mag_roundMag_rz {f : Fp} (hi : f.ieee = true) (he : 2 ≤ f.ebits) (neg : Bool) (m : Nat) (e : Int)
    (hl : f.roundMag .rz neg m e ≤ f.maxCode) :
    f.mag (f.roundMag .rz neg m e) ≤ m * 2 ^ e ∧
      (f.roundMag .rz neg m e = f.maxCode ∨ (m : ℚ) * 2 ^ e < f.mag (f.roundMag .rz neg m e + 1)) := by
  obtain ⟨d, r, h1, h2, h3, h4, h5⟩ := roundMag_rz f neg m e
  obtain ⟨-, hx⟩ := maxCode_eq hi he
  rw [h1] at hl ⊢
  constructor
  · rw [mag_binade hi h2.le h3 (by omega)]
    exact h4
  · by_cases hc : d * 2 ^ f.fbits + r = f.maxCode
    · exact .inl hc
    · right
      rw [Nat.add_assoc, mag_binade hi (by omega) (h3.imp_right (by omega)) (by omega)]
      exact_mod_cast h5

/-- The greatest finite value. -/
theorem mag_maxCode {f : Fp} (hi : f.ieee = true) (he : 2 ≤ f.ebits) :
    f.mag f.maxCode = ((2 ^ (f.fbits + 1) - 1 : Nat) : ℚ) * 2 ^ (f.qmin + ((2 ^ f.ebits - 3 : Nat) : Int)) := by
  obtain ⟨h1, h2⟩ := maxCode_eq hi he
  have hP : 0 < 2 ^ f.fbits := Nat.two_pow_pos _
  have h3 : 2 ^ (f.fbits + 1) = 2 * 2 ^ f.fbits := by rw [pow_succ]; ring
  rw [h1, mag_binade hi (by omega) (.inr (by omega)) (by omega)]

/-! ### Leading parts (R60): overflow, and the values on either side -/

/-- Rounding to nearest takes the multiple below, or the next one where something is left over. -/
theorem roundTo_rne_le (neg : Bool) (m : Nat) (e q : Int) :
    roundTo .rne neg m e q = roundTo .rz neg m e q ∨
      roundTo .rne neg m e q = roundTo .rz neg m e q + 1 ∧ q > e ∧ m % 2 ^ (q - e).toNat ≠ 0 := by
  unfold roundTo
  by_cases h : q ≤ e
  · simp [h]
  · by_cases h' : m % 2 ^ (q - e).toNat ≠ 0 ∧ Round.rne.away neg (m % 2 ^ (q - e).toNat) (q - e).toNat (m / 2 ^ (q - e).toNat % 2 == 1) = true
    · right
      refine ⟨?_, by omega, h'.1⟩
      simp only [if_neg h, if_pos h']
      rw [if_neg (by simp [Round.away])]
    · left
      simp only [if_neg h, if_neg h']
      rw [if_neg (by simp [Round.away])]

theorem roundMag_rz_le_rne (f : Fp) (neg : Bool) (m : Nat) (e : Int) : f.roundMag .rz neg m e ≤ f.roundMag .rne neg m e := by
  by_cases hm : m = 0
  · subst hm; simp [roundMag_zero]
  · rw [roundMag_eq f _ neg hm, roundMag_eq f _ neg hm]
    rcases roundTo_rne_le neg m e (roundUnit f m e) with h | ⟨h, -⟩ <;> omega

/-- A magnitude and the half above it are rounded to the same unit. -/
theorem roundUnit_half (f : Fp) {m : Nat} (hm : m ≠ 0) (e : Int) : roundUnit f (2 * m + 1) (e - 1) = roundUnit f m e := by
  have h : Nat.log2 (2 * m + 1) = Nat.log2 m + 1 := by
    rw [Nat.log2_eq_iff (by omega)]
    have h1 := Nat.log2_self_le hm
    have h2 : m < 2 ^ (m.log2 + 1) := Nat.lt_log2_self
    rw [pow_succ _ (m.log2 + 1), pow_succ _ m.log2] at *
    omega
  unfold roundUnit
  rw [h]
  congr 1
  push_cast
  ring

/-- Rounding to zero, a magnitude comes no higher than the half above it. -/
theorem roundMag_rz_le_half (f : Fp) (neg : Bool) (m : Nat) (e : Int) :
    f.roundMag .rz neg m e ≤ f.roundMag .rz neg (2 * m + 1) (e - 1) := by
  by_cases hm : m = 0
  · subst hm; simp [roundMag_zero]
  · rw [roundMag_eq f _ neg hm, roundMag_eq f _ neg (by omega), roundUnit_half f hm]
    refine Nat.add_le_add_left ?_ _
    have h1 := (roundTo_rz neg m e (roundUnit f m e)).1
    have h2 := (roundTo_rz neg (2 * m + 1) (e - 1) (roundUnit f m e)).2
    have hq : (0 : ℚ) < 2 ^ roundUnit f m e := zpow_pos (by norm_num) _
    have he : (0 : ℚ) < 2 ^ (e - 1) := zpow_pos (by norm_num) _
    have hle : (m : ℚ) * 2 ^ e ≤ ((2 * m + 1 : Nat) : ℚ) * 2 ^ (e - 1) := by
      rw [show e = e - 1 + 1 by ring, zpow_add_one₀ (by norm_num), add_sub_cancel_right]
      push_cast
      nlinarith
    have := lt_of_mul_lt_mul_right ((h1.trans hle).trans_lt h2) hq.le
    exact Nat.lt_succ_iff.mp (by exact_mod_cast this)

/-- A magnitude that rounding to nearest takes beyond the greatest finite value lies above it, in the last binade or beyond. -/
theorem overflow_lt {f : Fp} (hi : f.ieee = true) (he : 2 ≤ f.ebits) {neg : Bool} {m : Nat} {e : Int}
    (h : f.maxCode + 1 ≤ f.roundMag .rne neg m e) :
    m ≠ 0 ∧ f.qmin + ((2 ^ f.ebits - 3 : Nat) : Int) + f.fbits ≤ e + (Nat.log2 m : Int) ∧ f.mag f.maxCode < m * 2 ^ e := by
  have hm : m ≠ 0 := by rintro rfl; simp [roundMag_zero] at h
  have h4 : 2 ^ 2 ≤ 2 ^ f.ebits := Nat.pow_le_pow_right (by omega) he
  have hP : 0 < 2 ^ f.fbits := Nat.two_pow_pos _
  have h2 : 2 ^ (f.fbits + 1) = 2 * 2 ^ f.fbits := by rw [pow_succ]; ring
  obtain ⟨h3, -⟩ := roundTo_rz_unit f neg hm e
  obtain ⟨t1, t2⟩ := top_bounds hm e
  rw [roundMag_eq f _ neg hm, (maxCode_eq hi he).2] at h
  have hr := roundTo_rne_le neg m e (roundUnit f m e)
  have hu : roundUnit f m e = max (e + (Nat.log2 m : Int) - f.fbits) f.qmin := rfl
  generalize hd : (roundUnit f m e - f.qmin).toNat = d at h
  have hd3 : 2 ^ f.ebits - 3 ≤ d := by
    by_contra hn
    have := Nat.mul_le_mul_right (2 ^ f.fbits) (show d + 2 + 1 ≤ 2 ^ f.ebits - 1 by omega)
    simp only [Nat.add_mul] at this
    omega
  refine ⟨hm, by omega, ?_⟩
  rw [mag_maxCode hi he]
  have hq : (0 : ℚ) < 2 ^ (f.qmin + ((2 ^ f.ebits - 3 : Nat) : Int)) := zpow_pos (by norm_num) _
  rcases Nat.lt_or_ge (2 ^ f.ebits - 3) d with hlt | hge
  · refine lt_of_lt_of_le ?_ t1
    rw [two_zpow_of_le (show f.qmin + ((2 ^ f.ebits - 3 : Nat) : Int) ≤ e + (Nat.log2 m : Int) by omega)]
    refine mul_lt_mul_of_pos_right ?_ hq
    have := Nat.pow_le_pow_right (show 0 < 2 by omega)
      (show f.fbits + 1 ≤ (e + (Nat.log2 m : Int) - (f.qmin + ((2 ^ f.ebits - 3 : Nat) : Int))).toNat by omega)
    exact_mod_cast (by omega)
  · obtain rfl : d = 2 ^ f.ebits - 3 := by omega
    have hs : (2 ^ f.ebits - 1) * 2 ^ f.fbits = (2 ^ f.ebits - 3) * 2 ^ f.fbits + 2 * 2 ^ f.fbits := by
      rw [← Nat.add_mul]
      congr 1
      omega
    obtain ⟨hn, hqe, hrem⟩ : roundTo .rz neg m e (roundUnit f m e) = 2 ^ (f.fbits + 1) - 1 ∧ roundUnit f m e > e ∧
        m % 2 ^ (roundUnit f m e - e).toNat ≠ 0 := by
      rcases hr with hr | ⟨hr, hqe, hrem⟩
      · omega
      · exact ⟨by omega, hqe, hrem⟩
    have hunit : f.qmin + ((2 ^ f.ebits - 3 : Nat) : Int) = roundUnit f m e := by omega
    rw [hunit, ← hn, two_zpow_of_le (show e ≤ roundUnit f m e by omega), ← mul_assoc]
    refine mul_lt_mul_of_pos_right ?_ (zpow_pos (by norm_num) _)
    have hdef : roundTo .rz neg m e (roundUnit f m e) = m / 2 ^ (roundUnit f m e - e).toNat := by
      unfold roundTo
      rw [if_neg (by omega)]
      simp [Round.away]
    rw [hdef]
    have := Nat.div_add_mod' m (2 ^ (roundUnit f m e - e).toNat)
    exact_mod_cast (by omega)

/-- A number with an odd count of units at or below half above another, with units of its own, is at or below that other: `2^p - 1` units of
`2^q` below `(m + 1/2) 2^e` are at most `m 2^e`, unless that is zero with a unit beyond them. -/
theorem odd_units_le {p m : Nat} {q e : Int} (hm : m ≠ 0 ∨ e ≤ q + p)
    (h : ((2 ^ p - 1 : Nat) : ℚ) * 2 ^ q < ((2 * m + 1 : Nat) : ℚ) * 2 ^ (e - 1)) : ((2 ^ p - 1 : Nat) : ℚ) * 2 ^ q ≤ m * 2 ^ e := by
  have hp := Nat.two_pow_pos p
  rcases le_or_gt e q with hq | hq
  · rw [two_zpow_of_le (show e - 1 ≤ q by omega), ← mul_assoc] at h
    have h1 := lt_of_mul_lt_mul_right h (zpow_pos (by norm_num) _).le
    rw [two_zpow_of_le hq, ← mul_assoc]
    refine mul_le_mul_of_nonneg_right ?_ (zpow_pos (by norm_num) _).le
    rw [show (q - (e - 1)).toNat = (q - e).toNat + 1 by omega] at h1
    have h2 : (2 ^ p - 1) * 2 ^ ((q - e).toNat + 1) < 2 * m + 1 := by exact_mod_cast h1
    rw [pow_succ, ← mul_assoc] at h2
    have h3 : (2 ^ p - 1) * 2 ^ (q - e).toNat ≤ m := by omega
    exact_mod_cast h3
  · rw [two_zpow_of_le (show q ≤ e - 1 by omega), ← mul_assoc] at h
    have h1 := lt_of_mul_lt_mul_right h (zpow_pos (by norm_num) _).le
    rw [two_zpow_of_le hq.le, ← mul_assoc]
    refine mul_le_mul_of_nonneg_right ?_ (zpow_pos (by norm_num) _).le
    generalize hj : (e - 1 - q).toNat = j at h1
    rw [show (e - q).toNat = j + 1 by omega]
    have h2 : 2 ^ p - 1 < (2 * m + 1) * 2 ^ j := by exact_mod_cast h1
    have h3 : 2 ^ p - 1 ≤ m * 2 ^ (j + 1) := by
      rcases le_or_gt (j + 1) p with hjp | hjp
      · have e1 : 2 ^ p = 2 * 2 ^ (p - (j + 1)) * 2 ^ j := by
          rw [mul_assoc, ← pow_add, ← pow_succ']
          congr 1
          omega
        have h5 : 2 * 2 ^ (p - (j + 1)) ≤ 2 * m + 1 := by
          refine Nat.le_of_mul_le_mul_right (c := 2 ^ j) ?_ (Nat.two_pow_pos j)
          omega
        have h6 := Nat.mul_le_mul_right (2 ^ (j + 1)) (show 2 ^ (p - (j + 1)) ≤ m by omega)
        rw [← pow_add, Nat.sub_add_cancel hjp] at h6
        omega
      · have h5 : 1 ≤ m := by omega
        have h6 := Nat.mul_le_mul h5 (Nat.pow_le_pow_right (show 0 < 2 by omega) hjp.le)
        omega
    exact_mod_cast h3

/-- Two magnitudes compared by what they come to at the lesser of their exponents. -/
theorem magEq_iff (m n : Nat) (e g : Int) : Lead.bracket.magEq m e n g = true ↔ (m : ℚ) * 2 ^ e = n * 2 ^ g := by
  have h : (0 : ℚ) < 2 ^ min e g := zpow_pos (by norm_num) _
  rw [two_zpow_of_le (min_le_left e g), two_zpow_of_le (min_le_right e g), ← mul_assoc, ← mul_assoc, mul_left_inj' h.ne']
  simp only [Lead.bracket.magEq, beq_iff_eq]
  exact ⟨fun h => by exact_mod_cast h, fun h => by exact_mod_cast h⟩

theorem signed_inj {f : Fp} {neg : Bool} {a b : Nat} (h : f.signed neg a = f.signed neg b) : a = b := by
  unfold Fp.signed at h
  split at h <;> omega

theorem signed_ite (f : Fp) (neg : Bool) (p : Prop) [Decidable p] (a b : Nat) :
    f.signed neg (if p then a else b) = f.signed neg a ∨ f.signed neg (if p then a else b) = f.signed neg b := by
  split
  · exact .inl rfl
  · exact .inr rfl

/-- The magnitude that stands for a leading part when it is rounded to nearest (R60): itself, or the half above. -/
def Lead.half (l : Lead) : Nat × Int := if l.more then (2 * l.m + 1, l.e - 1) else (l.m, l.e)

theorem nearest_eq (l : Lead) (f : Fp) : l.nearest f = f.signed l.neg (min (f.roundMag .rne l.neg l.half.1 l.half.2) (f.maxCode + 1)) := by
  unfold Lead.nearest Lead.half
  split <;> rfl

theorem nearest_overflow_iff (l : Lead) (f : Fp) :
    l.nearest f = f.signed l.neg (f.maxCode + 1) ↔ f.maxCode + 1 ≤ f.roundMag .rne l.neg l.half.1 l.half.2 := by
  rw [nearest_eq]
  exact ⟨fun h => by have := signed_inj h; omega, fun h => by rw [min_eq_right h]⟩

/-- Rounding to zero, a leading part comes no higher than what stands for it comes to nearest. -/
theorem roundMag_rz_le_nearest (l : Lead) (f : Fp) : f.roundMag .rz l.neg l.m l.e ≤ f.roundMag .rne l.neg l.half.1 l.half.2 := by
  unfold Lead.half
  split
  · exact (roundMag_rz_le_half ..).trans (roundMag_rz_le_rne ..)
  · exact roundMag_rz_le_rne ..

/-- A leading part that is zero, with something more, is below 1. -/
structure Lead.Small (l : Lead) : Prop where
  exp_le : l.more = true → l.m = 0 → l.e ≤ 0

/-- A leading part that rounds beyond the greatest finite value is at or above it. -/
theorem overflow_le {f : Fp} (hi : f.ieee = true) (he : 2 ≤ f.ebits) (hb : f.bias + 1 < 2 ^ f.ebits) {l : Lead} (hl : l.Small)
    (h : f.maxCode + 1 ≤ f.roundMag .rne l.neg l.half.1 l.half.2) :
    f.mag f.maxCode ≤ l.m * 2 ^ l.e ∧ (l.more = false → f.mag f.maxCode ≠ l.m * 2 ^ l.e) := by
  obtain ⟨h1, h2, h3⟩ := overflow_lt hi he h
  unfold Lead.half at h1 h2 h3
  cases hm : l.more
  · simp only [hm, Bool.false_eq_true, if_false] at h3
    exact ⟨h3.le, fun _ => h3.ne⟩
  · simp only [hm, if_true] at h2 h3
    refine ⟨?_, fun h => absurd h (by simp)⟩
    rw [mag_maxCode hi he] at h3 ⊢
    refine odd_units_le ?_ h3
    by_cases h0 : l.m = 0
    · have := hl.exp_le hm h0
      have hq : f.qmin = 1 - (f.bias : Int) - f.fbits := rfl
      rw [h0, show Nat.log2 (2 * 0 + 1) = 0 by decide] at h2
      omega
    · exact .inl h0

/-- One of the two values that bracket a leading part, and the value itself where it is representable (R60, R215). -/
theorem bracket_spec {f : Fp} (hi : f.ieee = true) (he : 2 ≤ f.ebits) (hb : f.bias + 1 < 2 ^ f.ebits) {l : Lead} (hl : l.Small) (up : Bool) :
    ∃ lo, lo ≤ f.maxCode ∧ f.mag lo ≤ l.m * 2 ^ l.e ∧ (lo = f.maxCode ∨ (l.m : ℚ) * 2 ^ l.e < f.mag (lo + 1)) ∧
      (l.bracket f up = f.signed l.neg lo ∨ l.bracket f up = f.signed l.neg (lo + 1)) ∧
      (l.more = false → f.mag lo = l.m * 2 ^ l.e → l.bracket f up = f.signed l.neg lo) := by
  by_cases hn : l.nearest f = f.signed l.neg (f.maxCode + 1)
  · obtain ⟨h1, h2⟩ := overflow_le hi he hb hl ((nearest_overflow_iff l f).mp hn)
    have hv : l.bracket f up = f.signed l.neg (f.maxCode + 1) := by
      unfold Lead.bracket
      rw [if_pos hn]
      exact hn
    exact ⟨_, le_rfl, h1, .inl rfl, .inr hv, fun hm h => absurd h (h2 hm)⟩
  · have hle : f.roundMag .rz l.neg l.m l.e ≤ f.maxCode := by
      have := roundMag_rz_le_nearest l f
      rw [nearest_overflow_iff] at hn
      omega
    obtain ⟨h1, h2⟩ := mag_roundMag_rz hi he l.neg l.m l.e hle
    refine ⟨_, hle, h1, h2, ?_, fun hm hx => ?_⟩
    · unfold Lead.bracket
      rw [if_neg hn]
      exact signed_ite ..
    · unfold Lead.bracket
      rw [if_neg hn]
      obtain ⟨d, r, e1, e2, e3, -⟩ := roundMag_rz f l.neg l.m l.e
      obtain ⟨n, g, e4, e5⟩ := decode_binade hi e2.le e3 (by have := (maxCode_eq hi he).2; omega)
      rw [← e1] at e4
      rw [Fp.mag, e4] at hx
      simp only [e4, hm, (magEq_iff ..).mpr hx, Bool.not_false, Bool.true_and, Bool.true_or, if_true]

/-! ### The leading parts of the functions (R60, R61) -/

/-- The exponent of a value of f32, bf16 or f16. -/
theorem decode_exp {ty : Nat} (h : ty ≤ 2) {c : Nat} {neg : Bool} {m : Nat} {e : Int} (hd : (fpOf ty).decode c = .fin neg m e) :
    -149 ≤ e ∧ e ≤ 125 := by
  have hb : bits c (fpOf ty).fbits (fpOf ty).ebits < 2 ^ (fpOf ty).ebits := Nat.mod_lt _ (Nat.two_pow_pos _)
  have hq : -149 ≤ (fpOf ty).qmin ∧ (fpOf ty).qmin + (2 ^ (fpOf ty).ebits : Nat) ≤ 123 := by
    interval_cases ty <;> decide
  unfold Fp.decode at hd
  dsimp only at hd
  (repeat' split at hd) <;> simp only [Num.fin.injEq, reduceCtorEq] at hd <;> omega

theorem expFrom_ge (r n i t : Nat) (h : n ≠ 0) : t ≤ expFrom r n i t := by
  cases n with
  | zero => exact absurd rfl h
  | succ n => exact Nat.le_add_right ..

/-- A power of e keeps a leading part (R60): the series begins with 1. -/
theorem small_leadFx_expFx (neg : Bool) (r : Nat) (k : Int) : (leadFx neg (expFx r) k).Small := by
  refine ⟨fun _ h0 => ?_⟩
  have h : one_ ≤ expFx r := expFrom_ge r 160 0 one_ (by omega)
  have hd : 2 ^ drop ≤ one_ := Nat.pow_le_pow_right (by omega) (by decide)
  have hp : expFx r / 2 ^ drop ≠ 0 := (Nat.div_pos (hd.trans h) (Nat.two_pow_pos _)).ne'
  exact absurd h0 hp

/-- A fixed-point value of no great exponent is a small leading part. -/
theorem small_leadFx (neg : Bool) (v : Nat) {k : Int} (h : k ≤ 600) : (leadFx neg v k).Small := by
  refine ⟨fun _ _ => ?_⟩
  simp only [leadFx, fxp, drop]
  omega

theorem small_leadExact (neg : Bool) (m : Nat) (e : Int) : (leadExact neg m e).Small := ⟨fun h => nomatch h⟩

theorem small_leadTiny (neg : Bool) : (leadTiny neg).Small := ⟨fun _ _ => by simp [leadTiny]⟩

theorem small_leadHuge (neg : Bool) : (leadHuge neg).Small := ⟨fun _ h => absurd h Nat.one_ne_zero⟩

theorem small_leadBelow (neg : Bool) (m : Nat) {e : Int} (h : e ≤ 200) : (leadBelow neg m e).Small :=
  ⟨fun _ _ => show e - 200 ≤ 0 by omega⟩

/-- The binary exponent of e to a power at or below zero. -/
theorem expSplit_nonpos {x : Int} (h : x ≤ 0) : (expSplit x).1 ≤ 0 := by
  simp only [expSplit]
  generalize ln2Fx = n
  rcases Nat.eq_zero_or_pos n with rfl | hn
  · exact (Int.ediv_zero x).le
  · exact Int.ediv_nonpos_of_nonpos_of_neg h (by exact_mod_cast hn)

theorem sigmFx_nonpos (neg : Bool) (m : Nat) (e : Int) : (sigmFx neg m e).1 ≤ 0 := by
  have h : (expSplit (-(toFx m e : Int))).1 ≤ 0 := expSplit_nonpos (by generalize toFx m e = n; omega)
  cases neg
  · simp [sigmFx]
  · simpa only [sigmFx, if_true] using h

/-- The leading part of a function of a value of f32, bf16 or f16 is small where it is zero with something more. -/
theorem sfValue_small {func ty : Nat} (ht : ty ≤ 2) {c : Nat} {l : Lead} (h : sfValue func ((fpOf ty).decode c) = .inr l) : l.Small := by
  cases hd : (fpOf ty).decode c with
  | nan => rw [hd] at h; cases h
  | inf neg => rw [hd] at h; cases h
  | fin neg m e =>
    obtain ⟨h1, h2⟩ := decode_exp ht hd
    rw [hd] at h
    unfold sfValue at h
    dsimp only at h
    by_cases hm : m = 0
    · rw [if_pos hm] at h; cases h
    rw [if_neg hm] at h
    (repeat' split at h) <;> cases h
    · unfold leadExp2
      dsimp only
      (repeat' split)
      · exact small_leadTiny _
      · exact small_leadHuge _
      · exact small_leadExact ..
      · exact small_leadFx_expFx ..
    · unfold leadExp
      (repeat' split)
      · exact small_leadTiny _
      · exact small_leadHuge _
      · exact small_leadFx_expFx ..
    · unfold leadLog2
      split
      · exact small_leadExact ..
      · exact small_leadFx _ _ (by omega)
    · unfold leadLn
      split
      · exact small_leadExact ..
      · exact small_leadFx _ _ (by omega)
    · exact ⟨fun _ _ => show -e - 200 ≤ 0 by omega⟩
    · refine ⟨fun _ _ => ?_⟩
      simp only [leadRsqrt]
      split <;> omega
    · refine ⟨fun _ _ => ?_⟩
      simp only [leadSqrt]
      split <;> omega
    · exact small_leadFx _ _ (by omega)
    · exact small_leadFx _ _ (by omega)
    · unfold leadTanh
      split
      · exact small_leadBelow _ _ (by omega)
      · exact small_leadFx _ _ (by omega)
    · unfold leadSigm
      (repeat' split)
      · exact small_leadTiny _
      · exact small_leadBelow _ _ (by omega)
      · exact small_leadFx _ _ ((sigmFx_nonpos ..).trans (by omega))
    · unfold leadGelu
      split
      · split
        · exact small_leadTiny _
        · exact small_leadBelow _ _ (by omega)
      · exact small_leadFx _ _ (by omega)
    · unfold leadSilu
      (repeat' split)
      · exact small_leadTiny _
      · exact small_leadBelow _ _ (by omega)
      · exact small_leadFx _ _ (by have := sigmFx_nonpos neg m e; omega)
    · unfold leadErf
      split
      · exact small_leadBelow _ _ (by omega)
      · exact small_leadFx _ _ (by omega)

/-! ### The F class (R60, R62, R215) -/

/-- An F syllable applies its function lane by lane. -/
theorem special_performs {s : State} {c x pa : Nat} {pk : List Nat} {i : Instr} {f : Nat} {w t : BitVec 2} {d a : BitVec 5} {m : BitVec 3}
    (h : Ready s c x pa pk) (he : (encode i).isSome = true) (hs : semOf i = special i f w t d a m) (wf : i.wf = true)
    (u : Usable s c x pa (semOf i)) :
    let r : List Src := [.v a.toNat, .m m.toNat]
    let n := widthOf w.toNat / laneSize t.toNat
    Performs s c x pk i ((popped s c x pa r).writeV d.toNat (laneMask (laneSize t.toNat) n (predBit (arg s c x pa r 1) (laneSize t.toNat)))
      (lanes (laneSize t.toNat) n (fun j => sfLane f t.toNat (s.core c).sfDegraded (lane (argV s c x pa r 0) (laneSize t.toNat) j))) (now s c) 10) := by
  intro r n
  have hd : ((base s c x pa r).core c).sfDegraded = (s.core c).sfDegraded := (base_core s c x pa r).1.sfDegraded
  refine performs_of_plain (f := fun y => y.writeV d.toNat (laneMask (laneSize t.toNat) n (predBit (arg s c x pa r 1) (laneSize t.toNat)))
    (lanes (laneSize t.toNat) n (fun j => sfLane f t.toNat (s.core c).sfDegraded (lane (argV s c x pa r 0) (laneSize t.toNat) j))) (now s c) 10)
    h u he hs ⟨rfl, rfl, rfl, rfl, rfl, rfl, fun _ _ => rfl, fun _ _ => rfl, fun _ _ => rfl⟩ wf rfl (fun _ => writeV_ops ..) fun b => ?_
  rw [← hd, ← env_now s c x pa pk (special i f w t d a m)]
  rfl

/-- The formats of the F class: IEEE ones, with an exponent that reaches beyond 1. -/
theorem fpOf_ieee {ty : Nat} (h : ty ≤ 2) : (fpOf ty).ieee = true ∧ 2 ≤ (fpOf ty).ebits ∧ (fpOf ty).bias + 1 < 2 ^ (fpOf ty).ebits := by
  interval_cases ty <;> decide

/-- A lane of f32, or in degraded mode, is one of the two values that bracket the leading part; a lane of bf16 or f16 is the nearest. -/
theorem sfLane_of_lead {func ty c : Nat} {degraded : Bool} {l : Lead} (h : sfValue func ((fpOf ty).decode c) = .inr l)
    (hz : ¬(func ≤ 1 ∧ l.nearest (fpOf ty) = 0)) :
    (ty ≠ 0 ∧ degraded = false → sfLane func ty degraded c = l.nearest (fpOf ty)) ∧
      (¬(ty ≠ 0 ∧ degraded = false) → ∃ up, sfLane func ty degraded c = l.bracket (fpOf ty) up) := by
  simp only [sfLane, h, if_neg hz]
  refine ⟨fun ⟨h0, hd⟩ => by rw [if_neg h0, if_neg (by simp [hd])], fun hn => ?_⟩
  by_cases h0 : ty = 0
  · exact ⟨_, if_pos h0⟩
  · have hd : degraded = true := by simpa [h0] using hn
    exact ⟨_, by rw [if_neg h0, if_pos hd]⟩

/-- Settles O18: the fourteen functions are one syllable's shape; a lane of theirs is the special result, or the nearest value, or by `bracket_spec`
one of the two on either side of the exact one. -/
theorem specialFunctionResults : Obligations.SpecialFunctionResults := by
  refine ⟨fun s c x pa pk w t d a m h => ?_, fun func ty c degraded hf ht => ?_⟩
  · intro r size n degraded q hq wf u
    simp only [List.mem_cons, List.not_mem_nil, or_false] at hq
    rcases hq with rfl | rfl | rfl | rfl | rfl | rfl | rfl | rfl | rfl | rfl | rfl | rfl | rfl | rfl <;>
      exact special_performs h rfl rfl wf u
  · intro F val
    obtain ⟨hi, he, hb⟩ := fpOf_ieee ht
    cases hv : sfValue func (F.decode c) with
    | inl v => simp only [sfLane, show sfValue func ((fpOf ty).decode c) = .inl v from hv]; rfl
    | inr l =>
      dsimp only
      by_cases hz : func ≤ 1 ∧ l.nearest F = 0
      · rw [if_pos hz]
        simp only [sfLane, show sfValue func ((fpOf ty).decode c) = .inr l from hv]
        exact if_pos hz
      · rw [if_neg hz]
        obtain ⟨h1, h2⟩ := sfLane_of_lead (degraded := degraded) hv hz
        by_cases hn : ty ≠ 0 ∧ degraded = false
        · rw [if_pos hn]
          exact h1 hn
        · rw [if_neg hn]
          obtain ⟨up, hup⟩ := h2 hn
          rw [hup]
          exact bracket_spec hi he hb (sfValue_small ht hv) up

end Sys2Proof.Machine

namespace Sys2Proof.Machine

open Sys2Proof.Claim

/-! ### What a packing syllable finds: the format register, `lfsr` and its draws (R47, R51) -/

theorem base_free (s : State) (c x pa : Nat) (r : List Src) : (base s c x pa r).free = s.free := by
  simp [base, State.landed, State.putCtx, State.putCore]

theorem env_xf (s : State) (c x pa : Nat) (pk : List Nat) (m : Sem) (k : Nat) : (env s c x pa pk m).xf k = xfAt s c x pa m.srcs k := by
  unfold Env.xf
  rw [env_now, show (env s c x pa pk m).snap = base s c x pa m.srcs from rfl, base_free]
  rfl

theorem env_draws (s : State) (c x pa : Nat) (pk : List Nat) (m : Sem) (n : Nat) (hx : x < 4) :
    (env s c x pa pk m).draws n = lfsrRun n (popped s c x pa m.srcs).lfsr := by
  rw [Env.draws, env_ctx _ _ _ _ _ _ hx]

/-- Under stochastic rounding `lfsr` steps once per element (R51). -/
def Ctx.stepped (v : Ctx) (xf : W32) (n : Nat) : Ctx := if xfRound xf = 2 then { v with lfsr := (lfsrRun n v.lfsr).getLastD v.lfsr } else v

theorem env_stepLfsr {s : State} {c x pa : Nat} {pk : List Nat} {m : Sem} (xf : W32) (n : Nat) (hx : x < 4)
    (hs : (env s c x pa pk m).sprs = []) :
    (env s c x pa pk m).stepLfsr xf n (popped s c x pa m.srcs) = (popped s c x pa m.srcs).stepped xf n := by
  simp [Env.stepLfsr, Ctx.stepped, hs, env_draws _ _ _ _ _ _ _ hx]

theorem stepLfsr_ops (e : Env) (xf : W32) (n : Nat) (v : Ctx) : (e.stepLfsr xf n v).ops = v.ops := by
  unfold Env.stepLfsr
  split <;> rfl

/-- Lanes agree where their elements below `n` do. -/
theorem lanes_congr {size n : Nat} {f g : Nat → Nat} (h : ∀ i, i < n → f i = g i) : lanes size n f = lanes size n g := by
  unfold lanes
  congr 1
  exact List.foldr_ext _ _ _ fun i hi a => by rw [h i (List.mem_range.mp hi)]

/-- An element of a mapped range. -/
theorem getD_map_range {α : Type} (n : Nat) (f : Nat → α) (d : α) {j : Nat} (h : j < n) : ((List.range n).map f).getD j d = f j := by
  rw [List.getD_eq_getElem _ _ (by simpa using h)]
  simp

theorem q4Piece_getD (sub : Nat) (codes scales : V1024) (p : Nat) {j : Nat} (h : j < 32) :
    (q4Piece sub codes scales p).getD j none = decodeQ4 sub (bits scales.toNat (8 * (4 * p + j / 8)) 8) (pieceElem codes 4 p j) :=
  getD_map_range 32 _ none h

theorem narrowPiece_getD (xf : W32) (v : V1024) (p : Nat) {j : Nat} (h : j < pieceCount (xfBits xf)) :
    (narrowPiece xf v p).getD j none = decodeNarrow xf (pieceElem v (xfBits xf) p j) :=
  getD_map_range _ _ none h

section

variable {s : State} {c x pa : Nat} {pk : List Nat} (d a : BitVec 5) (p : BitVec 3) (k : BitVec 2)

/-! ### Unpacking (R216, R218) -/

theorem unpk_performs (i : BitVec 6) (h : Ready s c x pa pk) (wf : (Instr.unpk d a p k i).wf = true) (u : Usable s c x pa (semOf (.unpk d a p k i))) :
    let src := fpOf (i.toNat % 16)
    let ty := i.toNat / 16
    Performs s c x pk (.unpk d a p k i) ((popped s c x pa [.v a.toNat]).writeV d.toNat (laneMask (laneSize ty) (pieceCount src.width) (fun _ => true))
      (lanes (laneSize ty) (pieceCount src.width) (fun q =>
        (fpOf ty).encode (src.decode (pieceElem (argV s c x pa [.v a.toNat] 0) src.width p.toNat q)))) (now s c) 4) := by
  have q := performs_of_plainUpd h rfl u wf ⟨rfl, rfl, rfl, rfl, rfl, rfl, fun _ _ => rfl, fun _ _ => rfl, fun _ _ => rfl⟩ (fun _ _ => rfl)
    (fun _ _ => writeV_ops ..)
  rw [env_now] at q
  exact q

theorem semUnpks_act (t : BitVec 2) (e : Env) (s : State) : (semUnpks d a p k t).act e s =
    e.upd s (fun v => v.writeV d.toNat (laneMask (laneSize t.toNat) 32 (fun _ => true)) (lanes (laneSize t.toNat) 32 (fun j =>
      (fpOf t.toNat).encode (((q4Piece (xfSub (e.xf k.toNat)) (e.v 0) (e.v 1) p.toNat).getD j none).getD .nan))) e.now 4) := rfl

theorem unpks_performs (t : BitVec 2) (h : Ready s c x pa pk) (cl : Clear s c x pa pk (semOf (.unpks d a p k t))) :
    let r : List Src := [.v a.toNat, .v (a.toNat + 1)]
    Performs s c x pk (.unpks d a p k t) ((popped s c x pa r).writeV d.toNat (laneMask (laneSize t.toNat) 32 (fun _ => true))
      (lanes (laneSize t.toNat) 32 (fun q => (fpOf t.toNat).encode ((decodeQ4 (xfSub (xfAt s c x pa r k.toNat))
        (bits (argV s c x pa r 1).toNat (8 * (4 * p.toNat + q / 8)) 8) (pieceElem (argV s c x pa r 0) 4 p.toNat q)).getD .nan))) (now s c) 4) := by
  intro r
  have q := performs_of_upd h rfl cl (semUnpks_act d a p k t) (fun _ _ => rfl) (fun _ _ => writeV_ops ..)
  rw [env_now, env_xf] at q
  rw [← lanes_congr fun j hj => congrArg (fun y : Option Num => (fpOf t.toNat).encode (y.getD .nan)) (q4Piece_getD _ _ _ _ hj)]
  exact q

theorem unpki_performs (g : BitVec 4) (h : Ready s c x pa pk) (cl : Clear s c x pa pk (semOf (.unpki d a p k g))) :
    let r : List Src := [.v a.toNat]
    let xf := xfAt s c x pa r k.toNat
    let w := xfBits xf
    Performs s c x pk (.unpki d a p k g) ((popped s c x pa r).writeV d.toNat (laneMask (laneSize g.toNat) (pieceCount w) (fun _ => true))
      (lanes (laneSize g.toNat) (pieceCount w) (fun q => intBits g.toNat ((decodeNarrow xf (pieceElem (argV s c x pa r 0) w p.toNat q)).getD 0)))
      (now s c) 4) := by
  intro r xf w
  have q := performs_of_upd h rfl cl (fun _ _ => rfl) (fun _ _ => rfl) (fun _ _ => writeV_ops ..)
  rw [env_now, env_xf] at q
  rw [← lanes_congr fun j hj => congrArg (fun y : Option Int => intBits g.toNat (y.getD 0)) (narrowPiece_getD _ _ _ hj)]
  exact q

/-! ### Packing (R217, R219) -/

theorem pack_performs (i : BitVec 6) (h : Ready s c x pa pk) (cl : Clear s c x pa pk (semOf (.pack d a p k i))) :
    let r : List Src := [.v a.toNat]
    let v := popped s c x pa r
    let xf := xfAt s c x pa r k.toNat
    let dst := fpOf (i.toNat % 16)
    Performs s c x pk (.pack d a p k i) ((v.stepped xf 16).writeV d.toNat (pieceMask dst.width p.toNat) (pieceOf dst.width p.toNat (fun q =>
      dst.narrow (xfMode xf ((lfsrRun 16 v.lfsr).getD q 0)) (xfInfKeep xf) (laneNum (i.toNat / 16) (argV s c x pa r 0) q))) (now s c) 4) := by
  intro r v xf dst
  have hs : (env s c x pa pk (semOf (.pack d a p k i))).sprs = [] := rfl
  have q := performs_of_upd h rfl cl (fun _ _ => rfl) (fun _ _ => rfl) (fun _ _ => (writeV_ops ..).trans (stepLfsr_ops ..))
  simp only [env_now, env_xf, env_stepLfsr _ _ (pick_lt h.turn) hs, Env.mode, env_draws _ _ _ _ _ _ _ (pick_lt h.turn)] at q
  exact q

theorem packs_performs (t j : BitVec 2) (h : Ready s c x pa pk) (cl : Clear s c x pa pk (semOf (.packs d a p k t j))) :
    let r : List Src := [.v a.toNat]
    let v := popped s c x pa r
    let V := argV s c x pa r 0
    let xf := xfAt s c x pa r k.toNat
    let es := (List.range 4).map (q4BlockScale t.toNat j.toNat V)
    Performs s c x pk (.packs d a p k t j) (((v.stepped xf 32).writeV d.toNat (pieceMask 4 p.toNat) (pieceOf 4 p.toNat (fun q =>
      encodeQ4 (xfMode xf ((lfsrRun 32 v.lfsr).getD q 0)) j.toNat (es.getD (q / 8) 0) (laneNum t.toNat V q))) (now s c) 4).writeV (d.toNat + 1)
        (scaleMask p.toNat) (scaleBytes p.toNat (fun b => q4Byte j.toNat (es.getD b 0))) (now s c) 4) := by
  intro r v V xf es
  have hs : (env s c x pa pk (semOf (.packs d a p k t j))).sprs = [] := rfl
  have q := performs_of_upd h rfl cl (fun _ _ => rfl) (fun _ _ => rfl)
    (fun _ _ => (writeV_ops ..).trans ((writeV_ops ..).trans (stepLfsr_ops ..)))
  simp only [env_now, env_xf, env_stepLfsr _ _ (pick_lt h.turn) hs, Env.mode, env_draws _ _ _ _ _ _ _ (pick_lt h.turn)] at q
  exact q

theorem pkmax_performs (t j : BitVec 2) (h : Ready s c x pa pk) (wf : (Instr.pkmax d a p k t j).wf = true)
    (u : Usable s c x pa (semOf (.pkmax d a p k t j))) :
    let r : List Src := [.v a.toNat]
    Performs s c x pk (.pkmax d a p k t j) ((popped s c x pa r).writeV d.toNat (scaleMask p.toNat)
      (scaleBytes p.toNat (fun b => q4Byte j.toNat (q4BlockScale t.toNat j.toNat (argV s c x pa r 0) b))) (now s c) 4) := by
  have q := performs_of_plainUpd h rfl u wf ⟨rfl, rfl, rfl, rfl, rfl, rfl, fun _ _ => rfl, fun _ _ => rfl, fun _ _ => rfl⟩ (fun _ _ => rfl)
    (fun _ _ => writeV_ops ..)
  rw [env_now] at q
  exact q

theorem packi_performs (g : BitVec 4) (h : Ready s c x pa pk) (cl : Clear s c x pa pk (semOf (.packi d a p k g))) :
    let r : List Src := [.v a.toNat]
    let v := popped s c x pa r
    let xf := xfAt s c x pa r k.toNat
    let w := xfBits xf
    Performs s c x pk (.packi d a p k g) ((v.stepped xf (pieceCount w)).writeV d.toNat (pieceMask w p.toNat) (pieceOf w p.toNat (fun q =>
      wrapTo w ((laneNum g.toNat (argV s c x pa r 0) q).toIntSat (xfMode xf ((lfsrRun (pieceCount w) v.lfsr).getD q 0)) (xfLo xf) (xfHi xf))))
      (now s c) 4) := by
  intro r v xf w
  have hs : (env s c x pa pk (semOf (.packi d a p k g))).sprs = [] := rfl
  have q := performs_of_upd h rfl cl (fun _ _ => rfl) (fun _ _ => rfl) (fun _ _ => (writeV_ops ..).trans (stepLfsr_ops ..))
  simp only [env_now, env_xf, env_stepLfsr _ _ (pick_lt h.turn) hs, Env.mode, env_draws _ _ _ _ _ _ _ (pick_lt h.turn)] at q
  exact q

end

/-- Settles O19, syllable by syllable. -/
theorem packUnpackResults : Obligations.PackUnpackResults := by
  intro s c x pa pk d a p k i t j g h
  exact ⟨unpk_performs d a p k i h, unpks_performs d a p k t h, unpki_performs d a p k g h, pack_performs d a p k i h, packs_performs d a p k t j h,
    pkmax_performs d a p k t j h, packi_performs d a p k g h⟩

end Sys2Proof.Machine

namespace Sys2Proof.Machine

open Sys2Proof.Claim

/-! ### Engine format registers (R47, R248) -/

/-- With nothing of its own due after its effects, a performed bundle leaves of its core all but the context, the clock and the turn. -/
theorem done_core {s : State} {c x pa : Nat} {pk : List Nat} {m : Sem} {w : Ctx} (hx : x < 4)
    (hf : m.flow (env s c x pa pk m) (base s c x pa m.srcs) = .next)
    (hw : (m.act (env s c x pa pk m) (base s c x pa m.srcs)).ctx c x = w) (hi : w.innerReady = none) :
    ∃ cs i b y, (done s c x pa pk m).core c =
      ({ (m.act (env s c x pa pk m) (base s c x pa m.srcs)).core c with ctxs := cs } : Core).counted i b y := by
  generalize hT : m.act (env s c x pa pk m) (base s c x pa m.srcs) = T at hw ⊢
  have hs : (T.modCtx c x (fun w => { w with preps := nextPreps w [(posOf s c x, m)] })).settleOps c x =
      T.modCtx c x (fun w => { w with preps := nextPreps w [(posOf s c x, m)] }) := by
    apply settleOps_of_none
    rw [State.ctx_modCtx_self _ _ _ _ hx, hw, ← hi]
    exact innerReady_congr rfl
  simp only [done, hT, hf, hs, State.goOn]
  refine ⟨_, _, _, _, by rw [core_issued_self, State.core_modCtx_self, State.core_modCtx_self]; rfl⟩

/-- A write of `xf` comes into force three cycles after its issue, the latest to its register last (R47). -/
theorem landXf_last (k : Core) (l : List (Nat × W32 × Nat)) (j n : Nat) (v : W32) (t : Nat) (h : k.xfSets = l ++ [(j, v, t)]) :
    (n < t + 3 → (j, v, t) ∈ (k.landXf n).xfSets) ∧ (t + 3 ≤ n → j < 4 → vget (k.landXf n).xf j 0 = v) := by
  constructor
  · intro hn
    simp only [Core.landXf, h, List.mem_filter, List.mem_append, List.mem_singleton, or_true, true_and]
    simpa using hn
  · intro hn hj
    simp only [Core.landXf, h, List.filter_append, List.filter_singleton, hn, decide_true, cond_true, List.foldl_append, List.foldl_cons,
      List.foldl_nil]
    exact vget_vset_self _ _ _ _ hj

/-- `setxf` adds its write to those on their way. -/
theorem setxf_performs {s : State} {c x pa : Nat} {pk : List Nat} (k : BitVec 2) (r : BitVec 5) (h : Ready s c x pa pk)
    (u : Usable s c x pa (semOf (.setxf k r))) (hz : (arg s c x pa [.s r.toNat] 0).toNat / 2 ^ 17 % 2 ^ 15 = 0) :
    let A := arg s c x pa [.s r.toNat] 0
    ∃ t, exec (.setxf k r) s = .next t ∧ SameOutside s t ∧ t.ctx c x = onward s c x pk (.setxf k r) (popped s c x pa [.s r.toNat]) ∧
      (t.core c).xfSets = ((base s c x pa [.s r.toNat]).core c).xfSets ++ [(k.toNat, A.setWidth 32, now s c)] := by
  intro A
  have hx := pick_lt h.turn
  have hc : (semOf (.setxf k r)).check (env s c x pa pk (semOf (.setxf k r))) (base s c x pa [.s r.toNat]) = [] :=
    need_eq_nil.mpr (beq_iff_eq.mpr hz)
  have cl := clear_of_bare u rfl rfl rfl rfl rfl rfl rfl hc rfl rfl
  have ha : (semOf (.setxf k r)).act (env s c x pa pk (semOf (.setxf k r))) (base s c x pa [.s r.toNat]) =
      (base s c x pa [.s r.toNat]).modCore c (fun q => { q with xfSets := q.xfSets ++ [(k.toNat, A.setWidth 32, now s c)] }) := by
    rw [← env_now s c x pa pk (semOf (.setxf k r))]; rfl
  have hcore := (congrArg (fun t : State => t.core c) ha).trans (State.core_modCore_self ..)
  have hw := (congrArg (fun q : Core => q.ctx x) hcore).trans (base_ctx s c x pa [.s r.toNat] hx)
  have hi := popped_innerReady (s := s) (pa := pa) [.s r.toNat] h
  obtain ⟨d1, d2⟩ := done_ctx (pk := pk) (m := semOf (.setxf k r)) hx rfl hw hi
  obtain ⟨v, i, b, y, d3⟩ := done_core (pk := pk) (m := semOf (.setxf k r)) hx rfl hw hi
  refine ⟨_, by rw [exec_issue _ s rfl]; exact issueOne_done h cl, ?_, d2, ?_⟩
  · refine (SameOutside.base s c x pa [.s r.toNat]).trans (.trans ?_ d1.outside)
    rw [show (semOf (.setxf k r)).srcs = [.s r.toNat] from rfl, ha]
    exact .modCore ..
  · rw [d3]
    exact congrArg Core.xfSets hcore

/-! ### Stream descriptors (R244 to R247) -/

@[simp] theorem applySet_sets (v : Ctx) (w : PendingSet) : (v.applySet w).sets = v.sets := by
  unfold Ctx.applySet; (repeat' split) <;> rfl

theorem foldl_applySet_sets (l : List PendingSet) (v : Ctx) : (l.foldl Ctx.applySet v).sets = v.sets := by
  induction l generalizing v with
  | nil => rfl
  | cons w l ih => rw [List.foldl_cons, ih, applySet_sets]

theorem landSets_sets (v : Ctx) (n : Nat) : (v.landSets n).sets = v.sets.filter (fun w => !decide (w.at_ + 3 ≤ n)) := foldl_applySet_sets _ _

/-- A write of `sset` comes into force three cycles after its issue, the latest last (R245). -/
theorem landSets_last (v : Ctx) (l : List PendingSet) (q : PendingSet) (n : Nat) :
    (n < q.at_ + 3 → q ∈ ({ v with sets := l ++ [q] }.landSets n).sets) ∧
      (q.at_ + 3 ≤ n → { v with sets := l ++ [q] }.landSets n = ({ v with sets := l }.landSets n).applySet q) := by
  constructor
  · intro hn
    rw [landSets_sets]
    exact List.mem_filter.mpr ⟨List.mem_append_right _ (List.mem_singleton_self q), by simpa using hn⟩
  · intro hn
    simp only [Ctx.landSets, List.filter_append, List.filter_singleton, hn, decide_true, Bool.not_true, cond_true, cond_false,
      List.foldl_append, List.foldl_cons, List.foldl_nil, List.append_nil]

theorem pushLqs_ops (v : Ctx) (w : W64) : (v.pushLqs w).ops = v.ops := rfl

/-- The fields that `sget` extends by sign are of 32 bits, as two's complement reads them (R244). -/
theorem ofInt_sbits (d : Nat) : BitVec.ofInt 64 (sbits d 0 32) = (BitVec.ofNat 32 d).signExtend 64 := by
  rw [BitVec.signExtend]
  congr 1
  simp only [sbits, bits, pow_zero, Nat.div_one, BitVec.toInt_eq_toNat_cond, BitVec.toNat_ofNat]
  split <;> split <;> omega

/-- What `sget` pushes, field by field (R244). -/
theorem getStream_eq (v : Ctx) (a c : Nat) : v.getStream a c = if c = 30 then vget v.lb a 0 else if c = 31 then v.sg.setWidth 64
    else if c ∈ [10, 12, 18, 19] then (BitVec.ofNat (fieldPlace c).2 (getField (vget v.a a 0) c)).signExtend 64
    else BitVec.ofNat 64 (getField (vget v.a a 0) c) := by
  unfold Ctx.getStream
  split
  · rfl
  split
  · rfl
  by_cases h : c ∈ [10, 12, 18, 19]
  · rw [if_pos h]
    simp only [List.mem_cons, List.not_mem_nil, or_false] at h
    rcases h with rfl | rfl | rfl | rfl <;> exact ofInt_sbits _
  · have hs : fieldSigned c = false := by simpa [fieldSigned, not_or, and_assoc] using h
    rw [if_neg h]
    simp [hs]

/-- With no `sset` in its window, a bundle sees its streams as they are (R245). -/
theorem seeSets_of_nil {v : Ctx} (h : v.sets = []) (free : Nat) : v.seeSets free = v := by simp [Ctx.seeSets, h]

section

variable {s : State} {c x pa : Nat} {pk : List Nat}

theorem semSset_act (a : BitVec 4) (f r : BitVec 5) (e : Env) (s : State) : (semSset a f r).act e s =
    e.upd s (fun v => { v with sets := v.sets ++ [{ reg := a.toNat, code := f.toNat, val := e.s 0, at_ := e.now }] }) := rfl

theorem sset_performs (a : BitVec 4) (f r : BitVec 5) (h : Ready s c x pa pk) (cl : Clear s c x pa pk (semOf (.sset a f r))) :
    let u := popped s c x pa [.s r.toNat]
    Performs s c x pk (.sset a f r) { u with
      sets := u.sets ++ [{ reg := a.toNat, code := f.toNat, val := arg s c x pa [.s r.toNat] 0, at_ := now s c }] } := by
  have p := performs_of_upd h rfl cl (semSset_act a f r) (fun _ _ => rfl) (fun _ _ => rfl)
  rw [env_now] at p
  exact p

theorem sget_performs (a : BitVec 4) (f : BitVec 5) (h : Ready s c x pa pk) (cl : Clear s c x pa pk (semOf (.sget a f)))
    (hs : (view s c x pa).sets = []) :
    Performs s c x pk (.sget a f) ((popped s c x pa []).pushLqs ((popped s c x pa []).getStream a.toNat f.toNat)) := by
  have p := performs_of_upd h rfl cl (fun _ _ => rfl) (fun _ _ => rfl) (fun _ _ => pushLqs_ops ..)
  have hv : (popped s c x pa (semOf (.sget a f)).srcs).sets = [] := hs
  rw [env_ctx _ _ _ _ _ _ (pick_lt h.turn), seeSets_of_nil hv] at p
  exact p

/-- A context with the two sectors of a descriptor on their way, in place of the writes of its stream still in their window (R247). -/
def Ctx.loadsStream (v : Ctx) (a : Nat) (bs : List (Nat × Nat)) (pc va : Nat) : Ctx :=
  let w := { v with sets := v.sets.filter (fun q => !(q.reg == a && decide (q.code < 30))) }
  (w.pushOp (.sld a) (bs.take 32) [] 0 0 pc va).pushOp (.sld a) (bs.drop 32) [] 0 0 pc (va + 32)

theorem loadsStream_innerReady {v : Ctx} (a : Nat) (bs : List (Nat × Nat)) (pc va : Nat) (h : v.innerReady = none) :
    (v.loadsStream a bs pc va).innerReady = none := by
  have h1 : (({ v with sets := v.sets.filter (fun q => !(q.reg == a && decide (q.code < 30))) } : Ctx).pushOp (.sld a) (bs.take 32) [] 0 0 pc va).innerReady
      = none := innerReady_push h rfl (.inl rfl)
  exact innerReady_push h1 rfl (.inl rfl)

theorem sld_performs {pas : List Nat} (a : BitVec 4) (r : BitVec 5) (h : Ready s c x pa pk) (cl : Clear s c x pa pk (semOf (.sld a r)))
    (hp : (base s c x pa [.s r.toNat]).xlatSpan c (s.rootAt c x) (arg s c x pa [.s r.toNat] 0).toNat 64 .read = .ok pas) :
    let A := arg s c x pa [.s r.toNat] 0
    A.toNat % 64 = 0 ∧
      Performs s c x pk (.sld a r) ((popped s c x pa [.s r.toNat]).loadsStream a.toNat (pas.zip (List.range 64)) (s.ctx c x).pc A.toNat) := by
  intro A
  have hc := (List.append_eq_nil_iff.mp cl.checks).1
  rw [need_eq_nil, beq_iff_eq] at hc
  refine ⟨hc, performs_of_noted (f := fun v => v.loadsStream a.toNat (pas.zip (List.range 64)) (s.ctx c x).pc A.toNat) h rfl cl rfl ?_
    (noted_note (env s c x pa pk (semOf (.sld a r))) _ x A.toNat 64) (loadsStream_innerReady _ _ _ _ (popped_innerReady _ h))⟩
  have e : (env s c x pa pk (semOf (.sld a r))).phys (base s c x pa [.s r.toNat]) A.toNat 64 .read = pas := env_phys hp
  rw [← e]
  rfl

/-! ### The channel table (R357, R368) -/

/-- A context with the four words of a channel's entry pushed, lowest first (R368). -/
def Ctx.pushEntry (v : Ctx) (w : Nat) : Ctx := [0, 1, 2, 3].foldl (fun (v : Ctx) (i : Nat) => v.pushLqs (BitVec.ofNat 64 (w / 2 ^ (64 * i)))) v

theorem pushEntry_ops (v : Ctx) (w : Nat) : (v.pushEntry w).ops = v.ops := by
  simp only [Ctx.pushEntry, List.foldl_cons, List.foldl_nil, pushLqs_ops]

theorem semChget_act (ch : BitVec 8) (e : Env) (s : State) :
    (semChget ch).act e s = e.upd s (fun v => v.pushEntry (s.chanEntry e.c ch.toNat).toNat) := by
  have hb : ∀ w i, BitVec.ofNat 64 (bits w (64 * i) 64) = BitVec.ofNat 64 (w / 2 ^ (64 * i)) := fun w i => by
    apply BitVec.eq_of_toNat_eq
    simp [bits]
  unfold semChget
  simp only [hb]
  rfl

theorem chget_performs (ch : BitVec 8) (h : Ready s c x pa pk) (cl : Clear s c x pa pk (semOf (.chget ch))) :
    Performs s c x pk (.chget ch) ((popped s c x pa []).pushEntry ((base s c x pa []).chanEntry c ch.toNat).toNat) :=
  performs_of_noted (f := fun v => v.pushEntry ((base s c x pa []).chanEntry c ch.toNat).toNat) h rfl cl rfl (semChget_act ..) (.refl ..)
    ((innerReady_congr (pushEntry_ops ..)).trans (popped_innerReady [] h))

end

/-! ### Tables read by key -/

/-- A table of the keys of a list that `p` picks, each with its own value. -/
theorem tget_map_filter {α : Type} (l : List Nat) (p : Nat → Bool) (g : Nat → α) (k : Nat) :
    tget ((l.filter p).map (fun n => (n, g n))) k = if k ∈ l ∧ p k = true then some (g k) else none := by
  induction l with
  | nil => simp [tget]
  | cons n l ih =>
    by_cases hp : p n = true
    · rw [List.filter_cons_of_pos hp, List.map_cons, tget, ih]
      by_cases hk : k = n
      · subst hk; simp [hp]
      · simp [hk]
    · rw [List.filter_cons_of_neg hp, ih]
      by_cases hk : k = n
      · subst hk; simp [hp]
      · simp [hk]

/-- Entries put one after another: a key of the list has its own value, another reads as before. -/
theorem tget_foldl_tput {α : Type} (l : List Nat) (g : Nat → α) (t : Table α) (k : Nat) :
    tget (l.foldl (fun t n => tput t n (g n)) t) k = if k ∈ l then some (g k) else tget t k := by
  induction l generalizing t with
  | nil => simp
  | cons n l ih =>
    rw [List.foldl_cons, ih]
    by_cases hl : k ∈ l
    · simp [hl]
    · by_cases hk : k = n
      · subst hk; simp [hl]
      · simp [hl, hk, tget_tput_other _ _ _ _ hk]

theorem mem_of_tget {α : Type} {t : Table α} {k : Nat} {v : α} (h : tget t k = some v) : (k, v) ∈ t := by
  induction t with
  | nil => simp [tget] at h
  | cons e t ih =>
    obtain ⟨j, w⟩ := e
    simp only [tget] at h
    split at h
    · next hk => subst hk; obtain rfl := Option.some.inj h; exact List.mem_cons_self ..
    · exact List.mem_cons_of_mem _ (ih h)

theorem tget_filter_of_some {α : Type} {t : Table α} {p : Nat × α → Bool} {k : Nat} {v : α} (h : tget t k = some v) (hp : p (k, v) = true) :
    tget (t.filter p) k = some v := by
  induction t with
  | nil => simp [tget] at h
  | cons e t ih =>
    obtain ⟨j, w⟩ := e
    by_cases hk : k = j
    · subst hk
      simp only [tget, if_true] at h
      obtain rfl := Option.some.inj h
      simp [hp, tget]
    · simp only [tget, hk, if_false] at h
      by_cases hq : p (j, w) = true
      · simp [hq, tget, hk, ih h]
      · simp [hq, ih h]

/-! ### `chset` (R357, R368) -/

/-- Entry `n` of an image of the channel table. -/
def imageEntry (bs : List Byte) (n : Nat) : ChanEntry := BitVec.ofNat 256 (leNat ((bs.drop (32 * n)).take 32))

theorem imageEntries_zip (bs : List Byte) :
    (imageEntries bs).zip (List.range 256) = (List.range 256).map (fun n => (imageEntry bs n, n)) := by
  have h := List.zip_map' (l := List.range 256) (f := imageEntry bs) (g := id)
  rwa [List.map_id] at h

/-- An entry as it is loaded: IDLE, with its done and send sequences as the image has them. -/
def loadedEntry (e : ChanEntry) : ChanEntry := chanWord e (chDone e) (chPosted e) 0

/-- A core's channel table loaded from an image. -/
def Core.loadImage (k : Core) (bs : List Byte) (a root : Nat) : Core :=
  { k with
    lostChans := k.deadChans
    chans := ((List.range 256).filter (fun n => imageEntry bs n != 0)).map (fun n => (n, loadedEntry (imageEntry bs n)))
    chanImage := some a, chanRoot := root }

/-- The live channels of the module once core `c` has loaded an image: its own are those the image uses. -/
def imageChannels (t : Table Channel) (c a root : Nat) (bs : List Byte) : Table Channel :=
  ((List.range 256).filter (fun n => chDepth (imageEntry bs n) != 0)).foldl (fun t n => tput t n (Channel.load c a root n (imageEntry bs n)))
    (t.filter (fun h => h.2.core != c || decide (256 ≤ h.1)))

theorem loadImage_entry (k : Core) (bs : List Byte) (a root : Nat) {n : Nat} (h : n < 256) :
    (tget (k.loadImage bs a root).chans n).getD 0 = loadedEntry (imageEntry bs n) := by
  show (tget (((List.range 256).filter (fun n => imageEntry bs n != 0)).map (fun n => (n, loadedEntry (imageEntry bs n)))) n).getD 0 = _
  rw [tget_map_filter]
  cases h0 : imageEntry bs n != 0
  · have h1 : imageEntry bs n = 0 := by simpa using h0
    have h2 : loadedEntry 0 = 0 := by decide
    rw [if_neg (by simp), h1, h2]
    rfl
  · rw [if_pos ⟨List.mem_range.mpr h, rfl⟩]
    rfl

section

variable (t : Table Channel) (c a root : Nat) (bs : List Byte) {n : Nat}

theorem imageChannels_used (hn : n < 256) (h : chDepth (imageEntry bs n) ≠ 0) :
    tget (imageChannels t c a root bs) n = some (Channel.load c a root n (imageEntry bs n)) := by
  rw [imageChannels, tget_foldl_tput]
  simp [hn, h]

theorem imageChannels_unused (h : chDepth (imageEntry bs n) = 0) :
    tget (imageChannels t c a root bs) n = tget (t.filter (fun h => h.2.core != c || decide (256 ≤ h.1))) n := by
  rw [imageChannels, tget_foldl_tput]
  simp [h]

theorem imageChannels_notOwn (hn : n < 256) (h : chDepth (imageEntry bs n) = 0) {v : Channel} (hv : tget (imageChannels t c a root bs) n = some v) :
    v.core ≠ c := by
  rw [imageChannels_unused t c a root bs h] at hv
  have hm := (List.mem_filter.mp (mem_of_tget hv)).2
  have h256 : ¬256 ≤ n := by omega
  simpa [h256] using hm

theorem imageChannels_other (h : chDepth (imageEntry bs n) = 0) {v : Channel} (hv : tget t n = some v) (hc : v.core ≠ c) :
    tget (imageChannels t c a root bs) n = some v := by
  rw [imageChannels_unused t c a root bs h]
  exact tget_filter_of_some hv (by simp [hc])

end

theorem semChset_act (r : BitVec 5) (e : Env) (s : State) {bs : List Byte} (h : s.readRecord e.c e.x (e.s 0).toNat 8192 = .ok bs) :
    (semChset r).act e s = { (e.note s (e.s 0).toNat 8192).modCore e.c (fun k => k.loadImage bs (e.s 0).toNat e.root) with
      channels := imageChannels (e.note s (e.s 0).toNat 8192).channels e.c (e.s 0).toNat e.root bs } := by
  have hb : e.recordBytes s (e.s 0).toNat 8192 = bs := by simp only [Env.recordBytes, h]
  have h1 : ∀ f : ChanEntry → Bool, ((List.range 256).map (fun n => (imageEntry bs n, n))).filter (fun p => f p.1) =
      ((List.range 256).filter (fun n => f (imageEntry bs n))).map (fun n => (imageEntry bs n, n)) := fun f => by
    rw [List.filter_map]; rfl
  unfold semChset
  simp only [hb, imageEntries_zip, h1 (fun q => q != 0), h1 (fun q => chDepth q != 0), List.map_map, List.foldl_map]
  rfl

/-- `chset` loads the table and the live channels of its core. -/
theorem chset_performs {s : State} {c x pa : Nat} {pk : List Nat} {bs : List Byte} (r : BitVec 5) (h : Ready s c x pa pk)
    (cl : Clear s c x pa pk (semOf (.chset r)))
    (hr : (base s c x pa [.s r.toNat]).readRecord c x (arg s c x pa [.s r.toNat] 0).toNat 8192 = .ok bs) :
    let A := (arg s c x pa [.s r.toNat] 0).toNat
    ∃ (t : State) (k : Core), exec (.chset r) s = .next t ∧ t.mem = s.mem ∧ t.ctx c x = onward s c x pk (.chset r) (popped s c x pa [.s r.toNat]) ∧
      KeptCore (k.loadImage bs A (s.rootAt c x)) (t.core c) ∧ t.channels = imageChannels s.channels c A (s.rootAt c x) bs ∧
      ∀ c', c' ≠ c → t.core c' = s.core c' := by
  intro A
  have hx := pick_lt h.turn
  generalize hE : env s c x pa pk (semOf (.chset r)) = E
  generalize hB : base s c x pa [.s r.toNat] = B
  have hN : Noted B (E.note B A 8192) c x := by rw [← hE]; exact noted_note _ B x A 8192
  have hsB : OnlyCtx s B c x := by rw [← hB]; exact .base ..
  have hroot : E.root = s.rootAt c x := by rw [← hE]; exact env_root ..
  have ha : (semOf (.chset r)).act E B = { (E.note B A 8192).modCore c (fun k => k.loadImage bs A (s.rootAt c x)) with
      channels := imageChannels s.channels c A (s.rootAt c x) bs } := by
    rw [← hroot, ← hsB.outside.channels, ← hN.only.outside.channels]
    have e := semChset_act r E B (bs := bs) (by rw [← hE, ← hB]; exact hr)
    rw [← hE] at e ⊢
    exact e
  generalize hT : (semOf (.chset r)).act E B = T at ha
  have hT' : T.cores = ((E.note B A 8192).modCore c (fun k => k.loadImage bs A (s.rootAt c x))).cores := by rw [ha]
  have hcore : T.core c = ((E.note B A 8192).core c).loadImage bs A (s.rootAt c x) := by
    rw [core_of_cores hT', State.core_modCore_self]
  have hw : T.ctx c x = popped s c x pa [.s r.toNat] := by
    rw [State.ctx, hcore]
    exact hN.ctx.trans (by rw [← hB]; exact base_ctx _ _ _ _ _ hx)
  obtain ⟨d1, d2⟩ := done_ctx (pa := pa) (pk := pk) (m := semOf (.chset r)) (w := popped s c x pa [.s r.toNat]) hx rfl
    (by rw [hE]; exact (by rw [← hB] at hT; exact hT ▸ hw)) (popped_innerReady _ h)
  have d : OnlyCtx T (done s c x pa pk (semOf (.chset r))) c x := by
    rw [← hT, ← hE, ← hB]; exact d1
  refine ⟨_, (E.note B A 8192).core c, by rw [exec_issue _ s rfl]; exact issueOne_done h cl, ?_, d2, hcore ▸ d.core, ?_, fun j hj => ?_⟩
  · rw [d.outside.mem, ha]
    exact hN.only.outside.mem.trans hsB.outside.mem
  · rw [d.outside.channels, ha]
  · rw [d.cores j hj, core_of_cores hT', State.core_modCore_other _ _ _ _ hj]
    exact ((hN.only.cores j hj).trans (hsB.cores j hj))

/-- Settles O34: each syllable by what it leaves; the windows of three cycles by the write that lands last. -/
theorem streamAndChannelTableResults : Obligations.StreamAndChannelTableResults := by
  refine ⟨fun s c x pa pk k a r f pas h => ?_, fun s c x pa pk r ch h => ⟨?_, chget_performs ch h⟩⟩
  · intro u A
    refine ⟨fun us hz => ?_, fun cl => ?_, fun cl hs => ?_, fun cl hp => sld_performs a r h cl hp⟩
    · obtain ⟨t, h1, h2, h3, h4⟩ := setxf_performs k r h us hz
      have hl := fun n => landXf_last (t.core c) _ k.toNat n (A.setWidth 32) (now s c) h4
      exact ⟨t, h1, h2, h3, h4, fun n hn => (hl n).1 hn, fun n hn => (hl n).2 hn k.isLt⟩
    · intro q w
      exact ⟨sset_performs a f r h cl, fun n => (landSets_last w u.sets q n).1, fun n => (landSets_last w u.sets q n).2⟩
    · have p := sget_performs a f h cl hs
      rw [getStream_eq] at p
      exact p
  · intro A bs cl hr e w
    obtain ⟨t, k, h1, h2, h3, h4, h5, h6⟩ := chset_performs r h cl hr
    refine ⟨t, h1, h2, h3, h4.chanImage, h4.chanRoot, fun n hn => ⟨?_, fun hd v hv => ?_, fun hd => ?_⟩, fun n v hv hc hn hd => ?_,
      fun j hj => by rw [h6 j hj]⟩
    · rw [h4.chans]
      exact loadImage_entry k bs A _ hn
    · rw [h5] at hv
      exact imageChannels_notOwn _ c A _ bs hn hd hv
    · rw [h5]
      exact ⟨_, imageChannels_used _ c A _ bs hn hd, rfl, rfl, rfl, rfl, rfl, rfl, rfl, rfl, rfl, rfl, rfl⟩
    · rw [h5]
      exact imageChannels_other _ c A _ bs hd hv hc

end Sys2Proof.Machine

namespace Sys2Proof.Machine

open Sys2Proof.Claim

/-! ### Products: the next k-chunk (R53, R54, R329; O41) -/

theorem accLost_eq_false {s : State} {c a : Nat} (h : s.accLost c a = false) :
    (s.core c).lostAccs.contains a = false ∧ (s.core c).accGone a = false := by
  simpa [State.accLost] using h

/-- What an accumulator's element holds before a chunk is added (R53). -/
def State.chunkOld (s : State) (c acc : Nat) (m : Cmd) (i j : Nat) : Nat :=
  if m.prog = 0 then (if m.flags % 2 = 1 then 0 else s.cell c acc i j) else ((tget m.part (i * 128 + j)).getD 0).toNat

/-- The sums of a product of `d0` × `d1` once a chunk of its rows and columns is added (R53, R54). -/
def State.chunkSums (s : State) (c acc : Nat) (m : Cmd) (isInt : Bool) (d0 d1 : Nat) (rows cols : List (List Machine.Num)) : Table W32 :=
  (List.range (d0 * d1)).map (fun (t : Nat) => (t / d1 * 128 + t % d1, BitVec.ofNat 32
    (chunkAdd isInt (s.chunkOld c acc m (t / d1) (t % d1)) (dotTerms (rows.getD (t / d1) []) (cols.getD (t % d1) [])))))

/-- The core whose accumulator `acc` holds the sums of a product. -/
def Core.summed (k : Core) (acc : Nat) (isInt : Bool) (sums : Table W32) : Core :=
  let v := vget k.accs acc Acc.zero
  { k.accFresh acc with accs := vset k.accs acc { v with isInt := isInt, cells := sums.foldl (fun t e => cellPut t e.1 e.2) v.cells } }

theorem productStep_eq {s : State} {c acc : Nat} {m : Cmd} {a b : Geo} {rows cols : List (List Machine.Num)} {d : Nat × Nat × Nat} {k0 k1 : Nat}
    (ha : m.src = some a) (hb : m.src2 = some b) (hacc : m.acc = some acc) (hl : s.accLost c acc = false) (hd : matDims (m.kind == .mmasp) a b = d)
    (hk0 : m.prog * chunkLen (matClass a.fmt) = k0) (hk1 : min (k0 + chunkLen (matClass a.fmt)) d.2.2 = k1)
    (hc : s.productChase c m a b m.src3 d.1 d.2.1 k0 k1 = none)
    (hr : allOk ((List.range d.1).map (fun (i : Nat) => s.rowA c m.team a m.src3 i k0 k1)) = .ok rows)
    (hcol : allOk ((List.range d.2.1).map (fun (j : Nat) => s.colB c m.team b j k0 k1)) = .ok cols) :
    s.productStep c m =
      let sums := s.chunkSums c acc m (matClass a.fmt == 3) d.1 d.2.1 rows cols
      .done (if k1 < d.2.2 then s.putCmd c { m with prog := m.prog + 1, part := sums }
        else (s.modCore c (fun k => k.summed acc (matClass a.fmt == 3) sums)).dropCmd c m) := by
  subst hd hk0 hk1
  obtain ⟨hl1, hl2⟩ := accLost_eq_false hl
  simp only [State.productStep, ha, hb, hacc, hl1, hl2, Bool.false_and, Bool.or_self, Bool.false_eq_true, if_false, hc, hr, hcol]
  split <;> rfl

theorem modCore_summed_acc (s : State) (c acc b : Nat) (m : Cmd) (isInt : Bool) (sums : Table W32) :
    vget (((s.modCore c (fun k => k.summed acc isInt sums)).dropCmd c m).core c).accs b Acc.zero =
      (vget ((s.core c).summed acc isInt sums).accs b Acc.zero).freed m.id := by
  rw [dropCmd_acc, State.core_modCore_self]

theorem exec_mmaComplete {s t : State} {c id : Nat} {m : Cmd} (hp : s.powered = true) (h : s.runningCmd c id isProduct = some m)
    (ht : s.productStep c m = .done t) : exec (.mmaComplete c id) s = .next t.tick :=
  (happen_eq (fun s => s.mmaComplete c id) hp).trans (by simp only [State.mmaComplete, h, ht, Stepped.orElse])

theorem summed_drop (s : State) (c acc : Nat) (m : Cmd) (isInt : Bool) (sums : Table W32) (hlt : acc < 4) :
    let t := (s.modCore c (fun k => k.summed acc isInt sums)).dropCmd c m
    t.mem = s.mem ∧ (t.core c).cmd m.id = none ∧ (vget (t.core c).accs acc Acc.zero).isInt = isInt ∧
      (vget (t.core c).accs acc Acc.zero).cells = sums.foldl (fun z q => cellPut z q.1 q.2) (vget (s.core c).accs acc Acc.zero).cells ∧
      ∀ b, b ≠ acc → (vget (t.core c).accs b Acc.zero).cells = (vget (s.core c).accs b Acc.zero).cells := by
  intro t
  have hv : vget ((s.core c).summed acc isInt sums).accs acc Acc.zero = _ := vget_vset_self _ _ _ _ hlt
  refine ⟨rfl, dropCmd_cmd .., ?_, ?_, fun b hb => ?_⟩
  · rw [modCore_summed_acc, (freed_cells _ _).2, hv]
  · rw [modCore_summed_acc, (freed_cells _ _).1, hv]
  · rw [modCore_summed_acc, (freed_cells _ _).1]
    exact congrArg Acc.cells (vget_vset_other _ _ _ _ _ hb)

/-! ### Rows of a drain (R310, R338; O41) -/

theorem exec_drainRow {s t : State} {c id : Nat} {m : Cmd} (hp : s.powered = true) (h : s.runningCmd c id (fun k => k == .drain) = some m)
    (hr : isRed m = false) (ht : s.drainStep c m = .done t) : exec (.drainRow c id) s = .next t.tick :=
  (happen_eq (fun s => s.drainRow c id) hp).trans (by simp only [State.drainRow, h, hr, Bool.false_eq_true, if_false, ht, Stepped.orElse])

/-- A drain whose row is written, and whose support record where one is asked for, has done the row. -/
theorem drainStep_eq {s t u : State} {c a y : Nat} {m w : Cmd} {g : Geo} {r : ProjRow} {rel sup : Bool} {last : Option (Nat × Nat)} (hg : m.dst = some g)
    (ha : m.acc = some a) (hl : s.accLost c a = false) (hy : m.prog / g.d0 = y)
    (hpr : projectRow m.pset m.pj ((List.range g.d0).map (fun (x : Nat) => s.cell c a y x)) = r) (hrel : (m.flags / 8 % 2 == 1) = rel)
    (hsup : (m.flags % 2 == 1) = sup)
    (hlast : (if rel && !sup && lastRow m g y then
      ((List.range g.d0).reverse.find? (fun x => g.place g.org x y y g.clamp false true != .drop)).map (fun x => (x, m.val.toNat)) else none) = last)
    (hw : writeRow c (s.cmdRoot c m) m.team y g m.skip (r.y.map (drainCode (vget (s.core c).accs a Acc.zero).isInt g)) last (List.range g.d0) s = .ok t)
    (hs : if sup then (if rel && lastRow m g y then t.beforeLast c m.val.toNat else t).support c (s.cmdRoot c m) m g y r = .ok (u, w) else u = t ∧ w = m) :
    s.drainStep c m = u.rowDone c w g y rel := by
  subst hy hpr hrel hlast
  simp only [State.drainStep, hg, ha, hl, Bool.false_eq_true, if_false, rowOr, hsup, hw, Bool.not_false, Bool.and_true]
  cases sup with
  | true => simp only [if_true] at hs ⊢; simp only [hs]
  | false => obtain ⟨rfl, rfl⟩ := hs; rfl

/-! ### Rows of a `padj` (R323, R342; O41) -/

/-- Chase conditions that all hold hinder nothing. -/
theorem chaseHindrance_met {α : Type} (tag : Nat) (f : α → Chase) (l : List α) (h : ∀ x ∈ l, f x = .met) : chaseHindrance tag (l.map f) = none := by
  induction l with
  | nil => rfl
  | cons x r ih =>
    rw [List.map_cons, h x List.mem_cons_self]
    exact ih fun y hy => h y (List.mem_cons_of_mem _ hy)

theorem exec_padjRow {s t : State} {c id : Nat} {m : Cmd} (hp : s.powered = true) (h : s.runningCmd c id (fun k => k == .padj) = some m)
    (ht : s.padjStep c m = .done t) : exec (.padjRow c id) s = .next t.tick :=
  (happen_eq (fun s => s.padjRow c id) hp).trans (by simp only [State.padjRow, h, ht, Stepped.orElse])

theorem padjWrite_eq {s t : State} {c root y : Nat} {m : Cmd} {d : Geo} {row : List Nat}
    (hw : writeRow c root (m.team) y d m.skip row none (m.columns d) s = .ok t) :
    s.padjWrite c root m d y (.ok row) = t.rowDone c (m.keepRow d y row) d y false := by
  have hw' : writeRow c root (m.keepRow d y row).team y d (m.keepRow d y row).skip row none (m.columns d) s = .ok t := hw
  simp only [State.padjWrite, rowOr, hw']

/-- A `padj` whose row is kept, or is computed now, writes it: from the state that has come to what it reads. -/
theorem padjStep_eq {s s1 : State} {c v : Nat} {m : Cmd} {d g r : Geo} {row : List Nat} (hd : m.dst = some d) (hg : m.src = some g) (hr : m.src2 = some r)
    (hs1 : s1 = if (m.keptRow d (m.prog / d.d0)).isSome then s else s.padjReach c (s.cmdRoot c m) d g r (m.prog / d.d0))
    (h : m.keptRow d (m.prog / d.d0) = some row ∨ m.keptRow d (m.prog / d.d0) = none ∧ s.padjChase c m.team g r (m.prog / d.d0) = none ∧
      s1.padjRecord c (s.cmdRoot c m) m d r (m.prog / d.d0) = .ok v ∧
      (bits v 195 1 = 1 → ∀ x, x < d.d0 → s1.elemChase c m.team d x (m.prog / d.d0) = .met) ∧
      s1.padjRowOf c (s.cmdRoot c m) m d g (m.prog / d.d0) v = .ok row) :
    s.padjStep c m = s1.padjWrite c (s.cmdRoot c m) m d (m.prog / d.d0) (.ok row) := by
  rcases h with hk | ⟨hk, hc, hrec, hel, hrow⟩
  · rw [hk] at hs1
    subst hs1
    simp only [State.padjStep, hd, hg, hr, hk]
  · rw [hk] at hs1
    subst hs1
    have hel' : (if bits v 195 1 = 1 then chaseHindrance d.chaseTag ((List.range d.d0).map (fun x =>
        (s.padjReach c (s.cmdRoot c m) d g r (m.prog / d.d0)).elemChase c m.team d x (m.prog / d.d0))) else none) = none := by
      split
      · next hb => exact chaseHindrance_met _ _ _ fun x hx => hel hb x (List.mem_range.mp hx)
      · rfl
    simp only [Option.isSome_none, Bool.false_eq_true, if_false] at hrec hrow
    simp only [State.padjStep, hd, hg, hr, hk, hc, hrec, hel', hrow]
    rfl

/-- Settles O41: each clause is the step of its engine where nothing hinders it. -/
theorem matrixAndProjectionEvents : Obligations.MatrixAndProjectionEvents := by
  unfold Obligations.MatrixAndProjectionEvents
  intro s c id m hp
  refine ⟨?_, ?_, ?_⟩
  · intro a b acc rows cols h ha hb hacc hl d k0 k1 hc hr hcol old sums
    have hstep := productStep_eq ha hb hacc hl rfl rfl rfl hc hr hcol
    refine ⟨fun hk => ?_, fun hk hlt => ?_⟩
    · exact exec_mmaComplete hp h (hstep.trans (congrArg Stepped.done (if_pos hk)))
    · exact ⟨_, exec_mmaComplete hp h (hstep.trans (congrArg Stepped.done (if_neg (Nat.not_lt.mpr hk)))),
        summed_drop s c acc m (matClass a.fmt == 3) sums hlt⟩
  · intro g a t u w h hred hg ha hl root y r rel sup lastPut hw hs last
    have hlast : (if (m.flags / 8 % 2 == 1) && !sup && lastRow m g y then lastPut.map (fun x => (x, m.val.toNat)) else none) =
        if rel && !sup then lastPut.map (fun (x : Nat) => (x, m.val.toNat)) else none := by
      rw [Bool.and_right_comm]
    exact exec_drainRow hp h hred (drainStep_eq hg ha hl rfl rfl rfl rfl hlast hw hs)
  · intro d g r v row t h hd hg hr root y s1 hrow hw w last
    have hstep := padjStep_eq hd hg hr rfl hrow
    refine exec_padjRow hp h (hstep.trans ((padjWrite_eq hw).trans ?_))
    unfold State.rowDone
    rw [Bool.and_false]
    rfl

end Sys2Proof.Machine

namespace Sys2Proof.Machine

open Sys2Proof.Claim

/-! ### Copies: the next piece (R110, R250, R253; O42) -/

/-- The command once its copy has come to index `upTo`. -/
def Cmd.pieceMoved (m : Cmd) (upTo : Nat) : Cmd :=
  { m with
    prog := upTo, readVer := if upTo % m.tile = 0 then none else m.readVer, buf := if upTo % m.tile = 0 then [] else m.buf,
    st := if decide (m.total ≤ upTo) then .finished else m.st }

/-- A piece of a copy that is neither read nor stored tile-atomically is moved. -/
theorem copyDone_eq {s : State} {c root upTo : Nat} {m : Cmd} {skip rel : Bool} (hs : m.storeVer = none) (hr : m.readVerAddr = none) :
    s.copyDone c root m skip upTo rel = .done
      (((if rel then s.flagRelease c (flagScope m.flags) else s).putCmd c (m.pieceMoved upTo)).publishTo c (m.pieceMoved upTo) upTo skip) := by
  by_cases he : upTo % m.tile = 0 <;>
    simp only [State.copyDone, Cmd.pieceMoved, hs, hr, he, decide_true, decide_false, if_true, if_false, Bool.false_eq_true, Option.isSome_none,
      Bool.false_and]

theorem releases_eq {s : State} {c root upTo : Nat} {m : Cmd} {skip : Bool} (hs : m.storeVer = none) :
    s.releases c root m skip upTo = (flagRel m.flags && s.lastWrite c root m skip upTo) := by
  rw [State.releases, hs, Option.isNone_none, Bool.and_true]

/-- Chase conditions that all hold hinder nothing. -/
theorem copyChases_met {s : State} {c i : Nat} {m : Cmd} {d : Geo} {js : List Nat} (h : ∀ g, m.src = some g → ∀ k ∈ js,
      s.copyChase c m g i (travElem d.trav d.d0 d.d1 k).1 (travElem d.trav d.d0 d.d1 k).2 = .met) :
    chaseHindrance (match m.src with | some g => g.chaseTag | none => 0) (match m.src with
      | some g => js.map (fun k => s.copyChase c m g i (travElem d.trav d.d0 d.d1 k).1 (travElem d.trav d.d0 d.d1 k).2)
      | none => []) = none := by
  cases hsrc : m.src with
  | none => rfl
  | some g => exact chaseHindrance_met _ _ _ (h g hsrc)

/-- The copy once the acquire of its first read has come (R146). -/
def State.copyBegun (s : State) (c : Nat) (m : Cmd) : State :=
  if m.prog = 0 ∧ flagAcq m.flags = true ∧ m.src.isSome = true then s.flagAcquire c (flagScope m.flags) else s

/-- The last of a piece's elements that is not dropped. -/
def Cmd.lastPut (m : Cmd) (d : Geo) (i : Nat) (js : List Nat) : Option Nat :=
  js.reverse.find? (fun k => m.dstPlace d i (travElem d.trav d.d0 d.d1 k).1 (travElem d.trav d.d0 d.d1 k).2 != .drop)

theorem copyPieceOf_eq {s u : State} {c root i upTo : Nat} {m : Cmd} {d : Geo} {js : List Nat} {skip rel : Bool} (hs : m.storeVer = none)
    (hr : m.readVerAddr = none)
    (hc : ∀ g, m.src = some g → ∀ k ∈ js, s.copyChase c m g i (travElem d.trav d.d0 d.d1 k).1 (travElem d.trav d.d0 d.d1 k).2 = .met)
    (hrel : (flagRel m.flags && (s.copyBegun c m).lastWrite c root m skip upTo) = rel)
    (hu : if m.identity then u = (s.copyBegun c m).putCmd c m else
      copyElems c root m d i skip false (if rel then m.lastPut d i js else none) js (s.copyBegun c m) = .ok u) :
    s.copyPieceOf c root m d i js upTo skip false = .done
      (((if rel then u.flagRelease c (flagScope m.flags) else u).putCmd c (m.pieceMoved upTo)).publishTo c (m.pieceMoved upTo) upTo skip) := by
  have hrel' : (s.copyBegun c m).releases c root m skip upTo = rel := (releases_eq hs).trans hrel
  unfold State.copyBegun at hrel' hu
  unfold Cmd.lastPut at hu
  simp only [State.copyPieceOf, Bool.false_eq_true, if_false]
  split
  · next h heq => cases heq.symm.trans (copyChases_met hc)
  · simp only [hs, hrel']
    by_cases hi : m.identity
    · rw [if_pos hi] at hu
      rw [if_pos hi, ← hu]
      exact copyDone_eq hs hr
    · rw [if_neg hi] at hu
      rw [if_neg hi, hu]
      exact copyDone_eq hs hr

/-- The list entry of a copy's tile is there, or is read now (R253). -/
def State.entryAt (s s1 : State) (c root : Nat) (m w : Cmd) (bs : List Byte) : Prop :=
  if isList m.kind && m.buf.isEmpty then s.readEntry c root m (m.prog / m.tile) = .ok (s1, bs) ∧ w = { m with buf := bs } else s1 = s ∧ w = m

theorem entryAt_buf {s s1 : State} {c root : Nat} {m w : Cmd} {bs : List Byte} (h : s.entryAt s1 c root m w bs) : ∃ b, w = { m with buf := b } := by
  unfold State.entryAt at h
  split at h
  · exact ⟨bs, h.2⟩
  · exact ⟨m.buf, h.2⟩

theorem copyStep_eq {s s1 : State} {c : Nat} {m w : Cmd} {d : Geo} {bs : List Byte} (hd : m.dst = some d) (hr : m.readVerAddr = none)
    (he : s.entryAt s1 c (s.cmdRoot c m) m w bs) :
    let e := pieceEnd (travLine d.trav d.d0 d.d1) d.w (m.prog % m.tile) m.tile
    s.copyStep c m = s1.copyPieceOf c (s.cmdRoot c m) w d (m.prog / m.tile)
      ((List.range (e - m.prog % m.tile)).map (fun k => m.prog % m.tile + k)) (m.prog / m.tile * m.tile + e) (m.skip.contains m.prog) false := by
  intro e
  have hw : w.readVerAddr = none := by
    obtain ⟨b, rfl⟩ := entryAt_buf he
    exact hr
  unfold State.entryAt at he
  unfold State.copyStep
  split
  · next hn => cases hd.symm.trans hn
  · next d' hd' =>
    cases hd.symm.trans hd'
    split at he
    · next hl =>
      obtain ⟨hread, hwe⟩ := he
      simp only [hl, if_true, hread, ← hwe, hw]
      rfl
    · next hl =>
      obtain ⟨rfl, rfl⟩ := he
      simp only [hl, if_false, hw, Bool.false_eq_true]
      rfl

theorem exec_copyPieceWrite {s t : State} {c id : Nat} {m : Cmd} (hp : s.powered = true) (h : s.runningCmd c id isCopy = some m)
    (ht : s.copyStep c m = .done t) : exec (.copyPieceWrite c id) s = .next t.tick :=
  (happen_eq (fun s => s.copyPiece c id) hp).trans (by simp only [State.copyPiece, h, ht, Stepped.orElse])

/-- With every element moved, or none at all, the last write is that of the last index. -/
theorem lastWrite_of_plain {s : State} {c root upTo : Nat} {m : Cmd} {d : Geo} {skip : Bool} (hd : m.dst = some d)
    (h : m.identity = true ∨ d.layout = none) : s.lastWrite c root m skip upTo = decide (m.total ≤ upTo) := by
  rcases h with h | h <;> simp only [State.lastWrite, hd, h, Option.isNone_none, Bool.true_or, Bool.or_true, if_true]

end Sys2Proof.Machine

namespace Sys2Proof.Machine

open Sys2Proof.Claim

/-! ### Translations that join the TLBs leave what a reduce-drain reads (R104; O42) -/

/-- The module with other translations cached, for core `c`, and nothing else changed that an engine's step looks at. -/
structure SameButTlbs (s t : State) (c : Nat) : Prop where
  core : ∃ l, t.core c = { s.core c with tlb := l }
  launches : t.launches = s.launches
  platform : t.platform = s.platform
  det : t.det = s.det

theorem SameButTlbs.refl (s : State) (c : Nat) : SameButTlbs s s c := ⟨⟨_, rfl⟩, rfl, rfl, rfl⟩

theorem SameButTlbs.trans {s t u : State} {c : Nat} (h : SameButTlbs s t c) (g : SameButTlbs t u c) : SameButTlbs s u c := by
  obtain ⟨l, hl⟩ := h.core
  obtain ⟨l', hl'⟩ := g.core
  exact ⟨⟨l', by rw [hl', hl]⟩, g.launches.trans h.launches, g.platform.trans h.platform, g.det.trans h.det⟩

theorem sameButTlbs_notePage (s : State) (c root va : Nat) : SameButTlbs s (s.notePage c root va) c := by
  unfold State.notePage
  split
  · exact .refl s c
  · have hrest : (s.noteTlb c root va).launches = s.launches ∧ (s.noteTlb c root va).platform = s.platform ∧ (s.noteTlb c root va).det = s.det := by
      rcases noteTlb_eq s c root va with h | ⟨t, u, w, h⟩ <;> rw [h] <;> exact ⟨rfl, rfl, rfl⟩
    obtain ⟨hl, hp, hd⟩ := hrest
    exact ⟨noteTlb_core s c root va, hl, hp, hd⟩

theorem sameButTlbs_noteSpan (s : State) (c root va n : Nat) : SameButTlbs s (s.noteSpan c root va n) c := by
  unfold State.noteSpan
  simp only
  split
  · exact sameButTlbs_notePage ..
  · exact (sameButTlbs_notePage ..).trans (sameButTlbs_notePage ..)

theorem sameButTlbs_noteElems (c root : Nat) (g : Geo) (is : List Nat) (s : State) : SameButTlbs s (s.noteElems c root g is) c := by
  unfold State.noteElems
  induction is generalizing s with
  | nil => exact .refl s c
  | cons i r ih =>
    rw [List.foldl_cons]
    refine SameButTlbs.trans ?_ (ih _)
    simp only
    split
    · exact sameButTlbs_noteSpan ..
    · exact .refl s c

section
variable {s t : State} {c : Nat} (h : SameButTlbs s t c)
include h

theorem SameButTlbs.isLost : t.isLost = s.isLost := funext fun _ => by simp only [State.isLost, h.platform]

theorem SameButTlbs.cmdRoot (m : Cmd) : t.cmdRoot c m = s.cmdRoot c m := by
  obtain ⟨l, hl⟩ := h.core
  simp only [State.cmdRoot, State.launchOf, hl, h.launches]

theorem SameButTlbs.accLost (a : Nat) : t.accLost c a = s.accLost c a := by
  obtain ⟨l, hl⟩ := h.core
  simp only [State.accLost, Core.accGone, hl]

theorem SameButTlbs.accs : (t.core c).accs = (s.core c).accs := by
  obtain ⟨l, hl⟩ := h.core
  rw [hl]

theorem SameButTlbs.cell (a i j : Nat) : t.cell c a i j = s.cell c a i j := by simp only [State.cell, h.accs]

theorem SameButTlbs.detUsed (pa : Nat) : t.detUsed pa = s.detUsed pa := by simp only [State.detUsed, h.det]

end

/-! ### Contributions (R339, R340; O42) -/

/-- Where `f` gives a value at every element, so does `g`, the value that `f`'s is turned into there. -/
theorem allOk_map {α β γ : Type} {f : α → Except Fail β} {g : α → Except Fail γ} (k : α × β → γ) (h : ∀ x v, f x = .ok v → g x = .ok (k (x, v)))
    (l : List α) (vs : List β) (hf : allOk (l.map f) = .ok vs) : allOk (l.map g) = .ok ((l.zip vs).map k) := by
  induction l generalizing vs with
  | nil => rfl
  | cons x r ih =>
    rw [List.map_cons] at hf ⊢
    cases hx : f x with
    | error e => rw [hx] at hf; cases hf
    | ok v =>
      rw [hx] at hf
      simp only [allOk] at hf
      cases hr : allOk (r.map f) with
      | error e => rw [hr] at hf; cases hf
      | ok t =>
        rw [hr] at hf
        cases hf
        rw [h x v hx]
        simp only [allOk, ih t hr, List.zip_cons_cons, List.map_cons]

/-- What is sent for element `i` of a piece whose place is `q`, none where it is dropped: (place + 1) × 2^32 + value. -/
def State.sent (s : State) (c a : Nat) (g : Geo) (i : Nat) (q : Option Nat) : Nat :=
  (q.map (fun (pa : Nat) => (pa + 1) * 2 ^ 32 + s.cell c a (travElem g.trav g.d0 g.d1 i).2 (travElem g.trav g.d0 g.d1 i).1)).getD 0

theorem redPiece_ok {s : State} {c root a : Nat} {g : Geo} {skip : Bool} {is : List Nat} {oks : List (Option Nat)} (hl : s.accLost c a = false)
    (h : allOk (is.map (fun i => s.redPlace c root g (travElem g.trav g.d0 g.d1 i).1 (travElem g.trav g.d0 g.d1 i).2)) = .ok oks) :
    s.redPiece c root a g skip is = .ok ((is.zip oks).map (fun q => s.sent c a g q.1 q.2)) := by
  simp only [State.redPiece, hl, Bool.false_and, Bool.false_eq_true, if_false]
  refine allOk_map (fun q => s.sent c a g q.1 q.2) (fun i q hq => ?_) is oks h
  cases q <;> simp only [hq] <;> rfl

/-- The module once the translations of a reduce-drain's piece are kept, where the piece begins. -/
def State.pieceNoted (s : State) (c root : Nat) (m : Cmd) (g : Geo) : State :=
  let n := g.d0 * g.d1
  let e := pieceEnd (travLine g.trav g.d0 g.d1) g.w m.prog n
  if m.chunks.isEmpty then s.noteElems c root g ((List.range (e - m.prog)).map (fun (t : Nat) => m.prog + t)) else s

theorem sameButTlbs_pieceNoted (s : State) (c root : Nat) (m : Cmd) (g : Geo) : SameButTlbs s (s.pieceNoted c root m g) c := by
  unfold State.pieceNoted
  simp only
  split
  · exact sameButTlbs_noteElems ..
  · exact .refl s c

/-- The values a reduce-drain's piece sends: found now where it begins, else kept. -/
def State.pieceSends (s : State) (c root a : Nat) (m : Cmd) (g : Geo) (sends : List Nat) : Prop :=
  let n := g.d0 * g.d1
  let e := pieceEnd (travLine g.trav g.d0 g.d1) g.w m.prog n
  if m.chunks = [] then
    ∃ oks, allOk ((List.range (e - m.prog)).map (fun (t : Nat) => (s.pieceNoted c root m g).redPlace c root g
        (travElem g.trav g.d0 g.d1 (m.prog + t)).1 (travElem g.trav g.d0 g.d1 (m.prog + t)).2)) = .ok oks ∧
      sends = ((List.range (e - m.prog)).zip oks).map (fun (q : Nat × Option Nat) => s.sent c a g (m.prog + q.1) q.2)
  else sends = m.chunks

theorem pieceSends_ok {s : State} {c a : Nat} {m : Cmd} {g : Geo} {sends : List Nat} (skip : Bool) (hl : s.accLost c a = false)
    (h : s.pieceSends c (s.cmdRoot c m) a m g sends) :
    let t := s.pieceNoted c (s.cmdRoot c m) m g
    let e := pieceEnd (travLine g.trav g.d0 g.d1) g.w m.prog (g.d0 * g.d1)
    (if m.chunks.isEmpty then t.redPiece c (t.cmdRoot c m) a g skip ((List.range (e - m.prog)).map (fun k => m.prog + k)) else .ok m.chunks) =
      .ok sends := by
  intro t e
  have hT : SameButTlbs s t c := sameButTlbs_pieceNoted s c (s.cmdRoot c m) m g
  unfold State.pieceSends at h
  split at h
  · next hm =>
    obtain ⟨oks, hok, rfl⟩ := h
    rw [hm, List.isEmpty_nil, if_pos rfl, hT.cmdRoot, redPiece_ok (oks := oks) ((hT.accLost a).trans hl) (by rw [List.map_map]; exact hok),
      List.zip_map_left, List.map_map]
    simp only [State.sent, hT.cell]
    rfl
  · next hm =>
    rw [if_neg (by simpa using hm), h]

/-- The drain's next contribution done: the release of a last one that no buffer keeps, its progress, and the frontier at the end of its piece. -/
def State.sentOne (s : State) (c : Nat) (m : Cmd) (g : Geo) (sends : List Nat) (rel : Bool) : State :=
  let n := g.d0 * g.d1
  let e := pieceEnd (travLine g.trav g.d0 g.d1) g.w m.prog n
  let u := (if rel && m.n == 0 then s.flagRelease c m.val.toNat else s).putCmd c
    { m with prog := m.prog + 1, chunks := if m.prog + 1 = e then [] else sends, st := if decide (n ≤ m.prog + 1) then .finished else m.st }
  if m.prog + 1 = e then u.publishTo c m e (m.skip.contains (pieceFloor (travLine g.trav g.d0 g.d1) g.w m.prog n)) else u

theorem redStep_eq {s : State} {c a here : Nat} {m : Cmd} {g : Geo} {sends : List Nat} (hg : m.dst = some g) (ha : m.acc = some a)
    (hl : s.accLost c a = false) (hs : s.pieceSends c (s.cmdRoot c m) a m g sends)
    (hh : sends.getD (m.prog - pieceFloor (travLine g.trav g.d0 g.d1) g.w m.prog (g.d0 * g.d1)) 0 = here) (h0 : here ≠ 0) :
    let rel := decide (g.d0 * g.d1 ≤ m.prog + 1) && m.flags / 8 % 2 == 1
    s.redStep c m = (s.pieceNoted c (s.cmdRoot c m) m g).redSend c m
      (addrOf (Int.ediv (g.bitOf (travElem g.trav g.d0 g.d1 m.prog).1 (travElem g.trav g.d0 g.d1 m.prog).2) 8)) (here / 2 ^ 32 - 1)
      (vget (s.core c).accs a Acc.zero).isInt (here % 2 ^ 32) rel (fun t => .done (t.sentOne c m g sends rel)) := by
  intro rel
  have hT := sameButTlbs_pieceNoted s c (s.cmdRoot c m) m g
  have hp := pieceSends_ok (m.skip.contains (pieceFloor (travLine g.trav g.d0 g.d1) g.w m.prog (g.d0 * g.d1))) hl hs
  have hn : (here == 0) = false := by simpa using h0
  unfold State.redStep
  split
  · next g' a' hg' ha' =>
    cases hg.symm.trans hg'
    cases ha.symm.trans ha'
    rw [← hT.accs]
    simp only [State.pieceNoted] at hp ⊢
    simp only [hp, hh, h0, hn, Bool.or_false, if_false]
    rfl
  · next hno => exact absurd ha (hno g a hg)

section
variable {s : State} {c va pa v : Nat} {m : Cmd} {isInt last : Bool} {go : State → Stepped} (h : (span pa 4).find? s.isLost = none)
include h

theorem redSend_now (hn : m.n = 0) : s.redSend c m va pa isInt v last go =
    (let p := (s.whole c 4 (span pa 4)).homeRead c (span pa 4)
     go (p.1.homeWrites c (span pa 4) (contribute isInt p.2 v))) := by
  simp only [State.redSend, h, hn, if_true]

theorem redSend_accepts (hn : 0 < m.n) (hu : s.detUsed pa < 16384) : s.redSend c m va pa isInt v last go =
    go (s.detAccept va pa m.n isInt (c, m.ctx, m.id * 2 ^ 20 + m.prog, BitVec.ofNat 32 v) (if last then some (c, m.id, m.val.toNat) else none)) := by
  simp only [State.redSend, h, Nat.ne_of_gt hn, Nat.not_le.mpr hu, if_false]

theorem redSend_waits (hn : 0 < m.n) (hu : 16384 ≤ s.detUsed pa) : s.redSend c m va pa isInt v last go = .wait := by
  simp only [State.redSend, h, Nat.ne_of_gt hn, hu, if_false, if_true]

end

theorem exec_reduceContribution {s : State} {c id : Nat} {m : Cmd} {r : Stepped} (hp : s.powered = true)
    (h : s.runningCmd c id (fun k => k == .drain) = some m) (hr : isRed m = true) (ht : s.redStep c m = r) :
    exec (.reduceContribution c id) s = .next (r.orElse s).tick :=
  (happen_eq (fun s => s.reduceContribution c id) hp).trans (by simp only [State.reduceContribution, h, hr, if_true, ht])

end Sys2Proof.Machine

namespace Sys2Proof.Machine

open Sys2Proof.Claim

/-! ### What an engine comes to leaves what is lost (R133, R271; O42) -/

section Lost

/-- Steps that each keep a view of the state keep it one after another. -/
theorem foldl_keeps {α β : Type} (view : State → β) {f : State → α → State} (h : ∀ s x, view (f s x) = view s) (l : List α) (s : State) :
    view (l.foldl f s) = view s := by
  induction l generalizing s with
  | nil => rfl
  | cons x r ih => rw [List.foldl_cons, ih, h]

theorem foldl_isLost {α : Type} {f : State → α → State} (h : ∀ s x, (f s x).isLost = s.isLost) (l : List α) (s : State) :
    (l.foldl f s).isLost = s.isLost := foldl_keeps State.isLost h l s

theorem modCore_isLost (s : State) (c : Nat) (f : Core → Core) : (s.modCore c f).isLost = s.isLost := rfl

theorem dieRoom_isLost (s : State) (d pa : Nat) : (s.dieRoom d pa).isLost = s.isLost := by
  unfold State.dieRoom
  simp only
  (repeat' split) <;> rfl

theorem dieFill_isLost (s : State) (d pa : Nat) : (s.dieFill d pa).isLost = s.isLost := by
  unfold State.dieFill
  split
  · rfl
  · exact dieRoom_isLost s d pa

theorem dieWrite_isLost (s : State) (d pa : Nat) (b : Byte) : (s.dieWrite d pa b).isLost = s.isLost := by
  unfold State.dieWrite
  split
  · rfl
  · exact dieFill_isLost s d pa

theorem queueClobber_isLost (s : State) (pa : Nat) : (s.queueClobber pa).isLost = s.isLost := by
  unfold State.queueClobber
  split <;> rfl

theorem coreWrite_isLost (s : State) (c pa : Nat) (b : Byte) : (s.coreWrite c pa b).isLost = s.isLost := by
  rw [State.coreWrite, modCore_isLost, queueClobber_isLost, dieWrite_isLost]

theorem coreWrites_isLost (s : State) (c : Nat) (ws : List (Nat × Byte)) : (s.coreWrites c ws).isLost = s.isLost := by
  have h : ∀ (s : State) (w : Nat × Byte), (s.coreWrite c w.1 w.2).isLost = s.isLost := fun s w => coreWrite_isLost s c w.1 w.2
  unfold State.coreWrites
  exact foldl_isLost h ws s

theorem homeWrite_isLost (s : State) (c pa : Nat) (b : Byte) : (s.homeWrite c pa b).isLost = s.isLost := by
  simp only [State.homeWrite, modCore_isLost, queueClobber_isLost]
  rfl

theorem publish_isLost (s : State) (c scope : Nat) : (s.publish c scope).isLost = s.isLost := by
  unfold State.publish
  simp only
  split <;> rfl

theorem l1Fill_isLost (s : State) (c pa : Nat) : (s.l1Fill c pa).isLost = s.isLost := by
  unfold State.l1Fill
  split
  · rfl
  · exact dieFill_isLost s (dieOf c) pa

theorem fillLines_isLost (s : State) (c : Nat) (ls : List Nat) : (s.fillLines c ls).isLost = s.isLost :=
  foldl_isLost (fun s _ => foldl_isLost (fun s x => l1Fill_isLost s c (x * 32)) _ s) ls s

theorem acquire_isLost (s : State) (c scope : Nat) : (s.acquire c scope).isLost = s.isLost := fillLines_isLost _ c _

theorem performInner_isLost (s : State) (c x : Nat) (o : MemOp) : (s.performInner c x o).isLost = s.isLost := by
  have hp : ∀ (p : Prop) [Decidable p] (s : State), (if p then s.publish c o.scope else s).isLost = s.isLost := fun p _ s => by
    split
    · exact publish_isLost s c _
    · rfl
  have ha : ∀ (p : Prop) [Decidable p] (s : State), (if p then s.acquire c o.scope else s).isLost = s.isLost := fun p _ s => by
    split
    · exact acquire_isLost s c _
    · rfl
  unfold State.performInner
  simp only
  split
  · exact (ha _ _).trans (hp _ s)
  all_goals rfl

theorem settleN_isLost (n : Nat) (s : State) (c x : Nat) : (settleN n s c x).isLost = s.isLost := by
  induction n generalizing s with
  | zero => rfl
  | succ n ih =>
    unfold settleN
    split
    · exact (ih _).trans (performInner_isLost _ c x _)
    · rfl

theorem opDone_isLost (s : State) (c x id : Nat) : (s.opDone c x id).isLost = s.isLost := settleN_isLost _ _ c x

theorem lostAccess_isLost (s : State) (c x : Nat) (o : MemOp) (pa : Nat) : (s.lostAccess c x o pa).isLost = s.isLost := rfl

theorem storeBytes_isLost (s : State) (c : Nat) (o : MemOp) (ws : List (Nat × Byte)) : (s.storeBytes c o ws).isLost = s.isLost := by
  unfold State.storeBytes
  split
  · exact coreWrites_isLost s c ws
  · have h : ∀ (s : State) (w : Nat × Byte), (s.homeWrite c w.1 w.2).isLost = s.isLost := fun s w => homeWrite_isLost s c w.1 w.2
    exact foldl_isLost h ws _

theorem storeFor_isLost (s : State) (c : Nat) (o : MemOp) : (s.storeFor c o).isLost = s.isLost := by
  unfold State.storeFor
  simp only
  split
  · exact storeBytes_isLost s c o _
  · exact (publish_isLost _ c _).trans (storeBytes_isLost s c o _)

theorem storeNow_isLost (s : State) (c x k : Nat) : (s.storeNow c x k).isLost = s.isLost := by
  unfold State.storeNow
  split
  · split
    · refine (opDone_isLost _ c x _).trans ((storeFor_isLost _ c _).trans ?_)
      split
      · exact lostAccess_isLost ..
      · rfl
    · rfl
  · rfl

theorem finishHalf_isLost (s : State) (h : Nat × Nat × Nat) : (s.finishHalf h).isLost = s.isLost := by
  unfold State.finishHalf
  split
  · split
    · exact storeNow_isLost ..
    · rfl
  · rfl

theorem whole_isLost (s : State) (c x : Nat) (pas : List Nat) : (s.whole c x pas).isLost = s.isLost := foldl_isLost finishHalf_isLost _ s

theorem reach_isLost (s : State) (c root va n : Nat) : (s.reach c root va n).isLost = s.isLost := by
  unfold State.reach
  simp only
  split
  · exact (whole_isLost _ c 4 _).trans (sameButTlbs_noteSpan s c root va n).isLost
  · exact (sameButTlbs_noteSpan s c root va n).isLost

theorem reachPlace_isLost (s : State) (c root : Nat) (g : Geo) (p : Place) : (s.reachPlace c root g p).isLost = s.isLost := by
  unfold State.reachPlace
  split
  · split
    · simp only
      split
      · exact (reach_isLost ..).trans (reach_isLost ..)
      · exact reach_isLost ..
    · rfl
  · rfl

end Lost

/-! ### Histograms (R63, R344; O42) -/

/-- Chase conditions of the elements of a piece, at the places they are read from, that all hold hinder nothing. -/
theorem placeChases_met {k : Core} {b tag : Nat} {g : Geo} (place : Nat → Place) (l : List Nat)
    (h : ∀ i ∈ l, ∀ bit z y, place i = .at_ bit z y → k.chaseOf b g bit = .met) :
    chaseHindrance tag (l.map (fun i => match place i with | .at_ bit _ _ => k.chaseOf b g bit | _ => .met)) = none := by
  refine chaseHindrance_met tag _ l fun i hi => ?_
  split
  · next bit z y hp => exact h i hi bit z y hp
  · rfl

theorem exec_histUpdate {s t : State} {c id : Nat} {m : Cmd} (hp : s.powered = true) (h : s.runningCmd c id (fun k => k == .hist) = some m)
    (ht : s.histStep c m = .done t) : exec (.histUpdate c id) s = .next t.tick :=
  (happen_eq (fun s => s.histUpdate c id) hp).trans (by simp only [State.histUpdate, h, ht, Stepped.orElse])

/-- The place of element `i` of a histogram's stream. -/
def Geo.histPlace (g : Geo) (i : Nat) : Place :=
  let q := travElem g.trav g.d0 g.d1 i
  g.place g.org q.1 q.2 q.2 g.clamp false true

theorem histStep_eq {s s1 : State} {c : Nat} {m : Cmd} {g : Geo} {bit sc : Int} {co : List Int} {el : Elem} {x : Machine.Num} {pas : List Nat}
    (hg : m.src = some g) (hplace : g.histPlace m.prog = .at_ bit sc co)
    (hc : ∀ k, k < pieceEnd (travLine g.trav g.d0 g.d1) g.w m.prog (g.d0 * g.d1) - m.prog → ∀ b z y, g.histPlace (m.prog + k) = .at_ b z y →
      (s.core c).chaseOf m.team g b = .met)
    (hs1 : s.reachPlace c (s.cmdRoot c m) g (.at_ bit sc co) = s1) (hel : s1.readPlace c (s.cmdRoot c m) m.team g (.at_ bit sc co) = .ok el)
    (hx : (if g.fmt = 7 then decodeQ4 (xfSub g.xf) el.scale el.code else some (elemNum g.fmt el.code)) = some x)
    (hpas : s1.xlatSpan c (s.cmdRoot c m) (m.list + 4 * histBin m.val.toInt x) 4 .write = .ok pas) (hlost : pas.find? s.isLost = none)
    (hhost : pas.any isHost = false) :
    s.histStep c m =
      let h := (s1.reach c (s.cmdRoot c m) (m.list + 4 * histBin m.val.toInt x) 4).homeRead c pas
      .done ((h.1.homeWrites c pas (min (h.2 + 1) (2 ^ 32 - 1))).putCmd c
        { m with prog := m.prog + 1, sum := m.sum + 1, st := if g.d0 * g.d1 ≤ m.prog + 1 then .finished else m.st }) := by
  subst hs1
  have hmet : ∀ tag, chaseHindrance tag ((List.range (pieceEnd (travLine g.trav g.d0 g.d1) g.w m.prog (g.d0 * g.d1) - m.prog)).map (fun k =>
      match g.histPlace (m.prog + k) with | .at_ bit _ _ => (s.core c).chaseOf m.team g bit | _ => .met)) = none := fun tag =>
    placeChases_met (fun k => g.histPlace (m.prog + k)) _ fun k hk => hc k (List.mem_range.mp hk)
  rw [← reachPlace_isLost s c (s.cmdRoot c m) g (.at_ bit sc co)] at hlost
  unfold State.histStep
  split
  · next hn => cases hg.symm.trans hn
  · next g' hg' =>
    cases hg.symm.trans hg'
    unfold Geo.histPlace at hplace
    simp only at hplace
    simp only [hplace]
    split
    · next h heq => cases heq.symm.trans (hmet _)
    · simp only [hel, hx, hpas, hlost, hhost, Bool.false_eq_true, if_false]

/-- Settles O42: each clause is the step of its engine where nothing hinders it; the translations and half-done accesses that the step comes to
leave the accumulators, the buffers and what is lost as they were. -/
theorem copyReductionAndHistogramEvents : Obligations.CopyReductionAndHistogramEvents := by
  unfold Obligations.CopyReductionAndHistogramEvents
  refine ⟨?_, fun s c id m g hp => ⟨?_, ?_⟩⟩
  · intro s s1 u c id m w d bs hp h hd root n i e js skip upTo hs hr he hc s0 rel lastPut hu last x
    have hstep := copyStep_eq hd hr he
    obtain ⟨b, rfl⟩ := entryAt_buf he
    exact ⟨lastWrite_of_plain hd, exec_copyPieceWrite hp h (hstep.trans (copyPieceOf_eq (s := s1) hs hr hc rfl hu))⟩
  · intro a sends h hred hg ha hl root n i e p at_ isInt last rel s1 fin hs here pas v h0 hlost
    have hT : SameButTlbs s s1 c := sameButTlbs_pieceNoted s c root m g
    have hstep := redStep_eq hg ha hl hs rfl h0
    rw [← hT.isLost] at hlost
    rw [← hT.detUsed]
    refine ⟨fun hn => ?_, fun hn hu => ?_, fun hn hu => ?_⟩
    · exact exec_reduceContribution hp h hred (hstep.trans (redSend_now hlost hn))
    · exact exec_reduceContribution hp h hred (hstep.trans (redSend_accepts hlost hn hu))
    · exact exec_reduceContribution hp h hred (hstep.trans (redSend_waits hlost hn hu))
  · intro bit sc co el x pas h hg p n hplace hc s1 hel hx hpas hlost hhost
    exact exec_histUpdate hp h (histStep_eq hg hplace hc rfl hel hx hpas hlost hhost)

end Sys2Proof.Machine

namespace Sys2Proof.Machine

open Sys2Proof.Claim

/-! ### Memory as the management complex writes it (R152, R291; O52) -/

theorem span_succ (a n : Nat) : span a (n + 1) = a :: span (a + 1) n := by
  simp only [span, List.range_succ_eq_map, List.map_cons, List.map_map, Nat.add_zero]
  exact congrArg (a :: ·) (List.map_congr_left fun i _ => by simp only [Function.comp]; omega)

theorem mread_succ (m : Memory) (a n : Nat) : mread m a (n + 1) = mget m a :: mread m (a + 1) n := by
  simp only [mread, List.range_succ_eq_map, List.map_cons, List.map_map, Nat.add_zero]
  exact congrArg (mget m a :: ·) (List.map_congr_left fun i _ => congrArg (mget m) (by omega))

/-- The bytes written read back. -/
theorem mread_mwrite {m : Memory} (a : Nat) (bs : List Byte) (w : m.wf = true) : mread (mwrite m a bs) a bs.length = bs := by
  induction bs generalizing m a with
  | nil => rfl
  | cons b bs ih =>
    rw [List.length_cons, mread_succ, mwrite, ih (a + 1) (wf_mput a b w), mget_mwrite_other _ _ _ _ (Or.inl (Nat.lt_succ_self a)),
      mget_mput_self a b w]

theorem foldl_mput_zip_span (m : Memory) (a : Nat) (bs : List Byte) :
    ((span a bs.length).zip bs).foldl (fun m w => mput m w.1 w.2) m = mwrite m a bs := by
  induction bs generalizing m a with
  | nil => rfl
  | cons b bs ih =>
    rw [List.length_cons, span_succ, List.zip_cons_cons, List.foldl_cons]
    exact ih _ _

@[simp] theorem length_leBytes (n v : Nat) : (leBytes n v).length = n := by
  induction n generalizing v with
  | zero => rfl
  | succ n ih => exact congrArg (· + 1) (ih _)

/-- What a write by the management complex leaves: the platform, the host queues and the number of epochs. -/
structure SameHost (s t : State) : Prop where
  platform : t.platform = s.platform
  queues : t.queues = s.queues
  epochs : t.epochs = s.epochs

theorem SameHost.trans {s t u : State} (h : SameHost s t) (g : SameHost t u) : SameHost s u :=
  ⟨g.platform.trans h.platform, g.queues.trans h.queues, g.epochs.trans h.epochs⟩

theorem queueClobber_eq (s : State) (pa : Nat) : ∃ q n, s.queueClobber pa = { s with sliceQueues := q, free := n } := by
  unfold State.queueClobber
  split
  · exact ⟨_, _, rfl⟩
  · exact ⟨_, _, rfl⟩

/-- One byte written at its home slice by the management complex. -/
def State.sysByte (s : State) (w : Nat × Byte) : State := { s with mem := mput s.mem w.1 w.2 }.queueClobber w.1

theorem sysByte_mem (s : State) (w : Nat × Byte) : (s.sysByte w).mem = mput s.mem w.1 w.2 := by
  obtain ⟨q, n, h⟩ := queueClobber_eq { s with mem := mput s.mem w.1 w.2 } w.1
  rw [State.sysByte, h]

theorem sameHost_sysByte (s : State) (w : Nat × Byte) : SameHost s (s.sysByte w) := by
  obtain ⟨q, n, h⟩ := queueClobber_eq { s with mem := mput s.mem w.1 w.2 } w.1
  rw [State.sysByte, h]
  exact ⟨rfl, rfl, rfl⟩

theorem sysBytes_mem (ws : List (Nat × Byte)) (s : State) : (ws.foldl State.sysByte s).mem = ws.foldl (fun m w => mput m w.1 w.2) s.mem := by
  induction ws generalizing s with
  | nil => rfl
  | cons w r ih => rw [List.foldl_cons, ih, sysByte_mem, List.foldl_cons]

theorem sameHost_sysBytes (ws : List (Nat × Byte)) (s : State) : SameHost s (ws.foldl State.sysByte s) := by
  induction ws generalizing s with
  | nil => exact ⟨rfl, rfl, rfl⟩
  | cons w r ih => exact (sameHost_sysByte s w).trans (ih _)

/-- The bytes of a write that exist and are not lost. -/
def State.sysBytes (s : State) (pa : Nat) (bs : List Byte) : List (Nat × Byte) :=
  ((span pa bs.length).zip bs).filter (fun w => physExists w.1 && !s.isLost w.1)

theorem sysWrite_mem (s : State) (pa : Nat) (bs : List Byte) : (s.sysWrite pa bs).mem = (s.sysBytes pa bs).foldl (fun m w => mput m w.1 w.2) s.mem :=
  sysBytes_mem _ s

theorem sameHost_sysWrite (s : State) (pa : Nat) (bs : List Byte) : SameHost s (s.sysWrite pa bs) :=
  have h := sameHost_sysBytes (s.sysBytes pa bs) s
  ⟨h.platform, h.queues, h.epochs⟩

/-- Where all bytes of a place can be read, all are written. -/
theorem sysBytes_of_sysRead {s : State} {pa : Nat} {bs : List Byte} (h : (s.sysRead pa bs.length).isSome = true) :
    s.sysBytes pa bs = (span pa bs.length).zip bs := by
  unfold State.sysRead at h
  split at h
  · next hall => exact List.filter_eq_self.mpr fun w hw => List.all_eq_true.mp hall _ (List.of_mem_zip hw).1
  · cases h

theorem mread_sysWrite {s : State} {pa : Nat} {bs : List Byte} (hw : s.mem.wf = true) (h : (s.sysRead pa bs.length).isSome = true) :
    mread (s.sysWrite pa bs).mem pa bs.length = bs := by
  rw [sysWrite_mem, sysBytes_of_sysRead h, foldl_mput_zip_span, mread_mwrite pa bs hw]

/-! ### Host queues and completion records (R286, R291; O52) -/

@[simp] theorem queue_modQueue_self (s : State) (q : Nat) (f : HostQueue → HostQueue) : (s.modQueue q f).queue q = f (s.queue q) := by
  simp only [State.modQueue, State.queue, State.putQueue, tget_tput_self, Option.getD_some]

theorem sysWrite_queue (s : State) (pa : Nat) (bs : List Byte) (q : Nat) : (s.sysWrite pa bs).queue q = s.queue q := by
  rw [State.queue, (sameHost_sysWrite s pa bs).queues]
  rfl

theorem settle_readIndex (v : HostQueue) : v.settle.readIndex = v.readIndex := by
  unfold HostQueue.settle
  split <;> rfl

theorem sameHost_writeRecord (s : State) (addr : Nat) (tpc epoch : W64) (status cause : Nat) :
    SameHost s (s.writeRecord addr tpc epoch status cause) := by
  unfold State.writeRecord
  split
  · exact ⟨rfl, rfl, rfl⟩
  · exact sameHost_sysWrite ..

theorem mread_writeRecord {s : State} {addr : Nat} (tpc epoch : W64) (status cause : Nat) (h0 : addr ≠ 0) (hw : s.mem.wf = true)
    (h : (s.sysRead (addr / 32 * 32) 32).isSome = true) :
    mread (s.writeRecord addr tpc epoch status cause).mem (addr / 32 * 32) 32 = record s.cycle tpc epoch status cause := by
  have hl : (record s.cycle tpc epoch status cause).length = 32 := length_leBytes ..
  have := mread_sysWrite (s := s) (bs := record s.cycle tpc epoch status cause) hw (by rw [hl]; exact h)
  rwa [State.writeRecord, if_neg h0, ← hl]

section
variable (s : State) (q i : Nat) (p : W512) (status cause : Nat) (tpc epoch : W64)

theorem packetDone_mem : (s.packetDone q i p status cause tpc epoch).mem = (s.writeRecord (pkCompletion p) tpc epoch status cause).mem := rfl

theorem packetDone_mem_of_none (h : pkCompletion p = 0) : (s.packetDone q i p status cause tpc epoch).mem = s.mem := by
  rw [packetDone_mem, State.writeRecord, if_pos h]

theorem packetDone_platform : (s.packetDone q i p status cause tpc epoch).platform = s.platform := (sameHost_writeRecord ..).platform

theorem packetDone_epochs : (s.packetDone q i p status cause tpc epoch).epochs = s.epochs := (sameHost_writeRecord ..).epochs

theorem packetDone_readIndex : ((s.packetDone q i p status cause tpc epoch).queue q).readIndex = (s.queue q).readIndex := by
  have h : (s.writeRecord (pkCompletion p) tpc epoch status cause).queue q = s.queue q := by
    rw [State.queue, (sameHost_writeRecord ..).queues]; rfl
  simp only [State.packetDone, State.settleQueue, queue_modQueue_self, settle_readIndex, h]

end

end Sys2Proof.Machine

namespace Sys2Proof.Machine

open Sys2Proof.Claim

/-! ### The write-back of every slice (R151, R278; O52) -/

/-- No slice of die `d` holds a dirty byte. -/
def State.clean (s : State) (d : Nat) : Prop := (s.die d).dirty = []

theorem die_putDie_other (s : State) (d e : Nat) (v : Die) (h : e ≠ d) : (s.putDie d v).die e = s.die e := vget_vset_other _ _ _ _ _ h

/-- A die other than the one put, or the one put if it is clean, is clean. -/
theorem clean_putDie {s : State} {d e : Nat} {v : Die} (he : e < 4) (h : s.clean e) (hv : d = e → v.dirty = []) : (s.putDie d v).clean e := by
  by_cases hd : d = e
  · subst hd
    rw [State.clean, State.die, State.putDie, vget_vset_self _ _ _ _ he]
    exact hv rfl
  · rw [State.clean, die_putDie_other _ _ _ _ (Ne.symm hd)]
    exact h

theorem clean_dieEvict {s : State} {d e : Nat} {p : Nat → Bool} (he : e < 4) (h : s.clean e) : (s.dieEvict d p).clean e := by
  have hf : (s.dieFlush d (fun a => p (lineOf a))).clean e :=
    clean_putDie he h fun hd => by subst hd; exact List.filter_eq_nil_iff.mpr (by simp [show (s.die d).dirty = [] from h])
  exact clean_putDie he hf fun hd => by subst hd; exact hf

theorem clean_dieEvict_all {s : State} {d : Nat} (h : d < 4) : (s.dieEvict d (fun _ => true)).clean d := by
  have hf : (s.dieFlush d (fun _ => true)).clean d := by
    rw [State.clean, State.die, State.dieFlush, State.putDie, vget_vset_self _ _ _ _ h]
    exact List.filter_eq_nil_iff.mpr fun _ _ => by simp
  rw [State.clean, State.die, State.dieEvict, State.putDie, vget_vset_self _ _ _ _ h]
  exact hf

theorem clean_dieFill {s : State} {d pa e : Nat} (he : e < 4) (h : s.clean e) : (s.dieFill d pa).clean e := by
  have hr : (s.dieRoom d pa).clean e := by
    unfold State.dieRoom
    simp only
    repeat' split
    case' h_1 => exact clean_dieEvict he h
    all_goals exact h
  unfold State.dieFill
  split
  · exact h
  · exact clean_putDie he hr fun hd => by subst hd; exact hr

theorem clean_l1Fill {s : State} {c pa e : Nat} (he : e < 4) (h : s.clean e) : (s.l1Fill c pa).clean e := by
  unfold State.l1Fill
  split
  · exact h
  · exact clean_dieFill (s := s) he h

/-- Steps that each keep a die clean keep it clean one after another. -/
theorem clean_foldl {α : Type} {f : State → α → State} {e : Nat} (hf : ∀ s x, s.clean e → (f s x).clean e) (l : List α) (s : State) (h : s.clean e) :
    (l.foldl f s).clean e := by
  induction l generalizing s with
  | nil => exact h
  | cons x r ih => exact ih _ (hf s x h)

theorem clean_fillLines {s : State} {c e : Nat} {ls : List Nat} (he : e < 4) (h : s.clean e) : (s.fillLines c ls).clean e :=
  clean_foldl (fun s _ h => clean_foldl (fun _ _ h => clean_l1Fill he h) _ s h) ls s h

/-- Every die once the caches are written back. -/
theorem clean_evictAll (s : State) (e : Nat) (he : e < 4) :
    ([0, 1, 2, 3].foldl (fun (s : State) d => s.dieEvict d (fun _ => true)) s).clean e := by
  have h : ∀ l : List Nat, e ∈ l → ∀ s : State, (l.foldl (fun (s : State) d => s.dieEvict d (fun _ => true)) s).clean e := by
    intro l
    induction l with
    | nil => intro h; cases h
    | cons d r ih =>
      intro hm s
      by_cases hd : e = d
      · subst hd
        exact clean_foldl (fun s d h => clean_dieEvict he h) r _ (clean_dieEvict_all he)
      · exact ih ((List.mem_cons.mp hm).resolve_left hd) _
  exact h _ (by simp only [List.mem_cons, List.not_mem_nil]; omega) s

theorem die_modSigs (s : State) (e : Nat) (cs : Table Core) (h : s.clean e) :
    ({ s with cores := cs, dies := s.dies.map (fun k => { k with sigs := [] }) } : State).clean e := by
  unfold State.clean State.die vget at h ⊢
  rw [Vector.getElem?_map]
  revert h
  cases s.dies[e]? with
  | none => exact id
  | some d => exact id

theorem clean_boundary (s : State) (l e : Nat) (he : e < 4) : (s.boundary l).clean e :=
  clean_foldl (fun _ _ h => clean_fillLines he h) _ _ (die_modSigs _ e _ (clean_evictAll s e he))

end Sys2Proof.Machine

namespace Sys2Proof.Machine

open Sys2Proof.Claim

/-! ### What the firmware does (R278 to R280, R292, R293; O52) -/

/-- An event of the firmware, once it runs. -/
theorem firmwareDoes_eq {s : State} (f : State → State) (hp : s.powered = true) (hu : s.firmwareUp = true) :
    firmwareDoes f s = .next ((f s).modPlatform (fun g => g.worked s.free)).tick := by
  have hb : s.platform.booted = s.platform := by
    have h4 : s.platform.boot = 4 := by simpa [State.firmwareUp] using hu
    rw [Platform.booted, h4]
    rfl
  have hs : s.modPlatform Platform.booted = s := by rw [State.modPlatform, hb]
  rw [firmwareDoes, happen_eq _ hp, hs]

theorem takeLaunch_stopped {s : State} (q : Nat) (h : s.platform.ckpt ≠ none) : s.takeLaunch q = s := by
  unfold State.takeLaunch
  split
  · rw [if_pos (Option.isSome_iff_ne_none.mpr h)]
  · rfl

theorem nodeStart_stopped {s : State} (q n : Nat) (h : s.platform.ckpt ≠ none) : s.nodeStart q n = s := by
  unfold State.nodeStart
  simp only
  split
  · rw [if_pos (Option.isSome_iff_ne_none.mpr h)]
  · rfl

section
variable {s : State} {q : Nat} {p : W512} (ht : s.takeable q 6 = some p)
include ht

theorem checkpoint_refused (hok : firmwareOk p = false) : s.checkpoint q = s.refusePacket q p := by
  simp only [State.checkpoint, ht, hok, Bool.not_false, if_true]

theorem restore_refused (hok : firmwareOk p = false) : s.restore q = s.refusePacket q p := by
  simp only [State.restore, ht, hok, Bool.not_false, if_true]

theorem scale_refused (hok : firmwareOk p = false) : s.scale q = s.refusePacket q p := by
  simp only [State.scale, ht, hok, Bool.not_false, if_true]

theorem checkpoint_quiesces (hok : firmwareOk p = true) (h : pkSelector p = 0) : s.checkpoint q = s.quiesce q p false := by
  simp only [State.checkpoint, ht, hok, h, Bool.not_true, Bool.false_eq_true, if_false, if_true]

theorem restore_quiesces (hok : firmwareOk p = true) (h : pkSelector p = 1) : s.restore q = s.quiesce q p true := by
  simp only [State.restore, ht, hok, h, Bool.not_true, Bool.false_eq_true, if_false, if_true]

/-- The result of a SCALE packet over a histogram's bytes (R64). -/
def scaleResult (p : W512) (bs : List Byte) : List Byte :=
  leBytes 8 (ofInt 64 (Machine.scaleOf (wordsOf bs) (bits (pkValue p) 0 32) (sbits (pkValue p) 32 8) (bits (pkValue p) 40 4))).toNat

theorem scale_none (hok : firmwareOk p = true) (h : pkSelector p = 2) (hu : s.firmwareUp = true) (hr : s.sysRead (pkAddress p) 128 = none) :
    s.scale q = (s.modQueue q HostQueue.take).packetDone q (s.queue q).readIndex p 5 0 0 0 := by
  have hr' : (s.modQueue q HostQueue.take).sysRead (pkAddress p) 128 = none := hr
  simp only [State.scale, ht, hok, h, hu, hr', Bool.not_true, Bool.false_eq_true, Bool.true_eq_false, ne_eq, not_true, or_self, if_false]

theorem scale_some {bs : List Byte} (hok : firmwareOk p = true) (h : pkSelector p = 2) (hu : s.firmwareUp = true)
    (hr : s.sysRead (pkAddress p) 128 = some bs) :
    s.scale q = ((s.modQueue q HostQueue.take).sysWrite (pkResult p) (scaleResult p bs)).packetDone q (s.queue q).readIndex p 0 0 0 0 := by
  have hr' : (s.modQueue q HostQueue.take).sysRead (pkAddress p) 128 = some bs := hr
  simp only [State.scale, ht, hok, h, hu, hr', Bool.not_true, Bool.false_eq_true, Bool.true_eq_false, ne_eq, not_true, or_self, if_false, scaleResult]

end

/-- What a checkpoint or restore that begins leaves (R278). -/
theorem quiesce_eq {s : State} {q : Nat} {p : W512} {r : Bool} (hc : s.platform.ckpt = none) (hu : s.firmwareUp = true) :
    s.quiesce q p r = (s.takeWaiting q p).modPlatform (fun f =>
      { f with ckpt := some { queue := q, packet := (s.queue q).readIndex, desc := p, restore := r, stage := 0 } }) := by
  simp only [State.quiesce, hc, hu, Option.isSome_none, Bool.not_true, Bool.or_self, Bool.false_eq_true, if_false]

/-! ### How a checkpoint or restore goes on, and ends -/

/-- What is left of a checkpoint or restore of packet `p` that has ended FAILED. -/
def State.failedOf (s t : State) (p : W512) : Prop :=
  t.platform.ckpt = none ∧ (pkCompletion p = 0 → t.mem = s.mem) ∧
    (s.mem.wf = true → pkCompletion p ≠ 0 → (s.sysRead (pkCompletion p / 32 * 32) 32).isSome = true →
      mread t.mem (pkCompletion p / 32 * 32) 32 = record s.cycle 0 0 5 0)

theorem ckptEnd_platform (s : State) (k : Checkpoint) (status : Nat) : (s.ckptEnd k status).platform = { s.platform with ckpt := none } :=
  packetDone_platform (s.modPlatform (fun f => { f with ckpt := none })) ..

theorem ckptEnd_epochs (s : State) (k : Checkpoint) (status : Nat) : (s.ckptEnd k status).epochs = s.epochs :=
  packetDone_epochs (s.modPlatform (fun f => { f with ckpt := none })) ..

theorem ckptEnd_mem_of_none (s : State) (k : Checkpoint) (status : Nat) (h : pkCompletion k.desc = 0) : (s.ckptEnd k status).mem = s.mem :=
  packetDone_mem_of_none (s.modPlatform (fun f => { f with ckpt := none })) _ _ _ _ _ _ _ h

theorem mread_ckptEnd {s : State} {k : Checkpoint} (status : Nat) (h0 : pkCompletion k.desc ≠ 0) (hw : s.mem.wf = true)
    (h : (s.sysRead (pkCompletion k.desc / 32 * 32) 32).isSome = true) :
    mread (s.ckptEnd k status).mem (pkCompletion k.desc / 32 * 32) 32 = record s.cycle 0 0 status 0 := by
  rw [State.ckptEnd, packetDone_mem]
  exact mread_writeRecord 0 0 status 0 h0 hw h

theorem ckptEnd_failed (s : State) (k : Checkpoint) : s.failedOf (s.ckptEnd k 5).tick k.desc := by
  rw [State.failedOf, State.tick_mem, State.tick_platform, ckptEnd_platform]
  exact ⟨rfl, ckptEnd_mem_of_none s k 5, fun hw h0 => mread_ckptEnd 5 h0 hw⟩

theorem ckptEnd_safe (s : State) (k : Checkpoint) (status : Nat) : (s.ckptEnd k status).platform.safe = s.platform.safe := by
  rw [ckptEnd_platform]

section
variable {s : State} {k : Checkpoint} (hk : s.platform.ckpt = some k)
include hk

theorem drainLimit_eq (hs : k.stage = 0) (hl : s.launches ≠ []) : s.drainLimit = s.ckptEnd k 5 := by
  simp only [State.drainLimit, hk, hs, hl, ne_eq, not_false_eq_true, and_self, if_true]

theorem safeTierLoss_eq (hs : k.stage = 1) : s.safeTierLoss = s.ckptEnd k 5 := by
  simp only [State.safeTierLoss, hk, hs, if_true]

theorem checkpointComplete_eq (hr : k.restore = false) (hs : k.stage = 1) : s.checkpointComplete = match s.tierOf k.desc with
    | none => s.ckptEnd k 5
    | some t => (s.modPlatform (fun f => { f with safe := tput f.safe t s.image })).ckptEnd k (if s.lostPages.isEmpty then 0 else 4) := by
  simp only [State.checkpointComplete, hk, hr, hs, Bool.false_eq_true, if_false, one_ne_zero] <;> rfl

theorem restoreComplete_eq (hr : k.restore = true) (hs : k.stage = 1) :
    s.restoreComplete = match (s.tierOf k.desc).bind (tget s.platform.safe) with
      | none => s.ckptEnd k 5
      | some m => (s.reload m).ckptEnd k (if (m.zeros s.free).isEmpty then 0 else 4) := by
  simp only [State.restoreComplete, hk, hr, hs, Bool.not_true, Bool.false_eq_true, if_false, one_ne_zero] <;> rfl

theorem checkpointComplete_writesBack (hr : k.restore = false) (hs : k.stage = 0) : s.checkpointComplete = s.writeBack k := by
  simp only [State.checkpointComplete, hk, hr, hs, Bool.false_eq_true, if_false, if_true]

theorem restoreComplete_writesBack (hr : k.restore = true) (hs : k.stage = 0) : s.restoreComplete = s.writeBack k := by
  simp only [State.restoreComplete, hk, hr, hs, Bool.not_true, Bool.false_eq_true, if_false, if_true]

end

theorem die_modPlatform_tick (s : State) (f : Platform → Platform) (d : Nat) : (s.modPlatform f).tick.die d = s.die d := rfl

theorem writeBack_clean {s : State} (k : Checkpoint) (h : s.launches = []) :
    (s.writeBack k).tick.platform.ckpt = some { k with stage := 1 } ∧ ∀ d, d < 4 → ((s.writeBack k).tick.die d).dirty = [] := by
  rw [State.writeBack, if_pos h, State.tick_platform, State.modPlatform_platform]
  exact ⟨rfl, fun d hd => (congrArg Die.dirty (die_modPlatform_tick ..)).trans (clean_boundary s 0 d hd)⟩

/-- The module whose queues' entries are overwritten, and whose host queues stand as the image says (R81, R280). -/
def State.reloadQueues (s : State) (m : SafeImage) : State :=
  let s := s.sliceQueues.foldl (fun (s : State) (e : Nat × SliceQueue) => if isHost e.1 then s else s.queueClobber e.1) s
  let names := m.queues.foldl (fun (l : List Nat) e => insertNat e.1 l) (s.queues.map (fun e => e.1))
  names.foldl (fun (s : State) q => s.modQueue q (fun v => v.reload m q)) s

theorem reloadQueues_keeps (s : State) (m : SafeImage) :
    ((s.reloadQueues m).mem, (s.reloadQueues m).platform) = (s.mem, s.platform) := by
  let view := fun (s : State) => (s.mem, s.platform)
  have hc : ∀ (s : State) (e : Nat × SliceQueue), view (if isHost e.1 then s else s.queueClobber e.1) = view s := fun s e => by
    split
    · rfl
    · obtain ⟨q, n, h⟩ := queueClobber_eq s e.1
      rw [h]
  have hq : ∀ (s : State) (q : Nat), view (s.modQueue q (fun v => v.reload m q)) = view s := fun _ _ => rfl
  exact (foldl_keeps view hq _ _).trans (foldl_keeps view hc _ s)

theorem reload_mem (s : State) (m : SafeImage) :
    (s.reload m).mem = m.device s.free ++ (s.reloadQueues m).mem.filter (fun b => decide (Config.deviceTop ≤ b.1)) := by
  rw [State.reload, State.reloadQueues]

theorem reload_epochs (s : State) (m : SafeImage) : (s.reload m).epochs = m.epoch := by
  rw [State.reload]

theorem reload_platform (s : State) (m : SafeImage) : (s.reload m).platform =
    { (s.reloadQueues m).platform with lost := (s.reloadQueues m).platform.lost.filter isHost, zeroed := m.zeros s.free } := by
  rw [State.reload, State.reloadQueues]

/-- What a restore that ends leaves (R280): the image's memory below the host's, its epoch and the chunks left zero. -/
theorem reload_ends (s : State) (m : SafeImage) (k : Checkpoint) (status : Nat) (h0 : pkCompletion k.desc = 0) :
    let t := ((s.reload m).ckptEnd k status).tick
    t.platform.ckpt = none ∧ t.epochs = m.epoch ∧ t.platform.safe = s.platform.safe ∧ t.platform.zeroed = m.zeros s.free ∧
      t.mem = m.device s.free ++ s.mem.filter (fun (b : Nat × Byte) => decide (Config.deviceTop ≤ b.1)) := by
  intro t
  obtain ⟨hm, hp⟩ := Prod.mk.inj (reloadQueues_keeps s m)
  rw [State.tick_platform, State.tick_epochs, State.tick_mem, ckptEnd_platform, ckptEnd_epochs, ckptEnd_mem_of_none _ _ _ h0, reload_mem, reload_epochs,
    reload_platform, hm, hp]
  simp only [and_self]

/-! ### The events of O52 -/

theorem queue_modPlatform (s : State) (f : Platform → Platform) (q : Nat) : (s.modPlatform f).queue q = s.queue q := rfl

theorem queue_modPlatform_tick (s : State) (f : Platform → Platform) (q : Nat) : (s.modPlatform f).tick.queue q = s.queue q := rfl

/-- A checkpoint or restore begins: its packet waits, and nothing runs or is written (R278). -/
theorem quiesce_begins {s : State} {q : Nat} {p : W512} {r : Bool} (hc : s.platform.ckpt = none) (hu : s.firmwareUp = true) :
    let t := ((s.quiesce q p r).modPlatform (fun g => g.worked s.free)).tick
    t.mem = s.mem ∧ t.launches = s.launches ∧ t.cores = s.cores ∧ (t.queue q).waiting = some ((s.queue q).readIndex, p) ∧
      (t.queue q).readIndex = (s.queue q).readIndex + 1 ∧
      t.platform.ckpt = some { queue := q, packet := (s.queue q).readIndex, desc := p, restore := r, stage := 0 } := by
  intro t
  have ht : t = _ := congrArg (fun (u : State) => (u.modPlatform (fun g => g.worked s.free)).tick) (quiesce_eq hc hu)
  clear_value t
  subst ht
  have hq : (s.takeWaiting q p).queue q = { (s.queue q).take with waiting := some ((s.queue q).readIndex, p) } := queue_modQueue_self ..
  rw [queue_modPlatform_tick, queue_modPlatform, hq]
  exact ⟨rfl, rfl, rfl, rfl, rfl, rfl⟩

/-- Where a histogram cannot be read, a SCALE packet only ends (R293). -/
theorem scale_unread {s : State} {q : Nat} {p : W512} (ht : s.takeable q 6 = some p) (hok : firmwareOk p = true) (h : pkSelector p = 2)
    (hu : s.firmwareUp = true) (h0 : pkCompletion p = 0) (hr : s.sysRead (pkAddress p) 128 = none) :
    (s.scale q).mem = s.mem ∧ ((s.scale q).queue q).readIndex = (s.queue q).readIndex + 1 := by
  rw [scale_none ht hok h hu hr]
  refine ⟨packetDone_mem_of_none _ _ _ _ _ _ _ _ h0, ?_⟩
  rw [packetDone_readIndex, queue_modQueue_self]
  rfl

/-- A SCALE packet writes its exponent (R64, R293). -/
theorem scale_writes {s : State} {q : Nat} {p : W512} {bs : List Byte} (ht : s.takeable q 6 = some p) (hok : firmwareOk p = true)
    (h : pkSelector p = 2) (hu : s.firmwareUp = true) (hw : s.mem.wf = true) (h0 : pkCompletion p = 0)
    (hr : s.sysRead (pkAddress p) 128 = some bs) (hres : (s.sysRead (pkResult p) 8).isSome = true) :
    ((s.scale q).queue q).readIndex = (s.queue q).readIndex + 1 ∧ mread (s.scale q).mem (pkResult p) 8 = scaleResult p bs := by
  have hl : (scaleResult p bs).length = 8 := length_leBytes ..
  rw [scale_some ht hok h hu hr]
  refine ⟨?_, ?_⟩
  · rw [packetDone_readIndex, sysWrite_queue, queue_modQueue_self]
    rfl
  · have hres' : ((s.modQueue q HostQueue.take).sysRead (pkResult p) (scaleResult p bs).length).isSome = true := by
      rw [hl]
      exact hres
    rw [packetDone_mem_of_none _ _ _ _ _ _ _ _ h0, ← hl]
    exact mread_sysWrite hw hres'

/-- Settles O52: each event ends, goes on or begins as its lemma above says; the bytes that the firmware writes read back because memory is in
canonical form. -/
theorem firmwareEvents : Obligations.FirmwareEvents := by
  unfold Obligations.FirmwareEvents
  intro s q p hp v i refused failed
  refine ⟨fun hc => ⟨?_, fun n => ?_⟩, fun ht hu => ⟨fun hok => ⟨?_, ?_, ?_⟩, fun hok hc r hsel => ?_,
    fun hok hsel hw h0 => ⟨fun hr => ?_, fun bs hr hres => ?_⟩⟩,
    fun k hk hd => ?_, fun k hk hd h0 => ?_⟩
  · exact (happen_eq (fun s => s.takeLaunch q) hp).trans (by rw [takeLaunch_stopped q hc])
  · exact (happen_eq (fun s => s.nodeStart q n) hp).trans (by rw [nodeStart_stopped q n hc])
  · exact (firmwareDoes_eq (fun s => s.checkpoint q) hp hu).trans (by rw [checkpoint_refused ht hok])
  · exact (firmwareDoes_eq (fun s => s.restore q) hp hu).trans (by rw [restore_refused ht hok])
  · exact (firmwareDoes_eq (fun s => s.scale q) hp hu).trans (by rw [scale_refused ht hok])
  · refine ⟨_, ?_, quiesce_begins hc hu⟩
    cases r with
    | false => exact (firmwareDoes_eq (fun s => s.checkpoint q) hp hu).trans (by rw [checkpoint_quiesces ht hok hsel])
    | true => exact (firmwareDoes_eq (fun s => s.restore q) hp hu).trans (by rw [restore_quiesces ht hok hsel])
  · exact ⟨_, firmwareDoes_eq (fun s => s.scale q) hp hu, scale_unread ht hok hsel hu h0 hr⟩
  · exact ⟨_, firmwareDoes_eq (fun s => s.scale q) hp hu, scale_writes ht hok hsel hu hw h0 hr hres⟩
  · subst hd
    refine ⟨fun hs hl => ?_, fun hs => ?_, fun hr hs ht => ?_, fun hr hs ht => ?_⟩
    · exact ⟨_, (happen_eq State.drainLimit hp).trans (by rw [drainLimit_eq hk hs hl]), ckptEnd_failed s k⟩
    · exact ⟨_, (happen_eq State.safeTierLoss hp).trans (by rw [safeTierLoss_eq hk hs]), ckptEnd_failed s k, ckptEnd_safe s k 5⟩
    · exact ⟨_, (happen_eq State.checkpointComplete hp).trans (by rw [checkpointComplete_eq hk hr hs, ht]), ckptEnd_failed s k, ckptEnd_safe s k 5⟩
    · exact ⟨_, (happen_eq State.restoreComplete hp).trans (by rw [restoreComplete_eq hk hr hs, ht]), ckptEnd_failed s k⟩
  · subst hd
    refine ⟨fun hs hl => ⟨_, ?_, writeBack_clean k hl⟩, fun hr hs => ?_, fun m hr hs ht => ?_⟩
    · cases hr : k.restore with
      | false => exact (happen_eq State.checkpointComplete hp).trans (by rw [checkpointComplete_writesBack hk hr hs])
      | true => exact (happen_eq State.restoreComplete hp).trans (by rw [restoreComplete_writesBack hk hr hs])
    · refine ⟨_, happen_eq State.checkpointComplete hp, ?_⟩
      rw [checkpointComplete_eq hk hr hs]
      cases s.tierOf k.desc with
      | none => exact ⟨ckptEnd_mem_of_none s k 5 h0, congrArg Platform.ckpt (ckptEnd_platform s k 5), ckptEnd_safe s k 5⟩
      | some n => exact ⟨ckptEnd_mem_of_none _ k _ h0, congrArg Platform.ckpt (ckptEnd_platform _ k _), ckptEnd_safe _ k _⟩
    · exact ⟨_, (happen_eq State.restoreComplete hp).trans (by rw [restoreComplete_eq hk hr hs, ht]), reload_ends s m k _ h0⟩

end Sys2Proof.Machine

namespace Sys2Proof.Machine

/-! ### The parts of the canonical form -/

/-- Every core's L1 copies are in canonical form. -/
def CoresWf (t : Table Core) : Prop := ∀ c, ((tget t c).getD Core.fresh).l1.wf = true

/-- Every die's copies are in canonical form. -/
def DiesWf (t : Vector Die 4) : Prop := ∀ d, (vget t d Die.fresh).copies.wf = true

/-- The images of the safe tiers are in canonical form and hold device memory alone. -/
def SafeWf (t : Table SafeImage) : Prop := ∀ n m, tget t n = some m → m.mem.wf = true ∧ ∀ a b, (a, b) ∈ m.mem → a < Config.deviceTop

/-- The management complex's SRAM and the images of the safe tiers are in canonical form. -/
def Platform.Wf (f : Platform) : Prop := f.sram.wf = true ∧ SafeWf f.safe

@[simp] theorem Platform.wf_mk (mg sram b bp br ve di inv dr cut log cor leaf si re rp pa rm pd rep ck safe ze rpg rl lo tr th) :
    (Platform.mk mg sram b bp br ve di inv dr cut log cor leaf si re rp pa rm pd rep ck safe ze rpg rl lo tr th).Wf ↔
      sram.wf = true ∧ SafeWf safe := Iff.rfl

theorem CoresWf.tput {t : Table Core} (h : CoresWf t) (c : Nat) {k : Core} (hk : k.l1.wf = true) : CoresWf (tput t c k) := by
  intro j
  by_cases e : j = c
  · subst e; simpa using hk
  · rw [tget_tput_other _ _ _ _ e]; exact h j

/-- A table whose values are updated, each under its key. -/
theorem tget_map_entry {α β : Type} {f : Nat × α → Nat × β} (hf : ∀ e, (f e).1 = e.1) (t : Table α) (k : Nat) :
    tget (t.map f) k = (tget t k).map (fun v => (f (k, v)).2) := by
  induction t with
  | nil => rfl
  | cons e t ih =>
    obtain ⟨j, v⟩ := e
    rw [List.map_cons, ← Prod.mk.eta (p := f (j, v)), tget, tget, hf]
    split
    · rename_i h; subst h; rfl
    · exact ih

/-- An update of every core that keeps the canonical form of its L1. -/
theorem CoresWf.map {t : Table Core} (h : CoresWf t) {f : Nat × Core → Nat × Core} (h1 : ∀ e, (f e).1 = e.1)
    (h2 : ∀ e, e.2.l1.wf = true → (f e).2.l1.wf = true) : CoresWf (t.map f) := by
  intro j
  rw [tget_map_entry h1]
  have := h j
  cases hj : tget t j with
  | none => rfl
  | some k => rw [hj] at this; exact h2 (j, k) this

/-- Cores whose L1 holds nothing. -/
theorem CoresWf.of_empty {t : Table Core} (h : ∀ e ∈ t, e.2.l1 = []) : CoresWf t := by
  intro j
  cases hj : tget t j with
  | none => rfl
  | some k => rw [Option.getD_some, h _ (mem_of_tget hj)]; rfl

theorem DiesWf.vset {t : Vector Die 4} (h : DiesWf t) (d : Nat) {v : Die} (hv : v.copies.wf = true) : DiesWf (vset t d v) := by
  intro j
  by_cases e : j = d
  · subst e
    by_cases hj : j < 4
    · rw [vget_vset_self _ _ _ _ hj]; exact hv
    · simp only [vget, Vector.getElem?_eq_none (Nat.le_of_not_lt hj)]; rfl
  · rw [vget_vset_other _ _ _ _ _ e]; exact h j

/-- An update of every die that keeps its copies. -/
theorem DiesWf.map {t : Vector Die 4} (h : DiesWf t) {f : Die → Die} (hf : ∀ k, (f k).copies = k.copies) : DiesWf (t.map f) := by
  intro j
  have := h j
  by_cases hj : j < 4
  · simp only [vget, Vector.getElem?_eq_getElem hj, Option.getD_some, Vector.getElem_map] at this ⊢
    rw [hf]; exact this
  · simp only [vget, Vector.getElem?_eq_none (Nat.le_of_not_lt hj)]; rfl

end Sys2Proof.Machine

namespace Sys2Proof.Claim

open Sys2Proof.Machine

/-- The canonical form, part by part. -/
theorem canonical_iff (s : State) :
    Canonical s ↔ s.mem.wf = true ∧ DiesWf s.dies ∧ CoresWf s.cores ∧ TablesWf s.tables ∧ s.platform.Wf := Iff.rfl

/-- A state written out field by field is canonical when its parts are. -/
@[simp] theorem canonical_mk (p a t st b f bk cy mem co d tl ta la ep sa sq de qs lb ch ou sk pl) :
    Canonical (State.mk p a t st b f bk cy mem co d tl ta la ep sa sq de qs lb ch ou sk pl) ↔
      mem.wf = true ∧ DiesWf d ∧ CoresWf co ∧ TablesWf ta ∧ pl.Wf := Iff.rfl

section
variable {s : State} (h : Canonical s)
include h

@[simp] theorem Canonical.mem_wf : s.mem.wf = true := h.1
@[simp] theorem Canonical.dies : DiesWf s.dies := h.2.1
@[simp] theorem Canonical.cores : CoresWf s.cores := h.2.2.1
@[simp] theorem Canonical.tables : TablesWf s.tables := h.2.2.2.1
@[simp] theorem Canonical.platform : s.platform.Wf := h.2.2.2.2
@[simp] theorem Canonical.sram : s.platform.sram.wf = true := h.platform.1
@[simp] theorem Canonical.safe : SafeWf s.platform.safe := h.platform.2
@[simp] theorem Canonical.core_l1 (c : Nat) : (s.core c).l1.wf = true := h.cores c
@[simp] theorem Canonical.die_copies (d : Nat) : (s.die d).copies.wf = true := h.dies d

/-- A choice between two states. -/
@[simp] theorem canonical_ite {p : Prop} [Decidable p] {t : State} (g : Canonical t) : Canonical (if p then s else t) := by
  split
  · exact h
  · exact g

/-- Steps one after another, each of which keeps the canonical form. -/
theorem Canonical.foldl {α : Type} {f : State → α → State} (hf : ∀ s x, Canonical s → Canonical (f s x)) (l : List α) : Canonical (l.foldl f s) := by
  induction l generalizing s with
  | nil => exact h
  | cons x l ih => exact ih (hf s x h)

@[simp] theorem Canonical.putCore (c : Nat) {k : Core} (hk : k.l1.wf = true) : Canonical (s.putCore c k) :=
  ⟨h.mem_wf, h.dies, h.cores.tput c hk, h.tables, h.platform⟩

@[simp] theorem Canonical.modCore (c : Nat) {f : Core → Core} (hf : (f (s.core c)).l1.wf = true) : Canonical (s.modCore c f) :=
  h.putCore c hf

/-- An update of a core that leaves its L1. -/
theorem Canonical.modCore_of_l1 (c : Nat) {f : Core → Core} (hf : ∀ k, (f k).l1 = k.l1) : Canonical (s.modCore c f) :=
  h.modCore c (by rw [hf]; exact h.core_l1 c)

@[simp] theorem Canonical.putCtx (c x : Nat) (v : Ctx) : Canonical (s.putCtx c x v) := h.putCore c (h.core_l1 c)

@[simp] theorem Canonical.modCtx (c x : Nat) (f : Ctx → Ctx) : Canonical (s.modCtx c x f) := h.putCtx c x _

theorem Canonical.setPlatform {f : Platform} (hf : f.Wf) : Canonical { s with platform := f } :=
  ⟨h.mem_wf, h.dies, h.cores, h.tables, hf⟩

@[simp] theorem Canonical.putDie (d : Nat) {v : Die} (hv : v.copies.wf = true) : Canonical (s.putDie d v) :=
  ⟨h.mem_wf, h.dies.vset d hv, h.cores, h.tables, h.platform⟩

end

end Sys2Proof.Claim

namespace Sys2Proof.Machine

/-! ### The L1 of a core -/

section
variable (k : Core)

theorem Core.foldl_l1 {α : Type} {f : Core → α → Core} (hf : ∀ k x, (f k x).l1 = k.l1) (l : List α) : (l.foldl f k).l1 = k.l1 := by
  induction l generalizing k with
  | nil => rfl
  | cons x l ih => exact (ih (f k x)).trans (hf k x)

@[simp] theorem Core.modTag_l1 (b n : Nat) (f : Tag → Tag) : (k.modTag b n f).l1 = k.l1 := by
  unfold Core.modTag; split <;> rfl

@[simp] theorem Core.freeTags_l1 (b : Nat) : (k.freeTags b).l1 = k.l1 := by
  unfold Core.freeTags; split <;> rfl

@[simp] theorem Core.putCmd_l1 (m : Cmd) : (k.putCmd m).l1 = k.l1 := rfl

@[simp] theorem Core.settleBarrier_l1 (key : Nat) : (k.settleBarrier key).l1 = k.l1 := by
  unfold Core.settleBarrier; simp only; split <;> rfl

@[simp] theorem Core.settleBarriers_l1 : k.settleBarriers.l1 = k.l1 := by
  unfold Core.settleBarriers; exact k.foldl_l1 (by simp) _

@[simp] theorem Core.arriveAt_l1 (x key : Nat) : (k.arriveAt x key).l1 = k.l1 := Core.settleBarrier_l1 _ _

@[simp] theorem Core.arrive_l1 (x b pc : Nat) (owes : Bool) : (k.arrive x b pc owes).l1 = k.l1 := by
  unfold Core.arrive; simp only; split <;> simp

@[simp] theorem Core.barArrive_l1 (e : Env) (b : Nat) : (e.barArrive b k).l1 = k.l1 := by
  unfold Env.barArrive; split <;> simp

@[simp] theorem Core.leave_l1 (x b pc : Nat) : (k.leave x b pc).l1 = k.l1 := by
  unfold Core.leave; simp only; split <;> rfl

@[simp] theorem Core.forget_l1 (x pc : Nat) : (k.forget x pc).l1 = k.l1 := by
  simp only [Core.forget, Core.putCtx_l1]; exact k.foldl_l1 (fun _ _ => by rfl) _

@[simp] theorem Core.setLatch_l1 (x : Nat) : (k.setLatch x).l1 = k.l1 := by
  unfold Core.setLatch; split <;> rfl

@[simp] theorem Core.sevArrive_l1 (x : Nat) : (k.sevArrive x).l1 = k.l1 := by
  unfold Core.sevArrive; split <;> simp

@[simp] theorem Core.landSevs_l1 (s : State) : (s.landSevs k).l1 = k.l1 := by
  unfold State.landSevs; exact Core.foldl_l1 _ (by simp) _

@[simp] theorem Core.landXf_l1 (now : Nat) : (k.landXf now).l1 = k.l1 := rfl

@[simp] theorem Core.idled_l1 (x : Nat) : (k.idled x).l1 = k.l1 := by
  unfold Core.idled; split <;> rfl

@[simp] theorem Core.counted_l1 (x bubbles : Nat) (y : Bool) : (k.counted x bubbles y).l1 = k.l1 := rfl

@[simp] theorem Core.accFresh_l1 (a : Nat) : (k.accFresh a).l1 = k.l1 := by
  unfold Core.accFresh; repeat' split
  all_goals rfl

@[simp] theorem Core.clearShared_l1 : k.clearShared.l1 = k.l1 := rfl

@[simp] theorem Core.scars_l1 : k.scars.l1 = [] := rfl

end

section
variable {k : Core} (h : k.l1.wf = true)
include h

@[simp] theorem Core.wf_l1Drop (p : Nat → Bool) : (k.l1Drop p).l1.wf = true := by
  unfold Core.l1Drop; simp only; exact wf_mdrop _ h

@[simp] theorem Core.wf_l1Room (free pa : Nat) : (k.l1Room free pa).l1.wf = true := by
  unfold Core.l1Room; simp only; (repeat' split) <;> simp [h]

@[simp] theorem Core.wf_l1Update (pa : Nat) (b : Byte) : (k.l1Update pa b).l1.wf = true := by
  unfold Core.l1Update; split
  · exact wf_mput _ _ h
  · exact h

end
end Sys2Proof.Machine

namespace Sys2Proof.Claim

open Sys2Proof.Machine

/-! ### The copies of dies and cores, and the writes to memory (R77, R153, R154) -/

section
variable {s : State} (h : Canonical s)
include h

@[simp] theorem Canonical.upd (e : Env) (f : Ctx → Ctx) : Canonical (e.upd s f) := h.modCtx _ _ _

theorem Canonical.setMem {m : Memory} (hm : m.wf = true) : Canonical { s with mem := m } :=
  ⟨hm, h.dies, h.cores, h.tables, h.platform⟩

@[simp] theorem Canonical.dieFlush (d : Nat) (p : Nat → Bool) : Canonical (s.dieFlush d p) :=
  (h.setMem (wf_foldl_mput _ _ _ h.mem_wf)).putDie d (h.die_copies d)

@[simp] theorem Canonical.dieEvict (d : Nat) (p : Nat → Bool) : Canonical (s.dieEvict d p) := by
  grind [State.dieEvict, Canonical.dieFlush, Canonical.putDie, Canonical.die_copies, wf_mdrop]

@[simp] theorem Canonical.dieRoom (d pa : Nat) : Canonical (s.dieRoom d pa) := by
  unfold State.dieRoom; simp only; (repeat' split) <;> simp [h]

@[simp] theorem Canonical.dieFill (d pa : Nat) : Canonical (s.dieFill d pa) := by
  unfold State.dieFill; split
  · exact h
  · have r := h.dieRoom d pa
    dsimp only
    exact r.putDie d (wf_mwrite _ _ (r.die_copies d))

@[simp] theorem Canonical.dieWrite (d pa : Nat) (b : Byte) : Canonical (s.dieWrite d pa b) := by
  unfold State.dieWrite; split
  · exact h.setMem (wf_mput _ _ h.mem_wf)
  · exact (h.dieFill d pa).putDie d (wf_mput _ _ ((h.dieFill d pa).die_copies d))

@[simp] theorem Canonical.l1Fill (c pa : Nat) : Canonical (s.l1Fill c pa) := by
  unfold State.l1Fill; split
  · exact h
  · have f := h.dieFill (dieOf c) pa
    refine f.modCore c ?_
    dsimp only
    exact wf_mwrite _ _ (Core.wf_l1Room (f.core_l1 c) _ _)

@[simp] theorem Canonical.fillLines (c : Nat) (ls : List Nat) : Canonical (s.fillLines c ls) :=
  h.foldl (fun _ _ h => h.foldl (fun _ x h => h.l1Fill c (x * 32)) _) ls

@[simp] theorem Canonical.queueClobber (pa : Nat) : Canonical (s.queueClobber pa) := by
  unfold State.queueClobber; split <;> exact h

@[simp] theorem Canonical.coreWrite (c pa : Nat) (b : Byte) : Canonical (s.coreWrite c pa b) :=
  have w := (h.dieWrite (dieOf c) pa b).queueClobber pa
  w.modCore c (Core.wf_l1Update (w.core_l1 c) pa b)

@[simp] theorem Canonical.coreWrites (c : Nat) (ws : List (Nat × Byte)) : Canonical (s.coreWrites c ws) := by
  refine h.foldl (fun s w h => ?_) ws
  exact h.coreWrite c w.1 w.2

@[simp] theorem Canonical.homeWrite (c pa : Nat) (b : Byte) : Canonical (s.homeWrite c pa b) :=
  have e := h.dieEvict (dieOf c) (fun l => l == lineOf pa)
  have w := (e.setMem (wf_mput pa b e.mem_wf)).queueClobber pa
  w.modCore c (Core.wf_l1Update (w.core_l1 c) pa b)

/-- The signatures of every die are no part of the form. -/
theorem Canonical.mapDies {f : Die → Die} (hf : ∀ k, (f k).copies = k.copies) : Canonical { s with dies := s.dies.map f } :=
  ⟨h.mem_wf, h.dies.map hf, h.cores, h.tables, h.platform⟩

theorem Canonical.mapCores {f : Nat × Core → Nat × Core} (h1 : ∀ e, (f e).1 = e.1) (h2 : ∀ e, e.2.l1.wf = true → (f e).2.l1.wf = true) :
    Canonical { s with cores := s.cores.map f } :=
  ⟨h.mem_wf, h.dies, h.cores.map h1 h2, h.tables, h.platform⟩

@[simp] theorem Canonical.publish (c scope : Nat) : Canonical (s.publish c scope) := by
  unfold State.publish
  grind [Canonical.dieFlush, Canonical.modCore, Canonical.core_l1, Canonical.mapDies, Canonical.putDie, Canonical.die_copies]

@[simp] theorem Canonical.acquire (c scope : Nat) : Canonical (s.acquire c scope) := by
  grind [State.acquire, Canonical.dieEvict, Canonical.modCore, Canonical.core_l1, Core.wf_l1Drop, Canonical.fillLines]

@[simp] theorem Canonical.reread (c scope pa : Nat) : Canonical (s.reread c scope pa) := by
  grind [State.reread, Canonical.dieEvict, Canonical.modCore, Canonical.core_l1, Core.wf_l1Drop, Canonical.fillLines]

theorem Canonical.evictAll (ds : List Nat) : Canonical (ds.foldl (fun (s : State) d => s.dieEvict d (fun _ => true)) s) :=
  h.foldl (fun _ d h => h.dieEvict d _) ds

@[simp] theorem Canonical.boundary (l : Nat) : Canonical (s.boundary l) := by
  unfold State.boundary
  have e := h.evictAll [0, 1, 2, 3]
  generalize ([0, 1, 2, 3]).foldl (fun (s : State) d => s.dieEvict d (fun _ => true)) s = t at e ⊢
  refine Canonical.foldl ?_ (fun _ e h => by exact h.fillLines e.1 e.2.blockLines) _
  exact ⟨e.mem_wf, e.dies.map (fun _ => rfl), e.cores.map (fun _ => rfl) (fun _ hk => Core.wf_l1Drop hk (fun _ => true)), e.tables, e.platform⟩

/-! ### Tables in force (R104) -/

@[simp] theorem Canonical.keepTables (root lo hi top : Nat) : Canonical (s.keepTables root lo hi top) := by
  obtain ⟨ts, e, w⟩ := keepTables_wf s root lo hi top h.mem_wf h.tables
  exact e ▸ ⟨h.mem_wf, h.dies, h.cores, w, h.platform⟩

@[simp] theorem Canonical.openRoot (root : Nat) : Canonical (s.openRoot root) := by
  obtain ⟨ts, e, w⟩ := openRoot_wf s root h.mem_wf h.tables
  exact e ▸ ⟨h.mem_wf, h.dies, h.cores, w, h.platform⟩

@[simp] theorem Canonical.noteWalk (root va : Nat) : Canonical (s.noteWalk root va) := by
  unfold State.noteWalk; split <;> simp [h]

@[simp] theorem Canonical.noteTlb (c root va : Nat) : Canonical (s.noteTlb c root va) := by
  unfold State.noteTlb; split
  · have w := h.noteWalk root va
    exact ⟨w.mem_wf, w.dies, w.cores.tput c (w.core_l1 c), w.tables, w.platform⟩
  · exact h

end

/-! ### Contexts, accesses, tags and traps -/

@[simp] theorem Canonical.putWindow {s : State} (h : Canonical s) (c b : Nat) (m : Memory) : Canonical (s.putWindow c b m) :=
  h.modCore_of_l1 c (fun k => by split <;> rfl)

@[simp] theorem Canonical.modTag {s : State} (h : Canonical s) (c b n : Nat) (f : Tag → Tag) : Canonical (s.modTag c b n f) := by
  simp [State.modTag, h]

@[simp] theorem Canonical.performInner {s : State} (h : Canonical s) (c x : Nat) (o : MemOp) : Canonical (s.performInner c x o) := by
  unfold State.performInner; (repeat' split) <;> simp [h]

@[simp] theorem Canonical.settleN {s : State} (h : Canonical s) (n c x : Nat) : Canonical (settleN n s c x) := by
  induction n generalizing s with
  | zero => exact h
  | succ n ih =>
    unfold Machine.settleN
    split
    · exact ih ((h.modCtx c x _).performInner c x _)
    · exact h

@[simp] theorem Canonical.settleOps {s : State} (h : Canonical s) (c x : Nat) : Canonical (s.settleOps c x) := h.settleN _ c x

@[simp] theorem Canonical.note {s : State} (h : Canonical s) (e : Env) (va n : Nat) : Canonical (e.note s va n) := by
  simp [Env.note, h]

/-- A bundle's translations of several places. -/
theorem Canonical.notes {s : State} (h : Canonical s) (e : Env) {α : Type} (f : α → Nat) (n : Nat) (l : List α) :
    Canonical (l.foldl (fun s a => e.note s (f a) n) s) := h.foldl (fun _ a h => h.note e (f a) n) l

@[simp] theorem Canonical.chunkLoad {s : State} (h : Canonical s) (e : Env) (w : BitVec 2) (a : W64) (stride : Int) (m p : W64) :
    Canonical (e.chunkLoad s w a stride m p) := (h.notes e _ 32 _).upd e _

@[simp] theorem Canonical.chunkStore {s : State} (h : Canonical s) (e : Env) (w : BitVec 2) (a : W64) (stride : Int) (m p : W64) :
    Canonical (e.chunkStore s w a stride m p) := (h.notes e _ 32 _).upd e _

@[simp] theorem Canonical.opDone {s : State} (h : Canonical s) (c x id : Nat) : Canonical (s.opDone c x id) := by
  simp [State.opDone, h]

@[simp] theorem Canonical.refresh {s : State} (h : Canonical s) (c : Nat) (pas : List Nat) (lvl : Nat) (acq : Bool) :
    Canonical (s.refresh c pas lvl acq) := by
  refine Canonical.foldl ?_ (fun _ a h => by exact h.l1Fill c a) pas
  grind [Canonical.dieEvict, Canonical.modCore, Canonical.core_l1, Core.wf_l1Drop]

@[simp] theorem Canonical.readFor {s : State} (h : Canonical s) (c : Nat) (o : MemOp) (lvl : Nat) : Canonical (s.readFor c o lvl) := by
  unfold State.readFor; (repeat' split) <;> simp [h]

@[simp] theorem Canonical.loadNow {s : State} (h : Canonical s) (c x k lvl : Nat) : Canonical (s.loadNow c x k lvl) := by
  grind [State.loadNow, Canonical.modCtx, Canonical.opDone, Canonical.readFor]

@[simp] theorem Canonical.postTrap {s : State} (h : Canonical s) (c x : Nat) (t : Trap) : Canonical (s.postTrap c x t) := by
  simp [State.postTrap, h]

@[simp] theorem Canonical.logFault {s : State} (h : Canonical s) (c : Nat) (f : Flt) : Canonical (s.logFault c f) := by
  unfold State.logFault; split
  · exact h.setPlatform h.platform
  · exact h

@[simp] theorem Canonical.post {s : State} (h : Canonical s) (c x cause bundle : Nat) (f : Flt) (cmd : Option Nat) (unitWd ask : Bool) :
    Canonical (s.post c x cause bundle f cmd unitWd ask) := by
  simp [State.post, h]

@[simp] theorem Canonical.lostAccess {s : State} (h : Canonical s) (c x : Nat) (o : MemOp) (pa : Nat) : Canonical (s.lostAccess c x o pa) := by
  simp [State.lostAccess, h]

@[simp] theorem Canonical.storeBytes {s : State} (h : Canonical s) (c : Nat) (o : MemOp) (ws : List (Nat × Byte)) :
    Canonical (s.storeBytes c o ws) := by
  grind [State.storeBytes, Canonical.dieFlush, Canonical.coreWrites, Canonical.homeWrite, Canonical.foldl]

@[simp] theorem Canonical.storeFor {s : State} (h : Canonical s) (c : Nat) (o : MemOp) : Canonical (s.storeFor c o) := by
  unfold State.storeFor; (repeat' split) <;> simp [h]

@[simp] theorem Canonical.storeNow {s : State} (h : Canonical s) (c x k : Nat) : Canonical (s.storeNow c x k) := by
  grind [State.storeNow, Canonical.opDone, Canonical.lostAccess, Canonical.storeFor]

@[simp] theorem Canonical.finishHalf {s : State} (hc : Canonical s) (h : Nat × Nat × Nat) : Canonical (s.finishHalf h) := by
  unfold State.finishHalf; (repeat' split) <;> simp [hc]

@[simp] theorem Canonical.whole {s : State} (h : Canonical s) (c x : Nat) (pas : List Nat) : Canonical (s.whole c x pas) := by
  grind [State.whole, Canonical.finishHalf, Canonical.foldl]

@[simp] theorem Canonical.loadReturn {s : State} (h : Canonical s) (c x k lvl : Nat) : Canonical (s.loadReturn c x k lvl) := by
  simp [State.loadReturn, h]

@[simp] theorem Canonical.sldNow {s : State} (h : Canonical s) (c x a : Nat) : Canonical (s.sldNow c x a) := by
  grind [State.sldNow, Canonical.modCtx, Canonical.opDone, Canonical.readFor]

@[simp] theorem Canonical.sldReturn {s : State} (h : Canonical s) (c x a : Nat) : Canonical (s.sldReturn c x a) := by
  unfold State.sldReturn; (repeat' split) <;> simp [h]

@[simp] theorem Canonical.storePerform {s : State} (h : Canonical s) (c x k : Nat) : Canonical (s.storePerform c x k) := by
  simp [State.storePerform, h]

@[simp] theorem Canonical.homeRead {s : State} (h : Canonical s) (c : Nat) (pas : List Nat) : Canonical (s.homeRead c pas).1 := h.dieEvict _ _

@[simp] theorem Canonical.homeWrites {s : State} (h : Canonical s) (c : Nat) (pas : List Nat) (v : Nat) : Canonical (s.homeWrites c pas v) :=
  h.foldl (fun _ w h => h.homeWrite c w.1 w.2) _

@[simp] theorem Canonical.rmwRelease {s : State} (h : Canonical s) (c : Nat) (o : MemOp) : Canonical (s.rmwRelease c o) := by
  simp [State.rmwRelease, h]

@[simp] theorem Canonical.rmwAcquire {s : State} (h : Canonical s) (c : Nat) (o : MemOp) : Canonical (s.rmwAcquire c o) := by
  simp [State.rmwAcquire, h]

@[simp] theorem Canonical.atomicNow {s : State} (h : Canonical s) (c x k : Nat) : Canonical (s.atomicNow c x k) := by
  grind [State.atomicNow, Canonical.modCtx, Canonical.opDone, Canonical.homeRead, Canonical.reread, Canonical.rmwRelease, Canonical.homeWrites,
    Canonical.rmwAcquire]

@[simp] theorem Canonical.sliceAtomic {s : State} (h : Canonical s) (c x k : Nat) : Canonical (s.sliceAtomic c x k) := by
  simp [State.sliceAtomic, h]

@[simp] theorem Canonical.reductionNow {s : State} (h : Canonical s) (c x k : Nat) : Canonical (s.reductionNow c x k) := by
  grind [State.reductionNow, Canonical.lostAccess, Canonical.opDone, Canonical.homeRead, Canonical.rmwRelease, Canonical.homeWrites,
    Canonical.rmwAcquire]

@[simp] theorem Canonical.sliceReduction {s : State} (h : Canonical s) (c x k : Nat) : Canonical (s.sliceReduction c x k) := by
  simp [State.sliceReduction, h]

@[simp] theorem Canonical.answerEntry {s : State} (h : Canonical s) (c x entry : Nat) (status val : W64) :
    Canonical (s.answerEntry c x entry status val) := by
  grind [State.answerEntry, Canonical.modCtx, Canonical.acquire, Canonical.settleOps]

@[simp] theorem Canonical.answer {s : State} (h : Canonical s) (w : Nat × Nat × Nat) (status val : W64) : Canonical (s.answer w status val) := by
  simp [State.answer, h]

@[simp] theorem Canonical.wakeAll {s : State} (h : Canonical s) (v : SliceQueue) : Canonical (s.wakeAll v) := by
  grind [State.wakeAll, Canonical.answer, Canonical.foldl]

theorem Canonical.setSliceQueues {s : State} (h : Canonical s) (q : Table SliceQueue) : Canonical { s with sliceQueues := q } := h

@[simp] theorem Canonical.queueOp {s : State} (h : Canonical s) (c x : Nat) (f : QueueOp) (v : W64) (entry q : Nat) :
    Canonical (s.queueOp c x f v entry q) := by
  unfold State.queueOp
  (repeat' split) <;>
    grind [Canonical.setSliceQueues, Canonical.wakeAll, Canonical.modCtx, Canonical.publish, Canonical.acquire, Canonical.answer,
      Canonical.answerEntry]

@[simp] theorem Canonical.queueEvent {s : State} (h : Canonical s) (c x : Nat) (f : QueueOp) (v : W64) (entry q : Nat) (o : MemOp) :
    Canonical (s.queueEvent c x f v entry q o) := by
  cases f
  case init => exact ((h.rmwRelease c o).queueOp c x _ v entry q).rmwAcquire c o
  case len => exact (h.queueOp c x _ v entry q).rmwAcquire c o
  all_goals exact h.queueOp c x _ v entry q

@[simp] theorem Canonical.sliceQueueOp {s : State} (h : Canonical s) (c x k : Nat) : Canonical (s.sliceQueueOp c x k) := by
  unfold State.sliceQueueOp; dsimp only; (repeat' split) <;> simp [h]

@[simp] theorem Canonical.performHead {s : State} (h : Canonical s) (c x : Nat) : Canonical (s.performHead c x) := by
  unfold State.performHead; (repeat' split) <;> simp [h]

@[simp] theorem Canonical.performN {s : State} (h : Canonical s) (n c x : Nat) : Canonical (performN n s c x) := by
  induction n generalizing s with
  | zero => exact h
  | succ n ih => exact ih (h.performHead c x)

@[simp] theorem Canonical.performAll {s : State} (h : Canonical s) (c x : Nat) : Canonical (s.performAll c x) := h.performN _ c x

@[simp] theorem Canonical.notePage {s : State} (h : Canonical s) (c root va : Nat) : Canonical (s.notePage c root va) := by
  simp [State.notePage, h]

@[simp] theorem Canonical.noteSpan {s : State} (h : Canonical s) (c root va n : Nat) : Canonical (s.noteSpan c root va n) := by
  unfold State.noteSpan; (repeat' split) <;> simp [h]

@[simp] theorem Canonical.noteLayouts {s : State} (h : Canonical s) (e : Env) (gs : List (Option Geo)) : Canonical (e.noteLayouts s gs) := by
  grind [Env.noteLayouts, Canonical.noteSpan, Canonical.foldl]

@[simp] theorem Canonical.enqueue {s : State} (h : Canonical s) (e : Env) (m : Cmd) : Canonical (e.enqueue s m) := by
  grind [Env.enqueue, Canonical.modCore, Canonical.noteLayouts, Canonical.core_l1]

@[simp] theorem Canonical.bindTag {s : State} (h : Canonical s) (e : Env) (t producer n : Nat) (geo : Option TagGeo) (group : Nat) :
    Canonical (e.bindTag s t producer n geo group) := by
  simp [Env.bindTag, h]

@[simp] theorem Canonical.modSaved {s : State} (h : Canonical s) (c id : Nat) (f : SavedTeam → Cmd → SavedTeam) : Canonical (s.modSaved c id f) := by
  simp [State.modSaved, h]

@[simp] theorem Canonical.noteReleased {s : State} (hc : Canonical s) (h : Hold) : Canonical (s.noteReleased h) := by
  grind [State.noteReleased, Canonical.modTag, Canonical.modSaved, Canonical.foldl]

@[simp] theorem Canonical.putLaunch {s : State} (h : Canonical s) (l : Nat) (v : Launch) : Canonical (s.putLaunch l v) := by
  simp [State.putLaunch, h]

@[simp] theorem Canonical.modLaunch {s : State} (h : Canonical s) (l : Nat) (f : Launch → Launch) : Canonical (s.modLaunch l f) := by
  unfold State.modLaunch; (repeat' split) <;> simp [h]

@[simp] theorem Canonical.putGroup {s : State} (h : Canonical s) (l key : Nat) (g : Group) : Canonical (s.putGroup l key g) := by
  grind [State.putGroup, Canonical.noteReleased, Canonical.modLaunch, Canonical.foldl]

@[simp] theorem Canonical.leaveGroup {s : State} (h : Canonical s) (c x g : Nat) : Canonical (s.leaveGroup c x g) := by
  unfold State.leaveGroup; (repeat' split) <;> simp [h]

@[simp] theorem Canonical.sendAtomic {s : State} (h : Canonical s) (e : Env) (f : AtomOp) (a z : Nat) (v ex p : W64) :
    Canonical (e.sendAtomic s f a z v ex p) := (h.note e a z).upd e _

@[simp] theorem Canonical.sendReduce {s : State} (h : Canonical s) (e : Env) (f : RedOp) (a z : Nat) (v p : W64) :
    Canonical (e.sendReduce s f a z v p) := (h.note e a z).upd e _

@[simp] theorem Canonical.sendQueue {s : State} (h : Canonical s) (e : Env) (f : QueueOp) (a n : Nat) (v : W64) (ord scope : Nat) :
    Canonical (e.sendQueue s f a n v ord scope) := (h.note e a 64).upd e _

@[simp] theorem Canonical.beforeWaitv {s : State} (h : Canonical s) (e : Env) (pas : List Nat) (ord : Nat) : Canonical (e.beforeWaitv s pas ord) := by
  simp [Env.beforeWaitv, h]

@[simp] theorem Canonical.pubsNow {s : State} (h : Canonical s) (e : Env) (t : Nat) : Canonical (e.pubsNow s t) := by
  unfold Env.pubsNow; split
  · refine Canonical.modCtx (Canonical.modCore_of_l1 (h.performAll e.c e.x) e.c fun k => ?_) e.c e.x _
    obtain ⟨ts, hk⟩ := k.withPubs_eq e.base e.x
    rw [hk]
  · exact h

@[simp] theorem Canonical.modGrant {s : State} (h : Canonical s) (l i : Nat) (f : Grant → Grant) : Canonical (s.modGrant l i f) := by
  simp [State.modGrant, h]

@[simp] theorem Canonical.setAccKind {s : State} (h : Canonical s) (c a : Nat) (isInt : Bool) : Canonical (s.setAccKind c a isInt) := by
  simp [State.setAccKind, h]

@[simp] theorem Canonical.launchProducer {s : State} (h : Canonical s) (e : Env) (m : Cmd) (t : Nat) : Canonical (e.launchProducer s m t) := by
  unfold Env.launchProducer; (repeat' split) <;> simp [h]

@[simp] theorem Canonical.landed {s : State} (h : Canonical s) (c x : Nat) : Canonical (s.landed c x) := by
  simp [State.landed, h]

@[simp] theorem Canonical.tick {s : State} (h : Canonical s) : Canonical (s.tick) := by
  simp [State.tick, h]

@[simp] theorem Canonical.blocked {s : State} (h : Canonical s) (c x : Nat) : Canonical (s.blocked c x) :=
  Canonical.tick (h.modCore c (f := fun k => k.idled x) (by simp [h]))

@[simp] theorem Canonical.issued {s : State} (h : Canonical s) (c x bubbles : Nat) (yields : Bool) : Canonical (s.issued c x bubbles yields) :=
  Canonical.tick (h.modCore c (f := fun k => k.counted x bubbles yields) (by simp [h]))

@[simp] theorem Canonical.write64 {s : State} (h : Canonical s) (c root va : Nat) (v : Nat) : Canonical (s.write64 c root va v) := by
  grind [State.write64, Canonical.homeWrite, Canonical.foldl]

@[simp] theorem Canonical.breakVersion {s : State} (h : Canonical s) (c : Nat) (m : Cmd) (root : Nat) : Canonical (s.breakVersion c m root) := by
  unfold State.breakVersion; (repeat' split) <;> simp [h]

@[simp] theorem Canonical.postLoss {s : State} (h : Canonical s) (c id va p : Nat) : Canonical (s.postLoss c id va p) := by
  unfold State.postLoss; (repeat' split) <;> simp [h]

@[simp] theorem Canonical.breakLost {s : State} (h : Canonical s) (c : Nat) (m : Cmd) (root : Nat) : Canonical (s.breakLost c m root) := by
  unfold State.breakLost; (repeat' split) <;> simp [h]

@[simp] theorem Canonical.dropGuest {s : State} (h : Canonical s) (c id : Nat) : Canonical (s.dropGuest c id) :=
  h.mapCores (fun _ => rfl) (fun _ hk => hk)

@[simp] theorem Canonical.dropCmd {s : State} (h : Canonical s) (c : Nat) (m : Cmd) : Canonical (s.dropCmd c m) := by
  unfold State.dropCmd
  extract_lets d k s1 s2
  have h1 : Canonical s1 := h.putDie d (h.die_copies d)
  have h2 : Canonical s2 := h1
  exact (h2.dropGuest c m.id).modCore_of_l1 c fun k => Core.freeTags_l1 _ _

@[simp] theorem Canonical.abortCmd {s : State} (h : Canonical s) (c : Nat) (m : Cmd) (cascade : Bool) : Canonical (s.abortCmd c m cascade) := by
  unfold State.abortCmd
  extract_lets root s1 s2 s3 s4
  have h1 : Canonical s1 := (h.breakLost c m root).breakVersion c m root
  have h2 : Canonical s2 := by unfold s2; split <;> simp [h1]
  have h3 : Canonical s3 := by unfold s3; split <;> simp [h2]
  have unspecified (a : Nat) : Canonical (s3.modCore c fun k => { k with accs := vset k.accs a ((vget k.accs a Acc.zero).unspecified s3.free) }) :=
    h3.modCore_of_l1 c fun _ => rfl
  have h4 : Canonical s4 := by unfold s4; split; exacts [unspecified _, unspecified _, unspecified _, h3]
  exact h4.dropCmd c m

@[simp] theorem Canonical.withdraw {s : State} (h : Canonical s) (c x : Nat) : Canonical (s.withdraw c x) := by
  unfold State.withdraw
  extract_lets ps
  split
  · exact h
  · exact Canonical.settleOps ((h.setSliceQueues _).modCtx c x _) c x

@[simp] theorem Canonical.abortLaunchOn {s : State} (h : Canonical s) (l c : Nat) : Canonical (s.abortLaunchOn l c) := by
  unfold State.abortLaunchOn
  extract_lets k mine s1 s2
  have h1 : Canonical s1 := h.foldl (fun _ m h => h.abortCmd c m false) _
  have h2 : Canonical s2 := h1.foldl (fun s x h => by (repeat' split) <;> simp [h]) _
  exact h2.modCore_of_l1 c fun _ => rfl

@[simp] theorem Canonical.endSaved {s : State} (h : Canonical s) (v : SavedTeam) : Canonical (s.endSaved v) := by
  unfold State.endSaved
  extract_lets d name root c s1 k s2
  have h1 : Canonical s1 := h.foldl (fun _ m h => h.breakVersion c m root) _
  have h2 : Canonical s2 := h1.putDie d (h1.die_copies d)
  exact h2

@[simp] theorem Canonical.endLaunch {s : State} (h : Canonical s) (l status cause : Nat) (tpc : W64) : Canonical (s.endLaunch l status cause tpc) := by
  unfold State.endLaunch
  extract_lets s1 s2 s3
  have h1 : Canonical s1 := h.foldl (fun _ e h => h.abortLaunchOn l e.1) _
  have h2 : Canonical s2 := h1.foldl (fun _ v h => h.endSaved v) _
  have h3 : Canonical s3 := h2.modLaunch l _
  exact h3

@[simp] theorem Canonical.nestedFault {s : State} (h : Canonical s) (c x cause tpc : Nat) : Canonical (s.nestedFault c x cause tpc) := by
  unfold State.nestedFault; (repeat' split) <;> simp [h]

@[simp] theorem Canonical.recordFailed {s : State} (h : Canonical s) (c x tpc : Nat) (e : Nat × Nat × Bool) :
    Canonical (s.recordFailed c x tpc e) := by
  simp [State.recordFailed, h]

@[simp] theorem Canonical.takeTrap {s : State} (h : Canonical s) (c x cause : Nat) (record : W512) (tpc : Nat) (cmd : Option Nat) (unitWd : Bool) :
    Canonical (s.takeTrap c x cause record tpc cmd unitWd) := by
  grind [State.takeTrap, Canonical.modCtx, Canonical.noteTlb, Canonical.withdraw, Canonical.nestedFault, Canonical.recordFailed]

@[simp] theorem Canonical.deliverTrap {s : State} (h : Canonical s) (c x : Nat) : Canonical (s.deliverTrap c x) := by
  unfold State.deliverTrap; (repeat' split) <;> simp [h]

@[simp] theorem Canonical.resendQdeqw {s : State} (h : Canonical s) (c x : Nat) : Canonical (s.resendQdeqw c x) := by
  simp [State.resendQdeqw, h]

@[simp] theorem Canonical.settleMismatch {s : State} (h : Canonical s) (c x : Nat) (f : Flt) : Canonical (s.settleMismatch c x f) := by
  unfold State.settleMismatch; (repeat' split) <;> simp [h]

@[simp] theorem Canonical.raise {s : State} (h : Canonical s) (c x bundle : Nat) (f : Flt) : Canonical (s.raise c x bundle f) := by
  grind [State.raise, Canonical.modCtx, Canonical.logFault, Canonical.takeTrap, Canonical.settleMismatch]

@[simp] theorem Canonical.noteFetch {s : State} (h : Canonical s) (c pa : Nat) : Canonical (s.noteFetch c pa) := by
  simp [State.noteFetch, h]

@[simp] theorem Canonical.abortHold {s : State} (h : Canonical s) (c id : Nat) : Canonical (s.abortHold c id) := by
  unfold State.abortHold
  extract_lets hs asks s1
  have h1 : Canonical s1 := h.foldl (fun s q h => by split <;> simp [h]) _
  exact h1

@[simp] theorem Canonical.putCmd {s : State} (h : Canonical s) (c : Nat) (m : Cmd) : Canonical (s.putCmd c m) := by
  unfold State.putCmd; (repeat' split) <;> simp [h]

@[simp] theorem Canonical.resumeCmd {s : State} (h : Canonical s) (c : Nat) (m : Cmd) (choice : Nat) : Canonical (s.resumeCmd c m choice) := by
  unfold State.resumeCmd; (repeat' split) <;> simp [h]

@[simp] theorem Canonical.leaveTrap {s : State} (h : Canonical s) (c x choice back : Nat) : Canonical (s.leaveTrap c x choice back) := by
  unfold State.leaveTrap
  extract_lets v
  split
  · exact h
  · extract_lets s1 s2
    have h1 : Canonical s1 := by unfold s1; (repeat' split) <;> simp [h]
    have h2 : Canonical s2 := h1.modCore_of_l1 c fun k => k.forget_l1 x back
    exact h2.modCtx c x _

@[simp] theorem Canonical.goOn {s : State} (h : Canonical s) (c x pc next bundlePos : Nat) (f : Flow) :
    Canonical (s.goOn c x pc next bundlePos f) := by
  cases f <;> simp [State.goOn, h]

@[simp] theorem Canonical.contest {s : State} (h : Canonical s) (c x : Nat) : Canonical (s.contest c x) := by
  simp [State.contest, h]

@[simp] theorem Canonical.purgeSevs {s : State} (h : Canonical s) (c : Nat) : Canonical (s.purgeSevs c) := by
  simp [State.purgeSevs, h]

@[simp] theorem Canonical.skipTurn {s : State} (h : Canonical s) : Canonical (s.skipTurn) := by
  simp [State.skipTurn, h]

@[simp] theorem Canonical.anew {s : State} (h : Canonical s) : Canonical (s.anew) := by
  unfold State.anew; (repeat' split) <;> simp [h]

@[simp] theorem Canonical.timeoutCmd {s : State} (h : Canonical s) (c : Nat) (m : Cmd) (chan chip : Nat) :
    Canonical (s.timeoutCmd c m chan chip) := by
  simp [State.timeoutCmd, h]

@[simp] theorem Canonical.joinStack {s : State} (h : Canonical s) (c : Nat) (m : Cmd) : Canonical (s.joinStack c m) := by
  simp +contextual [State.joinStack, h, Canonical.foldl]

@[simp] theorem Canonical.engineStart {s : State} (h : Canonical s) (c e : Nat) : Canonical (s.engineStart c e) := by
  unfold State.engineStart; dsimp only; (repeat' split) <;> simp [h]

@[simp] theorem Canonical.permitGrant {s : State} (h : Canonical s) (d : Nat) : Canonical (s.permitGrant d) := by
  grind [State.permitGrant, Canonical.putDie, Canonical.putCmd, Canonical.die_copies]

@[simp] theorem Canonical.reach {s : State} (h : Canonical s) (c root va n : Nat) : Canonical (s.reach c root va n) := by
  unfold State.reach; dsimp only; (repeat' split) <;> simp [h]

@[simp] theorem Canonical.betweenN {s : State} (h : Canonical s) (n j : Nat) : Canonical (betweenN n j s) := by
  induction n generalizing s with
  | zero => exact h
  | succ n ih =>
    unfold Machine.betweenN
    dsimp only
    split
    · exact h
    · refine ih ?_
      split
      · exact h.storePerform ..
      · exact h.loadReturn ..

@[simp] theorem Canonical.between {s : State} (h : Canonical s) (j : Nat) : Canonical (s.between j) := h.betweenN _ j

/-! ### Engines: elements, streams and chases -/

/-- Every state a result of type `Except` holds, as `p` and `q` take it out of its value and its failure, is in canonical form. -/
def Keeps {ε α : Type} (p : α → Prop) (q : ε → Prop) : Except ε α → Prop
  | .ok a => p a
  | .error e => q e

@[simp] theorem keeps_ok {ε α : Type} {p : α → Prop} {q : ε → Prop} (a : α) : Keeps p q (.ok a) ↔ p a := Iff.rfl
@[simp] theorem keeps_error {ε α : Type} {p : α → Prop} {q : ε → Prop} (e : ε) : Keeps p q (.error e) ↔ q e := Iff.rfl

theorem Keeps.ok {ε α : Type} {p : α → Prop} {q : ε → Prop} {r : Except ε α} {a : α} (h : Keeps p q r) (e : r = .ok a) : p a := by
  rw [e] at h; exact h

theorem Keeps.error {ε α : Type} {p : α → Prop} {q : ε → Prop} {r : Except ε α} {a : ε} (h : Keeps p q r) (e : r = .error a) : q a := by
  rw [e] at h; exact h

/-- The state a step of a command leaves is in canonical form. -/
def Stepped.Wf : Stepped → Prop
  | .done t => Canonical t
  | .fail _ _ t => Canonical t
  | _ => True

@[simp] theorem Stepped.wf_done (t : State) : Stepped.Wf (.done t) ↔ Canonical t := Iff.rfl
@[simp] theorem Stepped.wf_fail (f : Fail) (p : Nat) (t : State) : Stepped.Wf (.fail f p t) ↔ Canonical t := Iff.rfl
@[simp] theorem Stepped.wf_wait : Stepped.Wf .wait := trivial

theorem chaseHindrance_wf {tag : Nat} {l : List Chase} {r : Stepped} (h : chaseHindrance tag l = some r) : Stepped.Wf r := by
  induction l with
  | nil => simp [chaseHindrance] at h
  | cons x l ih =>
    cases x
    case met => exact ih h
    all_goals obtain rfl := Option.some.inj h; trivial

theorem Canonical.orElse {s : State} (h : Canonical s) {r : Stepped} (hr : Stepped.Wf r) : Canonical (r.orElse s) := by
  cases r
  case done t => exact hr
  all_goals exact h

@[simp] theorem Canonical.reachPlace {s : State} (h : Canonical s) (c root : Nat) (g : Geo) (p : Place) : Canonical (s.reachPlace c root g p) := by
  unfold State.reachPlace; (repeat' split) <;> simp [h]

theorem Canonical.listWords {s : State} (h : Canonical s) (c root va : Nat) (ks : List Nat) :
    Keeps (fun r => Canonical r.1) (fun e => Canonical e.2) (listWords c root va ks s) := by
  induction ks generalizing s with
  | nil => exact h
  | cons k r ih =>
    have h1 := (h.between (2 ^ 40 + k)).reach c root (va + 8 * k) 8
    unfold Machine.listWords
    dsimp only
    split
    · exact h1
    · split
      · exact h1
      · split
        · rename_i e; have k := (ih h1).ok e; exact k
        · exact ih h1

theorem Canonical.readEntry {s : State} (h : Canonical s) (c root : Nat) (m : Cmd) (i : Nat) :
    Keeps (fun r => Canonical r.1) (fun e => Canonical e.2) (s.readEntry c root m i) := by
  have k := h.listWords c root (m.list + 32 * i) [0, 1, 2, 3]
  unfold State.readEntry
  split
  · rename_i t bs e
    split <;> exact k.ok e
  · exact k

theorem Canonical.readWord {s : State} (h : Canonical s) (c root va : Nat) :
    Keeps (fun r => Canonical r.1) (fun _ => True) (s.readWord c root va) := by
  unfold State.readWord; (repeat' split) <;> simp [h]

@[simp] theorem Canonical.flagAcquire {s : State} (h : Canonical s) (c scope : Nat) : Canonical (s.flagAcquire c scope) := by
  simp [State.flagAcquire, h]

theorem Canonical.writeWord {s : State} (h : Canonical s) (c root va v : Nat) : Keeps Canonical (fun _ => True) (s.writeWord c root va v) := by
  unfold State.writeWord; (repeat' split) <;> simp [h]

@[simp] theorem Canonical.flagRelease {s : State} (h : Canonical s) (c scope : Nat) : Canonical (s.flagRelease c scope) := by
  simp [State.flagRelease, h]

theorem Canonical.closeTile {s : State} (h : Canonical s) (c root : Nat) (m : Cmd) (va scope : Nat) :
    Keeps (fun r => Canonical r.1) (fun _ => True) (s.closeTile c root m va scope) := by
  unfold State.closeTile
  split
  · exact h
  · split
    · trivial
    · rename_i e; exact ((h.writeWord c root va _).ok e).flagRelease c scope

@[simp] theorem Canonical.publishTo {s : State} (h : Canonical s) (c : Nat) (m : Cmd) (f : Nat) (skipped : Bool) :
    Canonical (s.publishTo c m f skipped) := by
  unfold State.publishTo; (repeat' split) <;> simp [h]

theorem Canonical.copyDone {s : State} (h : Canonical s) (c root : Nat) (m : Cmd) (skip : Bool) (upTo : Nat) (rel : Bool) :
    Stepped.Wf (s.copyDone c root m skip upTo rel) := by
  unfold State.copyDone
  extract_lets +onlyGivenNames tileEnd scope check
  have hc : Keeps (fun r => Canonical r.1) (fun _ => True) check := by
    unfold check
    split
    · split
      · have k := h.readWord c root (by assumption)
        split
        · split <;> simp [h]
        · rename_i e; exact (k.ok e).flagAcquire c scope
      · exact h
    · exact h
  clear_value check
  split
  · exact h
  · exact Canonical.putCmd hc c _
  · rename_i t
    have h1 : Canonical t := hc
    extract_lets +onlyGivenNames ended
    have he : Keeps (fun r => Canonical r.1) (fun _ => True) ended := by
      unfold ended
      split
      · split
        · have k := h1.closeTile c root m (by assumption) scope
          split
          · split <;> simp [h1]
          · exact k
        · exact h1
      · exact h1
    clear_value ended
    split
    · exact h1
    · rename_i u m'
      have h2 : Canonical u := he
      extract_lets +onlyGivenNames last s2
      have h3 : Canonical s2 := by unfold s2; split <;> simp [h2]
      exact (h3.putCmd c _).publishTo c _ _ skip

theorem Canonical.openTile {s : State} (h : Canonical s) (c root : Nat) (m : Cmd) (va scope : Nat) :
    Keeps (fun r => ∀ t ∈ r, Canonical t.1) (fun _ => True) (s.openTile c root m va scope) := by
  unfold State.openTile
  split
  · simpa using h
  · split
    · trivial
    · rename_i t v e
      have h1 : Canonical t := (h.readWord c root va).ok e
      split
      · simp
      · split
        · trivial
        · rename_i e'
          simpa using ((h1.writeWord c root va _).ok e').flagAcquire c scope

@[simp] theorem Canonical.beforeLast {s : State} (h : Canonical s) (c scope : Nat) : Canonical (s.beforeLast c scope) := by
  simp [State.beforeLast, h]

@[simp] theorem Canonical.raceStep {s : State} (h : Canonical s) (c x k lvl : Nat) : Canonical (s.raceStep c x k lvl) := by
  unfold State.raceStep; (repeat' split) <;> simp [h]

@[simp] theorem Canonical.tornN {s : State} (h : Canonical s) (c : Nat) (all : List (Nat × Byte)) (n : Nat) (ws : List (Nat × Byte)) :
    Canonical (tornN c all n s ws) := by
  induction n generalizing s ws with
  | zero => exact h.coreWrites c ws
  | succ n ih =>
    unfold Machine.tornN
    dsimp only
    split
    · exact h.coreWrites c ws
    · exact ih ((h.coreWrites c _).raceStep _ _ _ _) _

@[simp] theorem Canonical.tornWrites {s : State} (h : Canonical s) (c : Nat) (ws : List (Nat × Byte)) : Canonical (s.tornWrites c ws) :=
  h.tornN c ws _ ws

theorem Canonical.engPut {s : State} (h : Canonical s) (c root b space : Nat) (a : Int) (w v : Nat) :
    Keeps Canonical (fun _ => True) (s.engPut c root b space a w v) := by
  unfold State.engPut
  dsimp only
  (repeat' split) <;> simp [h]

theorem Canonical.writePlace {s : State} (h : Canonical s) (c root b : Nat) (g : Geo) (p : Place) (first : Bool) (e : Elem) :
    Keeps Canonical (fun _ => True) (s.writePlace c root b g p first e) := by
  unfold State.writePlace
  split
  · dsimp only
    split
    · trivial
    · rename_i e1
      have h1 := (h.engPut c root b _ _ _ _).ok e1
      split
      · split
        · trivial
        · rename_i e2; exact (h1.engPut c root b _ _ _ _).ok e2
      · exact h1
  · trivial
  · exact h

theorem Canonical.copyElems {s : State} (h : Canonical s) (c root : Nat) (m : Cmd) (d : Geo) (i : Nat) (skip blank : Bool) (last : Option Nat)
    (js : List Nat) : Keeps Canonical (fun e => Canonical e.2) (copyElems c root m d i skip blank last js s) := by
  induction js generalizing s with
  | nil => exact h
  | cons j r ih =>
    unfold Machine.copyElems
    extract_lets +onlyGivenNames p q s1 s2
    have h1 : Canonical s1 := by unfold s1; split <;> simp [h]
    have h2 : Canonical s2 := by unfold s2; (repeat' split) <;> simp [h1]
    split
    · exact h2
    · extract_lets +onlyGivenNames s3
      have h3 : Canonical s3 := by unfold s3; split <;> simp [h2]
      split
      · split
        · exact ih h3
        · exact h3
      · rename_i e; exact ih ((h3.writePlace c root m.team d q _ _).ok e)

@[simp] theorem Canonical.partly {s t : State} (h : Canonical s) (g : Canonical t) : Canonical (partly s t) := by
  unfold Machine.partly; split
  · exact g
  · exact h

theorem Canonical.copyPieceOf {s : State} (h : Canonical s) (c root : Nat) (m : Cmd) (d : Geo) (i : Nat) (els : List Nat) (upTo : Nat)
    (skip blank : Bool) : Stepped.Wf (s.copyPieceOf c root m d i els upTo skip blank) := by
  unfold State.copyPieceOf
  extract_lets +onlyGivenNames chases opened
  split
  · rename_i e; exact chaseHindrance_wf e
  · have ho : Keeps (fun r => ∀ t ∈ r, Canonical t.1) (fun _ => True) opened := by
      unfold opened; split
      · exact h.openTile c root m _ _
      · simpa using h
    clear_value opened
    split
    · split
      · exact h.copyDone ..
      · exact h
    · trivial
    · rename_i t m'
      have h1 : Canonical t := ho _ rfl
      extract_lets +onlyGivenNames s2 rel
      have h2 : Canonical s2 := by unfold s2; split <;> simp [h1]
      split
      · exact (h2.putCmd c _).copyDone ..
      · have k := h2.copyElems c root m' d i skip blank
        dsimp only
        split
        · rename_i e'; exact (h2.putCmd c _).partly (((k _ _).error e').putCmd c _)
        · rename_i e'; exact ((k _ _).ok e').copyDone ..

theorem Canonical.beginRead {s : State} (h : Canonical s) (c root : Nat) (m : Cmd) (va scope : Nat) :
    Keeps (fun r => ∀ t ∈ r, Canonical t.1) (fun _ => True) (s.beginRead c root m va scope) := by
  unfold State.beginRead
  split
  · simpa using h
  · split
    · trivial
    · rename_i t v e
      have h1 : Canonical t := (h.readWord c root va).ok e
      (repeat' split) <;> simp [h1]

theorem Canonical.copyStep {s : State} (h : Canonical s) (c : Nat) (m : Cmd) : Stepped.Wf (s.copyStep c m) := by
  unfold State.copyStep
  split
  · trivial
  · extract_lets +onlyGivenNames root n i j e els upTo skip entry
    have he : Keeps (fun r => Canonical r.1) (fun e => Canonical e.2) entry := by
      unfold entry; split
      · have k := h.readEntry c root m i
        split
        · rename_i e; exact k.error e
        · rename_i e; exact k.ok e
      · exact h
    clear_value entry
    split
    · rename_i f t
      have h1 : Canonical t := he
      split
      · exact h1
      · split
        · exact h1.copyDone ..
        · exact h1.copyPieceOf ..
    · rename_i t m'
      have h1 : Canonical t := he
      extract_lets +onlyGivenNames begun
      have hb : Keeps (fun r => ∀ t ∈ r, Canonical t.1) (fun _ => True) begun := by
        unfold begun; split
        · exact h1.beginRead c root m' _ _
        · simpa using h1
      clear_value begun
      split
      · split
        · exact h1.copyPieceOf ..
        · exact h1
      · trivial
      · exact Canonical.copyPieceOf (hb _ rfl) ..

@[simp] theorem Canonical.copyPiece {s : State} (h : Canonical s) (c id : Nat) : Canonical (s.copyPiece c id) := by
  unfold State.copyPiece; split
  · exact h.orElse (h.copyStep c _)
  · exact h

/-! ### Engine commands: pieces, rows and cards -/

theorem productChase_wf {s : State} {c : Nat} {m : Cmd} {a b : Geo} {md : Option Geo} {mm n k0 k1 : Nat} {r : Stepped}
    (h : s.productChase c m a b md mm n k0 k1 = some r) : Stepped.Wf r := by
  unfold State.productChase at h
  dsimp only at h
  split at h
  · rename_i e; obtain rfl := Option.some.inj h; exact chaseHindrance_wf e
  · split at h
    · rename_i e; obtain rfl := Option.some.inj h; exact chaseHindrance_wf e
    · split at h
      · simp at h
      · exact chaseHindrance_wf h

theorem Canonical.productStep {s : State} (h : Canonical s) (c : Nat) (m : Cmd) : Stepped.Wf (s.productStep c m) := by
  unfold State.productStep
  split
  · extract_lets +onlyGivenNames d len isInt k0 k1
    split
    · exact h
    · split
      · rename_i e; exact productChase_wf e
      · split
        · exact h
        · exact h
        · extract_lets +onlyGivenNames old part
          split
          · exact h.putCmd c _
          · extract_lets +onlyGivenNames s1
            have h1 : Canonical s1 := h.modCore_of_l1 c fun k => by simp only [Core.accFresh_l1]
            exact h1.dropCmd c m
  · trivial

@[simp] theorem Canonical.mmaComplete {s : State} (h : Canonical s) (c id : Nat) : Canonical (s.mmaComplete c id) := by
  unfold State.mmaComplete; split
  · exact h.orElse (h.productStep c _)
  · exact h

theorem Canonical.mzeroStep {s : State} (h : Canonical s) (c : Nat) (m : Cmd) : Stepped.Wf (s.mzeroStep c m) := by
  unfold State.mzeroStep; split
  · exact h
  · exact Canonical.dropCmd (h.modCore_of_l1 c fun k => by split <;> simp) c m

@[simp] theorem Canonical.mzeroComplete {s : State} (h : Canonical s) (c id : Nat) : Canonical (s.mzeroComplete c id) := by
  unfold State.mzeroComplete; split
  · exact h.orElse (h.mzeroStep c _)
  · exact h

theorem Canonical.rowFailed {s t : State} (h : Canonical s) (g : Canonical t) (c : Nat) (m : Cmd) (d : Geo) (f : Fail) (p : Nat) :
    Stepped.Wf (s.rowFailed t c m d f p) := (h.partly g).putCmd c _

theorem Canonical.writeRow {s : State} (h : Canonical s) (c root b y : Nat) (g : Geo) (skip row : List Nat) (last : Option (Nat × Nat))
    (xs : List Nat) : Keeps Canonical (fun e => Canonical e.2.2) (writeRow c root b y g skip row last xs s) := by
  induction xs generalizing s with
  | nil => exact h
  | cons x r ih =>
    unfold Machine.writeRow
    extract_lets +onlyGivenNames p s1 s2
    have h1 : Canonical s1 := by unfold s1; split <;> simp [h]
    have h2 : Canonical s2 := by unfold s2; (repeat' split) <;> simp [h1]
    split
    · rename_i e; exact ih ((h2.writePlace c root b g p _ _).ok e)
    · split
      · exact ih h2
      · exact h2

theorem Canonical.putRecord {s : State} (h : Canonical s) (c root b : Nat) (g : Geo) (a : Int) (v : Nat) :
    Keeps Canonical (fun _ => True) (s.putRecord c root b g a v) := h.engPut c root b _ _ _ _

theorem Canonical.support {s : State} (h : Canonical s) (c root : Nat) (m : Cmd) (g : Geo) (y : Nat) (r : ProjRow) :
    Keeps (fun p => Canonical p.1) (fun _ => True) (s.support c root m g y r) := by
  unfold State.support
  split
  · rename_i e; exact (h.putRecord c root _ g _ _).ok e
  · dsimp only; split
    · exact h
    · trivial

theorem Canonical.rowDone {s : State} (h : Canonical s) (c : Nat) (m : Cmd) (g : Geo) (y : Nat) (rel : Bool) :
    Stepped.Wf (s.rowDone c m g y rel) := by
  unfold State.rowDone
  extract_lets +onlyGivenNames last s1
  have h1 : Canonical s1 := by unfold s1; split <;> simp [h]
  exact (h1.putCmd c _).publishTo c m _ _

theorem Canonical.drainStep {s : State} (h : Canonical s) (c : Nat) (m : Cmd) : Stepped.Wf (s.drainStep c m) := by
  unfold State.drainStep
  split
  · rename_i g a _ _
    extract_lets +onlyGivenNames root y isInt r
    split
    · exact h.rowFailed h ..
    · rename_i row _
      extract_lets +onlyGivenNames rel sup last
      have k := h.writeRow c root m.team y g m.skip row last (List.range g.d0)
      split
      · rename_i e; exact h.rowFailed (k.error e) ..
      · rename_i t e
        have h1 : Canonical t := k.ok e
        split
        · have h2 : Canonical (if (rel && lastRow m g y) = true then t.beforeLast c m.val.toNat else t) := by split <;> simp [h1]
          split
          · exact h.rowFailed h1 ..
          · rename_i e'; exact Canonical.rowDone ((h2.support c root m g y r).ok e') ..
        · exact h1.rowDone ..
  · trivial

@[simp] theorem Canonical.drainRow {s : State} (h : Canonical s) (c id : Nat) : Canonical (s.drainRow c id) := by
  unfold State.drainRow; (repeat' split)
  · exact h
  · exact h.orElse (h.drainStep c _)
  · exact h

@[simp] theorem Canonical.noteElems {s : State} (h : Canonical s) (c root : Nat) (g : Geo) (is : List Nat) : Canonical (s.noteElems c root g is) :=
  h.foldl (fun s i h => by dsimp only; split <;> simp [h]) is

@[simp] theorem Canonical.detClose {s : State} (h : Canonical s) (b : DetBuf) : Canonical (s.detClose b) := by
  unfold State.detClose
  split
  · exact h.foldl (fun _ w h => h.postLoss w.1 w.2.1 _ _) _
  · exact Canonical.homeWrites ((h.whole _ 4 _).homeRead _ _) ..

@[simp] theorem Canonical.detSettle {s : State} (h : Canonical s) : Canonical s.detSettle := by
  unfold State.detSettle
  extract_lets +onlyGivenNames full now s1 s2
  have h1 : Canonical s1 := h
  have h2 : Canonical s2 := h1.foldl (fun _ b h => h.detClose b) _
  exact h2.foldl (fun _ b h => h.foldl (fun _ r h => by split <;> simp [h]) _) _

@[simp] theorem Canonical.detAccept {s : State} (h : Canonical s) (va pa count : Nat) (isInt : Bool) (a : Nat × Nat × Nat × W32)
    (rel : Option (Nat × Nat × Nat)) : Canonical (s.detAccept va pa count isInt a rel) := Canonical.detSettle h

theorem Canonical.redSend {s : State} (h : Canonical s) (c : Nat) (m : Cmd) (va pa : Nat) (isInt : Bool) (v : Nat) (last : Bool)
    {go : State → Stepped} (hg : ∀ t, Canonical t → Stepped.Wf (go t)) : Stepped.Wf (s.redSend c m va pa isInt v last go) := by
  unfold State.redSend
  split
  · exact hg _ (h.postLoss ..)
  · split
    · exact hg _ (Canonical.homeWrites ((h.whole c 4 _).homeRead c _) ..)
    · split
      · trivial
      · exact hg _ (h.detAccept ..)

theorem Canonical.redStep {s : State} (h : Canonical s) (c : Nat) (m : Cmd) : Stepped.Wf (s.redStep c m) := by
  unfold State.redStep
  split
  · rename_i g a _ _
    extract_lets +onlyGivenNames n i e p skip at_ s1
    have h1 : Canonical s1 := by unfold s1; split <;> simp [h]
    split
    · exact h1
    · rename_i sends _
      extract_lets +onlyGivenNames here last rel go
      have hg : ∀ t, Canonical t → Stepped.Wf (go t) := by
        intro t ht
        unfold go
        extract_lets +onlyGivenNames t1 t2
        have k1 : Canonical t1 := by unfold t1; split <;> simp [ht]
        have k2 : Canonical t2 := k1.putCmd c _
        rw [Stepped.wf_done]; split <;> simp [k2]
      split
      · exact hg _ h1
      · exact h1.redSend c m _ _ _ _ _ hg
  · trivial

@[simp] theorem Canonical.reduceContribution {s : State} (h : Canonical s) (c id : Nat) : Canonical (s.reduceContribution c id) := by
  unfold State.reduceContribution; (repeat' split)
  · exact h.orElse (h.redStep c _)
  · exact h
  · exact h

theorem Canonical.padjFailed {s t : State} (h : Canonical s) (g : Canonical t) (c : Nat) (m : Cmd) (d : Geo) (f : Fail) (p : Nat) :
    Stepped.Wf (s.padjFailed t c m d f p) := by
  unfold State.padjFailed; split
  · exact ((h.partly g).putCmd c _).publishTo ..
  · exact h.rowFailed g ..

theorem Canonical.padjWrite {s : State} (h : Canonical s) (c root : Nat) (m : Cmd) (d : Geo) (y : Nat) (r : Except Fail (List Nat)) :
    Stepped.Wf (s.padjWrite c root m d y r) := by
  unfold State.padjWrite
  extract_lets +onlyGivenNames xs
  have k := h.writeRow c root
  split
  · split
    · rename_i e; exact Canonical.padjFailed ((k ..).ok e) ((k ..).ok e) ..
    · rename_i e; exact Canonical.padjFailed ((k ..).error e) ((k ..).error e) ..
  · dsimp only
    split
    · rename_i e
      split
      · rename_i e'; exact Canonical.padjFailed ((k ..).ok e') ((k ..).error e) ..
      · rename_i e'; exact Canonical.padjFailed ((k ..).error e') ((k ..).error e) ..
    · rename_i e; exact Canonical.rowDone ((k ..).ok e) ..

theorem padjChase_wf {s : State} {c b : Nat} {g r : Geo} {y : Nat} {w : Stepped} (h : s.padjChase c b g r y = some w) : Stepped.Wf w := by
  unfold State.padjChase at h
  split at h
  · rename_i e; obtain rfl := Option.some.inj h; exact chaseHindrance_wf e
  · exact chaseHindrance_wf h

@[simp] theorem Canonical.padjReach {s : State} (h : Canonical s) (c root : Nat) (d g r : Geo) (y : Nat) :
    Canonical (s.padjReach c root d g r y) := by
  grind [State.padjReach, Canonical.noteSpan, Canonical.reachPlace, Canonical.foldl]

theorem Canonical.padjStep {s : State} (h : Canonical s) (c : Nat) (m : Cmd) : Stepped.Wf (s.padjStep c m) := by
  unfold State.padjStep
  split
  · extract_lets +onlyGivenNames root y
    split
    · exact h.padjWrite ..
    · split
      · rename_i e; exact padjChase_wf e
      · dsimp only
        split
        · exact (h.padjReach ..).padjWrite ..
        · split
          · rename_i e
            split at e
            · exact chaseHindrance_wf e
            · simp at e
          · exact (h.padjReach ..).padjWrite ..
  · trivial

@[simp] theorem Canonical.padjRow {s : State} (h : Canonical s) (c id : Nat) : Canonical (s.padjRow c id) := by
  unfold State.padjRow; split
  · exact h.orElse (h.padjStep c _)
  · exact h

theorem Canonical.histStep {s : State} (h : Canonical s) (c : Nat) (m : Cmd) : Stepped.Wf (s.histStep c m) := by
  unfold State.histStep
  split
  · trivial
  · rename_i g _
    extract_lets +onlyGivenNames root n p place rest next
    have hn : ∀ t k, Canonical t → Stepped.Wf (next t k) := fun t k ht => ht.putCmd c _
    split
    · split
      · rename_i e; exact chaseHindrance_wf e
      · rename_i bit sc co _ _ _
        extract_lets +onlyGivenNames s1
        have h1 : Canonical s1 := h.reachPlace c root g _
        split
        · exact h1
        · split
          · exact h1
          · extract_lets +onlyGivenNames va dress
            split
            · exact h1
            · split
              · exact h1
              · split
                · exact h1
                · exact hn _ _ (Canonical.homeWrites ((h1.reach c root va 4).homeRead c _) ..)
    · exact h
    · exact hn s 0 h

@[simp] theorem Canonical.histUpdate {s : State} (h : Canonical s) (c id : Nat) : Canonical (s.histUpdate c id) := by
  unfold State.histUpdate; split
  · exact h.orElse (h.histStep c _)
  · exact h

@[simp] theorem Canonical.engineComplete {s : State} (h : Canonical s) (c id : Nat) : Canonical (s.engineComplete c id) := by
  unfold State.engineComplete; (repeat' split) <;> simp [h]

theorem Canonical.blockStep {s : State} (h : Canonical s) (c : Nat) (m : Cmd) : Stepped.Wf (s.blockStep c m) := by
  unfold State.blockStep
  extract_lets +onlyGivenNames root
  split
  · trivial
  · extract_lets +onlyGivenNames fill ended s1
    have hf : ∀ t ls, Canonical t → Canonical (fill t ls) := fun t ls ht => ht.fillLines c ls
    have he : ∀ t k, Canonical t → Stepped.Wf (ended t k) := fun t k ht => (ht.publishTo c m _ k).dropCmd c m
    have h1 : Canonical s1 := h.foldl (fun _ i h => h.noteSpan c root _ 128) _
    split
    · split
      · exact h1
      · exact he _ _ (hf _ _ h1)
    · extract_lets +onlyGivenNames named s2
      have h2 : Canonical s2 := h1.modCore_of_l1 c fun k => by split <;> rfl
      exact he _ _ (hf _ _ h2)

@[simp] theorem Canonical.blockFill {s : State} (h : Canonical s) (c id : Nat) : Canonical (s.blockFill c id) := by
  unfold State.blockFill; split
  · exact h.orElse (h.blockStep c _)
  · exact h

@[simp] theorem Canonical.mismatchCmd {s : State} (h : Canonical s) (c id : Nat) : Canonical (s.mismatchCmd c id) := by
  unfold State.mismatchCmd; (repeat' split) <;> simp [h]

@[simp] theorem Canonical.groupRequest {s : State} (h : Canonical s) (c id : Nat) : Canonical (s.groupRequest c id) := by
  unfold State.groupRequest
  have p := h.publish c 1
  split
  · exact h
  · split
    · dsimp only
      split
      · exact h
      · split
        · split <;> simp [h]
        · split
          · exact (p.putGroup ..).mismatchCmd c id
          · split
            · exact (p.putCmd c _).putGroup ..
            · split
              · exact (p.putGroup ..).mismatchCmd c id
              · exact Canonical.foldl (p.putGroup ..) (fun _ a h => h.mismatchCmd a.core a.cmd) _
    · exact h

@[simp] theorem Canonical.groupTimeout {s : State} (h : Canonical s) (l key n : Nat) : Canonical (s.groupTimeout l key n) := by
  unfold State.groupTimeout; dsimp only; (repeat' split) <;> simp [h]

@[simp] theorem Canonical.holdFilled {s : State} (h : Canonical s) (c l key : Nat) (g : Group) (hd : Hold) (m : Cmd) (late : Bool) (i : Nat)
    (data : List Nat) : Canonical (s.holdFilled c l key g hd m late i data) := by
  unfold State.holdFilled
  extract_lets +onlyGivenNames s1
  have h1 : Canonical s1 := by
    unfold s1; split
    · exact h.foldl (fun _ a h => by split <;> simp [h]) _
    · exact h
  split <;> simp [h1]

@[simp] theorem Canonical.before {s : State} (h : Canonical s) (c : Nat) (g : Geo) (i : Nat) (last : Option Nat) :
    Canonical (s.before c g i last) := by
  unfold State.before; (repeat' split) <;> simp [h]

theorem Canonical.writeElems {s : State} (h : Canonical s) (c root b : Nat) (g : Geo) (skip : Bool) (last : Option Nat) (i : Nat) (es : List Elem) :
    Keeps Canonical (fun e => Canonical e.2.2) (writeElems c root b g skip last i es s) := by
  induction es generalizing s i with
  | nil => exact h
  | cons e r ih =>
    have h1 := h.before c g i last
    unfold Machine.writeElems
    dsimp only
    split
    · rename_i e; exact ih ((h1.writePlace c root b g _ _ _).ok e) _
    · split
      · exact ih h1 _
      · exact h1

theorem Canonical.groupStep {s : State} (h : Canonical s) (c : Nat) (m : Cmd) : Stepped.Wf (s.groupStep c m) := by
  unfold State.groupStep
  split
  · rename_i l key g src dst _ _ _
    split
    · trivial
    · rename_i hd _
      extract_lets +onlyGivenNames n late got leads reads
      split
      · trivial
      · split
        · split
          · extract_lets +onlyGivenNames s1
            have h1 : Canonical s1 := h.foldl (fun s p h => h.reachPlace c _ src p) _
            split
            · split
              · trivial
              · exact h1.putGroup ..
            · exact h1.holdFilled ..
          · trivial
        · extract_lets +onlyGivenNames s1 i e es
          have h1 : Canonical s1 := by unfold s1; split <;> simp [h]
          have k := h1.writeElems c (s1.cmdRoot c m) m.team dst (m.skip.contains i) none i es
          split
          · rename_i e'; exact h1.partly (k.error e')
          · rename_i t e'
            have h2 : Canonical t := k.ok e'
            split
            · exact (h2.putCmd c _).publishTo ..
            · exact ((h2.publishTo ..).putGroup ..).dropCmd c m
  · trivial

@[simp] theorem Canonical.groupFill {s : State} (h : Canonical s) (c id : Nat) : Canonical (s.groupFill c id) := by
  unfold State.groupFill; split
  · exact h.orElse (h.groupStep c _)
  · exact h

/-! ### Units, channels, groups and the starts and ends of commands -/

@[simp] theorem Canonical.stopCtx {s : State} (h : Canonical s) (c x : Nat) : Canonical (s.stopCtx c x) := by
  unfold State.stopCtx
  extract_lets +onlyGivenNames s1 s2
  have h1 : Canonical s1 := h.foldl (fun _ g h => h.leaveGroup c x g.1) _
  have h2 : Canonical s2 := h1.modCtx c x _
  exact h2.modCore_of_l1 c fun k => by dsimp only; split <;> simp

@[simp] theorem Canonical.exitDrain {s : State} (h : Canonical s) (c x : Nat) : Canonical (s.exitDrain c x) := by
  simp [State.exitDrain, h]

@[simp] theorem Canonical.dropChans {s : State} (h : Canonical s) (c : Nat) : Canonical (s.dropChans c) := by
  simp [State.dropChans, h]

theorem Core.startCtxs_l1 (k : Core) (f : Nat → Nat) (g : Core → Nat → Ctx) (ms : List Nat) :
    (ms.foldl (fun (k : Core) m => k.putCtx (f m) (g k m)) k).l1 = k.l1 := k.foldl_l1 (fun _ _ => by rfl) ms

@[simp] theorem Canonical.startUnit {s : State} (h : Canonical s) (l : Nat) (v : Launch) (u c b place key : Nat) :
    Canonical (s.startUnit l v u c b place key) := by
  unfold State.startUnit
  extract_lets +onlyGivenNames alone s1 s2 s3 t s4
  have h1 : Canonical s1 := h.purgeSevs c
  have h2 : Canonical s2 := by
    unfold s2; split
    · exact (h1.modCore_of_l1 c Core.clearShared_l1).dropChans c
    · exact h1
  have h3 : Canonical s3 := h2.acquire c 2
  have h4 : Canonical s4 := h3.modCore_of_l1 c fun k => Core.startCtxs_l1 _ _ _ _
  exact h4.modLaunch l _

@[simp] theorem Canonical.rerunHere {s : State} (h : Canonical s) (c b : Nat) (t : Team) : Canonical (s.rerunHere c b t) := by
  unfold State.rerunHere
  split
  · exact h
  · split
    · have h1 : Canonical { s with barKeys := s.barKeys + 1 } := h
      exact (h1.startUnit ..).modCore_of_l1 c fun _ => rfl
    · exact h

@[simp] theorem Canonical.removeTeam {s : State} (h : Canonical s) (c b : Nat) : Canonical (s.removeTeam c b) := by
  unfold State.removeTeam
  split
  · exact h
  · refine Canonical.dropChans (h.modCore_of_l1 c fun k => ?_) c
    extract_lets +onlyGivenNames mine k1 old k2 shared
    have h2 : k2.l1 = k1.l1 := Core.startCtxs_l1 _ _ _ _
    split
    · exact (Core.settleBarriers_l1 k2).trans h2
    · exact h2

@[simp] theorem Canonical.teamExit {s : State} (h : Canonical s) (c b : Nat) : Canonical (s.teamExit c b) := by
  grind [State.teamExit, Canonical.modLaunch, Canonical.rerunHere, Canonical.removeTeam]

@[simp] theorem Canonical.cardReach {s : State} (h : Canonical s) (c root r n : Nat) : Canonical (s.cardReach c root r n) := by
  grind [State.cardReach, Canonical.reach, Canonical.foldl]

theorem Canonical.cardStore {s : State} (h : Canonical s) (c root out d : Nat) (es : List (Nat × Nat × Nat)) :
    Keeps Canonical (fun _ => True) (cardStore c root out d es s) := by
  induction es generalizing s with
  | nil => exact h
  | cons e r ih =>
    unfold Machine.cardStore
    split
    · rename_i e; exact ih (((h.between _).engPut c root 0 0 _ _ _).ok e)
    · trivial

@[simp] theorem Canonical.cardSeen {s : State} (h : Canonical s) (c rc root ver : Nat) (pas : List Nat) : Canonical (s.cardSeen c rc root ver pas) := by
  have u : ∀ (ps : List Nat) (f : Nat → Byte) (k : Core), k.l1.wf = true → (ps.foldl (fun k pa => k.l1Update pa (f pa)) k).l1.wf = true := by
    intro ps f
    induction ps with
    | nil => exact fun _ w => w
    | cons p ps ih => exact fun k w => ih _ (Core.wf_l1Update w p (f p))
  unfold State.cardSeen
  dsimp only
  split
  · exact h
  · exact h.modCore c (u _ _ _ (h.core_l1 c))

theorem Canonical.cardStep {s : State} (h : Canonical s) (c : Nat) (m : Cmd) : Stepped.Wf (s.cardStep c m) := by
  unfold State.cardStep
  extract_lets +onlyGivenNames r rc root d n s1
  have h1 : Canonical s1 := (h.acquire rc 2).cardReach rc root r n
  split
  · exact h1
  · split
    · exact h1
    · split
      · exact h1
      · split
        · exact h1
        · have ho := h1.openTile rc root m (cardVersion r) 2
          split
          · exact h1
          · trivial
          · rename_i t m' e
            have h2 : Canonical t := ho.ok e _ rfl
            split
            · exact h2.putCmd c _
            · rename_i t' e'
              have h3 : Canonical t' := (h2.cardStore rc root _ d _).ok e'
              split
              · exact h3.putCmd c _
              · rename_i t'' m'' e''
                have h4 : Canonical t'' := (h3.closeTile rc root m' _ 2).ok e''
                refine Canonical.dropCmd (Canonical.modCore_of_l1 (h4.cardSeen ..) c fun k => ?_) c m''
                split
                · simp only [Core.accFresh_l1]
                · rfl

theorem readHindered_wf {s : State} {c b : Nat} {g : Geo} {is : List Nat} {r : Stepped} (h : s.readHindered c b g is = some r) : Stepped.Wf r :=
  chaseHindrance_wf h

@[simp] theorem Canonical.modChan {s : State} (h : Canonical s) (n : Nat) (f : Channel → Channel) : Canonical (s.modChan n f) := by
  unfold State.modChan; (repeat' split) <;> simp [h]

@[simp] theorem Canonical.postTransfer {s : State} (h : Canonical s) (c n chip peer : Nat) (data : List Byte) :
    Canonical (s.postTransfer c n chip peer data) := by
  unfold State.postTransfer; split
  · exact h
  · exact (h.publish c 2).modChan n _

@[simp] theorem Canonical.abortSet {s : State} (h : Canonical s) (set : List Nat) (n chip : Nat) : Canonical (s.abortSet set n chip) :=
  have k := h.foldl (fun _ k h => h.modChan k (fun h => { h with state := 2, silent := n * 2 ^ 24 + chip })) set
  k

@[simp] theorem Canonical.abortRound {s : State} (h : Canonical s) (n chip : Nat) : Canonical (s.abortRound n chip) := by
  unfold State.abortRound; dsimp only; (repeat' split) <;> simp [h]

@[simp] theorem Canonical.raiseDone {s : State} (h : Canonical s) (n v : Nat) : Canonical (s.raiseDone n v) := by
  grind [State.raiseDone, Canonical.publish, Canonical.homeWrites, Canonical.noteSpan, Canonical.modChan, Canonical.abortRound]

@[simp] theorem Canonical.consumeTransfer {s : State} (h : Canonical s) (n id : Nat) : Canonical (s.consumeTransfer n id) := by
  unfold State.consumeTransfer; (repeat' split) <;> simp [h]

@[simp] theorem Canonical.reachElems {s : State} (h : Canonical s) (c root : Nat) (g : Geo) (is : List Nat) :
    Canonical (s.reachElems c root g is) := by
  grind [State.reachElems, Canonical.reachPlace, Canonical.foldl]

theorem Canonical.sendStep {s : State} (h : Canonical s) (c : Nat) (m : Cmd) : Stepped.Wf (s.sendStep c m) := by
  unfold State.sendStep
  split
  · rename_i g hc _ _
    split
    · trivial
    · split
      · rename_i e; exact readHindered_wf e
      · extract_lets +onlyGivenNames post
        have hp : ∀ t data, Canonical t → Stepped.Wf (post t data) := fun t data ht => (ht.postTransfer c _ _ _ data).putCmd c _
        split
        · trivial
        · split
          · split
            · trivial
            · dsimp only
              split
              · exact h.consumeTransfer ..
              · exact hp _ _ (h.consumeTransfer ..)
          · dsimp only
            split
            · exact h.reachElems ..
            · exact hp _ _ (h.reachElems ..)
  · trivial

/-- A multicast that has posted to some of its members. -/
theorem Canonical.postAll {s : State} (h : Canonical s) (c : Nat) (data : List Byte) (ms : List (Nat × Nat)) (ids : List (Nat × Nat)) :
    Canonical (ms.foldl (fun (p : State × List (Nat × Nat)) q =>
      let k := memberKey q
      let s := if (tget p.1.channels k).isSome then p.1 else { p.1 with channels := tput p.1.channels k (Channel.member c) }
      let id := match tget s.channels k with | some h => h.posted + 1 | none => 1
      (s.postTransfer c k q.1 q.2 data, p.2 ++ [(k, id)])) (s, ids)).1 := by
  induction ms generalizing s ids with
  | nil => exact h
  | cons q ms ih =>
    refine ih (Canonical.postTransfer ?_ ..) _
    split <;> exact h

theorem Canonical.mcstStep {s : State} (h : Canonical s) (c : Nat) (m : Cmd) : Stepped.Wf (s.mcstStep c m) := by
  unfold State.mcstStep
  split
  · trivial
  · rename_i g _
    split
    · trivial
    · split
      · rename_i e; exact readHindered_wf e
      · extract_lets +onlyGivenNames s1
        have h1 : Canonical s1 := h.reachElems ..
        split
        · exact h1
        · exact (h1.postAll ..).putCmd c _

theorem Canonical.recvElem {s : State} (h : Canonical s) (c root : Nat) (m : Cmd) (g : Geo) (fmt i : Nat) (e : Elem) :
    Keeps Canonical (fun _ => True) (s.recvElem c root m g fmt i e) := by
  unfold State.recvElem
  extract_lets +onlyGivenNames p pl
  clear_value pl
  split
  · split
    · dsimp only
      (repeat' split) <;> simp [h]
    · trivial
    · exact h
  · split
    · trivial
    · exact h.writePlace ..

theorem Canonical.recvElems {s : State} (h : Canonical s) (c root : Nat) (m : Cmd) (g : Geo) (fmt w n v : Nat) (skip : Bool) (last : Option Nat)
    (is : List Nat) : Keeps Canonical (fun e => Canonical e.2) (recvElems c root m g fmt w n v skip last is s) := by
  induction is generalizing s with
  | nil => exact h
  | cons i r ih =>
    unfold Machine.recvElems
    extract_lets +onlyGivenNames s1 s2
    have h1 : Canonical s1 := h.before c g i last
    have h2 : Canonical s2 := by unfold s2; split <;> simp [h1]
    split
    · rename_i e; exact ih ((h2.recvElem ..).ok e)
    · split
      · refine ih ?_
        split
        · split
          · rename_i e; exact (h2.writePlace ..).ok e
          · exact h2
        · exact h2
      · exact h2

theorem Canonical.recvPiece {s : State} (h : Canonical s) (c : Nat) (m : Cmd) (g : Geo) (fmt w : Nat) (va : Nat → Nat) (bytes : List Byte) :
    Stepped.Wf (s.recvPiece c m g fmt w va bytes) := by
  unfold State.recvPiece
  extract_lets +onlyGivenNames root n i e skip
  split
  · rename_i f left e'
    have k : Canonical left := (h.recvElems ..).error e'
    rw [Stepped.wf_fail]
    split
    · exact h
    · exact h.partly k
  · rename_i t e'
    have k : Canonical t := (h.recvElems ..).ok e'
    extract_lets +onlyGivenNames last t1
    have h1 : Canonical t1 := by unfold t1; split <;> simp [k]
    exact (h1.putCmd c _).publishTo ..

theorem Canonical.recvOwn {s : State} (h : Canonical s) (c : Nat) (m : Cmd) (g : Geo) (v : Channel) : Stepped.Wf (s.recvOwn c m g v) := by
  have k := h.recvPiece c m g (chFmt v.entry) (chanWidth (chFmt v.entry) g.xf)
    (fun j => chBuffer v.entry + chShape v.entry * (m.n % chDepth v.entry) + j) (v.landed m.n).1
  unfold State.recvOwn
  split
  · rename_i t e
    rw [e] at k
    split
    · split
      · exact Canonical.consumeTransfer k ..
      · exact k
    · exact k
  · exact k

theorem Canonical.recvStep {s : State} (h : Canonical s) (c : Nat) (m : Cmd) : Stepped.Wf (s.recvStep c m) := by
  unfold State.recvStep
  split
  · split
    · split
      · exact h.putCmd c _
      · trivial
    · split
      · exact h.recvOwn ..
      · trivial
  · trivial

theorem Canonical.rdldStep {s : State} (h : Canonical s) (c : Nat) (m : Cmd) : Stepped.Wf (s.rdldStep c m) := by
  unfold State.rdldStep; (repeat' split)
  · trivial
  · exact h.recvPiece ..
  · trivial

theorem ownHindered_wf {s : State} {c q count : Nat} {m : Cmd} {r : Stepped} (h : s.ownHindered c m q count = some r) : Stepped.Wf r := by
  unfold State.ownHindered at h; split at h
  · simp at h
  · exact readHindered_wf h

@[simp] theorem Canonical.reachChunks {s : State} (h : Canonical s) (c : Nat) (m : Cmd) (q count : Nat) : Canonical (s.reachChunks c m q count) := by
  unfold State.reachChunks; (repeat' split) <;> simp [h]

theorem Canonical.putPiece {s : State} (h : Canonical s) (c : Nat) (m : Cmd) (g : Geo) (q done_ : Nat) (bytes : List Byte)
    (rest : List (Nat × Nat × List Byte)) : Stepped.Wf (s.putPiece c m g q done_ bytes rest) := by
  unfold State.putPiece
  extract_lets +onlyGivenNames ce line n i e p es
  split
  · rename_i e'; exact h.partly ((h.writeElems ..).error e')
  · rename_i t e'
    have k : Canonical t := (h.writeElems ..).ok e'
    exact (k.putCmd c _).publishTo ..

theorem Canonical.collEnd {s : State} (h : Canonical s) (c : Nat) (m : Cmd) (d : Geo) (r step : Nat) (carry : List Byte) :
    Stepped.Wf (s.collEnd c m d r step carry) := by
  unfold State.collEnd
  extract_lets +onlyGivenNames last s1
  have h1 : Canonical s1 := by unfold s1; split <;> simp [h]
  exact h1.putCmd c _

@[simp] theorem Canonical.reachOwn {s : State} (h : Canonical s) (c : Nat) (m : Cmd) (r step : Nat) : Canonical (s.reachOwn c m r step) := by
  unfold State.reachOwn; (repeat' split) <;> simp [h]

theorem Canonical.collTake {s : State} (h : Canonical s) (c : Nat) (m : Cmd) (g : Geo) (r step : Nat) (got : List Byte) :
    Stepped.Wf (s.collTake c m g r step got) := by
  unfold State.collTake
  split
  · rename_i e
    obtain ⟨o, _, e⟩ := Option.bind_eq_some_iff.mp e
    exact ownHindered_wf e
  · have h1 := h.reachOwn c m r step
    dsimp only
    split
    · exact h1
    · exact h1.putCmd c _

theorem Canonical.collStep {s : State} (h : Canonical s) (c : Nat) (m : Cmd) : Stepped.Wf (s.collStep c m) := by
  unfold State.collStep
  split
  · extract_lets +onlyGivenNames r step plan cb
    split
    · trivial
    · split
      · split
        · rename_i e; exact ownHindered_wf e
        · have h1 := h.reachChunks c m (by assumption) plan.count
          dsimp only
          split
          · exact h.reachChunks ..
          · exact (h.reachChunks ..).putCmd c _
      · exact h.putPiece ..
      · extract_lets +onlyGivenNames sending
        split
        · exact (h.postTransfer ..).putCmd c _
        · split
          · split
            · trivial
            · exact h.collEnd ..
          · split
            · split
              · exact (h.putCmd c _).consumeTransfer ..
              · trivial
            · exact h.collTake ..
  · trivial

theorem Canonical.chanStep {s : State} (h : Canonical s) (c : Nat) (m : Cmd) : Stepped.Wf (s.chanStep c m) := by
  unfold State.chanStep; split
  · exact h.sendStep c m
  · exact h.mcstStep c m
  · exact h.recvStep c m
  · exact h.recvStep c m
  · exact h.rdldStep c m
  · exact h.collStep c m
  · trivial

/-- Whatever a command does next leaves the canonical form. -/
theorem Canonical.cmdStep {s : State} (h : Canonical s) (c : Nat) (m : Cmd) : Stepped.Wf (s.cmdStep c m) := by
  unfold State.cmdStep
  cases m.kind
  case hist => exact h.histStep c m
  case mma => exact h.productStep c m
  case mmasp => exact h.productStep c m
  case mzero => exact h.mzeroStep c m
  case drain =>
    dsimp only; split
    · exact h.redStep c m
    · exact h.drainStep c m
  case padj => exact h.padjStep c m
  case jcard => exact h.cardStep c m
  case gld => exact h.groupStep c m
  case ldblk => exact h.blockStep c m
  case cpy => exact h.copyStep c m
  case cpyt => exact h.copyStep c m
  case cpyg => exact h.copyStep c m
  case cpys => exact h.copyStep c m
  case cfill => exact h.copyStep c m
  all_goals exact h.chanStep c m

@[simp] theorem Canonical.endOnFault {s : State} (h : Canonical s) (c : Nat) (m : Cmd) (f : Fail) (cursor : Nat) :
    Canonical (s.endOnFault c m f cursor) := by
  unfold State.endOnFault; dsimp only; (repeat' split) <;> simp [h]

@[simp] theorem Canonical.haltCmd {s : State} (h : Canonical s) (c : Nat) (m : Cmd) (f : Fail) (cursor piece : Nat) :
    Canonical (s.haltCmd c m f cursor piece) := by
  grind [State.haltCmd, Canonical.modTag, Canonical.post, Canonical.putCmd]

@[simp] theorem Canonical.engineHalt {s : State} (h : Canonical s) (c id : Nat) : Canonical (s.engineHalt c id) := by
  unfold State.engineHalt
  split
  · exact h
  · rename_i m _
    split
    · exact h
    · split
      · rename_i f piece left e
        have hl : Canonical left := by
          split at e
          · obtain ⟨-, -, rfl⟩ := Stepped.fail.inj e; exact h
          · have k := h.cmdStep c m
            rw [e] at k; exact k
        (repeat' split) <;> simp [hl]
      · exact h

@[simp] theorem Canonical.chaseEnd {s : State} (h : Canonical s) (c : Nat) (m : Cmd) (tag cursor : Nat) : Canonical (s.chaseEnd c m tag cursor) := by
  simp [State.chaseEnd, h]

@[simp] theorem Canonical.chaseAbort {s : State} (h : Canonical s) (c id : Nat) : Canonical (s.chaseAbort c id) := by
  unfold State.chaseAbort; (repeat' split) <;> simp [h]

@[simp] theorem Canonical.asyncTrap {s : State} (h : Canonical s) (c x : Nat) : Canonical (s.asyncTrap c x) := by
  unfold State.asyncTrap; dsimp only; (repeat' split) <;> simp [h]

@[simp] theorem Canonical.faultService {s : State} (h : Canonical s) (c x : Nat) (mapped : Bool) : Canonical (s.faultService c x mapped) := by
  unfold State.faultService; dsimp only; (repeat' split) <;> simp [h]

/-! ### The module: errors, host queues, launches, the firmware -/

end Sys2Proof.Claim

namespace Sys2Proof.Machine

theorem SafeWf.tput {t : Table SafeImage} (h : SafeWf t) (n : Nat) {m : SafeImage} (h1 : m.mem.wf = true)
    (h2 : ∀ a b, (a, b) ∈ m.mem → a < Config.deviceTop) :
    SafeWf (tput t n m) := by
  intro j k hk
  by_cases e : j = n
  · subst e
    rw [tget_tput_self] at hk
    cases hk
    exact ⟨h1, h2⟩
  · rw [tget_tput_other _ _ _ _ e] at hk
    exact h j k hk

/-! ### The platform (R268, R280, R398, R401) -/

section
variable {f : Platform} (h : f.Wf)
include h

theorem Platform.Wf.started (img : List Byte) : (f.started img).Wf := ⟨wf_mwrite _ _ h.1, h.2⟩

theorem Platform.Wf.bootRetry (n : Nat) : (f.bootRetry n).Wf := by
  unfold Platform.bootRetry
  split <;> exact h

theorem Platform.Wf.bootNext : f.bootNext.Wf := by
  unfold Platform.bootNext
  split
  · split <;> exact h
  · split
    · exact h.bootRetry 1
    · exact h
  · split
    · exact h.bootRetry 2
    · exact h
  · split
    · exact h.bootRetry 3
    · exact h.started _
  · exact h

theorem Platform.Wf.bootAlong (n : Nat) : (f.bootAlong n).Wf := by
  induction n with
  | zero => exact h
  | succ n ih => exact ih.bootNext

theorem Platform.Wf.booted : f.booted.Wf := by
  unfold Platform.booted
  split
  case h_5 => exact h
  all_goals exact h.bootAlong _

theorem Platform.Wf.worked (n : Nat) : (f.worked n).Wf := ⟨wf_worked f n, h.2⟩

theorem Platform.Wf.invalidate (v : W64) : (f.invalidate v).Wf := by
  unfold Platform.invalidate
  split <;> exact h

theorem Platform.Wf.controlWrite (off : Nat) (v : W64) : (f.controlWrite off v).Wf := by
  unfold Platform.controlWrite
  split
  · exact h.invalidate v
  · exact h

end

end Sys2Proof.Machine

namespace Sys2Proof.Claim

open Sys2Proof.Machine

theorem Canonical.modPlatform {s : State} (h : Canonical s) {f : Platform → Platform} (hf : (f s.platform).Wf) : Canonical (s.modPlatform f) :=
  h.setPlatform hf

/-- An update of the platform that leaves the SRAM and the safe tiers. -/
@[simp] theorem Canonical.modPlatform_same {s : State} (h : Canonical s) {f : Platform → Platform} (h1 : (f s.platform).sram = s.platform.sram)
    (h2 : (f s.platform).safe = s.platform.safe) : Canonical (s.modPlatform f) :=
  h.modPlatform ⟨by rw [h1]; exact h.sram, by rw [h2]; exact h.safe⟩

@[simp] theorem Canonical.logError {s : State} (h : Canonical s) (kind : Nat) (site : ErrSite) : Canonical (s.logError kind site) := by
  simp [State.logError, h]

@[simp] theorem Canonical.correctedError {s : State} (h : Canonical s) (site : ErrSite) : Canonical (s.correctedError site) := by
  unfold State.correctedError; (repeat' split) <;> simp [h]

@[simp] theorem Canonical.retire {s : State} (h : Canonical s) (site : ErrSite) : Canonical (s.retire site) := by
  unfold State.retire
  have h1 := h.logError 2 site
  generalize s.logError 2 site = t at h1
  cases site
  case cacheLine | hbm => exact h1.modPlatform_same rfl rfl
  case meshBuffer =>
    dsimp only
    split
    · exact h1.modCore_of_l1 _ fun _ => rfl
    · exact h1
  all_goals exact h1.modCore_of_l1 _ fun _ => rfl

@[simp] theorem Canonical.transientError {s : State} (h : Canonical s) (site : ErrSite) : Canonical (s.transientError site) := by
  unfold State.transientError
  have h1 := h.logError 1 site
  generalize s.logError 1 site = t at h1
  dsimp only
  split
  · exact (h1.modPlatform_same rfl rfl).retire site
  · exact h1.modPlatform_same rfl rfl

@[simp] theorem Canonical.lose {s : State} (h : Canonical s) (site : ErrSite) : Canonical (s.lose site) := by
  unfold State.lose
  split
  case h_6 =>
    split
    · exact h.foldl (fun s y h => h.modCtx _ y _) _
    · exact h.modCtx _ _ _
  case h_9 =>
    refine h.modCore_of_l1 _ fun k => ?_
    split <;> rfl
  all_goals simp [h]

@[simp] theorem Canonical.uncorrectable {s : State} (h : Canonical s) (site : ErrSite) (lasting : Bool) :
    Canonical (s.uncorrectable site lasting) := by
  unfold State.uncorrectable; (repeat' split) <;> simp [h]

@[simp] theorem Canonical.cardQueue {s : State} (h : Canonical s) (c : Nat) (m : Cmd) : Canonical (s.cardQueue c m) := by
  unfold State.cardQueue; (repeat' split) <;> simp [h]

@[simp] theorem Canonical.cardWatchdog {s : State} (h : Canonical s) (c id : Nat) (opened : Bool) : Canonical (s.cardWatchdog c id opened) := by
  unfold State.cardWatchdog
  split
  · rename_i m _
    extract_lets root s1 s2 s3 m'
    have h1 : Canonical s1 := by
      unfold s1
      split
      · split
        · rename_i t m' e
          have ht : Canonical t := (h.openTile _ _ _ _ _).ok e (t, m') rfl
          exact ((ht.breakLost _ _ _).breakVersion _ _ _).cardSeen _ _ _ _ _
        · exact h
      · exact h
    have h2 : Canonical s2 := h1.modCore_of_l1 c fun k => by split <;> rfl
    have h3 : Canonical s3 := h2.post ..
    split
    · exact h3.dropCmd c m
    · exact ((h3.dropGuest c id).putCmd c m').cardQueue c m'
  · exact h

@[simp] theorem Canonical.cardReplay {s : State} (h : Canonical s) (c id : Nat) : Canonical (s.cardReplay c id) := by
  grind [State.cardReplay, Canonical.modCore, Canonical.putCmd, Canonical.cardQueue, Canonical.core_l1]

@[simp] theorem Canonical.cardComplete {s : State} (h : Canonical s) (c id : Nat) : Canonical (s.cardComplete c id) := by
  unfold State.cardComplete; split
  · exact h.orElse (h.cardStep c _)
  · exact h

@[simp] theorem Canonical.unitExpiry {s : State} (h : Canonical s) (c b : Nat) : Canonical (s.unitExpiry c b) := by
  grind [State.unitExpiry, Canonical.post, Canonical.modLaunch, Canonical.abortCmd, Canonical.foldl]

@[simp] theorem Canonical.putQueue {s : State} (h : Canonical s) (q : Nat) (v : HostQueue) : Canonical (s.putQueue q v) := by
  simp [State.putQueue, h]

@[simp] theorem Canonical.modQueue {s : State} (h : Canonical s) (q : Nat) (f : HostQueue → HostQueue) : Canonical (s.modQueue q f) := by
  simp [State.modQueue, h]

@[simp] theorem Canonical.settleQueue {s : State} (h : Canonical s) (q : Nat) : Canonical (s.settleQueue q) := by
  simp [State.settleQueue, h]

@[simp] theorem Canonical.notify {s : State} (h : Canonical s) (q : Nat) (w : W64) : Canonical (s.notify q w) := by
  unfold State.notify; (repeat' split) <;> simp [h]

@[simp] theorem Canonical.trigger {s : State} (h : Canonical s) (q : Nat) (w : W64) : Canonical (s.trigger q w) := by
  unfold State.trigger; (repeat' split) <;> simp [h]

@[simp] theorem Canonical.statusClear {s : State} (h : Canonical s) (q : Nat) : Canonical (s.statusClear q) := by
  simp [State.statusClear, h]

@[simp] theorem Canonical.registerWrite {s : State} (h : Canonical s) (q off : Nat) (w : W64) : Canonical (s.registerWrite q off w) := by
  unfold State.registerWrite; (repeat' split) <;> simp [h]

@[simp] theorem Canonical.mapperBind {s : State} (h : Canonical s) (q : Nat) : Canonical (s.mapperBind q) := by
  unfold State.mapperBind; (repeat' split) <;> simp [h]

@[simp] theorem Canonical.slotRelinquish {s : State} (h : Canonical s) (q : Nat) : Canonical (s.slotRelinquish q) := by
  simp [State.slotRelinquish, h]

@[simp] theorem Canonical.emptied {s : State} (h : Canonical s) : Canonical s.emptied :=
  h.mapCores (fun _ => rfl) (fun _ _ => rfl)

@[simp] theorem Canonical.sysWrite {s : State} (h : Canonical s) (pa : Nat) (bs : List Byte) : Canonical (s.sysWrite pa bs) :=
  Canonical.mapDies (h.foldl (fun _ w h => (h.setMem (wf_mput w.1 w.2 h.mem_wf)).queueClobber w.1) _) (fun _ => rfl)

@[simp] theorem Canonical.writeRecord {s : State} (h : Canonical s) (addr : Nat) (tpc epoch : W64) (status cause : Nat) :
    Canonical (s.writeRecord addr tpc epoch status cause) := by
  simp [State.writeRecord, h]

@[simp] theorem Canonical.packetDone {s : State} (h : Canonical s) (q i : Nat) (p : W512) (status cause : Nat) (tpc epoch : W64) :
    Canonical (s.packetDone q i p status cause tpc epoch) := by
  grind [State.packetDone, Canonical.modQueue, Canonical.settleQueue, Canonical.writeRecord]

theorem Canonical.setEpochs {s : State} (h : Canonical s) (e : Nat) : Canonical { s with epochs := e } := h

theorem Canonical.newLaunch {s : State} (h : Canonical s) (p : W512) (queue packet : Nat) (node : Option Nat) :
    Canonical (s.newLaunch p queue packet node).1 := by
  unfold State.newLaunch
  dsimp only
  split
  · exact ((h.setEpochs _).putLaunch _ _).openRoot _
  · exact h.setEpochs _

@[simp] theorem Canonical.takeLaunch {s : State} (h : Canonical s) (q : Nat) : Canonical (s.takeLaunch q) := by
  unfold State.takeLaunch
  split
  · split
    · exact h
    · rename_i p _ _
      have hn := (h.modQueue q HostQueue.take).newLaunch p q (s.queue q).readIndex none
      dsimp only
      split
      · rename_i e; rw [e] at hn; exact hn.settleQueue q
      · rename_i e; rw [e] at hn; exact hn.packetDone ..
  · exact h

@[simp] theorem Canonical.refusePacket {s : State} (h : Canonical s) (q : Nat) (p : W512) : Canonical (s.refusePacket q p) := by
  simp [State.refusePacket, h]

@[simp] theorem Canonical.installGraphs {s : State} (h : Canonical s) (q : Nat) : Canonical (s.installGraphs q) := by
  grind [State.installGraphs, Canonical.modQueue, Canonical.packetDone, Canonical.foldl]

@[simp] theorem Canonical.takeGraph {s : State} (h : Canonical s) (q : Nat) : Canonical (s.takeGraph q) := by
  grind [State.takeGraph, Canonical.modQueue, Canonical.settleQueue, Canonical.packetDone, Canonical.refusePacket, Canonical.installGraphs]

@[simp] theorem Canonical.pollWaitv {s : State} (h : Canonical s) (q : Nat) : Canonical (s.pollWaitv q) := by
  unfold State.pollWaitv; dsimp only; (repeat' split) <;> simp [h]

@[simp] theorem Canonical.takeWaiting {s : State} (h : Canonical s) (q : Nat) (p : W512) : Canonical (s.takeWaiting q p) := by
  simp [State.takeWaiting, h]

@[simp] theorem Canonical.waitvTake {s : State} (h : Canonical s) (q : Nat) : Canonical (s.waitvTake q) := by
  unfold State.waitvTake; (repeat' split) <;> simp [h]

@[simp] theorem Canonical.signalReady {s : State} (h : Canonical s) (q : Nat) : Canonical (s.signalReady q) := by
  grind [State.signalReady, Canonical.modQueue, Canonical.sysWrite, Canonical.packetDone]

@[simp] theorem Canonical.signalStep {s : State} (h : Canonical s) (q : Nat) : Canonical (s.signalStep q) := by
  unfold State.signalStep; dsimp only; (repeat' split) <;> simp [h]

@[simp] theorem Canonical.pollBarrier {s : State} (h : Canonical s) (q : Nat) : Canonical (s.pollBarrier q) := by
  unfold State.pollBarrier; (repeat' split) <;> simp [h]

@[simp] theorem Canonical.barrierStep {s : State} (h : Canonical s) (q : Nat) : Canonical (s.barrierStep q) := by
  unfold State.barrierStep; (repeat' split) <;> simp [h]

@[simp] theorem Canonical.quiesce {s : State} (h : Canonical s) (q : Nat) (p : W512) (restore : Bool) : Canonical (s.quiesce q p restore) := by
  unfold State.quiesce; (repeat' split) <;> simp [h]

@[simp] theorem Canonical.checkpoint {s : State} (h : Canonical s) (q : Nat) : Canonical (s.checkpoint q) := by
  unfold State.checkpoint; (repeat' split) <;> simp [h]

@[simp] theorem Canonical.ckptEnd {s : State} (h : Canonical s) (k : Checkpoint) (status : Nat) : Canonical (s.ckptEnd k status) := by
  simp [State.ckptEnd, h]

@[simp] theorem Canonical.drainLimit {s : State} (h : Canonical s) : Canonical (s.drainLimit) := by
  unfold State.drainLimit; (repeat' split) <;> simp [h]

@[simp] theorem Canonical.writeBack {s : State} (h : Canonical s) (k : Checkpoint) : Canonical (s.writeBack k) := by
  unfold State.writeBack; (repeat' split) <;> simp [h]

theorem memFrom_filter_wf {m : Memory} (p : Nat × Byte → Bool) (h : m.wf = true) : Memory.wf (m.filter p) = true := memFrom_filter p h

theorem Canonical.image_wf {s : State} (h : Canonical s) : s.image.mem.wf = true := memFrom_filter_wf _ h.mem_wf

theorem image_below (s : State) {a : Nat} {b : Byte} (h : (a, b) ∈ s.image.mem) : a < Config.deviceTop := by
  unfold State.image at h
  simp only [List.mem_filter, Bool.and_eq_true, decide_eq_true_eq] at h
  exact h.2.1.1

@[simp] theorem Canonical.checkpointComplete {s : State} (h : Canonical s) : Canonical s.checkpointComplete := by
  unfold State.checkpointComplete
  split
  · split
    · exact h
    · split
      · exact h.writeBack _
      · split
        · exact h.ckptEnd _ _
        · exact Canonical.ckptEnd (h.modPlatform ⟨h.sram, h.safe.tput _ h.image_wf fun _ _ hm => image_below s hm⟩) _ _
  · exact h

@[simp] theorem Canonical.safeTierLoss {s : State} (h : Canonical s) : Canonical (s.safeTierLoss) := by
  unfold State.safeTierLoss; (repeat' split) <;> simp [h]

@[simp] theorem Canonical.restore {s : State} (h : Canonical s) (q : Nat) : Canonical (s.restore q) := by
  unfold State.restore; (repeat' split) <;> simp [h]

@[simp] theorem Canonical.scale {s : State} (h : Canonical s) (q : Nat) : Canonical (s.scale q) := by
  grind [State.scale, Canonical.modQueue, Canonical.sysWrite, Canonical.packetDone, Canonical.refusePacket]

@[simp] theorem Canonical.patch {s : State} (h : Canonical s) (g : Graph) (e : Nat × Nat × Nat) : Canonical (s.patch g e) := by
  unfold State.patch; dsimp only; (repeat' split) <;> simp [h]

@[simp] theorem Canonical.runDone {s : State} (h : Canonical s) (q : Nat) (g : Graph) (e : NodeEnd) : Canonical (s.runDone q g e) := by
  grind [State.runDone, Canonical.modQueue, Canonical.settleQueue, Canonical.writeRecord, Canonical.installGraphs]

@[simp] theorem Canonical.beginRun {s : State} (h : Canonical s) (q : Nat) (g : Graph) (r : GraphRun) : Canonical (s.beginRun q g r) := by
  grind [State.beginRun, Canonical.modQueue, Canonical.trigger, Canonical.patch, Canonical.runDone, Canonical.foldl]

@[simp] theorem Canonical.nodeDone {s : State} (h : Canonical s) (q n : Nat) (e : NodeEnd) : Canonical (s.nodeDone q n e) := by
  unfold State.nodeDone; dsimp only; (repeat' split) <;> simp [h]

@[simp] theorem Canonical.nodeStart {s : State} (h : Canonical s) (q n : Nat) : Canonical (s.nodeStart q n) := by
  unfold State.nodeStart
  dsimp only
  split
  · rename_i g r rs _ _
    split
    · exact h
    · split
      · split
        · exact (h.beginRun ..).settleQueue q
        · exact h
      · split
        · have hn := (h.modQueue q fun v => { v with runs := { r with started := r.started ++ [n] } :: v.runs.drop 1 }).newLaunch
            (g.nodes.getD n 0) q 0 (some n)
          split
          · rename_i e; rw [e] at hn; exact hn
          · rename_i e; rw [e] at hn; exact (hn.writeRecord ..).nodeDone ..
        · exact h
  · exact h

@[simp] theorem Canonical.retireCores {s : State} (h : Canonical s) : Canonical s.retireCores :=
  h.mapCores (fun _ => rfl) (fun _ hk => hk)

theorem Canonical.setLaunches {s : State} (h : Canonical s) (t : Table Launch) : Canonical { s with launches := t } := h

@[simp] theorem Canonical.launchDone {s : State} (h : Canonical s) (l : Nat) : Canonical (s.launchDone l) := by
  unfold State.launchDone
  split
  · exact h
  · split
    · extract_lets s1 s2 s3 s4
      have h1 : Canonical s1 := h.foldl (fun s e h => h.foldl (fun s b h => h.removeTeam e.1 b) _) _
      have h4 : Canonical s4 := Canonical.writeRecord ((h1.boundary l).retireCores.setLaunches _) ..
      split
      · exact h4.nodeDone ..
      · exact (h4.modQueue ..).settleQueue _
    · exact h

@[simp] theorem Canonical.rename {s : State} (h : Canonical s) (l c0 c up : Nat) : Canonical (s.rename l c0 c up) := by
  unfold State.rename
  extract_lets pair ctx s1
  have h1 : Canonical s1 := h.modLaunch ..
  exact ⟨h1.mem_wf, h1.dies.map fun _ => rfl, h1.cores, h1.tables, h1.platform⟩

theorem Canonical.setSaved {s : State} (h : Canonical s) (v : List SavedTeam) : Canonical { s with saved := v } := h

@[simp] theorem Canonical.restoreOne {s : State} (h : Canonical s) (v : SavedTeam) (c place : Nat) : Canonical (s.restoreOne v c place) := by
  unfold State.restoreOne
  extract_lets k up top alone s1 team s2 s3 s4 s5
  have h1 : Canonical s1 := h.purgeSevs c
  have h2 : Canonical s2 := by
    refine h1.modCore c (Core.wf_l1Drop ?_ _)
    have hk := h1.core_l1 c
    dsimp only
    split <;>
      · rw [Core.foldl_l1 _ (fun _ _ => by rfl)]
        dsimp only [Core.putTeam]
        split <;> exact hk
  have h3 : Canonical s3 := h2.fillLines c _
  have h4 : Canonical s4 := h3.rename ..
  exact (h4.setSaved _).modLaunch ..

@[simp] theorem Canonical.turnTaken {s : State} (h : Canonical s) (l d : Nat) : Canonical (s.turnTaken l d) := by
  simp [State.turnTaken, h]

@[simp] theorem Canonical.joinClocks {s : State} (h : Canonical s) : Canonical (s.joinClocks) := by
  grind [State.joinClocks, Canonical.putDie, Canonical.die_copies, Canonical.foldl]

theorem Canonical.setBarKeys {s : State} (h : Canonical s) (n : Nat) : Canonical { s with barKeys := n } := h

theorem Canonical.startAt {s t : State} (h : Canonical s) {l : Nat} {v : Launch} {u c b : Nat} (e : s.startAt l v u c b = some t) : Canonical t := by
  unfold State.startAt at e
  split at e
  · cases e
  · dsimp only at e
    split at e
    · exact Option.some.inj e ▸ (h.setBarKeys _).startUnit ..
    · split at e
      · split at e
        · cases e
        · obtain ⟨q, _, rfl⟩ := Option.map_eq_some_iff.mp e
          exact ((h.setBarKeys _).startUnit ..).startUnit ..
      · cases e

theorem Canonical.startAll {s t : State} (h : Canonical s) {l : Nat} {v : Launch} {n u : Nat} (e : startAll l v n u s = some t) : Canonical t := by
  induction n generalizing s u with
  | zero => exact Option.some.inj e ▸ h
  | succ n ih =>
    unfold Machine.startAll at e
    split at e
    · cases e
    · split at e
      · exact ih h e
      · split at e
        · split at e
          · rename_i e1; exact ih (h.startAt e1) e
          · cases e
        · cases e

theorem Canonical.getD {s : State} (h : Canonical s) {o : Option State} (ho : ∀ t, o = some t → Canonical t) : Canonical (o.getD s) := by
  cases o with
  | none => exact h
  | some t => exact ho t rfl

@[simp] theorem Canonical.dispatch {s : State} (h : Canonical s) (l u c b : Nat) : Canonical (s.dispatch l u c b) := by
  unfold State.dispatch
  extract_lets d
  split
  · exact h
  · extract_lets others served
    split
    · exact h
    · split
      · exact (h.getD fun t e => h.startAll e).joinClocks.turnTaken ..
      · split
        · exact (h.getD fun t e => h.startAt e).turnTaken ..
        · exact h

@[simp] theorem Canonical.preloadUnit {s : State} (h : Canonical s) (l u c : Nat) : Canonical (s.preloadUnit l u c) := by
  unfold State.preloadUnit; (repeat' split) <;> simp [h]

@[simp] theorem Canonical.stopTeams {s : State} (h : Canonical s) (c : Nat) (bs : List Nat) : Canonical (s.stopTeams c bs) := by
  refine h.foldl (fun s b h => ?_) bs
  split
  · exact Canonical.modCore_of_l1 (h.foldl (fun s x h => h.withdraw c x) _) c (fun _ => rfl)
  · exact h

@[simp] theorem Canonical.stopAt {s : State} (h : Canonical s) (c b : Nat) : Canonical (s.stopAt c b) := by
  grind [State.stopAt, Canonical.stopTeams, Canonical.foldl]

@[simp] theorem Canonical.askStop {s : State} (h : Canonical s) (c b : Nat) : Canonical (s.askStop c b) := by
  unfold State.askStop; (repeat' split) <;> simp [h]

@[simp] theorem Canonical.preempt {s : State} (h : Canonical s) (c b : Nat) : Canonical (s.preempt c b) := by
  unfold State.preempt; (repeat' split) <;> simp [h]

@[simp] theorem Canonical.budgetOverrun {s : State} (h : Canonical s) (c b : Nat) : Canonical (s.budgetOverrun c b) := by
  unfold State.budgetOverrun; dsimp only; (repeat' split) <;> simp [h]

@[simp] theorem Canonical.hintExpiry {s : State} (h : Canonical s) (c b : Nat) : Canonical (s.hintExpiry c b) := by
  unfold State.hintExpiry; (repeat' split) <;> simp [h]

@[simp] theorem Canonical.drainTeam {s : State} (h : Canonical s) (c b : Nat) (t : Team) : Canonical (s.drainTeam c b t) := by
  grind [State.drainTeam, Canonical.performAll, Canonical.withdraw, Canonical.foldl]

@[simp] theorem Canonical.saveOne {s : State} (h : Canonical s) (c b : Nat) (t : Team) : Canonical (s.saveOne c b t) := by
  unfold State.saveOne
  extract_lets +onlyGivenNames s1 k mine s2 name d s3 src v s4 own s5 s6
  have h1 : Canonical s1 := (h.drainTeam c b t).publish c 2
  have h2 : Canonical s2 := h1.foldl (fun s m h => h.dropGuest c m.id) _
  have h3 : Canonical s3 := h2.putDie (dieOf c) (h2.die_copies (dieOf c))
  have h4 : Canonical s4 := h3.modCore_of_l1 c fun _ => rfl
  have h5 : Canonical s5 := ⟨h4.mem_wf, h4.dies.map fun _ => rfl, h4.cores, h4.tables, h4.platform⟩
  have h6 : Canonical s6 := h5.modLaunch ..
  exact (h6.removeTeam c b).modCore_of_l1 c fun q => by split <;> rfl

@[simp] theorem Canonical.restartTeam {s : State} (h : Canonical s) (c b : Nat) (t : Team) : Canonical (s.restartTeam c b t) := by
  grind [State.restartTeam, Canonical.modCtx, Canonical.publish, Canonical.modLaunch, Canonical.leaveGroup,
    Canonical.abortCmd, Canonical.removeTeam, Canonical.drainTeam, Canonical.foldl]

@[simp] theorem Canonical.teamSave {s : State} (h : Canonical s) (c b : Nat) : Canonical (s.teamSave c b) := by
  unfold State.teamSave
  split
  · exact h
  · split
    · exact h
    · dsimp only
      split
      · exact h
      · split
        · exact h.restartTeam ..
        · split
          · exact h
          · refine h.foldl (fun s p h => ?_) _
            split
            · exact h.saveOne ..
            · exact h

theorem Canonical.restoreOn {s t : State} (h : Canonical s) {v : SavedTeam} {c : Nat} (e : s.restoreOn v c = some t) : Canonical t := by
  unfold State.restoreOn at e
  split at e
  · cases e
  · dsimp only at e
    split at e
    · exact Option.some.inj e ▸ h.restoreOne ..
    · obtain ⟨q, _, rfl⟩ := Option.map_eq_some_iff.mp e
      exact (h.restoreOne ..).restoreOne ..

theorem Canonical.restoreAll {s t : State} (h : Canonical s) {l n : Nat} (e : restoreAll l n s = some t) : Canonical t := by
  induction n generalizing s with
  | zero => exact Option.some.inj e ▸ h
  | succ n ih =>
    unfold Machine.restoreAll at e
    split at e
    · exact Option.some.inj e ▸ h
    · split at e
      · rename_i e1
        obtain ⟨c, _, e2⟩ := List.exists_of_findSome?_eq_some e1
        exact ih (h.restoreOn e2) e
      · cases e

@[simp] theorem Canonical.teamRestore {s : State} (h : Canonical s) (l u c b : Nat) : Canonical (s.teamRestore l u c b) := by
  unfold State.teamRestore
  split
  · split
    · refine Canonical.turnTaken ?_ ..
      split
      · exact (h.getD fun t e => h.restoreAll e).joinClocks
      · exact h.getD fun t e => h.restoreOn e
    · exact h
  · exact h

theorem TablesWf.empty : TablesWf [] := fun _ _ _ e _ => by cases e

theorem DiesWf.fresh : DiesWf (Vector.replicate 4 Die.fresh) := by
  intro d
  by_cases hd : d < 4
  · simp only [vget, Vector.getElem?_eq_getElem hd, Vector.getElem_replicate, Option.getD_some]; rfl
  · simp only [vget, Vector.getElem?_eq_none (Nat.le_of_not_lt hd)]; rfl

@[simp] theorem Canonical.afterLoss {s : State} (h : Canonical s) (device : Bool) : Canonical (s.afterLoss device) := by
  refine ⟨memFrom_filter_wf _ h.mem_wf, DiesWf.fresh, CoresWf.of_empty fun e he => ?_, TablesWf.empty, ⟨rfl, h.safe⟩⟩
  obtain ⟨he, _⟩ := List.mem_filter.mp he
  obtain ⟨k, _, rfl⟩ := List.mem_map.mp he
  rfl

@[simp] theorem Canonical.moduleReset {s : State} (h : Canonical s) : Canonical s.moduleReset :=
  (h.afterLoss true).modPlatform ((h.afterLoss true).platform.bootAlong _)

@[simp] theorem Canonical.bootTimeout {s : State} (h : Canonical s) : Canonical s.bootTimeout := by
  unfold State.bootTimeout
  extract_lets f
  split
  · exact h.modPlatform (Platform.Wf.bootAlong (f := { s.platform with bootPort := 1 }) h.platform _)
  · exact h

@[simp] theorem Canonical.invalDone {s : State} (h : Canonical s) (r : Nat) (word : Nat) : Canonical (s.invalDone r word) := by
  simp [State.invalDone, h]

@[simp] theorem Canonical.finishInval {s : State} (h : Canonical s) (w : InvalCut) : Canonical (s.finishInval w) := by
  simp [State.finishInval, h]

@[simp] theorem Canonical.removeEntries {s : State} (h : Canonical s) (r : Nat) : Canonical (s.removeEntries r) := by
  have k := h.keepTables (bits r 80 48) (bits r 204 52) (bits r 140 52 + 1) 38
  exact ⟨k.mem_wf, k.dies, k.cores.map (fun _ => rfl) (fun _ hk => hk), k.tables, k.platform⟩

@[simp] theorem Canonical.invalidation {s : State} (h : Canonical s) : Canonical s.invalidation := by
  unfold State.invalidation
  split
  · exact h
  · split
    · exact h
    · exact h.finishInval _
    · split
      · exact h.modPlatform_same rfl rfl
      · split
        · exact h.invalDone _ _
        · split
          · exact h
          · exact Canonical.finishInval ((h.removeEntries _).modPlatform_same rfl rfl) _

@[simp] theorem Canonical.reply {s : State} (h : Canonical s) (command : Nat) (words : List W64) : Canonical (s.reply command words) := by
  simp [State.reply, h]

@[simp] theorem Canonical.powerStatus {s : State} (h : Canonical s) : Canonical (s.powerStatus) := by
  simp [State.powerStatus, h]

@[simp] theorem Canonical.logRead {s : State} (h : Canonical s) (n : Nat) : Canonical (s.logRead n) := by
  simp [State.logRead, h]

@[simp] theorem Canonical.portStates {s : State} (h : Canonical s) : Canonical (s.portStates) := by
  simp [State.portStates, h]

@[simp] theorem Canonical.attest {s : State} (h : Canonical s) (nonce : BitVec 256) : Canonical (s.attest nonce) := by
  simp [State.attest, h]

@[simp] theorem Canonical.bootQuery {s : State} (h : Canonical s) : Canonical (s.bootQuery) := by
  simp [State.bootQuery, h]

@[simp] theorem Canonical.governor {s : State} (h : Canonical s) (d clk n : Nat) : Canonical (s.governor d clk n) := by
  grind [State.governor, Canonical.putDie, Canonical.die_copies, Canonical.foldl]

@[simp] theorem Canonical.thermalStop {s : State} (h : Canonical s) (d : Nat) : Canonical (s.thermalStop d) := by
  unfold State.thermalStop
  extract_lets s1 s2
  have h1 : Canonical s1 := h.foldl (fun s e h => h.endLaunch e.1 5 0 0) _
  have h2 : Canonical s2 := by
    unfold s2
    split
    · exact h1.ckptEnd _ _
    · exact h1
  exact h2.modPlatform_same rfl rfl

@[simp] theorem Canonical.powerLoss {s : State} (h : Canonical s) : Canonical (s.powerLoss) := by
  simp [State.powerLoss, h]

@[simp] theorem Canonical.transferArrive {s : State} (h : Canonical s) (n : Nat) (data : List Byte) : Canonical (s.transferArrive n data) := by
  grind [State.transferArrive, Canonical.homeWrite, Canonical.noteSpan, Canonical.modChan, Canonical.abortRound, Canonical.foldl]

@[simp] theorem Canonical.slotCredit {s : State} (h : Canonical s) (n : Nat) : Canonical (s.slotCredit n) := by
  simp [State.slotCredit, h]

@[simp] theorem Canonical.chanMove {s : State} (h : Canonical s) (c : Nat) (m : Cmd) : Canonical (s.chanMove c m) := by
  unfold State.chanMove
  split
  · exact h.timeoutCmd ..
  · exact h.orElse (h.chanStep c m)

@[simp] theorem Canonical.ringStep {s : State} (h : Canonical s) (c id : Nat) : Canonical (s.ringStep c id) := by
  unfold State.ringStep; (repeat' split) <;> simp [h]

@[simp] theorem Canonical.stackQueueStep {s : State} (h : Canonical s) (c id : Nat) : Canonical (s.stackQueueStep c id) := by
  unfold State.stackQueueStep; (repeat' split) <;> simp [h]

@[simp] theorem Canonical.rdldPieces {s : State} (h : Canonical s) (c id n : Nat) : Canonical (rdldPieces c id n s) := by
  induction n generalizing s with
  | zero => exact h
  | succ n ih =>
    unfold Machine.rdldPieces
    split
    · rename_i m _
      have r := h.rdldStep c m
      split
      · rename_i t e; rw [e] at r; exact ih r
      · exact h
    · exact h

@[simp] theorem Canonical.rdldReply {s : State} (h : Canonical s) (c id : Nat) (data : List Byte) : Canonical (s.rdldReply c id data) := by
  unfold State.rdldReply
  split
  · split
    · split
      · exact (h.putCmd ..).rdldPieces ..
      · exact h
    · exact h
  · exact h

@[simp] theorem Canonical.memberTimeout {s : State} (h : Canonical s) (c : Nat) (m : Cmd) (n : Nat) : Canonical (s.memberTimeout c m n) := by
  simp [State.memberTimeout, h]

@[simp] theorem Canonical.channelTimeout {s : State} (hc : Canonical s) (h : Nat) : Canonical (s.channelTimeout h) := by
  unfold State.channelTimeout; dsimp only; (repeat' split) <;> simp [hc]

@[simp] theorem Canonical.unknownKind {s : State} (h : Canonical s) (q : Nat) : Canonical (s.unknownKind q) := by
  unfold State.unknownKind; (repeat' split) <;> simp [h]

@[simp] theorem Canonical.ringFailed {s : State} (h : Canonical s) (q : Nat) : Canonical (s.ringFailed q) := by
  unfold State.ringFailed; dsimp only; (repeat' split) <;> simp [h]

@[simp] theorem Canonical.reload {s : State} (h : Canonical s) (m : SafeImage) : Canonical (s.reload m) := by
  unfold State.reload
  extract_lets +onlyGivenNames n s1 names s2
  have h1 : Canonical s1 := by
    refine h.foldl (fun s e h => ?_) _
    split
    · exact h
    · exact h.queueClobber _
  have h2 : Canonical s2 := by
    refine h1.foldl (fun s q h => ?_) _
    exact h.modQueue q _
  clear_value s2 n
  rw [canonical_iff]
  dsimp only
  refine ⟨?_, h2.dies, h2.cores, h2.tables, h2.sram, h2.safe⟩
  exact wf_reload s2 m h2.mem_wf n

@[simp] theorem Canonical.restoreComplete {s : State} (h : Canonical s) : Canonical (s.restoreComplete) := by
  unfold State.restoreComplete; (repeat' split) <;> simp [h]

@[simp] theorem Canonical.acknowledgeCmds {s : State} (h : Canonical s) (n id : Nat) : Canonical (s.acknowledgeCmds n id) :=
  ⟨h.mem_wf, h.dies, h.cores.map (fun _ => rfl) (fun _ hk => hk), h.tables, h.platform⟩

theorem Canonical.setOutbox {s : State} (h : Canonical s) (o : List Transfer) : Canonical { s with outbox := o } := h

@[simp] theorem Canonical.acknowledgement {s : State} (h : Canonical s) (n : Nat) : Canonical (s.acknowledgement n) := by
  unfold State.acknowledgement
  split
  · exact h
  · split
    · exact h
    · extract_lets id s1 s2
      have h2 : Canonical s2 := Canonical.acknowledgeCmds ((h.modChan ..).setOutbox _) ..
      split
      · exact h2.raiseDone ..
      · exact h2

@[simp] theorem Canonical.loadPart {s : State} (h : Canonical s) (c x k lvl : Nat) : Canonical (s.loadPart c x k lvl) := by
  grind [State.loadPart, Canonical.modCtx, Canonical.readFor, Canonical.whole]

@[simp] theorem Canonical.storePart {s : State} (h : Canonical s) (c x k : Nat) : Canonical (s.storePart c x k) := by
  grind [State.storePart, Canonical.modCtx, Canonical.storeBytes, Canonical.whole]

@[simp] theorem Canonical.bootStage {s : State} (h : Canonical s) : Canonical s.bootStage := h.modPlatform h.platform.bootNext

@[simp] theorem Canonical.signNext {s : State} (h : Canonical s) : Canonical (s.signNext) := by
  unfold State.signNext; (repeat' split) <;> simp [h]

theorem Canonical.rdmaMove {s t : State} (h : Canonical s) {n : Nat} {w : Rdma} (e : s.rdmaMove n w = some t) : Canonical t := by
  unfold State.rdmaMove at e
  split at e
  · exact Option.some.inj e ▸ h.sysWrite ..
  · obtain ⟨bs, _, rfl⟩ := Option.map_eq_some_iff.mp e
    exact h.modPlatform_same rfl rfl

@[simp] theorem Canonical.rdmaNext {s : State} (h : Canonical s) (n : Nat) : Canonical (s.rdmaNext n) := by
  unfold State.rdmaNext
  split
  · rename_i w r _
    have h1 : Canonical (s.modPlatform fun f => { f with pairs := tput f.pairs n r }) := h.modPlatform_same rfl rfl
    dsimp only
    split
    · rename_i e; exact (h1.rdmaMove e).sysWrite ..
    · exact h1
  · exact h

/-! ### What syllables do -/

/-- What a syllable does keeps the canonical form, and so does what it does while it waits (R262). -/
def SemKeeps (m : Sem) : Prop := ∀ e s, Canonical s → Canonical (m.act e s) ∧ Canonical (m.arrive e s)

theorem SemKeeps.of_none {m : Sem} (ha : ∀ e s, m.act e s = s) (hr : ∀ e s, m.arrive e s = s) : SemKeeps m :=
  fun e s h => ⟨(ha e s).symm ▸ h, (hr e s).symm ▸ h⟩

theorem semIll_keeps : SemKeeps (semIll) := .of_none (fun _ _ => rfl) (fun _ _ => rfl)

theorem branch_keeps {i : Instr} {k : BitVec 4} {want : Bool} : SemKeeps (branch i k want) := .of_none (fun _ _ => rfl) (fun _ _ => rfl)

theorem semNop_keeps : SemKeeps (semNop ) := .of_none (fun _ _ => rfl) (fun _ _ => rfl)

theorem semJmp_keeps {i : BitVec 27} : SemKeeps (semJmp i) := .of_none (fun _ _ => rfl) (fun _ _ => rfl)

theorem semRet_keeps : SemKeeps (semRet ) := .of_none (fun _ _ => rfl) (fun _ _ => rfl)

theorem semExit_keeps : SemKeeps (semExit ) := .of_none (fun _ _ => rfl) (fun _ _ => rfl)

theorem semYield_keeps : SemKeeps (semYield ) := .of_none (fun _ _ => rfl) (fun _ _ => rfl)

theorem semTrap_keeps {i : BitVec 27} : SemKeeps (semTrap i) := .of_none (fun _ _ => rfl) (fun _ _ => rfl)

theorem semRte_keeps {k : BitVec 5} : SemKeeps (semRte k) := .of_none (fun _ _ => rfl) (fun _ _ => rfl)

theorem semBrk_keeps {i : BitVec 27} : SemKeeps (semBrk i) := .of_none (fun _ _ => rfl) (fun _ _ => rfl)

theorem waitFor_keeps {ins : Instr} {srcs : List Src} {t : BitVec 6} {f : Env → Nat} :
    SemKeeps (waitFor ins srcs t f) := .of_none (fun _ _ => rfl) (fun _ _ => rfl)

theorem semTany_keeps {s : BitVec 5} : SemKeeps (semTany s) := .of_none (fun _ _ => rfl) (fun _ _ => rfl)

theorem semTall_keeps {s : BitVec 5} : SemKeeps (semTall s) := .of_none (fun _ _ => rfl) (fun _ _ => rfl)

theorem semIllBundle_keeps : SemKeeps (semIllBundle ) := .of_none (fun _ _ => rfl) (fun _ _ => rfl)

theorem atomic_keeps {ins : Instr} {f : AtomOp} {sz : BitVec 1} {b v p : BitVec 5} : SemKeeps (atomic ins f sz b v p) := fun e s h => by
  constructor
  · simp [atomic, h]
  · exact h

theorem semAcas_keeps {e b v p : BitVec 5} : SemKeeps (semAcas e b v p) := fun e s h => by
  constructor
  · simp [semAcas, h]
  · exact h

theorem reduction_keeps {ins : Instr} {f : RedOp} {z : Nat} {b v p : BitVec 5} : SemKeeps (reduction ins f z b v p) := fun e s h => by
  constructor
  · simp [reduction, h]
  · exact h

theorem semVradd_keeps {b v p : BitVec 5} : SemKeeps (semVradd b v p) := fun e _ h => ⟨h.foldl (fun _ _ h => h.sendReduce e ..) _, h⟩

theorem copyOf_keeps {ins : Instr} {kind : CmdKind} {list : Bool} {d a : BitVec 4} {t : BitVec 6} {f : BitVec 7} :
    SemKeeps (copyOf ins kind list d a t f) := fun e s h => by
  constructor
  · simp [copyOf, h]
  · exact h

theorem semCfill_keeps {d v : BitVec 4} {t : BitVec 6} {f : BitVec 7} : SemKeeps (semCfill d v t f) := fun e s h => by
  constructor
  · simp [semCfill, h]
  · exact h

theorem special_keeps {ins : Instr} {func : Nat} {w t : BitVec 2} {d a : BitVec 5} {m : BitVec 3} :
    SemKeeps (special ins func w t d a m) := fun e _ h => ⟨h.upd e _, h⟩

theorem product_keeps {ins : Instr} {kind : CmdKind} {c : BitVec 2} {a b : BitVec 4} {md : Option (BitVec 4)} {z : BitVec 1} :
    SemKeeps (product ins kind c a b md z) := fun e s h => by
  constructor
  · simp [product, h]
  · exact h

theorem semMzero_keeps {c : BitVec 2} : SemKeeps (semMzero c) := fun e s h => by
  constructor
  · simp [semMzero, h]
  · exact h

theorem semDrain_keeps {c : BitVec 2} {d : BitVec 4} {t : BitVec 6} {p : BitVec 2} {s : BitVec 3} {f : BitVec 4} :
    SemKeeps (semDrain c d t p s f) := fun e s h => by
  refine ⟨?_, h⟩
  dsimp only [semDrain]
  split
  · exact Canonical.upd (Canonical.enqueue (h.bindTag ..) ..) e _
  · exact Canonical.upd (Canonical.enqueue ((h.note ..).bindTag ..) ..) e _

theorem semPadj_keeps {d g r : BitVec 4} {t : BitVec 6} {p : BitVec 2} : SemKeeps (semPadj d g r t p) := fun e s h => by
  refine ⟨?_, h⟩
  dsimp only [semPadj]
  exact Canonical.upd (Canonical.enqueue ((h.note ..).bindTag ..) ..) e _

theorem semHist_keeps {s : BitVec 4} {r b : BitVec 5} : SemKeeps (semHist s r b) := fun e s h => by
  constructor
  · simp [semHist, h]
  · exact h

theorem semJcard_keeps {c : BitVec 2} {r : BitVec 5} : SemKeeps (semJcard c r) := fun e s h => by
  refine ⟨?_, h⟩
  dsimp only [semJcard]
  exact ((h.note e _ 64).enqueue e _).setAccKind .. |>.upd e _

theorem semMsend_keeps {v : BitVec 5} {p : BitVec 6} : SemKeeps (semMsend v p) := fun e s h => by
  refine ⟨?_, h⟩
  dsimp only [semMsend]
  split
  · exact h.modGrant ..
  · exact h

theorem semMrecv_keeps {v : BitVec 5} {p : BitVec 6} : SemKeeps (semMrecv v p) := fun e s h => by
  refine ⟨?_, h⟩
  dsimp only [semMrecv]
  split
  · exact (h.modGrant ..).upd e _
  · exact h

theorem semChset_keeps {r : BitVec 5} : SemKeeps (semChset r) := fun e s h => by
  have n : Canonical ((e.note s (e.s 0).toNat 8192).modCore e.c fun k => { k with
        lostChans := k.deadChans
        chans := (((imageEntries (e.recordBytes s (e.s 0).toNat 8192)).zip (List.range 256)).filter (fun p => p.1 != 0)).map
          (fun p => (p.2, chanWord p.1 (chDone p.1) (chPosted p.1) 0))
        chanImage := some (e.s 0).toNat, chanRoot := e.root }) := (h.note ..).modCore_of_l1 e.c fun _ => rfl
  exact ⟨n, h⟩

theorem semChget_keeps {c : BitVec 8} : SemKeeps (semChget c) := fun e _ h => ⟨h.upd e _, h⟩

theorem semChsend_keeps {c : BitVec 8} {s : BitVec 4} : SemKeeps (semChsend c s) := fun e s h => by
  constructor
  · simp [semChsend, h]
  · exact h

theorem semChrecv_keeps {c : BitVec 8} {s : BitVec 4} {t : BitVec 6} : SemKeeps (semChrecv c s t) := fun e s h => by
  constructor
  · simp [semChrecv, h]
  · exact h

theorem semChred_keeps {c : BitVec 8} {s : BitVec 4} {t : BitVec 6} {o : BitVec 3} : SemKeeps (semChred c s t o) := fun e s h => by
  constructor
  · simp [semChred, h]
  · exact h

theorem semColl_keeps {r : BitVec 5} {s d : BitVec 4} {t : BitVec 6} : SemKeeps (semColl r s d t) := fun e s h => by
  constructor
  · simp [semColl, h]
  · exact h

theorem semMcst_keeps {s : BitVec 4} {r : BitVec 5} : SemKeeps (semMcst s r) := fun e s h => by
  constructor
  · simp [semMcst, h]
  · exact h

theorem semRdld_keeps {d : BitVec 4} {r : BitVec 5} {t : BitVec 6} : SemKeeps (semRdld d r t) := fun e s h => by
  constructor
  · simp [semRdld, h]
  · exact h

theorem semPrep_keeps {k : BitVec 4} {i : BitVec 27} : SemKeeps (semPrep k i) := fun e _ h => ⟨h.upd e _, h⟩

theorem semPrepx_keeps {k : BitVec 4} {s : BitVec 5} : SemKeeps (semPrepx k s) := fun e _ h => ⟨h.upd e _, h⟩

theorem semCall_keeps {i : BitVec 27} : SemKeeps (semCall i) := fun e _ h => ⟨h.upd e _, h⟩

theorem semNest_keeps {l : BitVec 3} {r : BitVec 1} {k : BitVec 5} {n : BitVec 22} : SemKeeps (semNest l r k n) := fun e s h => by
  constructor
  · simp [semNest, h]
  · exact h

theorem semLrot_keeps : SemKeeps (semLrot ) := fun e _ h => ⟨h.upd e _, h⟩

theorem semLbrk_keeps : SemKeeps (semLbrk ) := fun e _ h => ⟨h.upd e _, h⟩

theorem semWfe_keeps : SemKeeps (semWfe ) := fun e s h => by
  constructor
  · simp [semWfe, h]
  · exact h

theorem semSev_keeps {k : BitVec 5} : SemKeeps (semSev k) := fun e s h => by
  refine ⟨h.foldl (fun s p h => ?_) _, h⟩
  split
  · exact h.modCore_of_l1 _ fun _ => rfl
  · exact h

theorem semBar_keeps {b : BitVec 4} : SemKeeps (semBar b) := fun e _ h => ⟨h.modCore_of_l1 e.c fun k => by simp, h.modCore_of_l1 e.c fun k => by simp⟩

theorem semBarv_keeps {b : BitVec 4} : SemKeeps (semBarv b) := fun e s h => by
  constructor
  · simp [semBarv, h]
  · exact h

theorem semBudget_keeps {i : BitVec 27} : SemKeeps (semBudget i) := fun e _ h => ⟨h.upd e _, h⟩

theorem scalarLoad_keeps {ins : Instr} {b : BitVec 5} {i : BitVec 19} {z : Nat} {sx : Bool} : SemKeeps (scalarLoad ins b i z sx) := fun e s h => by
  constructor
  · simp [scalarLoad, h]
  · exact h

theorem scalarStore_keeps {ins : Instr} {v b : BitVec 5} {i : BitVec 19} {z : Nat} : SemKeeps (scalarStore ins v b i z) := fun e s h => by
  constructor
  · simp [scalarStore, h]
  · exact h

theorem semVld_keeps {w : BitVec 2} {b x : BitVec 5} {m : BitVec 3} : SemKeeps (semVld w b x m) := fun e s h => by
  constructor
  · simp [semVld, h]
  · exact h

theorem semVst_keeps {w : BitVec 2} {b x : BitVec 5} {m : BitVec 3} : SemKeeps (semVst w b x m) := fun e s h => by
  constructor
  · simp [semVst, h]
  · exact h

theorem semVlds_keeps {w : BitVec 2} {b x : BitVec 5} {m : BitVec 3} : SemKeeps (semVlds w b x m) := fun e s h => by
  constructor
  · simp [semVlds, h]
  · exact h

theorem semVsts_keeps {w : BitVec 2} {b x : BitVec 5} {m : BitVec 3} : SemKeeps (semVsts w b x m) := fun e s h => by
  constructor
  · simp [semVsts, h]
  · exact h

theorem semVgath_keeps {w : BitVec 2} {b x : BitVec 5} {m : BitVec 3} : SemKeeps (semVgath w b x m) := fun e _ h => ⟨(h.notes e _ 4 _).upd e _, h⟩

theorem semVscat_keeps {w : BitVec 2} {b x : BitVec 5} {m : BitVec 3} : SemKeeps (semVscat w b x m) := fun e _ h => ⟨(h.notes e _ 4 _).upd e _, h⟩

theorem semLld_keeps {w : BitVec 2} {d : BitVec 5} {b : BitVec 4} {x : BitVec 5} {m : BitVec 3} : SemKeeps (semLld w d b x m) := fun e s h => by
  refine ⟨?_, h⟩
  dsimp only [semLld]
  exact Canonical.upd (canonical_ite (h.performAll ..) h) e _

theorem semLst_keeps {w : BitVec 2} {d : BitVec 5} {b : BitVec 4} {x : BitVec 5} {m : BitVec 3} :
    SemKeeps (semLst w d b x m) := fun e _ h => ⟨canonical_ite h ((h.upd e _).settleOps ..), h⟩

theorem semLdblk_keeps {t : BitVec 6} {b : BitVec 5} {n : BitVec 7} : SemKeeps (semLdblk t b n) := fun e s h => by
  refine ⟨Canonical.modCore_of_l1 (Canonical.enqueue (h.bindTag ..) ..) e.c fun k => ?_, h⟩
  split <;> rfl

theorem semEvblk_keeps {t : BitVec 6} : SemKeeps (semEvblk t) := fun e s h => by
  refine ⟨?_, h⟩
  dsimp only [semEvblk]
  split
  · exact h
  · refine h.modCore_of_l1 e.c fun k => ?_
    split <;> rfl

theorem semPfetch_keeps {p b : BitVec 5} {i : BitVec 19} : SemKeeps (semPfetch p b i) := fun e s h => by
  refine ⟨?_, h⟩
  dsimp only [semPfetch]
  split
  · split
    · exact Canonical.foldl (h.noteTlb ..) (fun s o h => h.l1Fill ..) _
    · exact h
  · exact h

theorem semGjoin_keeps {g : BitVec 4} : SemKeeps (semGjoin g) := fun e s h => by
  refine ⟨?_, h⟩
  dsimp only [semGjoin]
  split
  · split
    · exact h
    · exact (h.putGroup ..).upd e _
  · exact h

theorem semGleave_keeps {g : BitVec 4} : SemKeeps (semGleave g) := fun e s h => by
  constructor
  · simp [semGleave, h]
  · exact h

theorem semGld_keeps {g d a : BitVec 4} {t : BitVec 6} : SemKeeps (semGld g d a t) := fun e s h => by
  refine ⟨?_, h⟩
  dsimp only [semGld]
  refine Canonical.upd ?_ e _
  split
  · exact ((h.bindTag ..).enqueue ..).putGroup ..
  · exact (h.bindTag ..).enqueue ..

theorem lanewise_keeps {ins : Instr} {size : Nat} {w : BitVec 2} {d a c : BitVec 5} {m : BitVec 3} {bound : Nat} {f : Nat → Nat → Nat} :
    SemKeeps (lanewise ins size w d a c m bound f) := fun e _ h => ⟨h.upd e _, h⟩

theorem maskCompare_keeps {ins : Instr} {rel : Nat} {t : BitVec 3} {w : BitVec 2} {d : BitVec 3} {a c : BitVec 5} {m : BitVec 3} :
    SemKeeps (maskCompare ins rel t w d a c m) := fun e s h => by
  refine ⟨?_, h⟩
  dsimp only [maskCompare]
  exact h.upd e _

theorem semVfma_keeps {t : BitVec 3} {w : BitVec 2} {d a c : BitVec 5} {m : BitVec 3} : SemKeeps (semVfma t w d a c m) := fun e _ h => ⟨h.upd e _, h⟩

theorem semVcvt_keeps {t : BitVec 3} {w : BitVec 2} {d a c : BitVec 5} {m : BitVec 3} : SemKeeps (semVcvt t w d a c m) := fun e _ h => ⟨h.upd e _, h⟩

theorem semVsel_keeps {w : BitVec 2} {d a c : BitVec 5} {k : BitVec 3} : SemKeeps (semVsel w d a c k) := fun e _ h => ⟨h.upd e _, h⟩

theorem semVred_keeps {t : BitVec 3} {w : BitVec 2} {d a c : BitVec 5} {m : BitVec 3} : SemKeeps (semVred t w d a c m) := fun e s h => by
  constructor
  · simp [semVred, h]
  · exact h

theorem semVscan_keeps {w : BitVec 2} {d a c : BitVec 5} {m : BitVec 3} : SemKeeps (semVscan w d a c m) := fun e _ h => ⟨h.upd e _, h⟩

theorem semVmov_keeps {w : BitVec 2} {d a : BitVec 5} {m : BitVec 3} : SemKeeps (semVmov w d a m) := fun e _ h => ⟨h.upd e _, h⟩

theorem semVbcast_keeps {w : BitVec 2} {d a c : BitVec 5} {m : BitVec 3} : SemKeeps (semVbcast w d a c m) := fun e _ h => ⟨h.upd e _, h⟩

theorem semVperm_keeps {w : BitVec 2} {d a c : BitVec 5} {m : BitVec 3} : SemKeeps (semVperm w d a c m) := fun e _ h => ⟨h.upd e _, h⟩

theorem semVidx_keeps {w : BitVec 2} {d : BitVec 5} {m : BitVec 3} : SemKeeps (semVidx w d m) := fun e _ h => ⟨h.upd e _, h⟩

theorem semVext_keeps {w : BitVec 2} {d a c : BitVec 5} {m : BitVec 3} : SemKeeps (semVext w d a c m) := fun e s h => by
  constructor
  · simp [semVext, h]
  · exact h

theorem semVins_keeps {w : BitVec 2} {d a c : BitVec 5} {m : BitVec 3} : SemKeeps (semVins w d a c m) := fun e _ h => ⟨h.upd e _, h⟩

theorem semVtest_keeps {w : BitVec 2} {d : BitVec 5} {a m : BitVec 3} : SemKeeps (semVtest w d a m) := fun e _ h => ⟨h.upd e _, h⟩

theorem semUnpk_keeps {d a : BitVec 5} {p : BitVec 3} {x : BitVec 2} {i : BitVec 6} : SemKeeps (semUnpk d a p x i) := fun e _ h => ⟨h.upd e _, h⟩

theorem semUnpks_keeps {d a : BitVec 5} {p : BitVec 3} {x : BitVec 2} {i : BitVec 2} : SemKeeps (semUnpks d a p x i) := fun e _ h => ⟨h.upd e _, h⟩

theorem semUnpki_keeps {d a : BitVec 5} {p : BitVec 3} {x : BitVec 2} {i : BitVec 4} : SemKeeps (semUnpki d a p x i) := fun e _ h => ⟨h.upd e _, h⟩

theorem semPack_keeps {d a : BitVec 5} {p : BitVec 3} {x : BitVec 2} {i : BitVec 6} : SemKeeps (semPack d a p x i) := fun e _ h => ⟨h.upd e _, h⟩

theorem semPacks_keeps {d a : BitVec 5} {p : BitVec 3} {x : BitVec 2} {i j : BitVec 2} :
    SemKeeps (semPacks d a p x i j) := fun e _ h => ⟨h.upd e _, h⟩

theorem semPkmax_keeps {d a : BitVec 5} {p : BitVec 3} {x : BitVec 2} {i j : BitVec 2} :
    SemKeeps (semPkmax d a p x i j) := fun e _ h => ⟨h.upd e _, h⟩

theorem semPacki_keeps {d a : BitVec 5} {p : BitVec 3} {x : BitVec 2} {i : BitVec 4} : SemKeeps (semPacki d a p x i) := fun e s h => by
  constructor
  · simp [semPacki, h]
  · exact h

theorem semQinit_keeps {b v : BitVec 5} : SemKeeps (semQinit b v) := fun e s h => by
  constructor
  · simp [semQinit, h]
  · exact h

theorem semQenq_keeps {b v : BitVec 5} : SemKeeps (semQenq b v) := fun e s h => by
  constructor
  · simp [semQenq, h]
  · exact h

theorem semQdeq_keeps {b : BitVec 5} : SemKeeps (semQdeq b) := fun e s h => by
  constructor
  · simp [semQdeq, h]
  · exact h

theorem semQdeqw_keeps {b : BitVec 5} : SemKeeps (semQdeqw b) := fun e s h => by
  constructor
  · simp [semQdeqw, h]
  · exact h

theorem semQlen_keeps {b : BitVec 5} : SemKeeps (semQlen b) := fun e s h => by
  constructor
  · simp [semQlen, h]
  · exact h

theorem semDfr_keeps {w : BitVec 2} {v : BitVec 5} {m : BitVec 3} : SemKeeps (semDfr w v m) := fun e s h => by
  constructor
  · simp [semDfr, h]
  · exact h

theorem semDfpop_keeps {w : BitVec 2} {v : BitVec 5} {m : BitVec 3} : SemKeeps (semDfpop w v m) := fun e _ h => ⟨h.upd e _, h⟩

theorem semDfcnt_keeps : SemKeeps (semDfcnt ) := fun e _ h => ⟨h.upd e _, h⟩

theorem semFence_keeps {p : BitVec 5} : SemKeeps (semFence p) := fun e s h => by
  refine ⟨?_, h⟩
  dsimp only [semFence]
  split
  · exact h
  · exact (h.upd e _).settleOps ..

theorem semWaitv_keeps {c : BitVec 3} {b v p : BitVec 5} : SemKeeps (semWaitv c b v p) := fun e s h => by
  refine ⟨?_, h⟩
  dsimp -zeta only [semWaitv]
  extract_lets q s1 s2 s3
  have h1 : Canonical s1 := (h.beforeWaitv ..).note ..
  have h2 : Canonical s2 := by
    unfold s2
    split
    · exact h1.publish ..
    · exact h1
  have h3 : Canonical s3 := by
    unfold s3
    split
    · exact h2.reread ..
    · exact h2
  split
  · exact h3.acquire ..
  · exact h3

theorem scalar3_keeps {i : Instr} {d a c : BitVec 5} {bound : Nat} {f : W64 → W64 → W64} :
    SemKeeps (scalar3 i d a c bound f) := fun e _ h => ⟨h.upd e _, h⟩

theorem scalar2_keeps {i : Instr} {d a : BitVec 5} {f : W64 → W64} : SemKeeps (scalar2 i d a f) := fun e _ h => ⟨h.upd e _, h⟩

theorem scalarImm_keeps {i : Instr} {d a : BitVec 5} {imm : BitVec 19} {bound : Nat} {f : W64 → W64 → W64} :
    SemKeeps (scalarImm i d a imm bound f) := fun e _ h => ⟨h.upd e _, h⟩

theorem compare3_keeps {i : Instr} {k a c : BitVec 5} {r : W64 → W64 → Bool} : SemKeeps (compare3 i k a c r) := fun e _ h => ⟨h.upd e _, h⟩

theorem compareImm_keeps {i : Instr} {k a : BitVec 5} {imm : BitVec 19} {r : W64 → W64 → Bool} :
    SemKeeps (compareImm i k a imm r) := fun e _ h => ⟨h.upd e _, h⟩

theorem semSel_keeps {d : BitVec 5} {a : BitVec 5} {c : BitVec 5} {k : BitVec 5} : SemKeeps (semSel d a c k) := fun e _ h => ⟨h.upd e _, h⟩

theorem semBins_keeps {d : BitVec 5} {a : BitVec 5} {c : BitVec 5} : SemKeeps (semBins d a c) := fun e _ h => ⟨h.upd e _, h⟩

theorem semMovi_keeps {d : BitVec 5} {i : BitVec 24} : SemKeeps (semMovi d i) := fun e _ h => ⟨h.upd e _, h⟩

theorem semMovup_keeps {d : BitVec 5} {i : BitVec 24} : SemKeeps (semMovup d i) := fun e _ h => ⟨h.upd e _, h⟩

theorem semMfs_keeps {d : BitVec 5} {i : BitVec 24} : SemKeeps (semMfs d i) := fun e _ h => ⟨h.upd e _, h⟩

theorem semMts_keeps {s : BitVec 5} {i : BitVec 24} : SemKeeps (semMts s i) := fun e _ h => ⟨h.upd e _, h⟩

theorem semSetxf_keeps {x : BitVec 2} {s : BitVec 5} : SemKeeps (semSetxf x s) := fun e s h => by
  constructor
  · simp [semSetxf, h]
  · exact h

theorem semSld_keeps {a : BitVec 4} {r : BitVec 5} : SemKeeps (semSld a r) := fun e s h => by
  constructor
  · simp [semSld, h]
  · exact h

theorem semSset_keeps {a : BitVec 4} {c v : BitVec 5} : SemKeeps (semSset a c v) := fun e _ h => ⟨h.upd e _, h⟩

theorem semSget_keeps {a : BitVec 4} {c : BitVec 5} : SemKeeps (semSget a c) := fun e _ h => ⟨h.upd e _, h⟩

theorem semTffr_keeps {s : BitVec 5} : SemKeeps (semTffr s) := fun e _ h => ⟨h.upd e _, h⟩

theorem semTclr_keeps {t : BitVec 6} :
    SemKeeps (semTclr t) := fun e _ h => ⟨Canonical.modCore_of_l1 ((h.pubsNow e _).modTag ..) e.c fun k => Core.freeTags_l1 k _, h⟩

theorem semFget_keeps {t : BitVec 6} : SemKeeps (semFget t) := fun e _ h => ⟨h.upd e _, h⟩

theorem semFpub_keeps {t : BitVec 6} {s : BitVec 5} : SemKeeps (semFpub t s) := fun e s h => by
  constructor
  · simp [semFpub, h]
  · exact h

theorem semFbind_keeps {t : BitVec 6} {a : BitVec 4} : SemKeeps (semFbind t a) := fun e s h => by
  constructor
  · simp [semFbind, h]
  · exact h

theorem semVandn_keeps {w : BitVec 2} {d a c : BitVec 5} {m : BitVec 3} : SemKeeps (semVandn w d a c m) := lanewise_keeps

theorem semVshl_keeps {w : BitVec 2} {d a c : BitVec 5} {m : BitVec 3} : SemKeeps (semVshl w d a c m) := lanewise_keeps

theorem semVshr_keeps {w : BitVec 2} {d a c : BitVec 5} {m : BitVec 3} : SemKeeps (semVshr w d a c m) := lanewise_keeps

theorem semVsra_keeps {w : BitVec 2} {d a c : BitVec 5} {m : BitVec 3} : SemKeeps (semVsra w d a c m) := lanewise_keeps

theorem semVrot_keeps {w : BitVec 2} {d a c : BitVec 5} {m : BitVec 3} : SemKeeps (semVrot w d a c m) := lanewise_keeps

theorem semAndn_keeps {d : BitVec 5} {a : BitVec 5} {c : BitVec 5} : SemKeeps (semAndn d a c) := scalar3_keeps

theorem semLea_keeps {d : BitVec 5} {a : BitVec 5} {c : BitVec 5} {h : BitVec 5} : SemKeeps (semLea d a c h) := scalar3_keeps

theorem semAdds_keeps {d : BitVec 5} {a : BitVec 5} {c : BitVec 5} : SemKeeps (semAdds d a c) := scalar3_keeps

theorem semSubs_keeps {d : BitVec 5} {a : BitVec 5} {c : BitVec 5} : SemKeeps (semSubs d a c) := scalar3_keeps

theorem semOf_keeps (i : Instr) : SemKeeps (semOf i) := by
  cases i
  case add | sub | mul | mulh | mulhz | div | divz | rem | remz | and | or | xor | shl | shr | sra | min | max | minz | maxz | bfx | bfxz => exact scalar3_keeps
  case andn => exact semAndn_keeps
  case clz | ctz | popc => exact scalar2_keeps
  case sel => exact semSel_keeps
  case lea => exact semLea_keeps
  case bins => exact semBins_keeps
  case adds => exact semAdds_keeps
  case subs => exact semSubs_keeps
  case cmpeq | cmpne | cmplt | cmple | cmpltz | cmplez | cmpbit => exact compare3_keeps
  case cmpeqi | cmpnei | cmplti | cmplei | cmpltzi | cmplezi => exact compareImm_keeps
  case addi | andi | ori | xori | shli | shri | srai | muli | mini | maxi => exact scalarImm_keeps
  case movi => exact semMovi_keeps
  case movup => exact semMovup_keeps
  case mfs => exact semMfs_keeps
  case mts => exact semMts_keeps
  case nop => exact semNop_keeps
  case prep => exact semPrep_keeps
  case br | brn => exact branch_keeps
  case jmp => exact semJmp_keeps
  case call => exact semCall_keeps
  case ret => exact semRet_keeps
  case prepx => exact semPrepx_keeps
  case nest => exact semNest_keeps
  case lrot => exact semLrot_keeps
  case lbrk => exact semLbrk_keeps
  case exit => exact semExit_keeps
  case yield => exact semYield_keeps
  case wfe => exact semWfe_keeps
  case sev => exact semSev_keeps
  case trap => exact semTrap_keeps
  case rte => exact semRte_keeps
  case brk => exact semBrk_keeps
  case bar => exact semBar_keeps
  case barv => exact semBarv_keeps
  case budget => exact semBudget_keeps
  case vadd | vsub | vmul | vmin | vmax | vadds | vsubs | vand | vor | vxor => exact lanewise_keeps
  case vfma => exact semVfma_keeps
  case vcmpeq | vcmplt | vcmple => exact maskCompare_keeps
  case vcvt => exact semVcvt_keeps
  case vsel => exact semVsel_keeps
  case vandn => exact semVandn_keeps
  case vshl => exact semVshl_keeps
  case vshr => exact semVshr_keeps
  case vsra => exact semVsra_keeps
  case vrot => exact semVrot_keeps
  case vred => exact semVred_keeps
  case vmov => exact semVmov_keeps
  case vbcast => exact semVbcast_keeps
  case vperm => exact semVperm_keeps
  case vidx => exact semVidx_keeps
  case vscan => exact semVscan_keeps
  case vext => exact semVext_keeps
  case vins => exact semVins_keeps
  case vtest => exact semVtest_keeps
  case exp2 | exp | log2 | ln | rcp | rsqrt | sqrt | sin | cos | tanh | sigm | gelu | silu | erf => exact special_keeps
  case unpk => exact semUnpk_keeps
  case unpks => exact semUnpks_keeps
  case unpki => exact semUnpki_keeps
  case pack => exact semPack_keeps
  case packs => exact semPacks_keeps
  case pkmax => exact semPkmax_keeps
  case packi => exact semPacki_keeps
  case ld8s | ld8z | ld16s | ld16z | ld32s | ld32z | ld64 => exact scalarLoad_keeps
  case st8 | st16 | st32 | st64 => exact scalarStore_keeps
  case vld => exact semVld_keeps
  case vst => exact semVst_keeps
  case vlds => exact semVlds_keeps
  case vsts => exact semVsts_keeps
  case vgath => exact semVgath_keeps
  case vscat => exact semVscat_keeps
  case lld => exact semLld_keeps
  case lst => exact semLst_keeps
  case ldblk => exact semLdblk_keeps
  case evblk => exact semEvblk_keeps
  case gjoin => exact semGjoin_keeps
  case gleave => exact semGleave_keeps
  case gld => exact semGld_keeps
  case pfetch => exact semPfetch_keeps
  case aadd | amin | amax | aand | aor | axor | axchg => exact atomic_keeps
  case acas => exact semAcas_keeps
  case radd | raddf | rmax | rmin => exact reduction_keeps
  case vradd => exact semVradd_keeps
  case qinit => exact semQinit_keeps
  case qenq => exact semQenq_keeps
  case qdeq => exact semQdeq_keeps
  case qdeqw => exact semQdeqw_keeps
  case qlen => exact semQlen_keeps
  case dfr => exact semDfr_keeps
  case dfpop => exact semDfpop_keeps
  case dfcnt => exact semDfcnt_keeps
  case fence => exact semFence_keeps
  case waitv => exact semWaitv_keeps
  case waitfImm | waitfReg => exact waitFor_keeps
  case tany => exact semTany_keeps
  case tall => exact semTall_keeps
  case tffr => exact semTffr_keeps
  case tclr => exact semTclr_keeps
  case fget => exact semFget_keeps
  case fpub => exact semFpub_keeps
  case fbind => exact semFbind_keeps
  case msend => exact semMsend_keeps
  case mrecv => exact semMrecv_keeps
  case cpy | cpyt | cpyg | cpys => exact copyOf_keeps
  case cfill => exact semCfill_keeps
  case mzero => exact semMzero_keeps
  case mma | mmasp => exact product_keeps
  case drain => exact semDrain_keeps
  case padj => exact semPadj_keeps
  case hist => exact semHist_keeps
  case chsend => exact semChsend_keeps
  case chrecv => exact semChrecv_keeps
  case chred => exact semChred_keeps
  case coll => exact semColl_keeps
  case mcst => exact semMcst_keeps
  case rdld => exact semRdld_keeps
  case jcard => exact semJcard_keeps
  case setxf => exact semSetxf_keeps
  case sld => exact semSld_keeps
  case sset => exact semSset_keeps
  case sget => exact semSget_keeps
  case chset => exact semChset_keeps
  case chget => exact semChget_keeps
  all_goals exact semIll_keeps
/-! ### The issue of a bundle (R11) -/

/-- Every syllable of a bundle keeps the canonical form. -/
structure BundleKeeps (ms : List (Nat × Sem)) : Prop where
  keeps : ∀ q ∈ ms, SemKeeps q.2

theorem semUnread_keeps (o : Option Instr) : SemKeeps (semUnread o) := by
  cases o <;> exact semIll_keeps

theorem semRead_keeps (r : Instr ⊕ Option Instr) : SemKeeps (match r with | .inl i => semOf i | .inr o => semUnread o) := by
  cases r
  · exact semOf_keeps _
  · exact semUnread_keeps _

theorem Sem.operands_keeps (m : Sem) : SemKeeps m.operands := .of_none (fun _ _ => rfl) (fun _ _ => rfl)

theorem semsOf_keeps (f : Fetched) : BundleKeeps (semsOf f) := by
  constructor
  intro q hq
  cases f with
  | malformed n l =>
    obtain rfl | hq := List.mem_cons.mp hq
    · exact semIllBundle_keeps
    · obtain ⟨p, _, rfl⟩ := List.mem_map.mp hq
      exact Sem.operands_keeps _
  | bundle l =>
    obtain ⟨p, _, rfl⟩ := List.mem_map.mp hq
    exact semRead_keeps p.2

theorem BundleKeeps.singleton {m : Sem} (h : SemKeeps m) (n : Nat) : BundleKeeps [(n, m)] := by
  constructor
  intro q hq
  obtain rfl := List.mem_singleton.mp hq
  exact h

/-- The syllables of a bundle in their environments. -/
structure EnvsKeep (es : List (Env × Sem)) : Prop where
  keeps : ∀ q ∈ es, SemKeeps q.2

theorem BundleKeeps.envsOf {ms : List (Nat × Sem)} (h : BundleKeeps ms) (s : State) (c x pc next now : Nat) (got : List (List V1024)) :
    EnvsKeep (envsOf s c x pc next now ms got) := by
  constructor
  intro q hq
  obtain ⟨p, hp, rfl⟩ := List.mem_map.mp hq
  exact h.keeps p.1 (List.of_mem_zip hp).1

theorem Canonical.runActs {es : List (Env × Sem)} (hes : EnvsKeep es) {s : State} (h : Canonical s) : Canonical (runActs es s) := by
  induction es generalizing s with
  | nil => exact h
  | cons q r ih => exact ih ⟨fun p hp => hes.keeps p (List.mem_cons_of_mem _ hp)⟩ (hes.keeps q List.mem_cons_self q.1 s h).1

theorem Canonical.arrivals {es : List (Env × Sem)} (hes : EnvsKeep es) (k : Core) (b : Nat) (t : State) {s : State} (h : Canonical s) :
    Canonical (arrivals k b es t s) := by
  induction es generalizing t with
  | nil => exact h
  | cons q r ih =>
    unfold Machine.arrivals
    split
    · exact (hes.keeps q List.mem_cons_self q.1 s h).2
    · exact ih ⟨fun p hp => hes.keeps p (List.mem_cons_of_mem _ hp)⟩ _

section
variable {s : State} (h : Canonical s)
include h

theorem Canonical.prepare_before (c x pc next : Nat) (ms : List (Nat × Sem)) : Canonical (s.prepare c x pc next ms).before :=
  (h.landed c x).putCtx c x _

theorem Canonical.prepare_after {ms : List (Nat × Sem)} (hm : BundleKeeps ms) (c x pc next : Nat) : Canonical (s.prepare c x pc next ms).after :=
  Canonical.runActs (hm.envsOf ..) ((h.landed c x).putCtx c x _)

theorem Canonical.issueSems {ms : List (Nat × Sem)} (hm : BundleKeeps ms) (c x : Nat) : Canonical (s.issueSems c x ms) := by
  unfold State.issueSems
  extract_lets +onlyGivenNames s1 v
  have h1 : Canonical s1 := h.settleOps c x
  split
  · exact (h1.deliverTrap c x).issued ..
  · split
    · exact h1.blocked c x
    · split
      · exact (h1.resendQdeqw c x).blocked c x
      · split
        · exact h1.blocked c x
        · extract_lets root
          split
          · exact (h1.raise ..).issued ..
          · split
            · exact (h1.raise ..).issued ..
            · rename_i pa pk _ _ _
              extract_lets next s2 p
              have h2 : Canonical s2 := (h1.noteFetch c pa).noteTlb ..
              split
              · exact (h2.landed c x).blocked c x
              · exact Canonical.blocked (Canonical.arrivals (hm.envsOf ..) _ _ _ (h2.landed c x)) c x
              · exact Canonical.issued (Canonical.raise ((h2.landed c x).modCtx c x _) ..) ..
              · exact (((h2.prepare_after hm ..).modCtx c x _).settleOps c x).goOn .. |>.issued ..

theorem Canonical.attempt {ms : List (Nat × Sem)} (hm : BundleKeeps ms) (c x : Nat) : Canonical (s.attempt c x ms) := by
  unfold State.attempt
  split
  · exact h.blocked c x
  · exact (h.contest c x).issueSems hm c x

theorem Canonical.tryIssue : Canonical s.tryIssue := by
  unfold State.tryIssue
  split
  · exact h.attempt (semsOf_keeps _) _ _
  · exact h.skipTurn

omit h in
theorem Canonical.searchN {s : State} (h : Canonical s) (c n : Nat) : Canonical (searchN c n s) := by
  induction n generalizing s with
  | zero => exact h
  | succ n ih =>
    unfold Machine.searchN
    extract_lets t
    split
    · exact h.tryIssue
    · exact ih h.tryIssue

theorem Canonical.setTurn (c : Nat) : Canonical { s with turn := c } := h

theorem Canonical.reissue (c : Nat) : Canonical (s.reissue c) := ((h.setTurn c).anew).searchN c 4

theorem Canonical.turnLimit (c : Nat) : Canonical (s.turnLimit c) := by
  unfold State.turnLimit
  split
  · exact h.modCore_of_l1 c fun _ => rfl
  · exact h

end

/-! ### Events and steps -/

/-- What an act leaves is in canonical form when what it finds is. -/
structure ActKeeps (a : Act) : Prop where
  keeps : ∀ s t, Canonical s → a s = .next t → Canonical t

theorem happen_keeps {f : State → State} (hf : ∀ s, Canonical s → Canonical (f s)) : ActKeeps (happen f) := by
  constructor
  intro s t h e
  unfold happen at e
  split at e
  · cases e
  · cases e
    exact (hf s h).tick

theorem firmwareDoes_keeps {f : State → State} (hf : ∀ s, Canonical s → Canonical (f s)) : ActKeeps (firmwareDoes f) :=
  happen_keeps fun _ h =>
    have w := hf _ (h.modPlatform h.platform.booted)
    w.modPlatform (w.platform.worked _)

theorem issueOne_keeps {m : Sem} (hm : SemKeeps m) : ActKeeps (issueOne m) := by
  constructor
  intro s t h e
  unfold issueOne at e
  split at e
  · cases e
  · split at e <;> cases e
    · exact h.attempt (.singleton hm _) _ _
    · exact h.skipTurn

theorem blockedBundleIssue_keeps (c : Nat) : ActKeeps (execBlockedBundleIssue c) := by
  constructor
  intro s t h e
  unfold execBlockedBundleIssue at e
  split at e
  · cases e
  · cases e
    exact h.reissue c

theorem moduleReset_keeps : ActKeeps execModuleReset :=
  ⟨fun _ _ h e => by cases e; exact h.moduleReset⟩

/-- Every syllable and every event keeps the canonical form. -/
theorem exec_keeps (i : Instr) : ActKeeps (exec i) := by
  by_cases he : (encode i).isSome = true
  · have : exec i = issueOne (semOf i) := funext fun s => exec_issue i s he
    exact this ▸ issueOne_keeps (semOf_keeps i)
  cases i
  case blockedBundleIssue => exact blockedBundleIssue_keeps _
  case issueTurnLimit => exact happen_keeps fun s h => h.turnLimit ..
  case resultLanding => exact happen_keeps fun s h => h.modCtx ..
  case loadDataReturn => exact happen_keeps fun s h => h.loadReturn ..
  case sqEntryFill => exact happen_keeps fun s h => h.modCtx ..
  case storePerform => exact happen_keeps fun s h => h.storePerform ..
  case sldDataReturn => exact happen_keeps fun s h => h.sldReturn ..
  case engineCommandStart => exact happen_keeps fun s h => h.engineStart ..
  case powerPermitGrant => exact happen_keeps fun s h => h.permitGrant ..
  case copyPieceWrite => exact happen_keeps fun s h => h.copyPiece ..
  case mmaComplete => exact happen_keeps fun s h => h.mmaComplete ..
  case mzeroComplete => exact happen_keeps fun s h => h.mzeroComplete ..
  case drainRow => exact happen_keeps fun s h => h.drainRow ..
  case reduceContribution => exact happen_keeps fun s h => h.reduceContribution ..
  case padjRow => exact happen_keeps fun s h => h.padjRow ..
  case histUpdate => exact happen_keeps fun s h => h.histUpdate ..
  case engineCommandCompletion => exact happen_keeps fun s h => h.engineComplete ..
  case blockFillComplete => exact happen_keeps fun s h => h.blockFill ..
  case sliceAtomic => exact happen_keeps fun s h => h.sliceAtomic ..
  case sliceReduction => exact happen_keeps fun s h => h.sliceReduction ..
  case sliceQueueOp => exact happen_keeps fun s h => h.sliceQueueOp ..
  case groupRequestArrive => exact happen_keeps fun s h => h.groupRequest ..
  case groupHoldTimeout => exact happen_keeps fun s h => h.groupTimeout ..
  case groupFillLand => exact happen_keeps fun s h => h.groupFill ..
  case sevArrival => exact happen_keeps fun s h => h.modCore_of_l1 _ fun k => k.sevArrive_l1 _
  case exitDrainComplete => exact happen_keeps fun s h => h.exitDrain ..
  case teamExit => exact happen_keeps fun s h => h.teamExit ..
  case engineHalt => exact happen_keeps fun s h => h.engineHalt ..
  case chaseAbort => exact happen_keeps fun s h => h.chaseAbort ..
  case asyncTrapDelivery => exact happen_keeps fun s h => h.asyncTrap ..
  case firmwareFaultService => exact happen_keeps fun s h => h.faultService ..
  case correctedError => exact happen_keeps fun s h => h.correctedError ..
  case uncorrectableError => exact happen_keeps fun s h => h.uncorrectable ..
  case cardWatchdogExpiry => exact happen_keeps fun s h => h.cardWatchdog ..
  case cardReplayStart => exact happen_keeps fun s h => h.cardReplay ..
  case cardComplete => exact happen_keeps fun s h => h.cardComplete ..
  case unitTimeLimitExpiry => exact happen_keeps fun s h => h.unitExpiry ..
  case notify => exact happen_keeps fun s h => h.notify ..
  case trigger => exact happen_keeps fun s h => h.trigger ..
  case statusClear => exact happen_keeps fun s h => h.statusClear ..
  case hostRegisterWrite => exact happen_keeps fun s h => h.registerWrite ..
  case mapperBind => exact happen_keeps fun s h => h.mapperBind ..
  case slotRelinquish => exact happen_keeps fun s h => h.slotRelinquish ..
  case launch => exact happen_keeps fun s h => h.takeLaunch ..
  case graph => exact happen_keeps fun s h => h.takeGraph ..
  case waitvPacket => exact happen_keeps fun s h => h.waitvTake ..
  case waitvPacketPoll => exact happen_keeps fun s h => h.pollWaitv ..
  case signal => exact happen_keeps fun s h => h.signalStep ..
  case barrier => exact happen_keeps fun s h => h.barrierStep ..
  case checkpoint => exact firmwareDoes_keeps fun s h => h.checkpoint ..
  case checkpointDrainLimit => exact happen_keeps fun s h => h.drainLimit
  case checkpointComplete => exact happen_keeps fun s h => h.checkpointComplete
  case safeTierLoss => exact happen_keeps fun s h => h.safeTierLoss
  case restore => exact firmwareDoes_keeps fun s h => h.restore ..
  case scale => exact firmwareDoes_keeps fun s h => h.scale ..
  case graphNodeStart => exact happen_keeps fun s h => h.nodeStart ..
  case launchComplete => exact happen_keeps fun s h => h.launchDone ..
  case dispatchUnit => exact happen_keeps fun s h => h.dispatch ..
  case preload => exact happen_keeps fun s h => h.preloadUnit ..
  case preemptRequest => exact happen_keeps fun s h => h.preempt ..
  case budgetOverrun => exact happen_keeps fun s h => h.budgetOverrun ..
  case budgetHintExpiry => exact happen_keeps fun s h => h.hintExpiry ..
  case teamSave => exact happen_keeps fun s h => h.teamSave ..
  case teamRestore => exact happen_keeps fun s h => h.teamRestore ..
  case moduleReset => exact moduleReset_keeps
  case bootLinkTimeout => exact happen_keeps fun s h => h.bootTimeout
  case invalidate => exact happen_keeps fun s h => h.modPlatform (h.platform.invalidate _)
  case tlbInvalidation => exact firmwareDoes_keeps fun s h => h.invalidation
  case powerStatus => exact happen_keeps fun s h => h.powerStatus
  case errorLogRead => exact happen_keeps fun s h => h.logRead ..
  case portStates => exact happen_keeps fun s h => h.portStates
  case attestationReport => exact firmwareDoes_keeps fun s h => h.attest ..
  case bootStatusQuery => exact happen_keeps fun s h => h.bootQuery
  case governorAdjust => exact happen_keeps fun s h => h.governor ..
  case thermalStop => exact happen_keeps fun s h => h.thermalStop ..
  case meshSlotDepart => exact happen_keeps fun s h => h.modGrant ..
  case meshPayloadArrive => exact happen_keeps fun s h => h.modGrant ..
  case portDown => exact happen_keeps fun s h => canonical_ite (h.modPlatform_same rfl rfl) h
  case modulePowerLoss => exact happen_keeps fun s h => h.powerLoss
  case transferArrive => exact happen_keeps fun s h => h.transferArrive ..
  case slotCreditReturn => exact happen_keeps fun s h => h.slotCredit ..
  case ringStep => exact happen_keeps fun s h => h.ringStep ..
  case stackQueueStep => exact happen_keeps fun s h => h.stackQueueStep ..
  case reducingLoadReply => exact happen_keeps fun s h => h.rdldReply ..
  case channelTimeout => exact happen_keeps fun s h => h.channelTimeout ..
  case unknownPacketKind => exact happen_keeps fun s h => h.unknownKind ..
  case ringReadFailed => exact happen_keeps fun s h => h.ringFailed ..
  case restoreComplete => exact happen_keeps fun s h => h.restoreComplete
  case invalidateStatus => exact happen_keeps fun s h => h.modPlatform h.platform
  case acknowledgement => exact happen_keeps fun s h => h.acknowledgement ..
  case failedBeat => exact happen_keeps fun s h => canonical_ite (h.modPlatform_same rfl rfl) h
  all_goals exact absurd rfl he

/-- Every act of a list keeps the canonical form. -/
structure ActsKeep (l : List Act) : Prop where
  keeps : ∀ a ∈ l, ActKeeps a

@[simp] theorem ActsKeep.nil : ActsKeep [] := ⟨fun _ h => by cases h⟩

@[simp] theorem actsKeep_cons {a : Act} {l : List Act} : ActsKeep (a :: l) ↔ ActKeeps a ∧ ActsKeep l :=
  ⟨fun h => ⟨h.keeps a List.mem_cons_self, ⟨fun b hb => h.keeps b (List.mem_cons_of_mem _ hb)⟩⟩,
    fun h => ⟨fun b hb => by
      obtain rfl | hb := List.mem_cons.mp hb
      · exact h.1
      · exact h.2.keeps b hb⟩⟩

@[simp] theorem actsKeep_append {l r : List Act} : ActsKeep (l ++ r) ↔ ActsKeep l ∧ ActsKeep r := by
  induction l with
  | nil => simp
  | cons a l ih => simp [ih, and_assoc]

theorem ActsKeep.foldl {α : Type} {f : List Act → α → List Act} (hf : ∀ a x, ActsKeep a → ActsKeep (f a x)) (l : List α) :
    ActsKeep (l.foldl f []) := by
  have : ∀ a, ActsKeep a → ActsKeep (l.foldl f a) := by
    induction l with
    | nil => exact fun _ ha => ha
    | cons x l ih => exact fun a ha => ih (f a x) (hf a x ha)
  exact this [] .nil

theorem ActsKeep.append {l r : List Act} (hl : ActsKeep l) (hr : ActsKeep r) : ActsKeep (l ++ r) := actsKeep_append.mpr ⟨hl, hr⟩

theorem ActsKeep.map {α : Type} {f : α → Act} (hf : ∀ x, ActKeeps (f x)) (l : List α) : ActsKeep (l.map f) := by
  constructor
  intro a ha
  obtain ⟨x, _, rfl⟩ := List.mem_map.mp ha
  exact hf x

theorem ActsKeep.filterMap {α : Type} {f : α → Option Act} (hf : ∀ x a, f x = some a → ActKeeps a) (l : List α) : ActsKeep (l.filterMap f) := by
  constructor
  intro a ha
  obtain ⟨x, _, e⟩ := List.mem_filterMap.mp ha
  exact hf x a e

theorem ActsKeep.filterMap_unless {α : Type} {p : α → Prop} [DecidablePred p] {a : α → Act} (ha : ∀ x, ActKeeps (a x)) (l : List α) :
    ActsKeep (l.filterMap fun x => if p x then none else some (a x)) := by
  refine .filterMap (fun x b e => ?_) l
  split at e <;> cases e
  exact ha x

theorem ActsKeep.ite {p : Prop} [Decidable p] {l r : List Act} (hl : ActsKeep l) (hr : ActsKeep r) : ActsKeep (if p then l else r) := by
  split
  · exact hl
  · exact hr

theorem ActsKeep.singleton {a : Act} (h : ActKeeps a) : ActsKeep [a] := actsKeep_cons.mpr ⟨h, .nil⟩

theorem opEvent_keeps (s : State) (c x k : Nat) (o : MemOp) : ActsKeep (s.opEvent c x k o) := by
  unfold State.opEvent
  extract_lets lvl part
  have hp : ∀ f : State → State, (∀ s, Canonical s → Canonical (f s)) → ActsKeep (part f) :=
    fun f hf => .ite .nil (.singleton (happen_keeps hf))
  split
  · exact actsKeep_cons.mpr ⟨exec_keeps (.loadDataReturn c x k lvl), hp _ fun s h => h.loadPart ..⟩
  · exact actsKeep_cons.mpr ⟨exec_keeps (.sldDataReturn c x _), hp _ fun s h => h.loadPart ..⟩
  · exact actsKeep_cons.mpr ⟨exec_keeps (.storePerform c x k), hp _ fun s h => h.storePart ..⟩
  · exact .singleton (exec_keeps (.sqEntryFill c x))
  · exact .singleton (exec_keeps (.sliceAtomic c x k))
  · exact .singleton (exec_keeps (.sliceReduction c x k))
  · exact .singleton (exec_keeps (.sliceQueueOp c x k))
  all_goals exact .nil

theorem openCtx_keeps (s : State) (v : Ctx) (c x : Nat) : ActsKeep (s.openCtx v c x) := by
  have service := ActsKeep.singleton (exec_keeps (.firmwareFaultService c x false))
  unfold State.openCtx
  simp only [actsKeep_append]
  refine ⟨⟨⟨⟨⟨⟨?_, ?_⟩, ?_⟩, ?_⟩, ?_⟩, ?_⟩, .ite service .nil⟩
  · exact .foldl (fun _ p ha => ha.append (opEvent_keeps s c x p.2 p.1)) _
  · exact .ite .nil (.singleton (exec_keeps (.resultLanding c x)))
  · exact .ite .nil (.singleton (exec_keeps (.sqEntryFill c x)))
  · exact .ite (.singleton (exec_keeps (.exitDrainComplete c x))) .nil
  · exact .ite .nil (.singleton (exec_keeps (.asyncTrapDelivery c x)))
  · split
    · exact service
    · exact .nil

theorem onward_keeps (m : Cmd) (c : Nat) : ActsKeep (m.onward c) := by
  unfold Cmd.onward
  split
  case h_6 => exact .singleton (exec_keeps (.histUpdate c m.id))
  case h_7 | h_8 => exact .singleton (exec_keeps (.mmaComplete c m.id))
  case h_9 => exact .singleton (exec_keeps (.mzeroComplete c m.id))
  case h_10 => exact actsKeep_cons.mpr ⟨exec_keeps (.drainRow c m.id), .singleton (exec_keeps (.reduceContribution c m.id))⟩
  case h_11 => exact .singleton (exec_keeps (.padjRow c m.id))
  case h_12 => exact .singleton (exec_keeps (.cardComplete c m.id))
  case h_13 => exact actsKeep_cons.mpr ⟨exec_keeps (.groupRequestArrive c m.id), .singleton (exec_keeps (.groupFillLand c m.id))⟩
  case h_14 => exact .singleton (exec_keeps (.blockFillComplete c m.id))
  case h_20 => exact .singleton (exec_keeps (.ringStep c m.id))
  case h_1 | h_2 | h_3 | h_4 | h_5 => exact .singleton (exec_keeps (.copyPieceWrite c m.id))
  all_goals exact .singleton (exec_keeps (.stackQueueStep c m.id))

theorem open_keeps (m : Cmd) (c : Nat) : ActsKeep (m.open_ c) := by
  unfold Cmd.open_
  split
  case h_3 => exact actsKeep_append.mpr ⟨onward_keeps m c,
    actsKeep_cons.mpr ⟨exec_keeps (.engineHalt c m.id), .singleton (exec_keeps (.chaseAbort c m.id))⟩⟩
  case h_4 => exact .nil
  case h_5 => exact .singleton (exec_keeps (.engineCommandCompletion c m.id))
  case h_6 => exact .singleton (exec_keeps (.cardReplayStart c m.id))
  all_goals
    split
    · exact .singleton (exec_keeps (.engineCommandStart c _))
    · exact .nil

theorem openCore_keeps (s : State) (k : Core) (c : Nat) : ActsKeep (s.openCore k c) := by
  unfold State.openCore
  simp only [actsKeep_append]
  refine ⟨⟨⟨?_, ?_⟩, ?_⟩, ?_⟩
  · exact .foldl (fun _ x ha => ha.append (openCtx_keeps s (k.ctx x) c x)) _
  · exact .map (fun e : Sev => exec_keeps (.sevArrival c e.1)) _
  · exact .foldl (fun _ m ha => ha.append (open_keeps m c)) _
  · refine .foldl (fun _ t ha => (ha.append ?_).append ?_) _
    · exact .ite (.singleton (exec_keeps (.teamSave c t.1))) (.singleton (exec_keeps (.preemptRequest c t.1)))
    · exact .singleton (exec_keeps (.teamExit c t.1))

theorem openLaunch_keeps (s : State) (l : Nat) (v : Launch) : ActsKeep (s.openLaunch l v) := by
  unfold State.openLaunch
  simp only [actsKeep_append]
  refine ⟨⟨.foldl (fun _ g ha => (ha.append ?_).append ?_) _, .filterMap (fun d a e => ?_) _⟩, .singleton (exec_keeps (.launchComplete l))⟩
  · exact .ite .nil (.singleton (exec_keeps (.meshSlotDepart l g.2)))
  · exact .ite .nil (.singleton (exec_keeps (.meshPayloadArrive l g.2)))
  · obtain ⟨u, _, e⟩ := Option.bind_eq_some_iff.mp e
    obtain ⟨p, _, rfl⟩ := Option.map_eq_some_iff.mp e
    exact exec_keeps (.dispatchUnit l u p.1 p.2)

theorem openQueue_keeps (s : State) (q : Nat) (v : HostQueue) : ActsKeep (s.openQueue q v) := by
  unfold State.openQueue
  simp only [actsKeep_append]
  refine ⟨⟨⟨?_, ?_⟩, .ite .nil (.singleton (exec_keeps (.signal q)))⟩, ?_⟩
  · split
    · split
      · exact .singleton (exec_keeps (.launch q))
      · exact .singleton (exec_keeps (.graph q))
      · exact .singleton (exec_keeps (.waitvPacket q))
      · exact .singleton (exec_keeps (.signal q))
      · exact .singleton (exec_keeps (.barrier q))
      · exact .singleton (exec_keeps (.checkpoint q))
      · exact .singleton (exec_keeps (.restore q))
      · exact .singleton (exec_keeps (.scale q))
      · exact .singleton (exec_keeps (.unknownPacketKind q))
    · exact .nil
  · split
    · exact .ite (.singleton (exec_keeps (.waitvPacketPoll q))) (.ite (.singleton (exec_keeps (.barrier q))) .nil)
    · exact .nil
  · split
    · exact .map (fun n => exec_keeps (.graphNodeStart q n)) _
    · exact .nil

theorem openResume_keeps (s : State) (d : Nat) : ActsKeep (s.openResume d) := by
  unfold State.openResume
  split
  · exact .nil
  · split
    · split
      · exact .singleton (exec_keeps (.teamRestore _ _ _ _))
      · exact .nil
    · split
      · exact .singleton (exec_keeps (.dispatchUnit _ _ _ _))
      · exact .nil
    · exact .nil

theorem openEvents_keeps (s : State) : ActsKeep s.openEvents := by
  unfold State.openEvents
  simp only [actsKeep_append]
  refine ⟨⟨⟨⟨⟨⟨⟨⟨⟨⟨?_, ?_⟩, ?_⟩, ?_⟩, ?_⟩, ?_⟩, ?_⟩, ?_⟩, ?_⟩, ?_⟩, ?_⟩
  · refine .foldl (fun _ e ha => ha.append ?_) _
    exact openCore_keeps s e.2 e.1
  · refine .filterMap_unless ?_ _
    exact fun d => exec_keeps (.powerPermitGrant d)
  · exact .foldl (fun _ d ha => ha.append (openResume_keeps s d)) _
  · exact .foldl (fun _ e ha => ha.append (openLaunch_keeps s e.1 e.2)) _
  · split
    · exact .singleton (exec_keeps (.mapperBind _))
    · exact .nil
  · exact .foldl (fun _ e ha => ha.append (openQueue_keeps s e.1 e.2)) _
  · split
    · refine .singleton ?_
      split
      · exact exec_keeps .restoreComplete
      · exact exec_keeps .checkpointComplete
    · exact .nil
  · exact .ite .nil (.singleton (exec_keeps .tlbInvalidation))
  · exact .ite (.singleton (happen_keeps fun s h => h.bootStage)) .nil
  · exact .ite .nil (.singleton (firmwareDoes_keeps fun s h => h.signNext))
  · refine .filterMap_unless ?_ _
    exact fun p => firmwareDoes_keeps fun s h => h.rdmaNext p.1

theorem lateEvents_keeps (s : State) : ActsKeep s.lateEvents := by
  unfold State.lateEvents
  exact .foldl (fun _ e ha => ha.append (.foldl (fun _ g hb => hb.append (.map (fun w : Hold => exec_keeps (.groupHoldTimeout e.1 g.1 w.seq)) _)) _)) _

theorem pickEvent_keeps {s : State} {a : Act} (e : s.pickEvent = some a) : ActKeeps a := by
  unfold State.pickEvent at e
  extract_lets late at e
  split at e
  · exact (openEvents_keeps s).keeps a (List.mem_of_getElem? e)
  · have hl : ActsKeep late := .ite .nil (lateEvents_keeps s)
    exact hl.keeps a (List.mem_of_getElem? e)

theorem issueStep_keeps : ActKeeps State.issueStep := by
  constructor
  intro s t h e
  unfold State.issueStep at e
  split at e
  · exact (exec_keeps _).keeps s t h e
  · split at e
    · cases e
    · cases e
      exact h.tryIssue

theorem arbitrate_keeps : ActKeeps State.arbitrate := by
  constructor
  intro s t h e
  unfold State.arbitrate at e
  split at e
  · split at e
    · rename_i a ha
      exact (pickEvent_keeps ha).keeps { s with stall := 0, beat := s.beat + 1 } t h e
    · exact issueStep_keeps.keeps s t h e
  · exact issueStep_keeps.keeps s t h e

theorem follow_keeps (i : Instr) (r : List Instr) : ActKeeps (fun s => s.follow i r) := by
  constructor
  intro s t h e
  have ha : Canonical { s with agenda := r } := h
  unfold State.follow at e
  split at e
  · exact (exec_keeps i).keeps _ t ha.anew e
  · cases e
    exact ha.tick

theorem step_keeps : ActKeeps step := by
  constructor
  intro s t h e
  unfold step at e
  split at e
  · exact (follow_keeps _ _).keeps s t h e
  · exact arbitrate_keeps.keeps s t h e

/-- Settles O59: every act that can move the module, a syllable's bundle or an event, leaves each byte memory in canonical form. -/
theorem memoryCanonicalFormKept : Obligations.MemoryCanonicalFormKept :=
  fun s t h e => step_keeps.keeps s t h e

end Sys2Proof.Claim

namespace Sys2Proof.Machine

open Sys2Proof.Claim

/-! ### Accesses that leave for memory at issue (R224, R232 to R235) -/

/-- The policy of a syllable: `mpol` where its field is 0 (R79). -/
theorem policyOf_env {s : State} {c x pa : Nat} {pk : List Nat} (m : Sem) (p : BitVec 5) (k : Nat) (hx : x < 4) :
    policyOf (env s c x pa pk m).ctx p.toNat ((env s c x pa pk m).s k) =
      if p = 0 then (popped s c x pa m.srcs).mpol else arg s c x pa m.srcs k := by
  have h0 : p.toNat = 0 ↔ p = 0 := by rw [← BitVec.toNat_inj]; rfl
  simp only [env_ctx _ _ _ _ _ _ hx, policyOf, env_s, h0]

/-- A clear syllable that notes the translation of one place and joins accesses to its context's is performed so. -/
theorem performs_of_joined {s : State} {c x pa : Nat} {pk : List Nat} {i : Instr} {r : List Src} {f : Ctx → Ctx} (va n : Nat)
    (h : Ready s c x pa pk) (he : (encode i).isSome = true) (hs : (semOf i).srcs = r) (k : Clear s c x pa pk (semOf i))
    (hf : (semOf i).flow (env s c x pa pk (semOf i)) (base s c x pa (semOf i).srcs) = .next)
    (ha : (semOf i).act (env s c x pa pk (semOf i)) (base s c x pa (semOf i).srcs) =
      ((env s c x pa pk (semOf i)).note (base s c x pa (semOf i).srcs) va n).modCtx c x f)
    (hg : (popped s c x pa r).Grows (f (popped s c x pa r))) : Performs s c x pk i (f (popped s c x pa r)) := by
  subst hs
  exact performs_of_noted h he k hf ha (noted_note ..) (hg.innerReady (popped_innerReady _ h))

/-- The bytes of a word, low byte first (R65). -/
theorem leBytes_eq_map (v : W64) (n : Nat) : leBytes n v.toNat = (List.range n).map (fun k => (v >>> (8 * k)).setWidth 8) := by
  have step (m : Nat) : leBytes n m = (List.range n).map (fun k => BitVec.ofNat 8 (m / 256 ^ k)) := by
    induction n generalizing m with
    | zero => rfl
    | succ n ih => simp [leBytes, ih, List.range_succ_eq_map, List.map_map, Function.comp_def, Nat.div_div_eq_div_mul, Nat.pow_succ']
  rw [step]
  refine List.map_congr_left fun k _ => BitVec.eq_of_toNat_eq ?_
  simp [Nat.shiftRight_eq_div_pow, Nat.pow_mul]

/-- A scalar store's access, joined to `v`. -/
def Ctx.scalarSt (v : Ctx) (pas : List Nat) (z : Nat) (a pol : W64) (pc va : Nat) : Ctx :=
  v.pushOp (.store none) [] (pas.zip (leBytes z a.toNat)) (polOrd pol) (polScope pol) pc va

theorem scalarStore_act (i : Instr) (a b : BitVec 5) (im : BitVec 19) (z : Nat) (e : Env) (t : State) :
    (scalarStore i a b im z).act e t = (e.note t (msAddr (e.s 1) im z) z).modCtx e.c e.x (fun w =>
      w.scalarSt (e.phys t (msAddr (e.s 1) im z) z .write) z (e.s 0) e.ctx.mpol e.pc (msAddr (e.s 1) im z)) := rfl

theorem scalarStore_issues {s : State} {c x pa : Nat} {pk : List Nat} {i : Instr} {a b : BitVec 5} {im : BitVec 19} {z : Nat} {pas : List Nat}
    (h : Ready s c x pa pk) (he : (encode i).isSome = true) (hm : semOf i = scalarStore i a b im z) (k : Clear s c x pa pk (semOf i))
    (hp : (base s c x pa [.s a.toNat, .s b.toNat]).xlatSpan c (s.rootAt c x)
      (arg s c x pa [.s a.toNat, .s b.toNat] 1 + BitVec.ofInt 64 (im.toInt * z)).toNat z .write = .ok pas) :
    let v := popped s c x pa [.s a.toNat, .s b.toNat]
    let A := (arg s c x pa [.s a.toNat, .s b.toNat] 1 + BitVec.ofInt 64 (im.toInt * z)).toNat
    A % z = 0 ∧ Performs s c x pk i (v.scalarSt pas z (arg s c x pa [.s a.toNat, .s b.toNat] 0) v.mpol (s.ctx c x).pc A) := by
  intro v A
  have hs : (semOf i).srcs = [.s a.toNat, .s b.toNat] := by rw [hm]; rfl
  have hA : msAddr ((env s c x pa pk (semOf i)).s 1) im z = A := by rw [env_s, msAddr_eq, hs]
  constructor
  · have hc := k.checks
    rw [congrArg Sem.check hm] at hc
    have := need_eq_nil.mp (List.append_eq_nil_iff.mp (List.append_eq_nil_iff.mp hc).1).1
    rw [hA] at this
    simpa using this
  · refine performs_of_joined (f := fun w => w.scalarSt pas z (arg s c x pa [.s a.toNat, .s b.toNat] 0) v.mpol (s.ctx c x).pc A)
      A z h he hs k (by rw [hm]; rfl) ?_ (.pushOp _ _ _ _ _ _ _ fun _ => rfl)
    rw [congrArg Sem.act hm, scalarStore_act, hA, env_ctx _ _ _ _ _ _ (pick_lt h.turn), env_s, hs, env_phys hp]
    rfl

/-- Settles O22: what a scalar store adds to its context's accesses, with its bytes written as the statement writes them. -/
theorem scalarStoresIssue : Obligations.ScalarStoresIssue := by
  unfold Obligations.ScalarStoresIssue
  intro s c x pa pk a b i pas h r v q hq A k hp
  rw [← leBytes_eq_map]
  simp only [List.mem_cons, List.not_mem_nil, or_false] at hq
  rcases hq with rfl | rfl | rfl | rfl
  all_goals exact scalarStore_issues h rfl rfl k hp

/-! ### Slice-queue syllables (R234, R235) -/

/-- A queue syllable's request for the queue at `p`, joined to `v` with its `n` entries of `lqs` reserved; the context of a `qdeqw` parks. -/
def Ctx.askQueue (v : Ctx) (f : QueueOp) (p n : Nat) (val : W64) (ord scope pc va : Nat) : Ctx :=
  let y := (if n = 2 then v.reserveLqs.reserveLqs else v.reserveLqs).pushOp (.queue f val v.seq) [(p, 0)] [] ord scope pc va
  if f = .deqw then { y with parks := y.parks ++ [(p, v.seq)] } else y

theorem grows_askQueue (v : Ctx) (f : QueueOp) (p n : Nat) (val : W64) (ord scope pc va : Nat) : v.Grows (v.askQueue f p n val ord scope pc va) := by
  have reserved : v.Grows (if n = 2 then v.reserveLqs.reserveLqs else v.reserveLqs) := by
    split
    · exact (Ctx.Grows.reserveLqs v).trans (.reserveLqs _)
    · exact .reserveLqs v
  have joined := reserved.trans (.pushOp _ [(p, 0)] [] ord scope pc va (k := .queue f val v.seq) fun _ => rfl)
  unfold Ctx.askQueue
  dsimp only
  split
  · exact ⟨joined.ops, joined.seq⟩
  · exact joined

theorem askQueue_len (v : Ctx) (p : Nat) (val : W64) (ord scope pc va : Nat) : v.askQueue .len p 1 val ord scope pc va =
    v.reserveLqs.pushOp (.queue .len val v.seq) [(p, 0)] [] ord scope pc va := rfl

theorem sendQueue_eq (e : Env) (t : State) (f : QueueOp) (a n : Nat) (val : W64) (ord scope : Nat) :
    e.sendQueue t f a n val ord scope = (e.note t a 64).modCtx e.c e.x (fun w =>
      (if f = .len then w.preFence ord scope e.pc else w).askQueue f ((e.phys t a 64 .write).headD 0) n val ord scope e.pc a) := rfl

/-- A queue syllable whose ordering asks for no fence sends its request. -/
theorem queue_issues {s : State} {c x pa p : Nat} {pk : List Nat} {i : Instr} {r : List Src} {pas : List Nat} {f : QueueOp} {a n : Nat} {val : W64}
    {ord scope : Nat} (h : Ready s c x pa pk) (he : (encode i).isSome = true) (hs : (semOf i).srcs = r) (k : Clear s c x pa pk (semOf i))
    (hf : (semOf i).flow (env s c x pa pk (semOf i)) (base s c x pa (semOf i).srcs) = .next)
    (ha : (semOf i).act (env s c x pa pk (semOf i)) (base s c x pa (semOf i).srcs) =
      (env s c x pa pk (semOf i)).sendQueue (base s c x pa (semOf i).srcs) f a n val ord scope)
    (hp : (base s c x pa r).xlatSpan c (s.rootAt c x) a 64 .write = .ok (p :: pas)) (ho : f ≠ .len ∨ ord < 2) :
    Performs s c x pk i ((popped s c x pa r).askQueue f p n val ord scope (s.ctx c x).pc a) := by
  subst hs
  refine performs_of_joined (f := fun w => w.askQueue f p n val ord scope (s.ctx c x).pc a) a 64 h he rfl k hf ?_ (grows_askQueue ..)
  have plain (w : Ctx) : (if f = .len then w.preFence ord scope (s.ctx c x).pc else w) = w := by
    rcases ho with ho | ho
    · rw [if_neg ho]
    · rw [Ctx.preFence, if_neg (show ¬ 2 ≤ ord by omega), ite_self]
  rw [ha, sendQueue_eq, env_phys hp]
  exact congrArg (State.modCtx _ c x) (funext fun w => congrArg (fun y : Ctx => y.askQueue f p n val ord scope (s.ctx c x).pc a) (plain w))

/-- A `qlen` with a release part follows its fence, which waits for what is outstanding, or else is performed with it (R134). -/
theorem queueLength_issues {s : State} {c x pa p : Nat} {pk : List Nat} {i : Instr} {r : List Src} {pas : List Nat} {a : Nat} {val : W64}
    {ord scope : Nat} (h : Ready s c x pa pk) (he : (encode i).isSome = true) (hs : (semOf i).srcs = r) (k : Clear s c x pa pk (semOf i))
    (hf : (semOf i).flow (env s c x pa pk (semOf i)) (base s c x pa (semOf i).srcs) = .next)
    (ha : (semOf i).act (env s c x pa pk (semOf i)) (base s c x pa (semOf i).srcs) =
      (env s c x pa pk (semOf i)).sendQueue (base s c x pa (semOf i).srcs) .len a 1 val ord scope)
    (hp : (base s c x pa r).xlatSpan c (s.rootAt c x) a 64 .write = .ok (p :: pas)) (ho : 2 ≤ ord) :
    let u := popped s c x pa r
    let ask := fun w : Ctx => w.askQueue .len p 1 val ord scope (s.ctx c x).pc a
    (u.ops ≠ [] → Performs s c x pk i (ask (u.pushOp .fence [] [] 2 scope (s.ctx c x).pc 0))) ∧
    (u.ops = [] → Fences s c x 2 scope pk i (ask { u with seq := u.seq + 1 })) := by
  intro u ask
  subst hs
  have hact : (semOf i).act (env s c x pa pk (semOf i)) (base s c x pa (semOf i).srcs) =
      ((env s c x pa pk (semOf i)).note (base s c x pa (semOf i).srcs) a 64).modCtx c x
        (fun w => ask (w.pushOp .fence [] [] 2 scope (s.ctx c x).pc 0)) := by
    rw [ha, sendQueue_eq, env_phys hp]
    simp only [if_true, Ctx.preFence, ho]
    rfl
  have hu := noted_note (env s c x pa pk (semOf i)) (base s c x pa (semOf i).srcs) x a 64
  constructor
  · intro hne
    have hr := innerReady_fenced scope (s.ctx c x).pc 0 (popped_innerReady (semOf i).srcs h) hne
    exact performs_of_noted (f := fun w => ask (w.pushOp .fence [] [] 2 scope (s.ctx c x).pc 0)) h he k hf hact hu ((grows_askQueue ..).innerReady hr)
  · intro hnil
    have hd : (ask (u.pushOp .fence [] [] 2 scope (s.ctx c x).pc 0)).dropOp u.seq = ask { u with seq := u.seq + 1 } := by
      have e := dropOp_fence scope (s.ctx c x).pc 0 hnil
      simp only [ask, askQueue_len]
      rw [dropOp_pushOp _ _ _ _ _ _ _ (by show u.seq < u.seq + 1 + 1; omega), ← e]
      rfl
    rw [← hd]
    exact fences_of_noted (f := fun w => ask (w.pushOp .fence [] [] 2 scope (s.ctx c x).pc 0)) (bundle := (s.ctx c x).pc) (va := 0) h he k hf hact hu hnil
      (grows_askQueue ..)

/-- Settles O27: each queue syllable as one request, `qlen` with its fence. -/
theorem sliceQueuesIssue : Obligations.SliceQueuesIssue := by
  unfold Obligations.SliceQueuesIssue
  intro s c x pa pk b v p pas h pc r2 w B r1 u A home
  have hx := pick_lt h.turn
  have mpol (m : Sem) : (env s c x pa pk m).ctx.mpol = (popped s c x pa m.srcs).mpol := by rw [env_ctx _ _ _ _ _ _ hx]
  refine ⟨fun k hp => ?_, fun k hp => ?_, fun k hp => ?_, fun k hp => ?_, fun k hp => ⟨fun ho => ?_, fun ho => ?_, fun ho => ?_⟩⟩
  · exact queue_issues (f := .init) (n := 1) (val := B) (ord := polOrd w.mpol) (scope := polScope w.mpol) h rfl rfl k rfl
      (by rw [show w.mpol = _ from (mpol (semQinit b v)).symm]; rfl) hp (.inl (by decide))
  · exact queue_issues (f := .enq) (n := 1) (val := B) (ord := 2) (scope := 2) h rfl rfl k rfl rfl hp (.inl (by decide))
  · exact queue_issues (f := .deq) (n := 2) (val := 0) (ord := 1) (scope := 2) h rfl rfl k rfl rfl hp (.inl (by decide))
  · exact queue_issues (f := .deqw) (n := 2) (val := 0) (ord := 1) (scope := 2) h rfl rfl k rfl rfl hp (.inl (by decide))
  · exact queue_issues (f := .len) (n := 1) (val := 0) (ord := polOrd u.mpol) (scope := polScope u.mpol) h rfl rfl k rfl
      (by rw [show u.mpol = _ from (mpol (semQlen b)).symm]; rfl) hp (.inr ho)
  · exact (queueLength_issues (val := 0) (ord := polOrd u.mpol) (scope := polScope u.mpol) h rfl rfl k rfl
      (by rw [show u.mpol = _ from (mpol (semQlen b)).symm]; rfl) hp ho).1
  · exact (queueLength_issues (val := 0) (ord := polOrd u.mpol) (scope := polScope u.mpol) h rfl rfl k rfl
      (by rw [show u.mpol = _ from (mpol (semQlen b)).symm]; rfl) hp ho).2

end Sys2Proof.Machine

namespace Sys2Proof.Machine

open Sys2Proof.Claim

/-! ### A `vradd` over two pages with overlapping cached translations (R104, R233) -/

/-- A cached translation, writable and executable, under the root of `withFetchWord`. -/
def cachedPage (va size pa : Nat) : TlbEntry := { root := slotRoot, va := va, size := size, pa := pa, w := true, x := true }

/-- Context 0 of core 0 is about to issue a bundle with its `s1` in the midst of one page, 64 bytes before another. Core 0 holds a translation of the
second page; the TLB of its die holds one of the code's page and, of a larger page, one that covers both. -/
def overlapPages : State :=
  let s := (State.reset.withFetchWord 32 0xB8000000).modCtx 0 0 (fun v => { v with s := vset v.s 1 0x22FFC0 })
  { s with
    tlbs := [(0, [cachedPage 0x50000 0x10000 0x50000, cachedPage 0x200000 0x200000 0x200000])]
    cores := tput s.cores 0 { s.core 0 with tlb := [cachedPage 0x230000 0x10000 0x90000] } }

/-- The packet at the pc of context 0. -/
def overlapPacket : List Nat := 0xB8000000 :: List.replicate 15 0x7FFFFFFF

theorem overlapPages_ready : Ready overlapPages 0 0 0x50000 overlapPacket where
  power := by decide +kernel
  turn := by decide +kernel
  noTrap := by decide +kernel
  noResend := by decide +kernel
  noFence := by decide +kernel
  settled := by decide +kernel
  inTurn := by decide +kernel
  fetch := by decide +kernel
  intact := by decide +kernel

theorem overlapPages_clear : Clear overlapPages 0 0 0x50000 overlapPacket (semOf (.vradd 1 2 0)) where
  usable :=
    { declared := by decide +kernel, lqs := by decide +kernel, lq := by decide +kernel, sq := by decide +kernel, arrived := by decide +kernel
      intact := by decide +kernel }
  room := by decide +kernel
  wf := by decide +kernel
  streams := by decide +kernel
  checks := by decide +kernel
  target := by decide +kernel
  free := by decide +kernel
  acc := by decide +kernel

/-- At issue lane 16, the first of the second page, lies where core 0 has that page. -/
theorem overlapPages_lane16 : (base overlapPages 0 0 0x50000 [.s 1, .v 2, .s 0]).xlatSpan 0 (overlapPages.rootAt 0 0)
    ((arg overlapPages 0 0 0x50000 [.s 1, .v 2, .s 0] 0).toNat + 4 * 16) 4 .write = .ok [0x90000, 0x90001, 0x90002, 0x90003] := by decide +kernel

/-- What the first access of the second page names, once the translation of the first page has joined core 0's TLB. -/
theorem overlapPages_exec : (match exec (.vradd 1 2 0) overlapPages with
    | .next t => (t.ctx 0 0).ops[(popped overlapPages 0 0 0x50000 [.s 1, .v 2, .s 0]).ops.length + 16]?.map (fun o => o.bytes)
    | _ => none) = some [(0x230000, 0), (0x230001, 1), (0x230002, 2), (0x230003, 3)] := by decide +kernel

/-- Refutes O26: its clause on `vradd` names the bytes of every lane by their translation as the bundle issues. The lanes leave one after another, and
each brings its translation into the core's TLB before the next is translated: in `overlapPages` the larger page that the first lanes bring hides the
translation of the second page that core 0 held at issue. -/
theorem not_atomicsIssue : ¬ Obligations.AtomicsIssue := by
  intro h
  obtain ⟨-, -, -, hv⟩ := h overlapPages 0 0 0x50000 overlapPacket 0 0 1 2 0 [] overlapPages_ready
  obtain ⟨t, he, -, -, -, -, hlane⟩ := hv overlapPages_clear
  obtain ⟨o, ho, -, -, -, -, -, -, hbytes⟩ := hlane 16 (by decide)
  have hb := hbytes _ overlapPages_lane16
  have hx := overlapPages_exec
  have ho' : (t.ctx 0 0).ops[(popped overlapPages 0 0 0x50000 [.s 1, .v 2, .s 0]).ops.length + 16]? = some o := ho
  simp only [he, ho', Option.map_some, hb] at hx
  exact absurd hx (by decide)

end Sys2Proof.Machine

namespace Sys2Proof.Machine

open Sys2Proof.Claim

/-! ### A group is put back, with the statuses its released holds give (R96, R113) -/

/-- What showing the statuses of group loads leaves: all but those statuses, in the tags of resident and of saved teams. -/
structure StatusesShown (s t : State) : Prop where
  core : ∀ c, ∃ ts, t.core c = { s.core c with teams := ts }
  tag : ∀ c b n, ∃ v, (t.core c).tagAt b n = { (s.core c).tagAt b n with gstat := v }
  mem : t.mem = s.mem
  launches : t.launches = s.launches

theorem StatusesShown.refl (s : State) : StatusesShown s s := ⟨fun _ => ⟨_, rfl⟩, fun _ _ _ => ⟨_, rfl⟩, rfl, rfl⟩

theorem StatusesShown.trans {s t u : State} (h : StatusesShown s t) (g : StatusesShown t u) : StatusesShown s u where
  core := fun c => by
    obtain ⟨_, h1⟩ := h.core c
    obtain ⟨ts, g1⟩ := g.core c
    exact ⟨ts, by rw [g1, h1]⟩
  tag := fun c b n => by
    obtain ⟨_, h1⟩ := h.tag c b n
    obtain ⟨v, g1⟩ := g.tag c b n
    exact ⟨v, by rw [g1, h1]⟩
  mem := g.mem.trans h.mem
  launches := g.launches.trans h.launches

theorem StatusesShown.ctx {s t : State} (h : StatusesShown s t) (c x : Nat) : t.ctx c x = s.ctx c x := by
  obtain ⟨_, e⟩ := h.core c
  rw [State.ctx, e]; rfl

theorem StatusesShown.cmds {s t : State} (h : StatusesShown s t) (c : Nat) : (t.core c).cmds = (s.core c).cmds := by
  obtain ⟨_, e⟩ := h.core c
  rw [e]

/-- Tag `n` of the team at `b`, when another of its tags or of another team's changes. -/
theorem tagAt_modTag_other (k : Core) {b n b' n' : Nat} (f : Tag → Tag) (h : (b', n') ≠ (b, n)) : (k.modTag b n f).tagAt b' n' = k.tagAt b' n' := by
  unfold Core.modTag
  cases ht : tget k.teams b with
  | none => rfl
  | some t =>
    by_cases hb : b' = b
    · subst hb
      simp only [Core.tagAt, Core.putTeam, tget_tput_self, ht, Team.tag,
        tget_tput_other _ _ _ _ (fun hn : n' = n => h (by rw [hn]))]
    · simp only [Core.tagAt, Core.putTeam, tget_tput_other _ _ _ _ hb]

theorem grouped_eq (t : Tag) (gen v : Nat) : ∃ w, t.grouped gen v = { t with gstat := w } := by
  unfold Tag.grouped
  split
  · exact ⟨v, rfl⟩
  · exact ⟨t.gstat, rfl⟩

theorem statusesShown_modTag (s : State) (c b n gen v : Nat) : StatusesShown s (s.modTag c b n (fun t => t.grouped gen v)) where
  core := fun j => by
    by_cases hj : j = c
    · subst hj
      rw [State.modTag, State.core_modCore_self]
      exact modTag_eq ..
    · exact ⟨_, State.core_modCore_other _ _ _ _ hj⟩
  tag := fun j b' n' => by
    by_cases hj : j = c
    · subst hj
      rw [State.modTag, State.core_modCore_self]
      by_cases h : (b', n') = (b, n)
      · obtain ⟨rfl, rfl⟩ := Prod.mk.inj h
        by_cases ht : (tget (s.core j).teams b').isSome = true
        · rw [tagAt_modTag _ _ _ ht]
          exact grouped_eq ..
        · simp only [Core.modTag, Option.not_isSome_iff_eq_none.mp ht]
          exact ⟨_, rfl⟩
      · exact ⟨_, tagAt_modTag_other _ _ h⟩
    · exact ⟨_, by rw [State.modTag, State.core_modCore_other _ _ _ _ hj]⟩
  mem := rfl
  launches := rfl

theorem statusesShown_modSaved (s : State) (c id : Nat) (f : SavedTeam → Cmd → SavedTeam) : StatusesShown s (s.modSaved c id f) :=
  ⟨fun _ => ⟨_, rfl⟩, fun _ _ _ => ⟨_, rfl⟩, rfl, rfl⟩

theorem statusesShown_noteReleased (s : State) (h : Hold) : StatusesShown s (s.noteReleased h) := by
  unfold State.noteReleased
  split
  · exact .refl s
  · induction h.asks.filter (fun a => !a.served) generalizing s with
    | nil => exact .refl s
    | cons a as ih =>
      refine StatusesShown.trans ?_ (ih _)
      dsimp only
      split
      · split
        · exact statusesShown_modTag ..
        · exact .refl s
      · exact statusesShown_modSaved ..

theorem statusesShown_noteAll (s : State) (hs : List Hold) : StatusesShown s (hs.foldl State.noteReleased s) := by
  induction hs generalizing s with
  | nil => exact .refl s
  | cons h hs ih => exact (statusesShown_noteReleased s h).trans (ih _)

/-- Launch `l` with group `key` as `g`. -/
def State.withGroup (s : State) (l key : Nat) (g : Group) : State := s.modLaunch l (fun v => { v with groups := tput v.groups key g })

theorem putGroup_shown (s : State) (l key : Nat) (g : Group) : StatusesShown (s.withGroup l key g) (s.putGroup l key g) := statusesShown_noteAll ..

theorem modLaunch_cores (s : State) (l : Nat) (f : Launch → Launch) : (s.modLaunch l f).cores = s.cores := by
  unfold State.modLaunch
  split <;> rfl

theorem modLaunch_mem (s : State) (l : Nat) (f : Launch → Launch) : (s.modLaunch l f).mem = s.mem := by
  unfold State.modLaunch
  split <;> rfl

theorem withGroup_core (s : State) (l key c : Nat) (g : Group) : (s.withGroup l key g).core c = s.core c := by
  simp only [State.withGroup, State.core, modLaunch_cores]

theorem putGroup_ctx (s : State) (l key c x : Nat) (g : Group) : (s.putGroup l key g).ctx c x = s.ctx c x := by
  rw [(putGroup_shown s l key g).ctx, State.ctx, withGroup_core]; rfl

theorem putGroup_mem (s : State) (l key : Nat) (g : Group) : (s.putGroup l key g).mem = s.mem :=
  (putGroup_shown s l key g).mem.trans (modLaunch_mem ..)

theorem putGroup_cmds (s : State) (l key c : Nat) (g : Group) : ((s.putGroup l key g).core c).cmds = (s.core c).cmds := by
  rw [(putGroup_shown s l key g).cmds, withGroup_core]

theorem putGroup_tag (s : State) (l key c b n : Nat) (g : Group) :
    ∃ v, ((s.putGroup l key g).core c).tagAt b n = { (s.core c).tagAt b n with gstat := v } := by
  obtain ⟨v, h⟩ := (putGroup_shown s l key g).tag c b n
  exact ⟨v, by rw [h, withGroup_core]⟩

/-- A group that has been put back is the group of its launch. -/
theorem group_putGroup {s : State} {l : Nat} {lv : Launch} (key : Nat) (g : Group) (h : s.launchOf l = some lv) :
    ((s.putGroup l key g).launchOf l).map (fun w => w.group key) = some g := by
  have hl : (s.putGroup l key g).launches = tput s.launches l { lv with groups := tput lv.groups key g } := by
    rw [(putGroup_shown s l key g).launches, State.withGroup, State.modLaunch, h]; rfl
  simp only [State.launchOf, hl, tget_tput_self, Option.map_some, Launch.group, Option.getD_some]

/-! ### Group syllables (R94, R99, R231) -/

theorem launchOf_of_launchAt {s : State} {c x l : Nat} {lv : Launch} (h : s.launchAt c x = some (l, lv)) : s.launchOf l = some lv := by
  unfold State.launchAt at h
  split at h
  · obtain ⟨v, hv, e⟩ := Option.map_eq_some_iff.mp h
    obtain ⟨rfl, rfl⟩ := Prod.mk.inj e
    exact hv
  · exact absurd h nofun

/-- The group a context names, as its bundle finds it. -/
theorem groupAt_base {s : State} {c x l : Nat} {lv : Launch} (pa : Nat) (r : List Src) (g : Nat) (h : s.launchAt c x = some (l, lv)) :
    (base s c x pa r).groupAt c x g = some (l, lv, lv.group (groupKey c g)) := by
  rw [State.groupAt, (OnlyCtx.base ..).launchAt, h]; rfl

theorem launchOf_base (s : State) (c x pa l : Nat) (r : List Src) : (base s c x pa r).launchOf l = s.launchOf l := by
  simp only [State.launchOf, (SameOutside.base s c x pa r).launches]

/-- A syllable that puts a group back and leaves its context `w`. -/
theorem group_issues {s : State} {c x pa l key : Nat} {pk : List Nat} {i : Instr} {lv : Launch} {g : Group} {f : Ctx → Ctx} (h : Ready s c x pa pk)
    (he : (encode i).isSome = true) (k : Clear s c x pa pk (semOf i))
    (hf : (semOf i).flow (env s c x pa pk (semOf i)) (base s c x pa (semOf i).srcs) = .next) (hl : s.launchOf l = some lv)
    (ha : (semOf i).act (env s c x pa pk (semOf i)) (base s c x pa (semOf i).srcs) =
      ((base s c x pa (semOf i).srcs).putGroup l key g).modCtx c x f)
    (ho : ∀ v : Ctx, (f v).ops = v.ops) :
    ∃ t, exec i s = .next t ∧ t.mem = s.mem ∧ t.ctx c x = onward s c x pk i (f (popped s c x pa (semOf i).srcs)) ∧
      (t.launchOf l).map (fun w => (w.group key).joined) = some g.joined := by
  have hx := pick_lt h.turn
  have hw : ((semOf i).act (env s c x pa pk (semOf i)) (base s c x pa (semOf i).srcs)).ctx c x = f (popped s c x pa (semOf i).srcs) := by
    rw [ha, State.ctx_modCtx_self _ _ _ _ hx, putGroup_ctx, base_ctx _ _ _ _ _ hx]
  obtain ⟨h1, h2⟩ := done_ctx hx hf hw (innerReady_none_of_ops (popped_innerReady _ h) (ho _))
  have h3 := h1.outside
  rw [ha] at h3
  have h4 := (SameOutside.modCtx _ c x f).trans h3
  refine ⟨_, by rw [exec_issue i s he]; exact issueOne_done h k, ?_, h2, ?_⟩
  · rw [h4.mem, putGroup_mem, (SameOutside.base ..).mem]
  · rw [State.launchOf, h4.launches, ← State.launchOf]
    have := congrArg (Option.map Group.joined) (group_putGroup key g ((launchOf_base s c x pa l (semOf i).srcs).trans hl))
    rwa [Option.map_map] at this

theorem semGjoin_act {e : Env} {t : State} {g : BitVec 4} {l : Nat} {lv : Launch} {G : Group} (h : t.groupAt e.c e.x g.toNat = some (l, lv, G))
    (hj : (e.c, e.x) ∉ G.joined) :
    (semGjoin g).act e t = (t.putGroup l (groupKey e.c g.toNat) { G with joined := G.joined ++ [(e.c, e.x)] }).modCtx e.c e.x
      (fun y => { y with groups := tput y.groups g.toNat G.next }) := by
  have hc : G.joined.contains (e.c, e.x) = false := by simpa using hj
  simp only [semGjoin, h, hc, Bool.false_eq_true, if_false]; rfl

theorem semGleave_act {e : Env} {t : State} {g : BitVec 4} {l : Nat} {lv : Launch} {G : Group} (h : t.groupAt e.c e.x g.toNat = some (l, lv, G))
    (hg : (tget (t.ctx e.c e.x).groups g.toNat).isSome = true) :
    (semGleave g).act e t = (t.putGroup l (groupKey e.c g.toNat) { G with joined := G.joined.filter (fun j => j != (e.c, e.x)) }.settle).modCtx e.c e.x
      (fun y => { y with groups := tdel y.groups g.toNat }) := by
  simp only [semGleave, hg, if_true, State.leaveGroup, h]

/-- The command of a `gld` (R231). -/
def Env.gldCmd (e : Env) (t : State) (g d a n : Nat) (seq : Nat) : Cmd :=
  { e.newCmd t .gld with dst := some (e.geo t d), src := some (e.geo t a), tag := some (n, e.nextGen t n), chan := g, n := seq, st := .running }

/-- What a command with tag `n` leaves of memory, of its core's queue, and of the tag. -/
theorem enqueue_bindTag {s : State} {c x pa : Nat} {pk : List Nat} {m : Sem} (cmd : Cmd) (n code ext group : Nat) (geo : Option TagGeo)
    (hn : n ∈ m.tags) (hd : m.over (s.hdrAt c x) = false) :
    let u := (env s c x pa pk m).enqueue ((env s c x pa pk m).bindTag (base s c x pa m.srcs) n code ext geo group) cmd
    u.mem = s.mem ∧ u.ctx c x = (base s c x pa m.srcs).ctx c x ∧ (u.core c).cmds = (s.core c).cmds ++ [cmd] ∧
      (u.core c).tagAt (teamBase s c x) n = ((s.core c).tagAt (teamBase s c x) n).bind code ext geo x group := by
  intro u
  have hb := (base_core s c x pa m.srcs).1
  have hl := (noted_layouts (env s c x pa pk m) x [cmd.dst, cmd.src, cmd.src2, cmd.src3]
    ((env s c x pa pk m).bindTag (base s c x pa m.srcs) n code ext geo group)).only
  have hu : u.core c = (((env s c x pa pk m).noteLayouts ((env s c x pa pk m).bindTag (base s c x pa m.srcs) n code ext geo group)
      [cmd.dst, cmd.src, cmd.src2, cmd.src3]).core c).enter (teamBase s c x) cmd := by
    rw [← env_base s c x pa pk m]; exact State.core_modCore_self ..
  have hT : ((env s c x pa pk m).bindTag (base s c x pa m.srcs) n code ext geo group).core c =
      ((base s c x pa m.srcs).core c).modTag (teamBase s c x) n (fun g => g.bind code ext geo x group) := by
    rw [← env_base s c x pa pk m]; exact State.core_modCore_self ..
  have hc := hl.core
  rw [show (env s c x pa pk m).c = c from rfl, hT] at hc
  obtain ⟨ts, hts⟩ := modTag_eq ((base s c x pa m.srcs).core c) (teamBase s c x) n (fun g => g.bind code ext geo x group)
  refine ⟨?_, (enqueue_ctx ..).trans (bindTag_ctx ..), ?_, ?_⟩
  · exact hl.outside.mem.trans (SameOutside.base s c x pa m.srcs).mem
  · rw [hu, enter_cmds, hc.cmds, hts]
    exact congrArg (· ++ [cmd]) hb.cmds
  · rw [hu, tagAt_congr (enter_teams ..), tagAt_congr hc.teams,
      tagAt_modTag _ _ _ (by rw [hb.teams]; exact team_of_declared hn hd), tagAt_congr hb.teams]

/-- A clear `gld` finds its context enrolled (R231). -/
theorem enrolled_of_clear {s : State} {c x pa : Nat} {pk : List Nat} {g d a : BitVec 4} {n : BitVec 6} (hx : x < 4)
    (k : Clear s c x pa pk (semOf (.gld g d a n))) : ∃ seq, tget (popped s c x pa []).groups g.toNat = some seq := by
  have hc := (List.append_eq_nil_iff.mp (List.append_eq_nil_iff.mp k.checks).1).2
  have hg : (tget ((base s c x pa []).ctx c x).groups g.toNat).isSome = true := need_eq_nil.mp hc
  rw [base_ctx _ _ _ _ _ hx] at hg
  exact Option.isSome_iff_exists.mp hg

/-- A state in which the command `cmd` of context `x` has been queued under tag `n`, group statuses apart. -/
structure RequestQueued (s t : State) (c x pa : Nat) (r : List Src) (cmd : Cmd) (n code ext : Nat) : Prop where
  mem : t.mem = s.mem
  ctx : t.ctx c x = (base s c x pa r).ctx c x
  cmds : (t.core c).cmds = (s.core c).cmds ++ [cmd]
  producer : ((t.core c).tagAt (teamBase s c x) n).producer = code
  extent : ((t.core c).tagAt (teamBase s c x) n).n = ext

theorem requestQueued_enqueue {s : State} {c x pa : Nat} {pk : List Nat} {m : Sem} (cmd : Cmd) (n code ext group : Nat) (geo : Option TagGeo)
    (hn : n ∈ m.tags) (hd : m.over (s.hdrAt c x) = false) :
    RequestQueued s ((env s c x pa pk m).enqueue ((env s c x pa pk m).bindTag (base s c x pa m.srcs) n code ext geo group) cmd) c x pa m.srcs cmd n code ext := by
  obtain ⟨hm, hc, hq, ht⟩ := enqueue_bindTag (pa := pa) (pk := pk) cmd n code ext group geo hn hd
  exact ⟨hm, hc, hq, by rw [ht]; rfl, by rw [ht]; rfl⟩

theorem RequestQueued.putGroup {s t : State} {c x pa n code ext : Nat} {r : List Src} {cmd : Cmd} (h : RequestQueued s t c x pa r cmd n code ext)
    (l key : Nat) (g : Group) : RequestQueued s (t.putGroup l key g) c x pa r cmd n code ext := by
  obtain ⟨v, ht⟩ := putGroup_tag t l key c (teamBase s c x) n g
  exact ⟨(putGroup_mem ..).trans h.mem, (putGroup_ctx ..).trans h.ctx, (putGroup_cmds ..).trans h.cmds, by rw [ht]; exact h.producer, by rw [ht]; exact h.extent⟩

/-- The request of a `gld` is queued, its tag bound, and its context's own number counted up. -/
theorem semGld_act {s : State} {c x pa : Nat} {pk : List Nat} {g d a : BitVec 4} {n : BitVec 6} {seq : Nat} (hx : x < 4)
    (hd : (semGld g d a n).over (s.hdrAt c x) = false) (hs : tget (popped s c x pa []).groups g.toNat = some seq) :
    let e := env s c x pa pk (semGld g d a n)
    let b := base s c x pa []
    ∃ w : State, (semGld g d a n).act e b = w.modCtx c x (fun y => { y with groups := tput y.groups g.toNat (seq + 1) }) ∧
      RequestQueued s w c x pa [] (e.gldCmd b g.toNat d.toNat a.toNat n.toNat seq) n.toNat 8 ((e.geo b d.toNat).d0 * (e.geo b d.toNat).d1) := by
  intro e b
  have hb : tget (b.ctx e.c e.x).groups g.toNat = some seq := (congrArg (fun y : Ctx => tget y.groups g.toNat) (base_ctx s c x pa [] hx)).trans hs
  have hu := requestQueued_enqueue (pa := pa) (pk := pk) (e.gldCmd b g.toNat d.toNat a.toNat n.toNat seq) n.toNat 8
    ((e.geo b d.toNat).d0 * (e.geo b d.toNat).d1) g.toNat (some ((e.geo b d.toNat).tagGeo (e.geo b d.toNat).d1)) (List.mem_singleton_self n.toNat) hd
  simp only [semGld, hb, Option.getD_some]
  refine ⟨_, rfl, ?_⟩
  split
  · exact hu.putGroup ..
  · exact hu

/-- Settles O32: the two enrolments as one group put back, the group load as its command, its tag and its number. -/
theorem groupInstructionResults : Obligations.GroupInstructionResults := by
  unfold Obligations.GroupInstructionResults
  intro s c x pa pk g d a n l lv h T key G v hl
  have hx := pick_lt h.turn
  have hlv := launchOf_of_launchAt hl
  have hg (m : Sem) : (base s c x pa m.srcs).groupAt c x g.toNat = some (l, lv, G) := groupAt_base pa _ _ hl
  refine ⟨fun k hj => ?_, fun u hs => ?_, fun k => ?_⟩
  · exact group_issues (f := fun y => { y with groups := tput y.groups g.toNat G.next }) h rfl k rfl hlv
      (semGjoin_act (hg (semOf (.gjoin g))) hj) fun _ => rfl
  · have k : Clear s c x pa pk (semOf (.gleave g)) := clear_of_bare u rfl rfl rfl rfl rfl rfl rfl rfl rfl rfl
    exact group_issues (f := fun y => { y with groups := tdel y.groups g.toNat }) h rfl k rfl hlv
      (semGleave_act (hg (semOf (.gleave g))) ((congrArg (fun y : Ctx => (tget y.groups g.toNat).isSome) (base_ctx s c x pa [] hx)).trans hs)) fun _ => rfl
  · obtain ⟨seq, hseq⟩ := enrolled_of_clear hx k
    obtain ⟨w, ha, hw⟩ := semGld_act (pa := pa) (pk := pk) hx k.usable.declared hseq
    have hctx : ((semGld g d a n).act (env s c x pa pk (semGld g d a n)) (base s c x pa [])).ctx c x = { v with groups := tput v.groups g.toNat (seq + 1) } := by
      rw [ha, State.ctx_modCtx_self _ _ _ _ hx, hw.ctx, base_ctx _ _ _ _ _ hx]
    obtain ⟨h1, h2⟩ := done_ctx (m := semGld g d a n) hx rfl hctx (innerReady_none_of_ops (popped_innerReady [] h) rfl)
    have h3 := (OnlyCtx.modCtx w c x (fun y => { y with groups := tput y.groups g.toNat (seq + 1) })).trans (ha ▸ h1)
    refine ⟨_, seq, by rw [exec_issue _ s rfl]; exact issueOne_done h k, h3.outside.mem.trans hw.mem, hseq, ?_, ?_, ?_, _, h3.core.cmds.trans hw.cmds, rfl, rfl, rfl, rfl⟩
    · rw [h2]
      exact tget_tput_self ..
    · rw [tagAt_congr h3.core.teams]
      exact hw.producer
    · rw [tagAt_congr h3.core.teams]
      exact hw.extent

end Sys2Proof.Machine

namespace Sys2Proof.Machine

open Sys2Proof.Claim

/-! ### What commands that end leave (R128, R129, R307) -/

/-- The commands of every core, and the launches. -/
def State.orders (s : State) : (Nat → List Cmd) × Table Launch := (fun j => (s.core j).cmds, s.launches)

theorem State.orders_modCore (s : State) (c : Nat) {f : Core → Core} (h : (f (s.core c)).cmds = (s.core c).cmds) : (s.modCore c f).orders = s.orders := by
  refine Prod.ext (funext fun j => ?_) rfl
  show ((s.modCore c f).core j).cmds = (s.core j).cmds
  by_cases hj : j = c
  · subst hj; rw [State.core_modCore_self, h]
  · rw [State.core_modCore_other _ _ _ _ hj]

theorem State.orders_modCtx (s : State) (c x : Nat) (f : Ctx → Ctx) : (s.modCtx c x f).orders = s.orders :=
  State.orders_modCore s c (f := fun k => k.putCtx x (f (s.ctx c x))) rfl

theorem State.orders_modTag (s : State) (c b n : Nat) (f : Tag → Tag) : (s.modTag c b n f).orders = s.orders := by
  refine State.orders_modCore s c ?_
  obtain ⟨ts, h⟩ := modTag_eq (s.core c) b n f
  rw [h]

theorem queueClobber_orders (s : State) (pa : Nat) : (s.queueClobber pa).orders = s.orders := by
  unfold State.queueClobber
  split <;> rfl

theorem homeWrite_orders (s : State) (c pa : Nat) (b : Byte) : (s.homeWrite c pa b).orders = s.orders := by
  unfold State.homeWrite
  refine (State.orders_modCore _ c ?_).trans (queueClobber_orders _ pa)
  unfold Core.l1Update
  split <;> rfl

theorem write64_orders (s : State) (c root va v : Nat) : (s.write64 c root va v).orders = s.orders := by
  have stored (s : State) (ws : List (Nat × Byte)) : (ws.foldl (fun s w => s.homeWrite c w.1 w.2) s).orders = s.orders :=
    foldl_keeps State.orders (fun s (w : Nat × Byte) => homeWrite_orders s c w.1 w.2) ws s
  unfold State.write64
  split
  · split
    · rfl
    · exact stored ..
  · rfl

theorem logFault_orders (s : State) (c : Nat) (f : Flt) : (s.logFault c f).orders = s.orders := by
  unfold State.logFault
  split <;> rfl

theorem postLoss_orders (s : State) (c id va p : Nat) : (s.postLoss c id va p).orders = s.orders := by
  unfold State.postLoss
  split
  · exact (State.orders_modCtx ..).trans (logFault_orders ..)
  · exact logFault_orders ..

theorem breakLost_orders (s : State) (c : Nat) (m : Cmd) (root : Nat) : (s.breakLost c m root).orders = s.orders := by
  unfold State.breakLost
  split
  · split
    · exact postLoss_orders ..
    · rfl
  · rfl

theorem breakVersion_orders (s : State) (c : Nat) (m : Cmd) (root : Nat) : (s.breakVersion c m root).orders = s.orders := by
  unfold State.breakVersion
  split
  · exact write64_orders ..
  · rfl

/-- The tag of an aborted command, still bound or halted, is ABORTED. -/
def State.abortTag (s : State) (c : Nat) (m : Cmd) (cascade : Bool) : State :=
  match m.tag with
  | some (n, g) => s.modTag c m.team n (fun (t : Tag) =>
      if t.gen = g ∧ (t.state = TagState.bound ∨ t.state = TagState.halted) then { t with state := .aborted, cascade := cascade } else t)
  | none => s

/-- The entry an aborted command owes is filled, bit 63 set. -/
def State.abortEntry (s : State) (c : Nat) (m : Cmd) : State :=
  match m.entry with
  | some e => s.modCtx c m.ctx (fun x => x.fillLqs e (BitVec.ofNat 64 (2 ^ 63 + m.sum)))
  | none => s

/-- The accumulator of an aborted product or card is unspecified. -/
def State.abortAcc (s : State) (c : Nat) (m : Cmd) : State :=
  match m.kind, m.acc with
  | .mma, some a | .mmasp, some a | .jcard, some a =>
    { s.modCore c (fun k => { k with accs := vset k.accs a ((vget k.accs a Acc.zero).unspecified s.free) }) with free := s.free + 1 }
  | _, _ => s

theorem abortCmd_eq (s : State) (c : Nat) (m : Cmd) (cascade : Bool) : s.abortCmd c m cascade =
    (((((s.breakLost c m (s.cmdRoot c m)).breakVersion c m (s.cmdRoot c m)).abortTag c m cascade).abortEntry c m).abortAcc c m).dropCmd c m := rfl

theorem abortTag_orders (s : State) (c : Nat) (m : Cmd) (cascade : Bool) : (s.abortTag c m cascade).orders = s.orders := by
  unfold State.abortTag
  split
  · exact State.orders_modTag ..
  · rfl

theorem abortEntry_orders (s : State) (c : Nat) (m : Cmd) : (s.abortEntry c m).orders = s.orders := by
  unfold State.abortEntry
  split
  · exact State.orders_modCtx ..
  · rfl

theorem abortAcc_orders (s : State) (c : Nat) (m : Cmd) : (s.abortAcc c m).orders = s.orders := by
  have left (a : Nat) : (s.modCore c (fun k => { k with accs := vset k.accs a ((vget k.accs a Acc.zero).unspecified s.free) })).orders = s.orders :=
    State.orders_modCore s c rfl
  unfold State.abortAcc
  split
  · exact left _
  · exact left _
  · exact left _
  · rfl

/-- A command that ends as by abort leaves its core; before that no command and no launch changes. -/
theorem abortCmd_drops (s : State) (c : Nat) (m : Cmd) (cascade : Bool) : ∃ u : State, s.abortCmd c m cascade = u.dropCmd c m ∧ u.orders = s.orders :=
  ⟨_, abortCmd_eq s c m cascade, by
    rw [abortAcc_orders, abortEntry_orders, abortTag_orders, breakVersion_orders, breakLost_orders]⟩

theorem dropCmd_launches (s : State) (c : Nat) (m : Cmd) : (s.dropCmd c m).launches = s.launches := rfl

theorem dropCmd_cmds_other (s : State) {c j : Nat} (m : Cmd) (h : j ≠ c) : ((s.dropCmd c m).core j).cmds = (s.core j).cmds := by
  unfold State.dropCmd
  dsimp only
  rw [State.core_modCore_other _ _ _ _ h, dropGuest_core]
  rfl

theorem abortCmd_launches (s : State) (c : Nat) (m : Cmd) (cascade : Bool) : (s.abortCmd c m cascade).launches = s.launches := by
  obtain ⟨u, h, hu⟩ := abortCmd_drops s c m cascade
  rw [h, dropCmd_launches]
  exact congrArg Prod.snd hu

theorem abortCmd_cmd (s : State) (c : Nat) (m : Cmd) (cascade : Bool) : ((s.abortCmd c m cascade).core c).cmd m.id = none := by
  obtain ⟨u, h, -⟩ := abortCmd_drops s c m cascade
  rw [h, dropCmd_cmd]

/-- A command that has gone stays so as another ends. -/
theorem abortCmd_gone {s : State} {c j id : Nat} {m : Cmd} {cascade : Bool} (h : (s.core j).cmd id = none) :
    ((s.abortCmd c m cascade).core j).cmd id = none := by
  obtain ⟨u, e, hu⟩ := abortCmd_drops s c m cascade
  have hj : (u.core j).cmds = (s.core j).cmds := congrFun (congrArg Prod.fst hu) j
  rw [Core.cmd, List.find?_eq_none] at h ⊢
  rw [e]
  by_cases hc : j = c
  · subst hc
    obtain ⟨ts, gs, hd⟩ := dropCmd_core u j m
    rw [hd]
    exact fun n hn => h n (hj ▸ (List.mem_filter.mp hn).1)
  · rw [dropCmd_cmds_other u m hc, hj]
    exact h

/-! ### A group load's hold is given up (R98, R128) -/

/-- What the abort of a hold does for one member's request. -/
def State.abortAsk (s : State) (q : GroupAsk) : State :=
  match (s.core q.core).cmd q.cmd with
  | some m => s.abortCmd q.core m false
  | none => s.modSaved q.core q.cmd (SavedTeam.endCmd .aborted)

theorem abortAsk_gone {s : State} {j id : Nat} (q : GroupAsk) (h : (s.core j).cmd id = none) : ((s.abortAsk q).core j).cmd id = none := by
  unfold State.abortAsk
  split
  · exact abortCmd_gone h
  · exact h

theorem abortAsk_cmd (s : State) (q : GroupAsk) : ((s.abortAsk q).core q.core).cmd q.cmd = none := by
  unfold State.abortAsk
  split
  · next m hm => exact cmd_id hm ▸ abortCmd_cmd ..
  · next hm => exact hm

theorem abortAsks_gone {s : State} {j id : Nat} (l : List GroupAsk) (h : (s.core j).cmd id = none) : ((l.foldl State.abortAsk s).core j).cmd id = none := by
  induction l generalizing s with
  | nil => exact h
  | cons q l ih => exact ih (abortAsk_gone q h)

theorem abortAsks_cmd (s : State) (l : List GroupAsk) {q : GroupAsk} (hq : q ∈ l) : ((l.foldl State.abortAsk s).core q.core).cmd q.cmd = none := by
  induction l generalizing s with
  | nil => exact absurd hq List.not_mem_nil
  | cons a l ih =>
    rcases List.mem_cons.mp hq with rfl | hl
    · exact abortAsks_gone l (abortAsk_cmd s q)
    · exact ih _ hl

theorem mem_foldl_of_mem_acc {α β : Type} {f : List α → β → List α} (grows : ∀ r b a, a ∈ r → a ∈ f r b) (l : List β) {acc : List α} {a : α}
    (h : a ∈ acc) : a ∈ l.foldl f acc := by
  induction l generalizing acc with
  | nil => exact h
  | cons b l ih => exact ih (grows _ _ _ h)

/-- What one step of a collection gathers is in the whole of it. -/
theorem mem_foldl_of_mem {α β : Type} {f : List α → β → List α} (grows : ∀ r b a, a ∈ r → a ∈ f r b) {l : List β} {b : β} (hb : b ∈ l) {a : α}
    (ha : ∀ r, a ∈ f r b) (acc : List α) : a ∈ l.foldl f acc := by
  induction l generalizing acc with
  | nil => exact absurd hb List.not_mem_nil
  | cons d l ih =>
    rcases List.mem_cons.mp hb with rfl | hl
    · exact mem_foldl_of_mem_acc grows l (ha acc)
    · exact ih hl _

/-- The halted holds, of any launch, in which command `id` of core `c` asks. -/
def State.haltedHolds (s : State) (c id : Nat) : List Hold :=
  s.launches.foldl (fun (a : List Hold) l => l.2.groups.foldl (fun a g => a ++ g.2.holds.filter (fun h => h.halted && h.holds c id)) a) []

theorem mem_haltedHolds {s : State} {c id l key : Nat} {lv : Launch} {G : Group} {h : Hold} (hl : s.launchOf l = some lv)
    (hg : tget lv.groups key = some G) (hh : h ∈ G.holds) (hhalt : h.halted = true) (ha : h.holds c id = true) : h ∈ s.haltedHolds c id := by
  have grows : ∀ (r : List Hold) (g : Nat × Group) (b : Hold), b ∈ r → b ∈ r ++ g.2.holds.filter (fun h => h.halted && h.holds c id) :=
    fun r g b hb => List.mem_append_left _ hb
  refine mem_foldl_of_mem (fun r v b hb => mem_foldl_of_mem_acc grows v.2.groups hb) (mem_of_tget hl) (fun r => ?_) []
  refine mem_foldl_of_mem grows (mem_of_tget hg) (fun r => List.mem_append_right _ (List.mem_filter.mpr ⟨hh, ?_⟩)) r
  simp only [hhalt, ha, Bool.and_self]

/-- Once its hold is given up, no member that was owed a fill has its command. -/
theorem abortHold_cmd {s : State} {c id : Nat} {h : Hold} {q : GroupAsk} (hh : h ∈ s.haltedHolds c id) (hq : q ∈ h.asks) (hs : q.served = false) :
    ((s.abortHold c id).core q.core).cmd q.cmd = none := by
  have hm : q ∈ h.asks.filter (fun q => !q.served) := List.mem_filter.mpr ⟨hq, by rw [hs]; rfl⟩
  exact abortAsks_cmd s ((s.haltedHolds c id).foldl (fun (a : List GroupAsk) h => a ++ h.asks.filter (fun q => !q.served)) [])
    (mem_foldl_of_mem (f := fun (a : List GroupAsk) (h : Hold) => a ++ h.asks.filter (fun q => !q.served))
      (fun r g b hb => List.mem_append_left _ hb) hh (fun r => List.mem_append_right _ hm) [])

/-- What `rte` aborts has gone: the command, and for a group load those of the members still owed a fill. -/
theorem resumeCmd_aborts (s : State) (c : Nat) (m : Cmd) : ((s.resumeCmd c m 2).core c).cmd m.id = none ∧
    (m.kind = .gld → ∀ h q, h ∈ s.haltedHolds c m.id → q ∈ h.asks → q.served = false → ((s.resumeCmd c m 2).core q.core).cmd q.cmd = none) := by
  simp only [State.resumeCmd, if_true]
  refine ⟨abortCmd_cmd .., fun hk h q hh hq hs => ?_⟩
  rw [if_pos hk]
  exact abortCmd_gone (abortHold_cmd hh hq hs)

/-- The choices 0 and 1 let the command go on, past the halted piece with 1. -/
def Cmd.resumed (m : Cmd) (choice : Nat) : Cmd :=
  { m with
    st := if m.kind = .jcard ∧ m.replays ≠ 0 ∧ m.chan = 0 then .requeued else .running, halt := none
    skip := if choice = 1 then (match m.halt with | some h => m.skip ++ [h.piece] | none => m.skip) else m.skip }

theorem putCmd_cmd {s : State} {c : Nat} {m n : Cmd} (h : (s.core c).cmd n.id = some m) (hn : n.st ≠ .finished) :
    ((s.putCmd c n).core c).cmd n.id = some n := by
  unfold State.putCmd
  rw [State.core_modCore_self, if_neg hn]
  show ((s.core c).cmds.map (fun k => if k.id = n.id then n else k)).find? (fun k => k.id == n.id) = some n
  rw [List.find?_map]
  have same : ((fun k : Cmd => k.id == n.id) ∘ fun k => if k.id = n.id then n else k) = fun k : Cmd => k.id == n.id := funext fun k => by
    simp only [Function.comp_apply]
    split
    · next e => simp [e]
    · rfl
  rw [same]
  have : (s.core c).cmds.find? (fun k => k.id == n.id) = some m := h
  rw [this, Option.map_some, if_pos (cmd_id h)]

theorem resumeCmd_resumes {s : State} {c choice : Nat} {m : Cmd} (h : (s.core c).cmd m.id = some m) (hc : choice ≤ 1) :
    ((s.resumeCmd c m choice).core c).cmd m.id = some (m.resumed choice) := by
  have running : (m.resumed choice).st ≠ .finished := by
    unfold Cmd.resumed
    dsimp only
    split <;> exact nofun
  have put := putCmd_cmd (n := m.resumed choice) h running
  have tagged : (s.resumeCmd c m choice).orders = (s.putCmd c (m.resumed choice)).orders := by
    unfold State.resumeCmd
    rw [if_neg (show choice ≠ 2 by omega)]
    dsimp only
    split
    · exact State.orders_modTag ..
    · rfl
  have cmds : ((s.resumeCmd c m choice).core c).cmds = ((s.putCmd c (m.resumed choice)).core c).cmds := congrFun (congrArg Prod.fst tagged) c
  rw [Core.cmd, cmds]
  exact put

/-! ### `rte` leaves the handler (R198, R264) -/

/-- The halted command of a trap goes on, or ends, by the choice of its `rte`. -/
def State.settleHalted (s : State) (c choice : Nat) (h : Handler) : State :=
  match h.cmd with
  | some id => (match (s.core c).cmd id with
    | some m => if m.st = CmdState.halted then s.resumeCmd c m choice else s
    | none => s)
  | none => s

/-- The context of a handler that returns to `back`. -/
def Ctx.returned (v : Ctx) (h : Handler) (back : Nat) : Ctx :=
  { v with
    handler := none, pc := back, status := if h.unitWd then .exiting else .ready, condemned := h.unitWd
    resend := (h.resend.filter (fun q => q.2 == back)).map (fun q => q.1) }

theorem leaveTrap_eq {s : State} {c x : Nat} {h : Handler} (choice back : Nat) (hh : (s.ctx c x).handler = some h) :
    s.leaveTrap c x choice back = ((s.settleHalted c choice h).modCore c (fun k => k.forget x back)).modCtx c x (fun v => v.returned h back) := by
  unfold State.leaveTrap
  simp only [hh]
  rfl

theorem settleHalted_some {s : State} {c choice id : Nat} {h : Handler} {m : Cmd} (hc : h.cmd = some id) (hm : (s.core c).cmd id = some m)
    (hs : m.st = .halted) : s.settleHalted c choice h = s.resumeCmd c m choice := by
  simp only [State.settleHalted, hc, hm, hs, if_true]

theorem forget_cmds (k : Core) (x pc : Nat) : (k.forget x pc).cmds = k.cmds := by
  have gone (l : List (Nat × Nat × Nat)) (k : Core) : (l.foldl (fun (k : Core) a =>
      let g := k.barrier a.1
      { k with barriers := tput k.barriers a.1 { g with owing := g.owing.filter (fun y => y != x), owed := tdel g.owed x } }) k).cmds = k.cmds := by
    induction l generalizing k with
    | nil => rfl
    | cons a l ih => exact ih _
  exact gone ..

/-- A context that waited for bundles at `pc` alone forgets nothing. -/
theorem forget_of_here {k : Core} {x pc : Nat} (h : ∀ a ∈ (k.ctx x).arrived, a.2.1 = pc) : k.forget x pc = k.putCtx x (k.ctx x) := by
  have all : (k.ctx x).arrived.filter (fun a => a.2.1 == pc) = (k.ctx x).arrived :=
    List.filter_eq_self.mpr fun a ha => by simp [h a ha]
  have none : (k.ctx x).arrived.filter (fun a => a.2.1 != pc) = [] :=
    List.filter_eq_nil_iff.mpr fun a ha => by simp [h a ha]
  simp only [Core.forget, all, none, List.foldl_nil]

theorem leaveTrap_orders {s : State} {c x : Nat} {h : Handler} (choice back : Nat) (hh : (s.ctx c x).handler = some h) :
    (s.leaveTrap c x choice back).orders = (s.settleHalted c choice h).orders := by
  rw [leaveTrap_eq choice back hh, State.orders_modCtx]
  exact State.orders_modCore _ c (forget_cmds ..)

theorem leaveTrap_ctx {s : State} {c x : Nat} {h : Handler} (choice back : Nat) (hx : x < 4) (hh : (s.ctx c x).handler = some h) :
    ((s.leaveTrap c x choice back).ctx c x).handler = none ∧ ((s.leaveTrap c x choice back).ctx c x).pc = back := by
  rw [leaveTrap_eq choice back hh, State.ctx_modCtx_self _ _ _ _ hx]
  exact ⟨rfl, rfl⟩

/-- Control is sent to a bundle that can be its target without a fault (R160). -/
theorem targetCheck_of_opens {s : State} {c x t : Nat} (h : opens s c x t) : s.targetCheck c x t false false = [] := by
  obtain ⟨ha, hb, qa, qk, hf, hl, hs⟩ := h
  have h4 : (t % 4 != 0) = false := by simp [ha]
  simp only [State.targetCheck, h4, Bool.or_false, Bool.false_eq_true, if_false, decide_eq_false (Nat.not_le.mpr hb), hf, hl, hs, need, if_true]

/-- The state in which an `rte` leaves its handler. -/
def atReturn (s : State) (c x pa : Nat) (k : BitVec 5) : State :=
  (base s c x pa [.s k.toNat]).modCtx c x (fun w => { w with preps := nextPreps w [(posOf s c x, semOf (.rte k))] })

/-- The context in that state. -/
def returning (s : State) (c x pa : Nat) (k : BitVec 5) : Ctx :=
  { popped s c x pa [.s k.toNat] with preps := nextPreps (popped s c x pa [.s k.toNat]) [(posOf s c x, semOf (.rte k))] }

theorem atReturn_ctx {s : State} {c x pa : Nat} (k : BitVec 5) (hx : x < 4) : (atReturn s c x pa k).ctx c x = returning s c x pa k := by
  rw [atReturn, State.ctx_modCtx_self _ _ _ _ hx, base_ctx _ _ _ _ _ hx]; rfl

theorem atReturn_only (s : State) (c x pa : Nat) (k : BitVec 5) : OnlyCtx s (atReturn s c x pa k) c x := (OnlyCtx.base ..).trans (.modCtx ..)

/-- An `rte` in the handler is clear when its operand can be read, its choice fits the trap, and a bundle opens where it returns to. -/
theorem clear_rte {s : State} {c x pa : Nat} {pk : List Nat} {k : BitVec 5} {h : Handler} (hx : x < 4) (hh : (s.ctx c x).handler = some h)
    (u : Usable s c x pa (semOf (.rte k))) (ho : opens (base s c x pa [.s k.toNat]) c x (view s c x pa).tpc.toNat)
    (hc : h.cmd = none ∨ (arg s c x pa [.s k.toNat] 0).toNat % 4 ≠ 3) : Clear s c x pa pk (semOf (.rte k)) := by
  have hctx : (env s c x pa pk (semOf (.rte k))).ctx = popped s c x pa [.s k.toNat] := env_ctx _ _ _ _ _ _ hx
  refine clear_of_bare u rfl rfl rfl rfl rfl rfl rfl ?_ rfl ?_
  · have hn : (env s c x pa pk (semOf (.rte k))).ctx.handler = some h := by
      rw [hctx]; exact (sameRest_view s c x pa hx).handler.trans hh
    have fits : (h.cmd.isNone || (arg s c x pa [.s k.toNat] 0).toNat % 4 != 3) = true := by
      rcases hc with hc | hc
      · rw [hc]; rfl
      · simp [hc]
    simp only [semOf, semRte] at hn ⊢
    rw [hn]
    exact need_eq_nil.mpr fits
  · show ((base s c x pa [.s k.toNat]).targetCheck c x (env s c x pa pk (semOf (.rte k))).ctx.tpc.toNat false false).map _ = []
    rw [hctx, show (popped s c x pa [.s k.toNat]).tpc = (view s c x pa).tpc from rfl, targetCheck_of_opens ho]
    rfl

/-- A clear `rte` leaves the handler as its context found it. -/
theorem rte_returns {s : State} {c x pa : Nat} {pk : List Nat} {k : BitVec 5} (h : Ready s c x pa pk) (cl : Clear s c x pa pk (semOf (.rte k))) :
    ∃ b, exec (.rte k) s =
      .next (((atReturn s c x pa k).leaveTrap c x ((arg s c x pa [.s k.toNat] 0).toNat % 4) (view s c x pa).tpc.toNat).issued c x b false) := by
  have hx := pick_lt h.turn
  have hctx : (env s c x pa pk (semOf (.rte k))).ctx = popped s c x pa [.s k.toNat] := env_ctx _ _ _ _ _ _ hx
  have settled : (atReturn s c x pa k).settleOps c x = atReturn s c x pa k := by
    apply settleOps_of_none
    rw [atReturn_ctx k hx]
    exact innerReady_none_of_ops (popped_innerReady [.s k.toNat] h) rfl
  refine ⟨bubblesOf (s.ctx c x) (semOf (.rte k)).ins (.rte ((arg s c x pa [.s k.toNat] 0).toNat % 4) (view s c x pa).tpc.toNat),
    (exec_issue _ s rfl).trans ((issueOne_done h cl).trans (congrArg Host.Outcome.next ?_))⟩
  have flow : (semOf (.rte k)).flow (env s c x pa pk (semOf (.rte k))) (base s c x pa (semOf (.rte k)).srcs) =
      .rte ((arg s c x pa [.s k.toNat] 0).toNat % 4) (view s c x pa).tpc.toNat := by
    show Flow.rte _ (env s c x pa pk (semOf (.rte k))).ctx.tpc.toNat = _
    rw [hctx]; rfl
  show ((((atReturn s c x pa k).settleOps c x).goOn c x (s.ctx c x).pc (nextPc s c x pk) 0
    ((semOf (.rte k)).flow (env s c x pa pk (semOf (.rte k))) (base s c x pa (semOf (.rte k)).srcs))).issued c x (bubblesOf (s.ctx c x) (semOf (.rte k)).ins
      ((semOf (.rte k)).flow (env s c x pa pk (semOf (.rte k))) (base s c x pa (semOf (.rte k)).srcs))) _) = _
  rw [flow, settled]
  rfl

theorem returning_handler {s : State} {c x pa : Nat} {k : BitVec 5} {h : Handler} (hx : x < 4) (hh : (s.ctx c x).handler = some h) :
    ((atReturn s c x pa k).ctx c x).handler = some h := by
  rw [atReturn_ctx k hx]
  exact (sameRest_view s c x pa hx).handler.trans hh

theorem issued_cmds (s : State) (c x b j : Nat) (y : Bool) : ((s.issued c x b y).core j).cmds = (s.core j).cmds := by
  by_cases hj : j = c
  · subst hj; rw [core_issued_self]; rfl
  · rw [core_issued_other _ _ _ _ _ _ hj]

/-- What an `rte` in the trap of the halted command `m` leaves of every core's commands: what the choice does. -/
theorem rte_cmd {s : State} {c x pa id b choice j i : Nat} {k : BitVec 5} {h : Handler} {m : Cmd} (hx : x < 4) (hh : (s.ctx c x).handler = some h)
    (hc : h.cmd = some id) (hm : (s.core c).cmd id = some m) (hs : m.st = .halted) :
    ((((atReturn s c x pa k).leaveTrap c x choice (view s c x pa).tpc.toNat).issued c x b false).core j).cmd i =
      (((atReturn s c x pa k).resumeCmd c m choice).core j).cmd i := by
  have hm' : ((atReturn s c x pa k).core c).cmd id = some m := by rw [Core.cmd, (atReturn_only s c x pa k).core.cmds]; exact hm
  have cmds := congrFun (congrArg Prod.fst (leaveTrap_orders choice (view s c x pa).tpc.toNat (returning_handler (k := k) (pa := pa) hx hh))) j
  rw [settleHalted_some hc hm' hs] at cmds
  simp only [Core.cmd, issued_cmds]
  exact congrArg (List.find? _) cmds

/-! ### A nested fault ends the launch (R263) -/

theorem settleN_launches (n : Nat) (s : State) (c x : Nat) : (settleN n s c x).launches = s.launches := by
  induction n generalizing s with
  | zero => rfl
  | succ n ih =>
    unfold settleN
    split
    · exact (ih _).trans (keepsCtxs_performInner ..).launches
    · rfl

theorem withdraw_launches (s : State) (c x : Nat) : (s.withdraw c x).launches = s.launches := by
  unfold State.withdraw
  dsimp only
  split
  · rfl
  · exact settleN_launches ..

theorem abortLaunchOn_launches (s : State) (l c : Nat) : (s.abortLaunchOn l c).launches = s.launches := by
  have ended (s : State) (ms : List Cmd) : (ms.foldl (fun s m => s.abortCmd c m false) s).launches = s.launches :=
    foldl_keeps State.launches (fun s m => abortCmd_launches s c m false) ms s
  have withdrawn (k : Core) (s : State) (x : Nat) : (match k.teamOf x with
      | some (_, t) => if t.launch = l then s.withdraw c x else s
      | none => s).launches = s.launches := by
    split
    · split
      · exact withdraw_launches ..
      · rfl
    · rfl
  unfold State.abortLaunchOn
  exact (foldl_keeps State.launches (withdrawn (s.core c)) _ _).trans (ended ..)

theorem endSaved_launches (s : State) (v : SavedTeam) : (s.endSaved v).launches = s.launches := by
  have broken (s : State) (ms : List Cmd) (c root : Nat) : (ms.foldl (fun (s : State) m => s.breakVersion c m root) s).launches = s.launches :=
    foldl_keeps State.launches (fun s m => congrArg Prod.snd (breakVersion_orders s c m root)) ms s
  exact broken ..

/-- The teams of launch `l` end, on cores and saved ones. -/
def State.endTeams (s : State) (l : Nat) : State :=
  let t := s.cores.foldl (fun s e => s.abortLaunchOn l e.1) s
  (t.saved.filter (fun v => v.launch == l)).foldl State.endSaved t

/-- A launch that had not ended ends with the status, cause and `tpc` it is given (R263, R307). -/
theorem endLaunch_launch {s : State} {l : Nat} {lv : Launch} (status cause : Nat) (tpc : W64) (h : s.launchOf l = some lv) (he : lv.ended = false) :
    (s.endLaunch l status cause tpc).launchOf l =
      some { lv with ended := true, status := status, cause := cause, tpc := tpc, groups := [] } := by
  have aborted (s : State) (es : Table Core) : (es.foldl (fun (s : State) e => s.abortLaunchOn l e.1) s).launches = s.launches :=
    foldl_keeps State.launches (fun s (e : Nat × Core) => abortLaunchOn_launches s l e.1) es s
  have saved (s : State) (vs : List SavedTeam) : (vs.foldl State.endSaved s).launches = s.launches :=
    foldl_keeps State.launches endSaved_launches vs s
  have hu : (s.endTeams l).launchOf l = some lv := by
    rw [State.launchOf, State.endTeams, saved, aborted]
    exact h
  show ((s.endTeams l).modLaunch l _).launchOf l = _
  simp only [State.modLaunch, hu, he, Bool.false_eq_true, if_false]
  exact tget_tput_self ..

/-- An `rte` that its own check finds illegal is ILLSYL, whatever it names. -/
theorem firstFault_of_illegal {s : State} {c x pa : Nat} {pk : List Nat} {k : BitVec 5}
    (hck : (semOf (.rte k)).check (env s c x pa pk (semOf (.rte k))) (base s c x pa (semOf (.rte k)).srcs) = [fIllSyl]) :
    firstFault (loneFaults s c x pa pk (semOf (.rte k))) = some fIllSyl := by
  have hwf : (semOf (.rte k)).ins.wf = true := rfl
  rw [loneFaults_eq, hck, hwf]
  simp only [need, if_true, List.nil_append, List.map_append, List.map_cons, List.map_nil, List.append_assoc]
  rw [← List.append_assoc, ← List.append_assoc]
  refine firstFault_eq (fun g hg => FromStep.le (n := 3) ?_ g hg) (fun g hg => (flowFaults_step ..).le g hg |>.trans' (by decide)) rfl
  simp only [fromStep_append]
  exact ⟨⟨(lostPop_step ..).mono (by omega), (fromStep_need _ _ (by decide)).atSyl⟩, (ownFaults_step ..).atSyl.mono (by omega)⟩

/-- In the trap of a halted command the choice 3 is illegal. -/
theorem reserved_check {s : State} {c x pa : Nat} {pk : List Nat} {k : BitVec 5} {h : Handler} {id : Nat} (hx : x < 4)
    (hh : (s.ctx c x).handler = some h) (hc : h.cmd = some id) (ha : (arg s c x pa [.s k.toNat] 0).toNat % 4 = 3) :
    (semOf (.rte k)).check (env s c x pa pk (semOf (.rte k))) (base s c x pa (semOf (.rte k)).srcs) = [fIllSyl] := by
  have hn : (env s c x pa pk (semOf (.rte k))).ctx.handler = some h := by
    rw [env_ctx _ _ _ _ _ _ hx]; exact (sameRest_view s c x pa hx).handler.trans hh
  have misfit : (h.cmd.isNone || (arg s c x pa [.s k.toNat] 0).toNat % 4 != 3) = false := by simp [hc, ha]
  simp only [semOf, semRte] at hn ⊢
  rw [hn]
  exact if_neg (ne_true_of_eq_false misfit)

/-- A nested fault stops its context and ends its launch, FAULTED. -/
theorem takeTrap_nested {s : State} {c x cause tpc l : Nat} {record : W512} {lv : Launch} (hx : x < 4) (hh : (s.ctx c x).handler.isSome = true)
    (hl : s.launchAt c x = some (l, lv)) (he : lv.ended = false) :
    ((s.takeTrap c x cause record tpc none false).ctx c x).status = .dead ∧
    (s.takeTrap c x cause record tpc none false).launchOf l =
      some { lv with ended := true, status := 1, cause := cause, tpc := BitVec.ofNat 64 tpc, groups := [] } := by
  have hlv := launchOf_of_launchAt hl
  simp only [State.takeTrap, hh, if_true, State.nestedFault, hl]
  exact ⟨by rw [State.ctx_modCtx_self _ _ _ _ hx], endLaunch_launch 1 cause _ hlv he⟩

/-- Where no command is halted and nothing waited for elsewhere, an `rte` changes its context alone. -/
theorem leaveTrap_untrapped {s : State} {c x pa : Nat} {k : BitVec 5} {h : Handler} (choice : Nat) (hx : x < 4) (hh : (s.ctx c x).handler = some h)
    (hc : h.cmd = none) (hr : h.resend = []) (ha : ∀ a ∈ (view s c x pa).arrived, a.2.1 = (view s c x pa).tpc.toNat) :
    let t := (atReturn s c x pa k).leaveTrap c x choice (view s c x pa).tpc.toNat
    OnlyCtx s t c x ∧ t.ctx c x = { returning s c x pa k with
      handler := none, pc := (view s c x pa).tpc.toNat, resend := [], status := if h.unitWd then .exiting else .ready, condemned := h.unitWd } := by
  intro t
  have none : (atReturn s c x pa k).settleHalted c choice h = atReturn s c x pa k := by
    simp only [State.settleHalted, hc]
  have here : ((atReturn s c x pa k).core c).forget x (view s c x pa).tpc.toNat = ((atReturn s c x pa k).core c).putCtx x ((atReturn s c x pa k).ctx c x) :=
    forget_of_here (by rw [show ((atReturn s c x pa k).core c).ctx x = returning s c x pa k from atReturn_ctx k hx]; exact ha)
  have ht : t = ((atReturn s c x pa k).modCtx c x id).modCtx c x (fun v => v.returned h (view s c x pa).tpc.toNat) := by
    show (atReturn s c x pa k).leaveTrap c x choice (view s c x pa).tpc.toNat = _
    rw [leaveTrap_eq _ _ (returning_handler hx hh), none, State.modCore, here]
    rfl
  rw [ht]
  refine ⟨((atReturn_only s c x pa k).trans (.modCtx ..)).trans (.modCtx ..), ?_⟩
  rw [State.ctx_modCtx_self _ _ _ _ hx, State.ctx_modCtx_self _ _ _ _ hx, id, atReturn_ctx k hx]
  simp only [Ctx.returned, hr, List.filter_nil, List.map_nil]

/-- Settles O12: what each choice of `rte` does, by the state in which it leaves its handler; a nested fault by its launch's end. -/
theorem trapReturnResults : Obligations.TrapReturnResults := by
  unfold Obligations.TrapReturnResults
  intro s c x pa pk k h A v
  have hx := pick_lt h.turn
  refine ⟨fun hd hh hres u ho => ?_, fun hd id l lv hh hc ha hl he hb u => ?_, fun hh hr u => ?_⟩
  · refine ⟨fun hc harr => ?_, fun id m hc hm hs ha => ?_, fun id m hc hm hs ha => ?_⟩
    · obtain ⟨b, he⟩ := rte_returns h (clear_rte hx hh u ho (.inl hc))
      obtain ⟨h1, h2⟩ := leaveTrap_untrapped (k := k) (pa := pa) (A.toNat % 4) hx hh hc hres harr
      exact ⟨_, he, h1.trans (.issued ..), by rw [ctx_issued, h2]; rfl⟩
    · obtain ⟨b, he⟩ := rte_returns h (clear_rte hx hh u ho (.inr (show A.toNat % 4 ≠ 3 by omega)))
      obtain ⟨h1, h2⟩ := leaveTrap_ctx (A.toNat % 4) (view s c x pa).tpc.toNat hx (returning_handler (k := k) (pa := pa) hx hh)
      have hid : m.id = id := cmd_id hm
      have hm' : ((atReturn s c x pa k).core c).cmd m.id = some m := by
        rw [hid, Core.cmd, (atReturn_only s c x pa k).core.cmds]; exact hm
      refine ⟨_, he, by rw [ctx_issued, h1], by rw [ctx_issued, h2]; rfl, ?_⟩
      rw [rte_cmd hx hh hc hm hs, ← hid, resumeCmd_resumes hm' ha]
      rfl
    · obtain ⟨b, he⟩ := rte_returns h (clear_rte hx hh u ho (.inr (show A.toNat % 4 ≠ 3 by omega)))
      obtain ⟨h1, h2⟩ := leaveTrap_ctx (A.toNat % 4) (view s c x pa).tpc.toNat hx (returning_handler (k := k) (pa := pa) hx hh)
      obtain ⟨h3, h4⟩ := resumeCmd_aborts (atReturn s c x pa k) c m
      rw [cmd_id hm] at h3 h4
      refine ⟨_, he, by rw [ctx_issued, h1], by rw [ctx_issued, h2]; rfl, ?_, fun hk l lv key G q a hl hG hq hhalt hq' ha' hserved => ?_⟩
      · rw [rte_cmd hx hh hc hm hs, ha, h3]
      · rw [rte_cmd hx hh hc hm hs, ha]
        have hl' : (atReturn s c x pa k).launchOf l = some lv := by
          rw [State.launchOf, (atReturn_only s c x pa k).outside.launches]; exact hl
        exact h4 hk q a (mem_haltedHolds hl' hG hq hhalt hq') ha' hserved
  · have hB : OnlyCtx s (atFault s c x pa) c x := by rw [atFault_eq_base]; exact .base ..
    have hh' : ((atFault s c x pa).ctx c x).handler.isSome = true := by
      rw [atFault_ctx s c x pa hx, (sameRest_view s c x pa hx).handler, hh]; rfl
    obtain ⟨h1, h2⟩ := takeTrap_nested (cause := 1) (tpc := (s.ctx c x).pc) (record := fIllSyl.record (s.ctx c x).pc s.cycle) hx hh'
      ((hB.launchAt x).trans hl) he
    refine ⟨_, (exec_issue _ s rfl).trans (issueOne_fault h hb (firstFault_of_illegal (reserved_check hx hh hc ha)) (by decide) rfl rfl),
      by rw [ctx_issued]; exact h1, ?_⟩
    exact congrArg (Option.map _) h2
  · obtain ⟨t, h1, h2, h3, h4, -⟩ := traps_of_fault h hh hr (blocksBefore_bare u rfl rfl rfl rfl rfl) (firstFault_rte hh hx) (by decide) rfl rfl
    exact ⟨t, (exec_issue _ s rfl).trans h1, h2, h3, h4⟩

end Sys2Proof.Machine

namespace Sys2Proof.Machine

open Sys2Proof.Claim

/-! ### Slices with room take lines without giving any up (R77) -/

theorem length_insertNat_le (x : Nat) (l : List Nat) : (insertNat x l).length ≤ l.length + 1 := by
  induction l with
  | nil => simp [insertNat]
  | cons y l ih =>
    unfold insertNat
    split
    · simp
    · split
      · simp
      · simpa using ih

theorem die_putDie_cases (s : State) (d : Nat) (v : Die) : (s.putDie d v).die d = v ∨ (s.putDie d v).die d = s.die d := by
  by_cases h : d < 4
  · exact .inl (vget_vset_self _ _ _ _ h)
  · refine .inr ?_
    simp only [State.die, vget, Vector.getElem?_eq_none (Nat.not_lt.mp h)]

theorem dieRoom_of_room {s : State} {d : Nat} (pa : Nat) (h : (s.die d).present.length < Config.sliceLines) : s.dieRoom d pa = s := by
  simp only [State.dieRoom, h, if_true]

/-- A line that the slices hold, or have at home, is not fetched. -/
theorem dieFill_of_held {s : State} {d pa : Nat} (h : homeDie pa = d ∨ lineOf pa ∈ (s.die d).present) : s.dieFill d pa = s := by
  rw [State.dieFill, if_pos (by simpa using h)]

/-- One that they fetch takes a place of its own. -/
theorem dieFill_of_room {s : State} {d pa : Nat} (h : ¬(homeDie pa = d ∨ lineOf pa ∈ (s.die d).present)) (hr : (s.die d).present.length < Config.sliceLines) :
    s.dieFill d pa = s.putDie d { s.die d with
      copies := mwrite (s.die d).copies (lineOf pa * 128) (mread s.mem (lineOf pa * 128) 128), present := insertNat (lineOf pa) (s.die d).present } := by
  rw [State.dieFill, if_neg (by simpa using h), dieRoom_of_room pa hr]

/-- Memory is `m`, and the slices of die `d` hold at most `n` lines beside line `l`. -/
def State.roomy (s : State) (m : Memory) (d l n : Nat) : Prop :=
  s.mem = m ∧ ((s.die d).present.length ≤ n ∨ (l ∈ (s.die d).present ∧ (s.die d).present.length ≤ n + 1))

theorem roomy_dieFill {s : State} {m : Memory} {d n pa : Nat} (hn : n < Config.sliceLines) (h : s.roomy m d (lineOf pa) n) :
    (s.dieFill d pa).roomy m d (lineOf pa) n := by
  by_cases hh : homeDie pa = d ∨ lineOf pa ∈ (s.die d).present
  · rwa [dieFill_of_held hh]
  · obtain ⟨hm, hl⟩ := h
    have hlen : (s.die d).present.length ≤ n := hl.resolve_right fun g => hh (.inr g.1)
    rw [dieFill_of_room hh (by omega)]
    refine ⟨hm, ?_⟩
    rcases die_putDie_cases s d _ with e | e
    · rw [e]
      exact .inr ⟨(mem_insertNat _).mpr (.inl rfl), (length_insertNat_le ..).trans (by omega)⟩
    · rw [e]
      exact .inl hlen

theorem roomy_l1Fill {s : State} {m : Memory} {c n pa : Nat} (hn : n < Config.sliceLines) (h : s.roomy m (dieOf c) (lineOf pa) n) :
    (s.l1Fill c pa).roomy m (dieOf c) (lineOf pa) n := by
  unfold State.l1Fill
  split
  · exact h
  · exact roomy_dieFill hn h

theorem roomy_lineFill {s : State} {m : Memory} {c n l : Nat} (hn : n < Config.sliceLines) (h : s.roomy m (dieOf c) l n) :
    ((span (l * 4) 4).foldl (fun s x => s.l1Fill c (x * 32)) s).roomy m (dieOf c) l n := by
  have sector : ∀ x ∈ span (l * 4) 4, lineOf (x * 32) = l := by
    intro x hx
    obtain ⟨i, hi, rfl⟩ := List.mem_map.mp hx
    have := List.mem_range.mp hi
    unfold lineOf
    omega
  generalize span (l * 4) 4 = xs at sector
  induction xs generalizing s with
  | nil => exact h
  | cons x xs ih =>
    have e := sector x List.mem_cons_self
    exact ih (e ▸ roomy_l1Fill hn (e.symm ▸ h)) fun y hy => sector y (List.mem_cons_of_mem x hy)

/-- Lines are filled without a write to memory where the slices have room for them all. -/
theorem fillLines_mem {s : State} {c : Nat} (ls : List Nat) (h : (s.die (dieOf c)).present.length + ls.length ≤ Config.sliceLines) :
    (s.fillLines c ls).mem = s.mem := by
  induction ls generalizing s with
  | nil => rfl
  | cons l ls ih =>
    rw [List.length_cons] at h
    obtain ⟨hm, hl⟩ := roomy_lineFill (s := s) (m := s.mem) (l := l) (by omega : (s.die (dieOf c)).present.length < Config.sliceLines) ⟨rfl, .inl le_rfl⟩
    have hlen : (((span (l * 4) 4).foldl (fun s x => s.l1Fill c (x * 32)) s).die (dieOf c)).present.length ≤ (s.die (dieOf c)).present.length + 1 :=
      hl.elim (fun g => g.trans (Nat.le_succ _)) fun g => g.2
    exact (ih ((Nat.add_le_add_right hlen _).trans (by omega))).trans hm

/-! ### A load-block is filled (R73) -/

theorem l1Room_teams (k : Core) (free pa : Nat) : (k.l1Room free pa).teams = k.teams := by
  unfold Core.l1Room
  dsimp only
  split
  · rfl
  · split
    · rfl
    · split <;> rfl

theorem dieFill_cores (s : State) (d pa : Nat) : (s.dieFill d pa).cores = s.cores := by
  have room : (s.dieRoom d pa).cores = s.cores := by
    rcases dieRoom_cases s d pa with h | ⟨p, h⟩
    · rw [h]
    · rw [h]; rfl
  unfold State.dieFill
  split
  · rfl
  · exact room

theorem l1Fill_teams (s : State) (c pa : Nat) : ((s.l1Fill c pa).core c).teams = (s.core c).teams := by
  unfold State.l1Fill
  split
  · rfl
  · dsimp only
    rw [State.core_modCore_self]
    refine (l1Room_teams ..).trans ?_
    simp only [State.core, dieFill_cores]

theorem fillLines_teams (s : State) (c : Nat) (ls : List Nat) : ((s.fillLines c ls).core c).teams = (s.core c).teams :=
  foldl_keeps (fun s : State => (s.core c).teams) (fun s _ => foldl_keeps (fun s : State => (s.core c).teams) (fun s x => l1Fill_teams s c (x * 32)) _ s) ls s

/-- What freeing the tags of a team leaves of it: its blocks, and every tag that was not RELEASING. -/
theorem freeTags_team {k : Core} {b : Nat} {T : Team} (h : tget k.teams b = some T) :
    ∃ T', tget (k.freeTags b).teams b = some T' ∧ T'.blocks = T.blocks ∧ ∀ n, (T.tag n).state ≠ .releasing → T'.tag n = T.tag n := by
  simp only [Core.freeTags, h, Core.putTeam, tget_tput_self]
  refine ⟨_, rfl, rfl, fun n hn => ?_⟩
  simp only [Team.tag] at hn ⊢
  rw [tget_map_entry fun e => by split <;> rfl]
  cases ht : tget T.tags n with
  | none => rfl
  | some g =>
    rw [ht, Option.getD_some] at hn
    simp [hn]

/-- What dropping a command leaves of its team. -/
theorem dropCmd_team {s : State} {c : Nat} {m : Cmd} {T : Team} (h : tget (s.core c).teams m.team = some T) :
    ∃ T', tget ((s.dropCmd c m).core c).teams m.team = some T' ∧ T'.blocks = T.blocks ∧ ∀ n, (T.tag n).state ≠ .releasing → T'.tag n = T.tag n := by
  unfold State.dropCmd
  dsimp only
  rw [State.core_modCore_self, dropGuest_core]
  exact freeTags_team h

/-- Core `k` with the lines of the load-blocks of binding `g` of tag `n`, of the team at `b`, set to `ls`. -/
def Core.blockFilled (k : Core) (b : Nat) (tag : Option (Nat × Nat)) (ls : List Nat) : Core :=
  match tget k.teams b with
  | some t => k.putTeam b { t with blocks := t.blocks.map (fun b => if b.tag == (tag.getD (0, 0)).1 && b.gen == (tag.getD (0, 0)).2 then { b with lines := ls } else b) }
  | none => k

/-- The translations of a block's lines join the TLBs. -/
def State.noteBlock (s : State) (c root va n : Nat) : State := (List.range n).foldl (fun s i => s.noteSpan c root (va + 128 * i) 128) s

/-- A block's lines are in the L1, its tag has advanced, and its command is done. -/
def State.blockEnded (s : State) (c : Nat) (m : Cmd) (ls : List Nat) : State :=
  (((s.modCore c (fun k => k.blockFilled m.team m.tag ls)).fillLines c ls).publishTo c m m.n false).dropCmd c m

/-- A block whose lines all translate is filled, its tag advanced, and its command done. -/
theorem blockStep_ok {s : State} {c : Nat} {m : Cmd} {ls : List Nat} (hd : ((s.core c).ctx m.ctx).doneBelow m.mark = true)
    (h : (s.noteBlock c (s.cmdRoot c m) m.list m.n).blockFillLines c (s.cmdRoot c m) m.list m.n 0 [] = .ok ls) :
    s.blockStep c m = .done ((s.noteBlock c (s.cmdRoot c m) m.list m.n).blockEnded c m ls) := by
  unfold State.noteBlock at h
  simp only [State.blockStep, hd, Bool.not_true, Bool.false_eq_true, if_false, h]
  rfl

theorem noteSpan_only (s : State) (c x root va n : Nat) : OnlyCtx s (s.noteSpan c root va n) c x := by
  have page (s : State) (va : Nat) : OnlyCtx s (s.notePage c root va) c x := by
    unfold State.notePage
    split
    · exact .refl ..
    · exact .noteTlb ..
  unfold State.noteSpan
  dsimp only
  split
  · exact page ..
  · exact (page ..).trans (page ..)

theorem noteBlock_only (s : State) (c x root va n : Nat) : OnlyCtx s (s.noteBlock c root va n) c x := by
  unfold State.noteBlock
  induction List.range n generalizing s with
  | nil => exact .refl ..
  | cons i is ih => exact (noteSpan_only ..).trans (ih _)

/-- The root of a command's team stays while its block's translations are noted. -/
theorem noteSpans_root {s : State} {c root va : Nat} {m : Cmd} (is : List Nat) (h : s.cmdRoot c m = root) :
    is.foldl (fun (s : State) (i : Nat) => s.noteSpan c (s.cmdRoot c m) (va + 128 * i) 128) s =
      is.foldl (fun (s : State) (i : Nat) => s.noteSpan c root (va + 128 * i) 128) s := by
  induction is generalizing s with
  | nil => rfl
  | cons i is ih =>
    rw [List.foldl_cons, List.foldl_cons, h]
    exact ih (((sameButTlbs_noteSpan ..).cmdRoot m).trans h)

theorem length_blockFillLines {s : State} {c root va : Nat} (n : Nat) {i : Nat} {acc ls : List Nat} (h : s.blockFillLines c root va n i acc = .ok ls) :
    ls.length = acc.length + n := by
  induction n generalizing i acc with
  | zero => rw [← Except.ok.inj h]; rfl
  | succ n ih =>
    unfold State.blockFillLines at h
    dsimp only at h
    split at h
    · split at h
      · cases h
      · have := ih h
        rw [List.length_append, List.length_singleton] at this
        omega
    · cases h

theorem publishTo_mem (s : State) (c : Nat) (m : Cmd) (f : Nat) (skip : Bool) : (s.publishTo c m f skip).mem = s.mem := by
  unfold State.publishTo
  split <;> rfl

/-- A bound tag whose extent has come is READY. -/
theorem advance_full {t : Tag} {n : Nat} (hb : t.state = .bound) (hn : t.n = n) (hf : t.f ≤ n) : t.advance n = { t with f := n, state := .ready } := by
  simp only [Tag.advance, hb, hn, hf, and_self, if_true, Nat.min_self, Nat.le_refl]

theorem blockEnded_mem {s : State} {c : Nat} {m : Cmd} {ls : List Nat} (h : (s.die (dieOf c)).present.length + ls.length ≤ Config.sliceLines) :
    (s.blockEnded c m ls).mem = s.mem := by
  have room := fillLines_mem (s := s.modCore c (fun k => k.blockFilled m.team m.tag ls)) ls h
  exact (publishTo_mem ((s.modCore c (fun k => k.blockFilled m.team m.tag ls)).fillLines c ls) c m m.n false).trans room

theorem blockEnded_cmd (s : State) (c : Nat) (m : Cmd) (ls : List Nat) : ((s.blockEnded c m ls).core c).cmd m.id = none := dropCmd_cmd ..

/-- What a filled block's command leaves of its team: the block's lines, and its tag READY. -/
theorem blockEnded_team {s : State} {c : Nat} {m : Cmd} {ls : List Nat} {n g : Nat} {T : Team} (ht : m.tag = some (n, g))
    (hT : tget (s.core c).teams m.team = some T) (hg : (T.tag n).gen = g) (hb : (T.tag n).state = .bound) (hn : (T.tag n).n = m.n) (hf : (T.tag n).f ≤ m.n) :
    let t := s.blockEnded c m ls
    ((t.core c).tagAt m.team n).state = .ready ∧ ((t.core c).tagAt m.team n).f = m.n ∧
      ∃ T', tget (t.core c).teams m.team = some T' ∧
        T'.blocks = T.blocks.map (fun (b : Block) => if b.tag == n && b.gen == g then { b with lines := ls } else b) := by
  intro t
  have filled : tget ((((s.modCore c (fun k => k.blockFilled m.team m.tag ls)).fillLines c ls).core c).teams) m.team =
      some { T with blocks := T.blocks.map (fun (b : Block) => if b.tag == n && b.gen == g then { b with lines := ls } else b) } := by
    rw [fillLines_teams, State.core_modCore_self]
    simp only [Core.blockFilled, hT, ht, Option.getD_some, Core.putTeam, tget_tput_self]
  have ht' : t = (((s.modCore c (fun k => k.blockFilled m.team m.tag ls)).fillLines c ls).publishTo c m m.n false).dropCmd c m := rfl
  rw [ht']
  clear_value t
  generalize (s.modCore c (fun k => k.blockFilled m.team m.tag ls)).fillLines c ls = u at filled
  have published : tget ((u.publishTo c m m.n false).core c).teams m.team = some { T with
      blocks := T.blocks.map (fun (b : Block) => if b.tag == n && b.gen == g then { b with lines := ls } else b)
      tags := tput T.tags n { T.tag n with f := m.n, state := .ready } } := by
    simp only [State.publishTo, ht, State.modTag, State.core_modCore_self, Core.modTag, filled, Core.putTeam, tget_tput_self]
    have adv := advance_full hb hn hf
    simp only [Team.tag] at hg adv ⊢
    simp only [hg, if_true, adv, Bool.or_false]
  obtain ⟨T', h1, h2, h3⟩ := dropCmd_team published
  have h4 := h3 n (by simp [Team.tag])
  have h5 : (((u.publishTo c m m.n false).dropCmd c m).core c).tagAt m.team n = T'.tag n := by simp only [Core.tagAt, h1]
  rw [h5, h4]
  refine ⟨?_, ?_, T', h1, h2⟩
  · simp [Team.tag]
  · simp [Team.tag]

/-- A group's step, once its command is found running. -/
theorem exec_groupFillLand {s t : State} {c id : Nat} {m : Cmd} (hp : s.powered = true) (h : s.runningCmd c id (fun k => k == .gld) = some m)
    (ht : s.groupStep c m = .done t) : exec (.groupFillLand c id) s = .next t.tick :=
  (happen_eq (fun s => s.groupFill c id) hp).trans (by simp only [State.groupFill, h, ht, Stepped.orElse])

theorem exec_blockFillComplete {s t : State} {c id : Nat} {m : Cmd} (hp : s.powered = true) (h : s.runningCmd c id (fun k => k == .ldblk) = some m)
    (ht : s.blockStep c m = .done t) : exec (.blockFillComplete c id) s = .next t.tick :=
  (happen_eq (fun s => s.blockFill c id) hp).trans (by simp only [State.blockFill, h, ht, Stepped.orElse])

/-- What the next piece of a released hold needs is read. -/
theorem groupStep_reads {s : State} {c l key : Nat} {m : Cmd} {g : Group} {src dst : Geo} {h : Hold} {data : List Nat}
    (hg : s.groupOf c m = some (l, key, g)) (hs : m.src = some src) (hd : m.dst = some dst) (hh : g.holds.find? (fun h => h.holds c m.id) = some h)
    (hrel : h.released = true) (hready : fillReady dst (if m.flags == 1 then m.chunks else h.data) m.prog = false)
    (hwho : (s.leader h).map (fun a => (a.core, a.cmd)) = some (c, m.id) ∨
      h.halted = false ∧ ((m.flags == 1) = true ∨ (s.reader h).map (fun a => (a.core, a.cmd)) = some (c, m.id))) :
    let got := if m.flags == 1 then m.chunks else h.data
    let s1 := (holdPlaces src dst got.length).foldl (fun s p => s.reachPlace c (s.cmdRoot c m) src p) s
    s1.holdRead c m src dst got = .ok data → s.groupStep c m = .done (s1.holdFilled c l key g h m (m.flags == 1) got.length data) := by
  intro got s1 hdata
  have who : ((s.leader h).map (fun a => (a.core, a.cmd)) == some (c, m.id) ||
      (!h.halted && ((m.flags == 1) || (s.reader h).map (fun a => (a.core, a.cmd)) == some (c, m.id)))) = true := by
    simpa using hwho
  have notReady : (!fillReady dst got m.prog) = true := by rw [hready]; rfl
  simp only [State.groupStep, hg, hs, hd, hh, hrel, Bool.not_true, Bool.false_eq_true, if_false]
  rw [if_pos notReady, if_pos who]
  simp only [got, s1] at hdata ⊢
  simp only [hdata]

/-- The state in which the next piece of a member's load is written: its first, in a hold that was complete, follows an acquire (R100). -/
def State.landing (s : State) (c : Nat) (m : Cmd) (h : Hold) : State :=
  if (m.flags == 1) = false ∧ h.timedOut = false ∧ m.prog = 0 then s.acquire c 1 else s

theorem acquire_teams (s : State) (c scope : Nat) : ((s.acquire c scope).core c).teams = (s.core c).teams := by
  unfold State.acquire
  dsimp only
  rw [fillLines_teams, State.core_modCore_self]
  rfl

theorem landing_cmdRoot (s : State) (c : Nat) (m : Cmd) (h : Hold) : (s.landing c m h).cmdRoot c m = s.cmdRoot c m := by
  unfold State.landing
  split
  · simp only [State.cmdRoot, State.launchOf, acquire_teams, (keepsCtxs_acquire s c 1).launches]
  · rfl

theorem status_one_iff (h : Hold) (m : Cmd) : h.status m = 1 ↔ (m.flags == 1) = false ∧ h.timedOut = false := by
  unfold Hold.status
  by_cases hf : m.flags = 1
  · simp [hf]
  · cases ht : h.timedOut <;> simp [hf]

/-- A piece that has been read lands: its member goes on, or is served with the last. -/
theorem groupStep_lands {s u : State} {c l key : Nat} {m : Cmd} {g : Group} {src dst : Geo} {h : Hold}
    (hg : s.groupOf c m = some (l, key, g)) (hs : m.src = some src) (hd : m.dst = some dst) (hh : g.holds.find? (fun h => h.holds c m.id) = some h)
    (hrel : h.released = true) (hready : fillReady dst (if m.flags == 1 then m.chunks else h.data) m.prog = true) :
    let got := if m.flags == 1 then m.chunks else h.data
    let n := dst.d0 * dst.d1
    let e := dst.pieceEndAt m.prog
    writeElems c (s.cmdRoot c m) m.team dst (m.skip.contains m.prog) none m.prog ((List.range (e - m.prog)).map (fun k => holdElem got (m.prog + k)))
      (s.landing c m h) = .ok u →
    (e < n → s.groupStep c m = .done ((u.putCmd c { m with prog := e }).publishTo c m e (!m.skip.isEmpty))) ∧
    (n ≤ e → s.groupStep c m = .done (((u.publishTo c m n (!m.skip.isEmpty)).putGroup l key (g.putHold { h with
      asks := h.asks.map (fun (a : GroupAsk) => if a.core = c ∧ a.cmd = m.id then { a with served := true } else a) }).settle).dropCmd c m)) := by
  intro got n e hu
  have step : s.groupStep c m = (if e < n then .done ((u.putCmd c { m with prog := e }).publishTo c m e (!m.skip.isEmpty))
      else .done (((u.publishTo c m n (!m.skip.isEmpty)).putGroup l key (g.putHold { h with
        asks := h.asks.map (fun (a : GroupAsk) => if a.core = c ∧ a.cmd = m.id then { a with served := true } else a) }).settle).dropCmd c m)) := by
    have ready : ¬(!fillReady dst got m.prog) = true := by rw [hready]; exact nofun
    have at_ : (if h.status m = 1 ∧ m.prog = 0 then s.acquire c 1 else s) = s.landing c m h := by
      simp only [State.landing, status_one_iff, and_assoc]
    simp only [State.groupStep, hg, hs, hd, hh, hrel, Bool.not_true, Bool.false_eq_true, if_false]
    rw [if_neg ready, at_]
    simp only [got, n, e] at hu ⊢
    simp only [landing_cmdRoot, hu]
  exact ⟨fun hlt => step.trans (if_pos hlt), fun hle => step.trans (if_neg (Nat.not_lt.mpr hle))⟩

/-- Settles O45: a block's fill by the room its lines find, and each thing that happens to a group load by its branch of the step. -/
theorem blockAndGroupEvents : Obligations.BlockAndGroupEvents := by
  unfold Obligations.BlockAndGroupEvents
  intro s c id m hp
  refine ⟨?_, ?_, ?_, ?_⟩
  · intro ls hr hd s1 hls
    have kept := noteBlock_only s c m.ctx (s.cmdRoot c m) m.list m.n
    have lines : (s.noteBlock c (s.cmdRoot c m) m.list m.n).blockFillLines c (s.cmdRoot c m) m.list m.n 0 [] = .ok ls := by
      rw [State.noteBlock, ← noteSpans_root (List.range m.n) rfl]; exact hls
    have hT' (T : Team) (hT : tget (s.core c).teams m.team = some T) : tget ((s.noteBlock c (s.cmdRoot c m) m.list m.n).core c).teams m.team = some T := by
      rw [kept.core.teams]; exact hT
    have hlen : ls.length = m.n := (length_blockFillLines m.n lines).trans (Nat.zero_add _)
    have hdie : (s.noteBlock c (s.cmdRoot c m) m.list m.n).die (dieOf c) = s.die (dieOf c) := congrArg (fun ds => vget ds (dieOf c) Die.fresh) kept.outside.dies
    have hexec := exec_blockFillComplete hp hr (blockStep_ok hd lines)
    have hmem := kept.outside.mem
    generalize s.noteBlock c (s.cmdRoot c m) m.list m.n = u at hexec hdie hmem hT'
    refine ⟨(u.blockEnded c m ls).tick, hexec, fun hroom => ?_, ?_, fun n g T ht hT hg hb hn hf => ?_⟩
    · show (u.blockEnded c m ls).mem = s.mem
      rw [← hmem, blockEnded_mem (by rw [hdie, hlen]; exact hroom)]
    · show ((u.blockEnded c m ls).core c).cmd m.id = none
      exact blockEnded_cmd ..
    · exact blockEnded_team ht (hT' T hT) hg hb hn hf
  · intro l key g src dst hr hg hs hdst hany hd ask p first
    have arrives := happen_eq (fun s : State => s.groupRequest c id) hp
    refine ⟨fun hn hfull => arrives.trans ?_, fun hn hroom => arrives.trans ?_, fun h hh hmis hsame => arrives.trans ?_⟩
    · simp only [State.groupRequest, hr, hg, hs, hdst, hany, hd, hn, hfull, Bool.not_true, Bool.or_false, Bool.false_eq_true, if_false, if_true]
    · simp only [State.groupRequest, hr, hg, hs, hdst, hany, hd, hn, Nat.not_le.mpr hroom, Bool.not_true, Bool.or_false, Bool.false_eq_true, if_false]
      rfl
    · simp only [State.groupRequest, hr, hg, hs, hdst, hany, hd, hh, hmis, hsame, Bool.not_true, Bool.or_false, Bool.false_eq_true, if_false, if_true]
      rfl
  · intro l key n v h hl hh hrel
    refine (happen_eq (fun s => s.groupTimeout l key n) hp).trans ?_
    simp only [State.groupTimeout, hl, hh, hrel, Bool.false_eq_true, if_false]
  · intro l key g src dst h u hr hg hs hdst hh hrel late got s1
    refine ⟨fun data hready hwho hdata => exec_groupFillLand hp hr (groupStep_reads hg hs hdst hh hrel hready hwho hdata), ?_⟩
    intro hready s2 n e es hu
    obtain ⟨h1, h2⟩ := groupStep_lands hg hs hdst hh hrel hready hu
    exact ⟨fun hlt => exec_groupFillLand hp hr (h1 hlt), fun hle => exec_groupFillLand hp hr (h2 hle)⟩

end Sys2Proof.Machine

namespace Sys2Proof.Machine

open Sys2Proof.Claim

/-! ### Bytes of memories (R65) -/

theorem mget_mdrop (m : Memory) (p : Nat → Bool) (a : Nat) : mget (mdrop m p) a = if p a then 0 else mget m a := by
  unfold mget mdrop
  induction m with
  | nil => simp [tget]
  | cons e m ih =>
    obtain ⟨j, b⟩ := e
    by_cases hj : p j = true
    · rw [List.filter_cons_of_neg (by simpa using hj), ih]
      by_cases ha : a = j
      · subst ha; simp [hj]
      · simp [tget, ha]
    · rw [List.filter_cons_of_pos (by simpa using hj), tget, tget]
      by_cases ha : a = j
      · subst ha; simp [hj]
      · simpa [ha] using ih

/-- Bytes copied from a table of them, each to its own address. -/
theorem mget_foldl_mput {m : Memory} (g : Nat → Byte) (l : List Nat) (w : m.wf = true) (a : Nat) :
    mget (l.foldl (fun m b => mput m b (g b)) m) a = if a ∈ l then g a else mget m a := by
  induction l generalizing m with
  | nil => simp
  | cons b l ih =>
    rw [List.foldl_cons, ih (wf_mput b _ w)]
    by_cases hl : a ∈ l
    · simp [hl]
    · by_cases hb : a = b
      · subst hb; simp [hl, mget_mput_self a _ w]
      · simp [hl, hb, mget_mput_other _ _ _ _ hb]

theorem mget_mwrite_mread {m : Memory} (n : Memory) (lo k a : Nat) (w : m.wf = true) :
    mget (mwrite m lo (mread n lo k)) a = if lo ≤ a ∧ a < lo + k then mget n a else mget m a := by
  have hlen : (mread n lo k).length = k := by simp [mread]
  split
  · next h =>
    have hb := mread_mwrite lo (mread n lo k) w
    rw [hlen] at hb
    have := congrArg (fun l : List Byte => l[a - lo]?) hb
    have hi : a - lo < k := by omega
    have ha : lo + (a - lo) = a := by omega
    simpa [mread, hi, ha] using this
  · next h => exact mget_mwrite_other _ _ _ _ (by omega)

theorem leNat_lt (bs : List Byte) : leNat bs < 256 ^ bs.length := by
  induction bs with
  | nil => simp [leNat]
  | cons b bs ih =>
    have := b.isLt
    simp only [leNat, List.length_cons, Nat.pow_succ]
    omega

theorem leNat_leBytes (n v : Nat) : leNat (leBytes n v) = v % 256 ^ n := by
  induction n generalizing v with
  | zero => simp [leBytes, leNat, Nat.mod_one]
  | succ n ih =>
    rw [leBytes, leNat, ih, BitVec.toNat_ofNat, show 256 ^ (n + 1) = 2 ^ 8 * 256 ^ n from Nat.pow_succ', Nat.mod_mul]
    rfl

/-! ### What the slices of a die hold, and write back (R77) -/

theorem die_putDie_self (s : State) {d : Nat} (v : Die) (h : d < 4) : (s.putDie d v).die d = v := vget_vset_self _ _ _ _ h

theorem dieFlush_wf {s : State} (d : Nat) (p : Nat → Bool) (w : s.mem.wf = true) : (s.dieFlush d p).mem.wf = true := wf_foldl_mput _ _ _ w

theorem dieFlush_mem {s : State} (d : Nat) (p : Nat → Bool) (w : s.mem.wf = true) (a : Nat) :
    mget (s.dieFlush d p).mem a = if a ∈ (s.die d).dirty ∧ p a = true then mget (s.die d).copies a else mget s.mem a := by
  refine (mget_foldl_mput (fun b => mget (s.die d).copies b) _ w a).trans ?_
  simp only [List.mem_filter]

theorem dieFlush_die (s : State) {d : Nat} (p : Nat → Bool) (h : d < 4) :
    (s.dieFlush d p).die d = { s.die d with dirty := (s.die d).dirty.filter (fun a => !p a) } := die_putDie_self _ _ h

theorem dieEvict_mem {s : State} (d : Nat) (p : Nat → Bool) (w : s.mem.wf = true) (a : Nat) :
    mget (s.dieEvict d p).mem a = if a ∈ (s.die d).dirty ∧ p (lineOf a) = true then mget (s.die d).copies a else mget s.mem a :=
  dieFlush_mem d (fun a => p (lineOf a)) w a

theorem dieEvict_die (s : State) {d : Nat} (p : Nat → Bool) (h : d < 4) :
    (s.dieEvict d p).die d = { s.die d with
      copies := mdrop (s.die d).copies (fun a => p (lineOf a)), present := (s.die d).present.filter (fun l => !p l)
      dirty := (s.die d).dirty.filter (fun a => !p (lineOf a)) } := by
  unfold State.dieEvict
  dsimp only
  rw [die_putDie_self _ _ h, dieFlush_die _ _ h]

/-! ### A store performed at the slices of its die (R77) -/

/-- A line fetched reads as home memory did. -/
theorem dieFill_dieRead {s : State} {d pa : Nat} (hd : d < 4) (hr : (s.die d).present.length < Config.sliceLines) (wc : (s.die d).copies.wf = true) (a : Nat) :
    (s.dieFill d pa).dieRead d a = s.dieRead d a := by
  by_cases hh : homeDie pa = d ∨ lineOf pa ∈ (s.die d).present
  · rw [dieFill_of_held hh]
  · rw [dieFill_of_room hh hr]
    simp only [State.dieRead, die_putDie_self _ _ hd, mget_mwrite_mread _ _ _ _ wc, List.contains_iff_mem, mem_insertNat]
    have hl : (lineOf pa * 128 ≤ a ∧ a < lineOf pa * 128 + 128) ↔ lineOf a = lineOf pa := by
      unfold lineOf
      omega
    simp only [hl]
    split
    · rfl
    · by_cases ha : lineOf a = lineOf pa
      · have hn : lineOf pa ∉ (s.die d).present := fun g => hh (.inr g)
        simp [ha, hn]
      · simp [ha]

theorem dieFill_wf {s : State} {d : Nat} (pa : Nat) (hd : d < 4) (hr : (s.die d).present.length < Config.sliceLines) (wc : (s.die d).copies.wf = true) :
    ((s.dieFill d pa).die d).copies.wf = true := by
  by_cases hh : homeDie pa = d ∨ lineOf pa ∈ (s.die d).present
  · rwa [dieFill_of_held hh]
  · rw [dieFill_of_room hh hr, die_putDie_self _ _ hd]
    exact wf_mwrite _ _ wc

theorem dieFill_mem {s : State} {d pa : Nat} (hr : (s.die d).present.length < Config.sliceLines) : (s.dieFill d pa).mem = s.mem := by
  by_cases hh : homeDie pa = d ∨ lineOf pa ∈ (s.die d).present
  · rw [dieFill_of_held hh]
  · rw [dieFill_of_room hh hr]; rfl

theorem dieFill_present {s : State} {d pa : Nat} (hd : d < 4) (hr : (s.die d).present.length < Config.sliceLines) :
    ((s.dieFill d pa).die d).present.length ≤ (s.die d).present.length + 1 ∧ (homeDie pa ≠ d → lineOf pa ∈ ((s.dieFill d pa).die d).present) := by
  by_cases hh : homeDie pa = d ∨ lineOf pa ∈ (s.die d).present
  · rw [dieFill_of_held hh]
    exact ⟨Nat.le_succ _, fun h => hh.resolve_left h⟩
  · rw [dieFill_of_room hh hr, die_putDie_self _ _ hd]
    exact ⟨length_insertNat_le .., fun _ => (mem_insertNat _).mpr (.inl rfl)⟩

/-- Home memory and the copies of die `d` are in canonical form, and its slices have room for `n` lines. -/
structure Stores (s : State) (d n : Nat) : Prop where
  mem : s.mem.wf = true
  copies : (s.die d).copies.wf = true
  room : (s.die d).present.length + n ≤ Config.sliceLines

/-- One byte written at the slices of die `d`: the byte reads as written, every other as before, and home memory changes only under it. -/
structure ByteWritten (s t : State) (d pa : Nat) (b : Byte) : Prop where
  read : ∀ a, t.dieRead d a = if a = pa then b else s.dieRead d a
  mem : ∀ a, a ≠ pa → mget t.mem a = mget s.mem a

theorem stores_dieWrite {s : State} {d n : Nat} (pa : Nat) (b : Byte) (hd : d < 4) (h : Stores s d (n + 1)) :
    Stores (s.dieWrite d pa b) d n ∧ ByteWritten s (s.dieWrite d pa b) d pa b := by
  obtain ⟨wm, wc, hn⟩ := h
  have hr : (s.die d).present.length < Config.sliceLines := by omega
  unfold State.dieWrite
  by_cases hp : homeDie pa = d
  · rw [if_pos hp]
    refine ⟨⟨wf_mput pa b wm, wc, (by omega : (s.die d).present.length + n ≤ Config.sliceLines)⟩, fun a => ?_, fun a ha => mget_mput_other _ _ _ _ ha⟩
    by_cases ha : a = pa
    · subst ha
      simp [State.dieRead, hp, mget_mput_self a b wm]
    · simp only [State.dieRead, if_neg ha, mget_mput_other _ _ _ _ ha]
      rfl
  · rw [if_neg hp]
    have wf := dieFill_wf pa hd hr wc
    obtain ⟨hlen, hin⟩ := dieFill_present (pa := pa) hd hr
    have hread := dieFill_dieRead (pa := pa) hd hr wc
    have hmem := dieFill_mem (pa := pa) hr
    generalize s.dieFill d pa = u at wf hlen hin hread hmem ⊢
    refine ⟨⟨?_, ?_, ?_⟩, fun a => ?_, fun a _ => ?_⟩
    · show u.mem.wf = true
      rw [hmem]; exact wm
    · rw [die_putDie_self _ _ hd]
      exact wf_mput pa b wf
    · rw [die_putDie_self _ _ hd]
      exact (Nat.add_le_add_right hlen n).trans (by omega)
    · rw [← hread a]
      by_cases ha : a = pa
      · subst ha
        simp [State.dieRead, die_putDie_self _ _ hd, hp, hin hp, mget_mput_self a b wf]
      · simp only [State.dieRead, die_putDie_self _ _ hd, if_neg ha, mget_mput_other _ _ _ _ ha, State.putDie_mem]
    · show mget u.mem a = _
      rw [hmem]

theorem queueClobber_mem (s : State) (pa : Nat) : (s.queueClobber pa).mem = s.mem := by
  obtain ⟨q, n, h⟩ := queueClobber_eq s pa
  rw [h]

theorem queueClobber_dies (s : State) (pa : Nat) : (s.queueClobber pa).dies = s.dies := by
  obtain ⟨q, n, h⟩ := queueClobber_eq s pa
  rw [h]

theorem coreWrite_mem (s : State) (c pa : Nat) (b : Byte) : (s.coreWrite c pa b).mem = (s.dieWrite (dieOf c) pa b).mem := queueClobber_mem ..

theorem coreWrite_dies (s : State) (c pa : Nat) (b : Byte) : (s.coreWrite c pa b).dies = (s.dieWrite (dieOf c) pa b).dies := queueClobber_dies ..

theorem dieRead_congr {s t : State} (hm : t.mem = s.mem) (hd : t.dies = s.dies) (d a : Nat) : t.dieRead d a = s.dieRead d a := by
  unfold State.dieRead State.die
  rw [hm, hd]

theorem stores_coreWrite {s : State} {c n : Nat} (pa : Nat) (b : Byte) (hc : dieOf c < 4) (h : Stores s (dieOf c) (n + 1)) :
    Stores (s.coreWrite c pa b) (dieOf c) n ∧ ByteWritten s (s.coreWrite c pa b) (dieOf c) pa b := by
  obtain ⟨⟨h1, h2, h3⟩, h4, h5⟩ := stores_dieWrite pa b hc h
  have hm := coreWrite_mem s c pa b
  have hd := coreWrite_dies s c pa b
  have hk : (s.coreWrite c pa b).die (dieOf c) = (s.dieWrite (dieOf c) pa b).die (dieOf c) := by rw [State.die, hd, ← State.die]
  exact ⟨⟨by rw [hm]; exact h1, by rw [hk]; exact h2, by rw [hk]; exact h3⟩, fun a => by rw [dieRead_congr hm hd]; exact h4 a,
    fun a ha => by rw [hm]; exact h5 a ha⟩

/-- The byte that the last of some writes to `a` leaves there. -/
def lastWrite (ws : List (Nat × Byte)) (a : Nat) : Option Byte := (ws.reverse.find? (fun w => w.1 == a)).map (fun w => w.2)

theorem lastWrite_cons (w : Nat × Byte) (ws : List (Nat × Byte)) (a : Nat) :
    lastWrite (w :: ws) a = (lastWrite ws a).or (if w.1 = a then some w.2 else none) := by
  unfold lastWrite
  rw [List.reverse_cons, List.find?_append]
  cases ws.reverse.find? (fun w => w.1 == a) with
  | some v => rfl
  | none => by_cases h : w.1 = a <;> simp [h]

/-- Writes performed one after another at the slices of a core's die. -/
theorem coreWrites_read {s : State} {c : Nat} (ws : List (Nat × Byte)) (hc : dieOf c < 4) (h : Stores s (dieOf c) ws.length) (a : Nat) :
    (s.coreWrites c ws).dieRead (dieOf c) a = (lastWrite ws a).getD (s.dieRead (dieOf c) a) ∧
    (lastWrite ws a = none → mget (s.coreWrites c ws).mem a = mget s.mem a) := by
  induction ws generalizing s with
  | nil => exact ⟨rfl, fun _ => rfl⟩
  | cons w ws ih =>
    obtain ⟨h1, h2⟩ := stores_coreWrite w.1 w.2 hc h
    obtain ⟨i1, i2⟩ := ih h1
    have e : s.coreWrites c (w :: ws) = (s.coreWrite c w.1 w.2).coreWrites c ws := rfl
    rw [e, lastWrite_cons, i1, h2.read a]
    cases hl : lastWrite ws a with
    | some b => exact ⟨rfl, fun hn => by simp at hn⟩
    | none =>
      by_cases ha : a = w.1
      · simp [ha]
      · simp only [ha, Ne.symm ha, if_false, Option.or_none, Option.getD_none, true_and]
        exact fun _ => (i2 hl).trans (h2.mem a ha)

theorem vget_map_die (v : Vector Die 4) (f : Die → Die) {d : Nat} (h : d < 4) : vget (v.map f) d Die.fresh = f (vget v d Die.fresh) := by
  simp [vget, h]

/-- A release at device scope writes back what the slices of its die hold dirty; beside that, none changes memory and what the slices hold. -/
theorem publish_slices (s : State) {c : Nat} (scope : Nat) (hc : dieOf c < 4) :
    let u := if 2 ≤ scope then s.dieFlush (dieOf c) (fun _ => true) else s
    (s.publish c scope).mem = u.mem ∧ ((s.publish c scope).die (dieOf c)).copies = (u.die (dieOf c)).copies ∧
      ((s.publish c scope).die (dieOf c)).dirty = (u.die (dieOf c)).dirty ∧ ((s.publish c scope).die (dieOf c)).present = (u.die (dieOf c)).present := by
  intro u
  have hu : (if 2 ≤ scope then s.dieFlush (dieOf c) (fun _ => true) else s) = u := rfl
  clear_value u
  unfold State.publish
  dsimp only
  rw [hu]
  split
  · have hv := vget_map_die u.dies (fun k => { k with sigs := k.sigs ++ [signature (u.core c).written] }) hc
    exact ⟨rfl, (congrArg Die.copies hv :), (congrArg Die.dirty hv :), (congrArg Die.present hv :)⟩
  · rw [die_putDie_self _ _ hc]
    exact ⟨rfl, rfl, rfl, rfl⟩

/-! ### What a release or an RMW lets reach its home (R77, R78, R153) -/

/-- In `t`, reached from `s` by an RMW at `pas`: those bytes are home memory's as `M` has them, another byte is home memory's as it was or as the
die's slices held it dirty, and what they still hold dirty is one of those. -/
structure HeldBack (s t : State) (d : Nat) (pas : List Nat) (M : Memory) : Prop where
  mem : t.mem.wf = true
  copies : (t.die d).copies.wf = true
  here : ∀ a ∈ pas, mget t.mem a = mget M a
  there : ∀ a, a ∉ pas → mget t.mem a = mget s.mem a ∨ (a ∈ (s.die d).dirty ∧ mget t.mem a = mget (s.die d).copies a)
  dirty : ∀ a ∈ (t.die d).dirty, a ∉ pas ∧ a ∈ (s.die d).dirty ∧
    (mget (t.die d).copies a = mget s.mem a ∨ mget (t.die d).copies a = mget (s.die d).copies a)

section
variable {s t u : State} {d : Nat} {pas : List Nat} {M : Memory} (h : HeldBack s t d pas M)
include h

theorem HeldBack.of_same (hm : u.mem = t.mem) (hc : (u.die d).copies = (t.die d).copies) (hd : (u.die d).dirty = (t.die d).dirty) : HeldBack s u d pas M where
  mem := by rw [hm]; exact h.mem
  copies := by rw [hc]; exact h.copies
  here := by rw [hm]; exact h.here
  there := by rw [hm]; exact h.there
  dirty := by rw [hd, hc]; exact h.dirty

theorem HeldBack.modCore (c : Nat) (f : Core → Core) : HeldBack s (t.modCore c f) d pas M := h.of_same rfl rfl rfl

theorem HeldBack.dieFlush (hd : d < 4) (p : Nat → Bool) : HeldBack s (t.dieFlush d p) d pas M where
  mem := dieFlush_wf d p h.mem
  copies := by rw [dieFlush_die _ _ hd]; exact h.copies
  here := fun a ha => by
    have : a ∉ (t.die d).dirty := fun g => (h.dirty a g).1 ha
    rw [dieFlush_mem d p h.mem, if_neg fun g => this g.1]
    exact h.here a ha
  there := fun a ha => by
    rw [dieFlush_mem d p h.mem]
    split
    · next g =>
      obtain ⟨-, h1, h2⟩ := h.dirty a g.1
      exact h2.imp id fun h2 => ⟨h1, h2⟩
    · exact h.there a ha
  dirty := fun a ha => by
    rw [dieFlush_die _ _ hd] at ha ⊢
    exact h.dirty a (List.mem_filter.mp ha).1

theorem HeldBack.dieEvict (hd : d < 4) (p : Nat → Bool) : HeldBack s (t.dieEvict d p) d pas M := by
  have f := h.dieFlush hd (fun a => p (lineOf a))
  have e := dieEvict_die t p hd
  refine ⟨f.mem, by rw [e]; exact wf_mdrop (fun a => p (lineOf a)) h.copies, f.here, f.there, fun a ha => ?_⟩
  rw [e] at ha ⊢
  obtain ⟨hin, hp⟩ := List.mem_filter.mp ha
  have keep : p (lineOf a) = false := by simpa using hp
  rw [mget_mdrop, keep]
  exact h.dirty a hin

theorem HeldBack.dieFill (hd : d < 4) (pa : Nat) : HeldBack s (t.dieFill d pa) d pas M := by
  have room : HeldBack s (t.dieRoom d pa) d pas M := by
    rcases dieRoom_cases t d pa with e | ⟨p, e⟩
    · rwa [e]
    · rw [e]; exact h.dieEvict hd p
  unfold State.dieFill
  split
  · exact h
  · dsimp only
    generalize t.dieRoom d pa = u at room ⊢
    refine ⟨room.mem, ?_, room.here, room.there, fun a ha => ?_⟩
    · rw [die_putDie_self _ _ hd]
      exact wf_mwrite _ _ room.copies
    · rw [die_putDie_self _ _ hd] at ha ⊢
      obtain ⟨h1, h2, h3⟩ := room.dirty a ha
      refine ⟨h1, h2, ?_⟩
      rw [mget_mwrite_mread _ _ _ _ room.copies]
      split
      · exact (room.there a h1).imp id fun g => g.2
      · exact h3

theorem HeldBack.l1Fill {c : Nat} (hd : dieOf c = d) (h4 : d < 4) (pa : Nat) : HeldBack s (t.l1Fill c pa) d pas M := by
  unfold State.l1Fill
  split
  · exact h
  · dsimp only
    rw [hd]
    exact (h.dieFill h4 pa).modCore ..

end

theorem HeldBack.foldl {s t : State} {d : Nat} {pas : List Nat} {M : Memory} {α : Type} {f : State → α → State}
    (hf : ∀ t a, HeldBack s t d pas M → HeldBack s (f t a) d pas M) (l : List α) (h : HeldBack s t d pas M) : HeldBack s (l.foldl f t) d pas M := by
  induction l generalizing t with
  | nil => exact h
  | cons a l ih => exact ih (hf t a h)

section
variable {s t : State} {d c : Nat} {pas : List Nat} {M : Memory} (h : HeldBack s t d pas M) (hd : dieOf c = d) (h4 : d < 4)
include h hd h4

theorem HeldBack.fillLines (ls : List Nat) : HeldBack s (t.fillLines c ls) d pas M :=
  .foldl (fun _ _ h => .foldl (fun _ _ h => h.l1Fill hd h4 _) _ h) ls h

theorem HeldBack.acquire (scope : Nat) : HeldBack s (t.acquire c scope) d pas M := by
  unfold State.acquire
  dsimp only
  rw [hd]
  exact (((h.dieEvict h4 _).modCore ..)).fillLines hd h4 _

theorem HeldBack.reread (scope pa : Nat) : HeldBack s (t.reread c scope pa) d pas M := by
  have evicted : HeldBack s (if 2 ≤ scope ∧ homeDie pa ≠ d then t.dieEvict d (fun x => x == lineOf pa) else t) d pas M := by
    split
    · exact h.dieEvict h4 _
    · exact h
  unfold State.reread
  dsimp only
  rw [hd]
  exact (evicted.modCore ..).fillLines hd h4 _

theorem HeldBack.publish (scope : Nat) : HeldBack s (t.publish c scope) d pas M := by
  have flushed : HeldBack s (if 2 ≤ scope then t.dieFlush d (fun _ => true) else t) d pas M := by
    split
    · exact h.dieFlush h4 _
    · exact h
  subst hd
  obtain ⟨hm, hc, hdirty, -⟩ := publish_slices t scope h4
  exact flushed.of_same hm hc hdirty

/-- A byte of the RMW's own is written at its home. -/
theorem HeldBack.homeWrite (wM : M.wf = true) {pa : Nat} (hpa : pa ∈ pas) (b : Byte) : HeldBack s (t.homeWrite c pa b) d pas (mput M pa b) := by
  have e := h.dieEvict h4 (fun l => l == lineOf pa)
  unfold State.homeWrite
  dsimp only
  rw [hd]
  generalize t.dieEvict d (fun l => l == lineOf pa) = u at e ⊢
  have hm : (({ u with mem := mput u.mem pa b } : State).queueClobber pa).mem = mput u.mem pa b := queueClobber_mem ..
  have hdies : (({ u with mem := mput u.mem pa b } : State).queueClobber pa).dies = u.dies := queueClobber_dies ..
  generalize ({ u with mem := mput u.mem pa b } : State).queueClobber pa = v at hm hdies ⊢
  have hdie : v.die d = u.die d := congrArg (fun ds => vget ds d Die.fresh) hdies
  refine HeldBack.modCore ⟨by rw [hm]; exact wf_mput pa b e.mem, by rw [hdie]; exact e.copies, fun a ha => ?_, fun a ha => ?_, by rw [hdie]; exact e.dirty⟩ ..
  · rw [hm]
    by_cases hp : a = pa
    · rw [hp, mget_mput_self _ _ e.mem, mget_mput_self _ _ wM]
    · rw [mget_mput_other _ _ _ _ hp, mget_mput_other _ _ _ _ hp]
      exact e.here a ha
  · rw [hm, mget_mput_other _ _ _ _ fun hp : a = pa => ha (hp ▸ hpa)]
    exact e.there a ha

end

/-- The bytes of an RMW written at their home slice. -/
theorem HeldBack.homeWrites {s t : State} {d c : Nat} {pas : List Nat} {M : Memory} (ws : List (Nat × Byte)) (h : HeldBack s t d pas M) (hd : dieOf c = d)
    (h4 : d < 4) (wM : M.wf = true) (hw : ∀ w ∈ ws, w.1 ∈ pas) :
    HeldBack s (ws.foldl (fun s w => s.homeWrite c w.1 w.2) t) d pas (ws.foldl (fun m w => mput m w.1 w.2) M) := by
  induction ws generalizing t M with
  | nil => exact h
  | cons w ws ih =>
    exact ih (h.homeWrite hd h4 wM (hw w List.mem_cons_self) w.2) (wf_mput w.1 w.2 wM) fun v hv => hw v (List.mem_cons_of_mem w hv)

/-- A location is read at its home, the die's copy of it written back first. -/
theorem heldBack_homeRead {s : State} {c : Nat} (pas : List Nat) (hc : dieOf c < 4) (wm : s.mem.wf = true) (wc : (s.die (dieOf c)).copies.wf = true) :
    HeldBack s (s.homeRead c pas).1 (dieOf c) pas (s.homeRead c pas).1.mem := by
  have hm := dieEvict_mem (dieOf c) (fun l => pas.any (fun a => lineOf a == l)) wm
  have e := dieEvict_die s (fun l => pas.any (fun a => lineOf a == l)) hc
  unfold State.homeRead
  dsimp only
  refine ⟨dieFlush_wf _ _ wm, by rw [e]; exact wf_mdrop (fun a => pas.any (fun b => lineOf b == lineOf a)) wc, fun _ _ => rfl, fun a _ => ?_, fun a ha => ?_⟩
  · rw [hm]
    split
    · next g => exact .inr ⟨g.1, rfl⟩
    · exact .inl rfl
  · rw [e] at ha ⊢
    obtain ⟨hin, hp⟩ := List.mem_filter.mp ha
    have keep : pas.any (fun b => lineOf b == lineOf a) = false := by simpa using hp
    refine ⟨fun g => ?_, hin, .inr ?_⟩
    · rw [List.any_eq_true.mpr ⟨a, g, by simp⟩] at keep
      cases keep
    · rw [mget_mdrop, keep]
      rfl

/-! ### A store released at device scope (R153) -/

/-- Home memory in canonical form, and nothing dirty in the slices of die `d`. -/
structure WrittenBack (s : State) (d : Nat) : Prop where
  mem : s.mem.wf = true
  clean : s.clean d

theorem writtenBack_dieFlush {s : State} {d : Nat} (hd : d < 4) (w : s.mem.wf = true) : WrittenBack (s.dieFlush d (fun _ => true)) d where
  mem := dieFlush_wf d _ w
  clean := by
    rw [State.clean, dieFlush_die s _ hd]
    exact List.filter_eq_nil_iff.mpr fun _ _ => by simp

theorem homeWrite_writtenBack {s : State} {c : Nat} (pa : Nat) (b : Byte) (hc : dieOf c < 4) (h : WrittenBack s (dieOf c)) :
    WrittenBack (s.homeWrite c pa b) (dieOf c) ∧ ∀ a, mget (s.homeWrite c pa b).mem a = if a = pa then b else mget s.mem a := by
  have hm (a : Nat) : mget (s.dieEvict (dieOf c) (fun l => l == lineOf pa)).mem a = mget s.mem a := by
    rw [dieEvict_mem _ _ h.mem, show (s.die (dieOf c)).dirty = [] from h.clean]
    simp
  have wf : (s.dieEvict (dieOf c) (fun l => l == lineOf pa)).mem.wf = true := dieFlush_wf _ _ h.mem
  have hclean := clean_dieEvict (d := dieOf c) (p := fun l => l == lineOf pa) hc h.clean
  unfold State.homeWrite
  dsimp only
  generalize s.dieEvict (dieOf c) (fun l => l == lineOf pa) = u at hm wf hclean ⊢
  have hq : (({ u with mem := mput u.mem pa b } : State).queueClobber pa).mem = mput u.mem pa b := queueClobber_mem ..
  have hdies : (({ u with mem := mput u.mem pa b } : State).queueClobber pa).dies = u.dies := queueClobber_dies ..
  generalize ({ u with mem := mput u.mem pa b } : State).queueClobber pa = v at hq hdies ⊢
  refine ⟨⟨?_, ?_⟩, fun a => ?_⟩
  · show v.mem.wf = true
    rw [hq]; exact wf_mput pa b wf
  · show (vget v.dies (dieOf c) Die.fresh).dirty = []
    rw [hdies]; exact hclean
  · show mget v.mem a = _
    rw [hq]
    by_cases ha : a = pa
    · rw [if_pos ha, ha, mget_mput_self _ _ wf]
    · rw [if_neg ha, mget_mput_other _ _ _ _ ha, hm]

theorem homeWrites_writtenBack {s : State} {c : Nat} (ws : List (Nat × Byte)) (hc : dieOf c < 4) (h : WrittenBack s (dieOf c)) :
    WrittenBack (ws.foldl (fun s w => s.homeWrite c w.1 w.2) s) (dieOf c) ∧
    ∀ a, mget (ws.foldl (fun s w => s.homeWrite c w.1 w.2) s).mem a = (lastWrite ws a).getD (mget s.mem a) := by
  induction ws generalizing s with
  | nil => exact ⟨h, fun _ => rfl⟩
  | cons w ws ih =>
    obtain ⟨h1, h2⟩ := homeWrite_writtenBack w.1 w.2 hc h
    obtain ⟨i1, i2⟩ := ih h1
    refine ⟨i1, fun a => (i2 a).trans ?_⟩
    rw [lastWrite_cons, h2 a]
    cases lastWrite ws a with
    | some b => rfl
    | none => by_cases ha : a = w.1 <;> simp [ha, Ne.symm]

/-- A store whose bytes are all there writes them all. -/
theorem storeFor_eq {s : State} {c : Nat} {o : MemOp} (h : ∀ w ∈ o.writes, s.isLost w.1 = false) :
    s.storeFor c o = (if o.ord < 2 ∨ o.scope = 0 then s.storeBytes c o o.writes else (s.storeBytes c o o.writes).publish c o.scope) := by
  have all : o.writes.filter (fun w => !s.isLost w.1) = o.writes := List.filter_eq_self.mpr fun w hw => by simp [h w hw]
  rw [State.storeFor, all]

/-- A store that is not released beyond its die reads as performed there. -/
theorem storeFor_plain {s : State} {c : Nat} {o : MemOp} (hc : dieOf c < 4) (h : Stores s (dieOf c) o.writes.length)
    (hl : ∀ w ∈ o.writes, s.isLost w.1 = false) (ho : o.ord < 2 ∨ o.scope < 2) (a : Nat) :
    (s.storeFor c o).dieRead (dieOf c) a = (lastWrite o.writes a).getD (s.dieRead (dieOf c) a) ∧
    (lastWrite o.writes a = none → mget (s.storeFor c o).mem a = mget s.mem a) := by
  have bytes : s.storeBytes c o o.writes = s.coreWrites c o.writes := if_pos (by omega)
  have written := coreWrites_read o.writes hc h a
  rw [storeFor_eq hl, bytes]
  generalize s.coreWrites c o.writes = u at written ⊢
  split
  · exact written
  · obtain ⟨h1, h2, -, h4⟩ := publish_slices u o.scope hc
    rw [if_neg (by omega : ¬2 ≤ o.scope)] at h1 h2 h4
    have read : (u.publish c o.scope).dieRead (dieOf c) a = u.dieRead (dieOf c) a := by simp only [State.dieRead, h1, h2, h4]
    rw [read, h1]
    exact written

/-- One released at device scope is home memory's, with all that its die's slices held dirty. -/
theorem storeFor_device {s : State} {c : Nat} {o : MemOp} (hc : dieOf c < 4) (w : s.mem.wf = true)
    (hl : ∀ w ∈ o.writes, s.isLost w.1 = false) (ho : 2 ≤ o.ord) (hs : 2 ≤ o.scope) (a : Nat) :
    mget (s.storeFor c o).mem a =
      (lastWrite o.writes a).getD (if a ∈ (s.die (dieOf c)).dirty then mget (s.die (dieOf c)).copies a else mget s.mem a) := by
  have bytes : s.storeBytes c o o.writes = o.writes.foldl (fun s w => s.homeWrite c w.1 w.2) (s.dieFlush (dieOf c) (fun _ => true)) := if_neg (by omega)
  obtain ⟨written, read⟩ := homeWrites_writtenBack o.writes hc (writtenBack_dieFlush hc w)
  rw [storeFor_eq hl, if_neg (by omega), bytes]
  generalize o.writes.foldl (fun s w => s.homeWrite c w.1 w.2) (s.dieFlush (dieOf c) (fun _ => true)) = u at written read ⊢
  obtain ⟨h1, -⟩ := publish_slices u o.scope hc
  rw [h1, if_pos hs, dieFlush_mem _ _ written.mem, show (u.die (dieOf c)).dirty = [] from written.clean, read, dieFlush_mem _ _ w]
  simp

/-! ### Contexts while accesses are performed -/

theorem keepsCtxs_queueClobber (s : State) (c pa : Nat) : KeepsCtxs s (s.queueClobber pa) c := by
  obtain ⟨q, n, h⟩ := queueClobber_eq s pa
  rw [h]
  exact .of_cores c rfl rfl

theorem keepsCtxs_dieWrite (s : State) (c d pa : Nat) (b : Byte) : KeepsCtxs s (s.dieWrite d pa b) c := by
  unfold State.dieWrite
  split
  · exact .of_cores c rfl rfl
  · exact (keepsCtxs_dieFill s c d pa).trans (.of_cores c rfl rfl)

theorem l1Update_ctx (k : Core) (pa : Nat) (b : Byte) (y : Nat) : (k.l1Update pa b).ctx y = k.ctx y := by
  unfold Core.l1Update
  split <;> rfl

theorem keepsCtxs_noteWrite (s : State) (c pa : Nat) (b : Byte) :
    KeepsCtxs s (s.modCore c (fun k => { k.l1Update pa b with written := insertNat (lineOf pa) k.written })) c :=
  .modCore s c fun y => l1Update_ctx (s.core c) pa b y

theorem keepsCtxs_coreWrite (s : State) (c pa : Nat) (b : Byte) : KeepsCtxs s (s.coreWrite c pa b) c :=
  ((keepsCtxs_dieWrite s c _ pa b).trans (keepsCtxs_queueClobber ..)).trans (keepsCtxs_noteWrite ..)

theorem keepsCtxs_homeWrite (s : State) (c pa : Nat) (b : Byte) : KeepsCtxs s (s.homeWrite c pa b) c := by
  have put (u : State) : KeepsCtxs u ({ u with mem := mput u.mem pa b } : State) c := .of_cores c rfl rfl
  exact (((keepsCtxs_dieEvict s c _ _).trans (put _)).trans (keepsCtxs_queueClobber _ c pa)).trans (keepsCtxs_noteWrite _ c pa b)

theorem keepsCtxs_homeWrites (s : State) (c : Nat) (ws : List (Nat × Byte)) : KeepsCtxs s (ws.foldl (fun s w => s.homeWrite c w.1 w.2) s) c :=
  .foldl (fun s (w : Nat × Byte) => keepsCtxs_homeWrite s c w.1 w.2) ws s

theorem keepsCtxs_storeFor (s : State) (c : Nat) (o : MemOp) : KeepsCtxs s (s.storeFor c o) c := by
  have bytes (ws : List (Nat × Byte)) : KeepsCtxs s (s.storeBytes c o ws) c := by
    unfold State.storeBytes
    split
    · exact .foldl (fun s (w : Nat × Byte) => keepsCtxs_coreWrite s c w.1 w.2) ws s
    · have flushed : KeepsCtxs s (s.dieFlush (dieOf c) (fun _ => true)) c := .of_cores c rfl rfl
      exact flushed.trans (keepsCtxs_homeWrites _ c ws)
  unfold State.storeFor
  dsimp only
  split
  · exact bytes _
  · exact (bytes _).trans (keepsCtxs_publish ..)

theorem keepsCtxs_reread (s : State) (c scope pa : Nat) : KeepsCtxs s (s.reread c scope pa) c := by
  have evicted : KeepsCtxs s (if 2 ≤ scope ∧ homeDie pa ≠ dieOf c then s.dieEvict (dieOf c) (fun x => x == lineOf pa) else s) c := by
    split
    · exact keepsCtxs_dieEvict ..
    · exact .refl ..
  exact (evicted.trans (.modCore _ c fun _ => rfl)).trans (keepsCtxs_fillLines ..)

theorem keepsCtxs_rmwRelease (s : State) (c : Nat) (o : MemOp) : KeepsCtxs s (s.rmwRelease c o) c := by
  unfold State.rmwRelease
  split
  · exact keepsCtxs_publish ..
  · exact .refl ..

theorem keepsCtxs_rmwAcquire (s : State) (c : Nat) (o : MemOp) : KeepsCtxs s (s.rmwAcquire c o) c := by
  unfold State.rmwAcquire
  split
  · exact keepsCtxs_acquire ..
  · exact .refl ..

/-- Where nothing inside the core waited for it alone, an access performed only leaves its context's accesses. -/
theorem opDone_plain {s : State} {c x id : Nat} (hx : x < 4) (h : ((s.ctx c x).dropOp id).innerReady = none) :
    s.opDone c x id = s.putCtx c x ((s.ctx c x).dropOp id) :=
  settleOps_of_none (by rw [State.ctx_modCtx_self _ _ _ _ hx]; exact h)

/-! ### Atomics and reductions at their home slice (R78) -/

/-- What an RMW that found nothing lost leaves of the module, before its entry is filled: `new` is the value it writes, `none` for a failing `acas`. -/
def State.rmw (s : State) (c : Nat) (o : MemOp) (pas : List Nat) (new : Option Nat) : State :=
  let u := (s.homeRead c pas).1
  (match new with
   | some v => (u.rmwRelease c o).homeWrites c pas v
   | none => u.reread c 2 (pas.headD 0)).rmwAcquire c o

theorem keepsCtxs_rmw (s : State) (c : Nat) (o : MemOp) (pas : List Nat) (new : Option Nat) : KeepsCtxs s (s.rmw c o pas new) c := by
  have read : KeepsCtxs s (s.homeRead c pas).1 c := keepsCtxs_dieEvict s c (dieOf c) (fun l => pas.any (fun a => lineOf a == l))
  unfold State.rmw
  dsimp only
  refine KeepsCtxs.trans ?_ (keepsCtxs_rmwAcquire ..)
  split
  · exact (read.trans (keepsCtxs_rmwRelease ..)).trans (keepsCtxs_homeWrites ..)
  · exact read.trans (keepsCtxs_reread ..)

theorem homeRead_value (s : State) (c A n : Nat) : (s.homeRead c (span A n)).2 = leNat (mread (s.homeRead c (span A n)).1.mem A n) := by
  simp only [State.homeRead, mread, span, List.map_map]
  rfl

/-- The bytes an RMW leaves at its home slice, and every other byte of home memory. -/
theorem rmw_mem {s : State} {c A n : Nat} (o : MemOp) (new : Option Nat) (hc : dieOf c < 4) (wm : s.mem.wf = true)
    (wc : (s.die (dieOf c)).copies.wf = true) :
    let t := s.rmw c o (span A n) new
    leNat ((span A n).map (mget t.mem)) = (new.map (fun v => v % 256 ^ n)).getD (s.homeRead c (span A n)).2 ∧
    ∀ a, a ∉ span A n → mget t.mem a = mget s.mem a ∨ (a ∈ (s.die (dieOf c)).dirty ∧ mget t.mem a = mget (s.die (dieOf c)).copies a) := by
  intro t
  have read := heldBack_homeRead (span A n) hc wm wc
  have acquired {u : State} {M : Memory} (h : HeldBack s u (dieOf c) (span A n) M) : HeldBack s (u.rmwAcquire c o) (dieOf c) (span A n) M := by
    unfold State.rmwAcquire
    split
    · exact h.acquire rfl hc _
    · exact h
  have released {u : State} {M : Memory} (h : HeldBack s u (dieOf c) (span A n) M) : HeldBack s (u.rmwRelease c o) (dieOf c) (span A n) M := by
    unfold State.rmwRelease
    split
    · exact h.publish rfl hc _
    · exact h
  have value {M : Memory} (h : HeldBack s t (dieOf c) (span A n) M) : leNat ((span A n).map (mget t.mem)) = leNat (mread M A n) := by
    rw [List.map_congr_left h.here]
    simp only [mread, span, List.map_map]
    rfl
  cases new with
  | none =>
    have held : HeldBack s t (dieOf c) (span A n) _ := acquired (read.reread rfl hc 2 _)
    exact ⟨(value held).trans (homeRead_value ..).symm, held.there⟩
  | some v =>
    have wrote := (released read).homeWrites ((span A n).zip (leBytes (span A n).length v)) rfl hc read.mem fun w hw => (List.of_mem_zip hw).1
    have held : HeldBack s t (dieOf c) (span A n) _ := acquired wrote
    refine ⟨(value held).trans ?_, held.there⟩
    have hz (M : Memory) : ((span A n).zip (leBytes n v)).foldl (fun m w => mput m w.1 w.2) M = mwrite M A (leBytes n v) := by
      have := foldl_mput_zip_span M A (leBytes n v)
      rwa [length_leBytes] at this
    rw [show (span A n).length = n from by simp [span], hz]
    have hb := mread_mwrite A (leBytes n v) read.mem
    rw [length_leBytes] at hb
    rw [hb, leNat_leBytes]
    rfl

/-! ### The events of stores, atomics and reductions (R77, R78) -/

theorem State.ctx_putCtx_self (s : State) (c x : Nat) (w : Ctx) (h : x < 4) : (s.putCtx c x w).ctx c x = w := ctx_modCtx_self s c x (fun _ => w) h

theorem State.ctx_putCtx_other (s : State) (c x y : Nat) (w : Ctx) (h : y ≠ x) : (s.putCtx c x w).ctx c y = s.ctx c y :=
  ctx_modCtx_other s c x y (fun _ => w) h

section
variable {s u : State} {c x id : Nat}

/-- An access performed where nothing inside the core waits for it alone: `w` is its context then, and the rest is as `u` has it. -/
theorem ctxs_of_opDone {w : Ctx} (hx : x < 4) (h : KeepsCtxs s u c) :
    (u.putCtx c x w).tick.ctx c x = w ∧ (∀ y, y ≠ x → (u.putCtx c x w).tick.ctx c y = s.ctx c y) ∧
    (u.putCtx c x w).tick.launches = s.launches :=
  ⟨State.ctx_putCtx_self u c x w hx, fun y hy => (State.ctx_putCtx_other u c x y w hy).trans (h.ctx y), h.launches⟩

/-- What waits inside the core after an access, where its context's other accesses stand. -/
theorem innerReady_dropOp {v w : Ctx} (h : (v.dropOp id).innerReady = none) (ho : w.ops = v.ops) : (w.dropOp id).innerReady = none :=
  innerReady_none_of_ops h (congrArg (List.filter (fun (o : MemOp) => o.id != id)) ho)

theorem lostAccess_ctx (s : State) (c x : Nat) (o : MemOp) (pa : Nat) (hx : x < 4) :
    ∃ q : Trap, q.cause = 14 ∧ (s.lostAccess c x o pa).ctx c x = { s.ctx c x with pending := dueInOrder q (s.ctx c x).pending } := by
  unfold State.lostAccess State.post State.postTrap
  exact ⟨_, rfl, State.ctx_modCtx_self _ _ _ _ hx⟩

theorem lostAccess_mem (s : State) (c x : Nat) (o : MemOp) (pa : Nat) : (s.lostAccess c x o pa).mem = s.mem := rfl

end

section
variable {s : State} {c x k : Nat} {o : MemOp}

theorem storeNow_good (h : (s.ctx c x).opReady k = some o) (hk : o.kind = .store none) (hl : (o.writes.map (fun w => w.1)).find? s.isLost = none) :
    s.storeNow c x k = (s.storeFor c o).opDone c x o.id := by
  simp only [State.storeNow, h, hk, hl, if_true]

theorem storeNow_lost {pa : Nat} (h : (s.ctx c x).opReady k = some o) (hk : o.kind = .store none)
    (hl : (o.writes.map (fun w => w.1)).find? s.isLost = some pa) :
    s.storeNow c x k = ((s.lostAccess c x o pa).storeFor c o).opDone c x o.id := by
  simp only [State.storeNow, h, hk, hl, if_true]

variable (hp : s.powered = true) (h : (s.ctx c x).opReady k = some o) (hh : s.halves c x o.covers = [])
include hp h hh

theorem exec_storePerform : exec (.storePerform c x k) s = .next (s.storeNow c x k).tick := by
  have : s.storePerform c x k = s.storeNow c x k := by rw [State.storePerform, coversAt_of_opReady h, whole_of_none hh]
  exact (happen_eq (fun s => s.storePerform c x k) hp).trans (congrArg (fun u : State => Host.Outcome.next u.tick) this)

theorem exec_sliceAtomic : exec (.sliceAtomic c x k) s = .next (s.atomicNow c x k).tick := by
  have : s.sliceAtomic c x k = s.atomicNow c x k := by rw [State.sliceAtomic, coversAt_of_opReady h, whole_of_none hh]
  exact (happen_eq (fun s => s.sliceAtomic c x k) hp).trans (congrArg (fun u : State => Host.Outcome.next u.tick) this)

theorem exec_sliceReduction : exec (.sliceReduction c x k) s = .next (s.reductionNow c x k).tick := by
  have : s.sliceReduction c x k = s.reductionNow c x k := by rw [State.sliceReduction, coversAt_of_opReady h, whole_of_none hh]
  exact (happen_eq (fun s => s.sliceReduction c x k) hp).trans (congrArg (fun u : State => Host.Outcome.next u.tick) this)

variable (hx : x < 4) (hi : ((s.ctx c x).dropOp o.id).innerReady = none)
include hx hi

/-- A store that meets data lost since its issue raises MCHK (log entry 91). -/
theorem store_meets_loss (hk : o.kind = .store none) {pa : Nat} (hl : (o.writes.map (fun w => w.1)).find? s.isLost = some pa) :
    let v := (s.ctx c x).dropOp o.id
    ∃ t q, exec (.storePerform c x k) s = .next t ∧ q.cause = 14 ∧ t.ctx c x = { v with pending := dueInOrder q v.pending } := by
  intro v
  obtain ⟨q, hq, hctx⟩ := lostAccess_ctx s c x o pa hx
  have kept := (keepsCtxs_storeFor (s.lostAccess c x o pa) c o).ctx x
  rw [hctx] at kept
  have done : s.storeNow c x k = ((s.lostAccess c x o pa).storeFor c o).putCtx c x { v with pending := dueInOrder q v.pending } := by
    rw [storeNow_lost h hk hl, opDone_plain hx (by rw [kept]; exact innerReady_dropOp hi rfl), kept]
    rfl
  refine ⟨_, q, exec_storePerform hp h hh, hq, ?_⟩
  rw [done]
  exact State.ctx_putCtx_self _ _ _ _ hx

/-- A store whose bytes are all there is performed: only it leaves its context, and its bytes are written. -/
theorem store_performed (hk : o.kind = .store none) (hl : ∀ w ∈ o.writes, s.isLost w.1 = false) :
    exec (.storePerform c x k) s = .next ((s.storeFor c o).putCtx c x ((s.ctx c x).dropOp o.id)).tick := by
  have none_lost : (o.writes.map (fun w => w.1)).find? s.isLost = none := by
    refine List.find?_eq_none.mpr fun pa hpa => ?_
    obtain ⟨w, hw, rfl⟩ := List.mem_map.mp hpa
    simp [hl w hw]
  have kept := (keepsCtxs_storeFor s c o).ctx x
  rw [exec_storePerform hp h hh, storeNow_good h hk none_lost, opDone_plain hx (by rw [kept]; exact hi), kept]

/-- What a returning atomic that found nothing lost leaves. -/
theorem atomic_performed {f : AtomOp} {size : Nat} {w e : W64} {entry : Nat} (hk : o.kind = .atomic f size w e entry)
    (hl : (o.bytes.map (fun b => b.1)).find? s.isLost = none) :
    let pas := o.bytes.map (fun b => b.1)
    let old := (s.homeRead c pas).2
    let new := if f = .cas ∧ old ≠ e.toNat then none else some (f.apply (8 * size) old w.toNat e.toNat)
    exec (.sliceAtomic c x k) s = .next ((s.rmw c o pas new).putCtx c x
      (((s.ctx c x).dropOp o.id).fillLqs entry (BitVec.ofInt 64 (sbits old 0 (8 * size))))).tick := by
  intro pas old new
  have now : s.atomicNow c x k =
      ((s.rmw c o pas new).modCtx c x (fun y => y.fillLqs entry (BitVec.ofInt 64 (sbits old 0 (8 * size))))).opDone c x o.id := by
    simp only [State.atomicNow, h, hk, hl]
    by_cases hf : f = .cas ∧ old ≠ e.toNat
    · have hn : new = none := if_pos hf
      rw [hn, if_pos hf]
      rfl
    · have hn : new = some (f.apply (8 * size) old w.toNat e.toNat) := if_neg hf
      rw [hn, if_neg hf]
      rfl
  have kept := (keepsCtxs_rmw s c o pas new).ctx x
  rw [exec_sliceAtomic hp h hh, now, opDone_eq _ _ _ _ _ hx (by rw [kept]; exact innerReady_dropOp hi rfl), kept]
  rfl

/-- An atomic on lost data is not performed. -/
theorem atomic_meets_loss {f : AtomOp} {size : Nat} {w e : W64} {entry : Nat} (hk : o.kind = .atomic f size w e entry) {pa : Nat}
    (hl : (o.bytes.map (fun b => b.1)).find? s.isLost = some pa) :
    exec (.sliceAtomic c x k) s = .next (s.putCtx c x (((s.ctx c x).dropOp o.id).loseEntry entry 0 o.va pa)).tick := by
  have now : s.atomicNow c x k = (s.modCtx c x (fun y => y.loseEntry entry 0 o.va pa)).opDone c x o.id := by
    simp only [State.atomicNow, h, hk, hl]
  rw [exec_sliceAtomic hp h hh, now, opDone_eq _ _ _ _ _ hx (innerReady_dropOp hi rfl)]
  rfl

/-- What a reduction that found nothing lost leaves. -/
theorem reduction_performed {f : RedOp} {size : Nat} {w : W64} (hk : o.kind = .reduce f size w)
    (hl : (o.bytes.map (fun b => b.1)).find? s.isLost = none) :
    let pas := o.bytes.map (fun b => b.1)
    exec (.sliceReduction c x k) s = .next ((s.rmw c o pas (some (f.apply (8 * size) (s.homeRead c pas).2 w.toNat))).putCtx c x
      ((s.ctx c x).dropOp o.id)).tick := by
  intro pas
  have now : s.reductionNow c x k = (s.rmw c o pas (some (f.apply (8 * size) (s.homeRead c pas).2 w.toNat))).opDone c x o.id := by
    simp only [State.reductionNow, h, hk, hl]
    rfl
  have kept := (keepsCtxs_rmw s c o pas (some (f.apply (8 * size) (s.homeRead c pas).2 w.toNat))).ctx x
  rw [exec_sliceReduction hp h hh, now, opDone_plain hx (by rw [kept]; exact hi), kept]

/-- A reduction on lost data is not performed, and raises MCHK. -/
theorem reduction_meets_loss {f : RedOp} {size : Nat} {w : W64} (hk : o.kind = .reduce f size w) {pa : Nat}
    (hl : (o.bytes.map (fun b => b.1)).find? s.isLost = some pa) :
    ∃ t q, exec (.sliceReduction c x k) s = .next t ∧ t.mem = s.mem ∧ (t.ctx c x).pending = dueInOrder q (s.ctx c x).pending ∧ q.cause = 14 ∧
      (t.ctx c x).ops = ((s.ctx c x).dropOp o.id).ops := by
  obtain ⟨q, hq, hctx⟩ := lostAccess_ctx s c x o pa hx
  have now : s.reductionNow c x k = (s.lostAccess c x o pa).putCtx c x (((s.lostAccess c x o pa).ctx c x).dropOp o.id) := by
    have : s.reductionNow c x k = (s.lostAccess c x o pa).opDone c x o.id := by simp only [State.reductionNow, h, hk, hl]
    rw [this, opDone_plain hx (by rw [hctx]; exact innerReady_dropOp hi rfl)]
  refine ⟨_, q, exec_sliceReduction hp h hh, ?_⟩
  rw [now]
  have hw : (((s.lostAccess c x o pa).putCtx c x (((s.lostAccess c x o pa).ctx c x).dropOp o.id)).tick).ctx c x =
      ((s.lostAccess c x o pa).ctx c x).dropOp o.id := State.ctx_putCtx_self _ _ _ _ hx
  rw [hw, hctx]
  exact ⟨rfl, rfl, hq, rfl⟩

end

/-- The value a failing `acas` leaves is the old one. -/
theorem atomic_new_value (f : AtomOp) (n old v e : Nat) (h : old < 2 ^ n) :
    ((if f = .cas ∧ old ≠ e then none else some (f.apply n old v e)).map (fun v => v % 2 ^ n)).getD old = f.apply n old v e % 2 ^ n := by
  split
  · next hf => simp [hf.1, AtomOp.apply, hf.2, Nat.mod_eq_of_lt h]
  · rfl

theorem homeRead_lt (s : State) (c : Nat) (pas : List Nat) : (s.homeRead c pas).2 < 2 ^ (8 * pas.length) := by
  have := leNat_lt (pas.map (mget (s.dieEvict (dieOf c) (fun l => pas.any (fun a => lineOf a == l))).mem))
  rwa [List.length_map, show (256 : Nat) = 2 ^ 8 from rfl, ← Nat.pow_mul] at this

theorem find?_isLost_of_all {s : State} {pas : List Nat} (h : pas.all (fun a => !s.isLost a) = true) : pas.find? s.isLost = none :=
  List.find?_eq_none.mpr fun a ha => by simpa using List.all_eq_true.mp h a ha

/-- Settles O38: each event is the access's own writes at the slices of its die or at home, with its context's other accesses kept. -/
theorem storeAndAtomicEvents : Obligations.StoreAndAtomicEvents := by
  unfold Obligations.StoreAndAtomicEvents
  intro s c x k o hp hc hx h wm wc hh room
  have hd : dieOf c < 4 := Nat.div_lt_of_lt_mul hc
  intro v pas last held home
  refine ⟨⟨_, exec_storePerform hp h hh⟩, ⟨_, exec_sliceAtomic hp h hh⟩, ⟨_, exec_sliceReduction hp h hh⟩,
    fun hi hk pa hl => store_meets_loss hp h hh hx hi hk hl, fun hi hk hl => ?_, ?_, ?_⟩
  · obtain ⟨h1, h2, h3⟩ := ctxs_of_opDone (w := v) hx (keepsCtxs_storeFor s c o)
    exact ⟨_, store_performed hp h hh hx hi hk hl, h1, h2, h3, fun ho a => storeFor_plain hd ⟨wm, wc, room⟩ hl ho a,
      fun ho hs a => storeFor_device hd wm hl ho hs a⟩
  · intro f size A w e entry hi hk _ hpas
    refine ⟨fun hall => ?_, fun pa hl => atomic_meets_loss hp h hh hx hi hk hl⟩
    intro old
    have done := atomic_performed hp h hh hx hi hk (find?_isLost_of_all hall)
    have hold : old < 2 ^ (8 * size) := by
      have := homeRead_lt s c pas
      rwa [hpas, span, List.length_map, List.length_range, ← span, ← hpas] at this
    obtain ⟨value, there⟩ := rmw_mem (n := size) (A := A) o (if f = .cas ∧ old ≠ e.toNat then none else some (f.apply (8 * size) old w.toNat e.toNat)) hd wm wc
    rw [← hpas, show 256 ^ size = 2 ^ (8 * size) from (Nat.pow_mul 2 8 size).symm, atomic_new_value f _ _ _ _ hold] at value
    rw [← hpas] at there
    obtain ⟨h1, h2, -⟩ := ctxs_of_opDone (w := v.fillLqs entry (BitVec.ofInt 64 (sbits old 0 (8 * size)))) hx (keepsCtxs_rmw s c o pas _)
    exact ⟨_, done, h2, h1, value, there⟩
  · intro f size A w hi hk _ hpas
    refine ⟨fun hall => ?_, fun pa hl => reduction_meets_loss hp h hh hx hi hk hl⟩
    have done := reduction_performed hp h hh hx hi hk (find?_isLost_of_all hall)
    obtain ⟨value, there⟩ := rmw_mem (n := size) (A := A) o (some (f.apply (8 * size) (s.homeRead c pas).2 w.toNat)) hd wm wc
    rw [← hpas, show 256 ^ size = 2 ^ (8 * size) from (Nat.pow_mul 2 8 size).symm] at value
    rw [← hpas] at there
    obtain ⟨h1, h2, -⟩ := ctxs_of_opDone (w := v) hx (keepsCtxs_rmw s c o pas (some (f.apply (8 * size) (s.homeRead c pas).2 w.toNat)))
    exact ⟨_, done, h1, h2, value, there⟩

end Sys2Proof.Machine

namespace Sys2Proof.Machine

open Sys2Proof.Claim

/-! ### Contexts and slice queues while a core's caches change -/

/-- Every context and every slice queue of `t` is as in `s`. -/
structure KeepsQueues (s t : State) : Prop where
  slices : t.sliceQueues = s.sliceQueues
  ctx : ∀ a y, t.ctx a y = s.ctx a y

theorem KeepsQueues.refl (s : State) : KeepsQueues s s := ⟨rfl, fun _ _ => rfl⟩

theorem KeepsCtxs.ctx_all {s t : State} {c : Nat} (h : KeepsCtxs s t c) (a y : Nat) : t.ctx a y = s.ctx a y := by
  by_cases ha : a = c
  · rw [ha]; exact h.ctx y
  · exact congrArg (fun k : Core => k.ctx y) (h.cores a ha)

theorem dieFill_slices (s : State) (d pa : Nat) : (s.dieFill d pa).sliceQueues = s.sliceQueues := by
  unfold State.dieFill
  split
  · rfl
  · obtain h | ⟨p, h⟩ := dieRoom_cases s d pa
    · rw [h]; rfl
    · rw [h]; rfl

theorem fillLines_slices (s : State) (c : Nat) (ls : List Nat) : (s.fillLines c ls).sliceQueues = s.sliceQueues := by
  have sector (s : State) (pa : Nat) : (s.l1Fill c pa).sliceQueues = s.sliceQueues := by
    unfold State.l1Fill
    split
    · rfl
    · exact dieFill_slices s (dieOf c) pa
  exact foldl_keeps State.sliceQueues (fun s l => foldl_keeps State.sliceQueues (fun s x => sector s (x * 32)) (span (l * 4) 4) s) ls s

theorem keepsQueues_acquire (s : State) (c scope : Nat) : KeepsQueues s (s.acquire c scope) :=
  ⟨fillLines_slices .., (keepsCtxs_acquire s c scope).ctx_all⟩

theorem keepsQueues_publish (s : State) (c scope : Nat) : KeepsQueues s (s.publish c scope) :=
  ⟨by unfold State.publish; split <;> rfl, (keepsCtxs_publish s c scope).ctx_all⟩

theorem keepsQueues_rmwRelease (s : State) (c : Nat) (o : MemOp) : KeepsQueues s (s.rmwRelease c o) := by
  unfold State.rmwRelease
  split
  · exact keepsQueues_publish ..
  · exact .refl s

theorem keepsQueues_rmwAcquire (s : State) (c : Nat) (o : MemOp) : KeepsQueues s (s.rmwAcquire c o) := by
  unfold State.rmwAcquire
  split
  · exact keepsQueues_acquire ..
  · exact .refl s

/-! ### What the core performs itself leaves of the slice queues and of other contexts -/

theorem performInner_slices (s : State) (c x : Nat) (o : MemOp) : (s.performInner c x o).sliceQueues = s.sliceQueues := by
  have released (p : Prop) [Decidable p] (s : State) : (if p then s.publish c o.scope else s).sliceQueues = s.sliceQueues := by
    split
    · exact (keepsQueues_publish ..).slices
    · rfl
  have acquired (p : Prop) [Decidable p] (s : State) : (if p then s.acquire c o.scope else s).sliceQueues = s.sliceQueues := by
    split
    · exact (keepsQueues_acquire ..).slices
    · rfl
  unfold State.performInner
  dsimp only
  split
  · exact (acquired _ _).trans (released _ s)
  all_goals rfl

theorem settleN_slices (n : Nat) (s : State) (c x : Nat) : (settleN n s c x).sliceQueues = s.sliceQueues := by
  induction n generalizing s with
  | zero => rfl
  | succ n ih =>
    unfold settleN
    split
    · exact (ih _).trans (performInner_slices ..)
    · rfl

theorem ctx_modCtx_ne (s : State) {c x a y : Nat} (f : Ctx → Ctx) (h : (a, y) ≠ (c, x)) : (s.modCtx c x f).ctx a y = s.ctx a y := by
  by_cases ha : a = c
  · subst ha
    exact State.ctx_modCtx_other s a x y f fun hy => h (by rw [hy])
  · exact congrArg (fun k : Core => k.ctx y) (State.core_modCtx_other s c x a f ha)

theorem settleN_ctx_ne (n : Nat) (s : State) {c x a y : Nat} (h : (a, y) ≠ (c, x)) : (settleN n s c x).ctx a y = s.ctx a y := by
  induction n generalizing s with
  | zero => rfl
  | succ n ih =>
    unfold settleN
    split
    · rw [ih, (keepsCtxs_performInner ..).ctx_all, ctx_modCtx_ne _ _ h]
    · rfl

theorem settleOps_ctx_ne (s : State) {c x a y : Nat} (h : (a, y) ≠ (c, x)) : (s.settleOps c x).ctx a y = s.ctx a y := settleN_ctx_ne _ s h

theorem opDone_ctx_ne (s : State) {c x a y : Nat} (id : Nat) (h : (a, y) ≠ (c, x)) : (s.opDone c x id).ctx a y = s.ctx a y :=
  (settleOps_ctx_ne _ h).trans (ctx_modCtx_ne s _ h)

theorem opDone_slices (s : State) (c x id : Nat) : (s.opDone c x id).sliceQueues = s.sliceQueues := settleN_slices ..

/-! ### Answers to a `qdeqw` (R83, R84, R235) -/

/-- The context once its `qdeqw` with entry `entry` is answered. -/
def Ctx.answered (v : Ctx) (entry : Nat) (status val : W64) : Ctx :=
  { (v.fillLqs entry status).fillLqs (entry + 1) val with
    parks := v.parks.filter (fun p => p.2 != entry), ops := v.ops.filter (fun o => o.kind != .queue .deqw 0 entry) }

/-- The answer is an acquire where it is OK, and what then may be performed in the core is. -/
theorem answerEntry_eq (s : State) (c x entry : Nat) (status val : W64) :
    ∃ u, KeepsQueues (s.modCtx c x (fun v => v.answered entry status val)) u ∧ s.answerEntry c x entry status val = u.settleOps c x := by
  unfold State.answerEntry
  refine ⟨_, ?_, rfl⟩
  split
  · exact keepsQueues_acquire ..
  · exact .refl _

theorem answerEntry_slices (s : State) (c x entry : Nat) (status val : W64) : (s.answerEntry c x entry status val).sliceQueues = s.sliceQueues := by
  obtain ⟨u, hu, h⟩ := answerEntry_eq s c x entry status val
  rw [h]
  exact (settleN_slices ..).trans hu.slices

theorem answerEntry_ctx_ne (s : State) {c x a y : Nat} (entry : Nat) (status val : W64) (hne : (a, y) ≠ (c, x)) :
    (s.answerEntry c x entry status val).ctx a y = s.ctx a y := by
  obtain ⟨u, hu, h⟩ := answerEntry_eq s c x entry status val
  rw [h, settleOps_ctx_ne _ hne, hu.ctx, ctx_modCtx_ne _ _ hne]

theorem answerEntry_ctx_self (s : State) {c x : Nat} (entry : Nat) (status val : W64) (hx : x < 4)
    (hi : ((s.ctx c x).answered entry status val).innerReady = none) :
    (s.answerEntry c x entry status val).ctx c x = (s.ctx c x).answered entry status val := by
  obtain ⟨u, hu, h⟩ := answerEntry_eq s c x entry status val
  have hc : u.ctx c x = (s.ctx c x).answered entry status val := (hu.ctx c x).trans (State.ctx_modCtx_self _ _ _ _ hx)
  rw [h, settleOps_of_none (by rw [hc]; exact hi), hc]

/-- Waiters answered one after another. -/
theorem answers_slices (ws : List (Nat × Nat × Nat)) (s : State) (status val : W64) :
    (ws.foldl (fun s w => s.answer w status val) s).sliceQueues = s.sliceQueues := by
  have one (s : State) (w : Nat × Nat × Nat) : (s.answer w status val).sliceQueues = s.sliceQueues := answerEntry_slices s w.1 w.2.1 w.2.2 status val
  exact foldl_keeps State.sliceQueues one ws s

theorem answers_ctx_ne (ws : List (Nat × Nat × Nat)) (s : State) {a y : Nat} (status val : W64) (hne : ∀ b ∈ ws, (b.1, b.2.1) ≠ (a, y)) :
    (ws.foldl (fun s w => s.answer w status val) s).ctx a y = s.ctx a y := by
  induction ws generalizing s with
  | nil => rfl
  | cons b ws ih =>
    rw [List.foldl_cons, ih (s.answer b status val) fun d hd => hne d (List.mem_cons_of_mem b hd)]
    exact answerEntry_ctx_ne s b.2.2 status val (hne b List.mem_cons_self).symm

/-- A waiter that alone stands for its context is answered once. -/
theorem answers_ctx_self (ws : List (Nat × Nat × Nat)) (s : State) {a y n : Nat} (status val : W64) (hy : y < 4) (nodup : ws.Nodup) (hin : (a, y, n) ∈ ws)
    (alone : ∀ b ∈ ws, b ≠ (a, y, n) → (b.1, b.2.1) ≠ (a, y)) (hi : ((s.ctx a y).answered n status val).innerReady = none) :
    (ws.foldl (fun s w => s.answer w status val) s).ctx a y = (s.ctx a y).answered n status val := by
  induction ws generalizing s with
  | nil => cases hin
  | cons b ws ih =>
    obtain ⟨hb, nodup⟩ := List.nodup_cons.mp nodup
    have tail : ∀ d ∈ ws, d ≠ (a, y, n) → (d.1, d.2.1) ≠ (a, y) := fun d hd => alone d (List.mem_cons_of_mem b hd)
    by_cases h : b = (a, y, n)
    · subst h
      have rest : ∀ d ∈ ws, (d.1, d.2.1) ≠ (a, y) := fun d hd => tail d hd fun e => hb (e ▸ hd)
      rw [List.foldl_cons, answers_ctx_ne ws (s.answer (a, y, n) status val) status val rest]
      exact answerEntry_ctx_self s n status val hy hi
    · have kept : (s.answer b status val).ctx a y = s.ctx a y := answerEntry_ctx_ne s b.2.2 status val (alone b List.mem_cons_self h).symm
      have done := ih (s.answer b status val) nodup ((List.mem_cons.mp hin).resolve_left (Ne.symm h)) tail (by rw [kept]; exact hi)
      rw [List.foldl_cons, done, kept]

/-! ### Who waits at the slices (R83) -/

/-- The `qdeqw` of context `x` of core `c` with entry `entry` waits at none of some queues. -/
def Unparked (Q : Table SliceQueue) (c x entry : Nat) : Prop := ∀ e ∈ Q, (c, x, entry) ∉ e.2.waiters

theorem parkedAt_eq_false {s : State} {c x entry : Nat} : s.parkedAt c x entry = false ↔ Unparked s.sliceQueues c x entry := by
  unfold State.parkedAt Unparked
  simp [List.any_eq_false]

theorem mem_of_mem_tdel {α : Type} {t : Table α} {k : Nat} {e : Nat × α} (h : e ∈ tdel t k) : e ∈ t := by
  induction t with
  | nil => cases h
  | cons d t ih =>
    rw [tdel] at h
    split at h
    · exact List.mem_cons_of_mem d h
    · exact (List.mem_cons.mp h).elim (fun g => g ▸ List.mem_cons_self) fun g => List.mem_cons_of_mem d (ih g)

theorem mem_tput {α : Type} {t : Table α} {k : Nat} {v : α} {e : Nat × α} (h : e ∈ tput t k v) : e = (k, v) ∨ e ∈ t := by
  induction t with
  | nil => exact .inl (List.mem_singleton.mp h)
  | cons d t ih =>
    rw [tput] at h
    split at h
    · exact List.mem_cons.mp h
    · split at h
      · exact (List.mem_cons.mp h).imp id (List.mem_cons_of_mem d)
      · obtain g | g := List.mem_cons.mp h
        · exact .inr (g ▸ List.mem_cons_self)
        · exact (ih g).imp id (List.mem_cons_of_mem d)

section
variable {Q : Table SliceQueue} {c x entry : Nat} (h : Unparked Q c x entry)
include h

theorem Unparked.tdel (q : Nat) : Unparked (tdel Q q) c x entry := fun e he => h e (mem_of_mem_tdel he)

theorem Unparked.tput (q : Nat) {e : SliceQueue} (he : (c, x, entry) ∉ e.waiters) : Unparked (tput Q q e) c x entry := fun d hd => by
  obtain rfl | hd := mem_tput hd
  · exact he
  · exact h d hd

theorem Unparked.of_tget {q : Nat} {e : SliceQueue} (he : tget Q q = some e) : (c, x, entry) ∉ e.waiters := h (q, e) (mem_of_tget he)

end

/-! ### How an operation ends at its home slice -/

/-- The access of an operation is performed, but for a `qdeqw` that waits. -/
def State.queueEnd (s : State) (c x entry id : Nat) : State := if s.parkedAt c x entry then s else s.opDone c x id

theorem queueEnd_slices (s : State) (c x entry id : Nat) : (s.queueEnd c x entry id).sliceQueues = s.sliceQueues := by
  unfold State.queueEnd
  split
  · rfl
  · exact opDone_slices ..

theorem queueEnd_ctx_ne (s : State) {c x a y : Nat} (entry id : Nat) (h : (a, y) ≠ (c, x)) : (s.queueEnd c x entry id).ctx a y = s.ctx a y := by
  unfold State.queueEnd
  split
  · rfl
  · exact opDone_ctx_ne s id h

/-- An operation that does not wait leaves its context's accesses. -/
theorem queueEnd_ctx_self {s : State} {c x entry id : Nat} (hx : x < 4) (hu : Unparked s.sliceQueues c x entry)
    (hi : ((s.ctx c x).dropOp id).innerReady = none) : (s.queueEnd c x entry id).ctx c x = (s.ctx c x).dropOp id := by
  rw [State.queueEnd, parkedAt_eq_false.mpr hu, if_neg (by simp), opDone_plain hx hi]
  exact State.ctx_putCtx_self _ _ _ _ hx

/-! ### The operations at their home slice (R82 to R85, R234) -/

/-- Operation `f` performed at the home slice of its queue, and its access with it. -/
def State.queueServed (s : State) (c x : Nat) (f : QueueOp) (w : W64) (entry q : Nat) (o : MemOp) : State :=
  (s.queueEvent c x f w entry q o).queueEnd c x entry o.id

theorem queueServed_plain {s : State} {c x entry q : Nat} {f : QueueOp} {w : W64} {o : MemOp} (hi : f ≠ .init) (hl : f ≠ .len) :
    s.queueServed c x f w entry q o = (s.queueOp c x f w entry q).queueEnd c x entry o.id := by
  cases f with
  | init => exact absurd rfl hi
  | len => exact absurd rfl hl
  | _ => rfl

/-- The state with the slice queues `R`. -/
def State.withQueues (s : State) (R : Table SliceQueue) : State := { s with sliceQueues := R }

/-- A queue's table is changed at `q` alone. -/
def OnlyQueue (Q R : Table SliceQueue) (q : Nat) : Prop := ∀ n, n ≠ q → tget R n = tget Q n

theorem OnlyQueue.refl (Q : Table SliceQueue) (q : Nat) : OnlyQueue Q Q q := fun _ _ => rfl

theorem OnlyQueue.tput (Q : Table SliceQueue) (q : Nat) (e : SliceQueue) : OnlyQueue Q (tput Q q e) q := fun n hn => tget_tput_other Q q n e hn

theorem OnlyQueue.tdel (Q : Table SliceQueue) (q : Nat) : OnlyQueue Q (tdel Q q) q := fun n hn => tget_tdel_other Q q n hn

/-- What an operation leaves: the queues are `R`, and its context is `w`, at the end of its access `z`. -/
structure Served (t : State) (c x : Nat) (z : Ctx) (R : Table SliceQueue) : Prop where
  slices : t.sliceQueues = R
  ctx : t.ctx c x = z

/-- An empty queue as `qinit` makes it, in a ring that has held `past`. -/
def SliceQueue.made (w : W64) (past : List (Nat × W64)) : SliceQueue := { cap := w.toNat, items := [], past := past, next := 0, waiters := [] }

/-- The queues once `qinit` has removed or emptied the queue `e` at `q`. -/
def initQueues (Q : Table SliceQueue) (q : Nat) (w : W64) (e : SliceQueue) : Table SliceQueue :=
  if w = 0 then tdel Q q else tput Q q (.made w e.past)

theorem Unparked.initQueues {Q : Table SliceQueue} {c x entry : Nat} (h : Unparked Q c x entry) (q : Nat) (w : W64) (e : SliceQueue) :
    Unparked (initQueues Q q w e) c x entry := by
  unfold Machine.initQueues
  split
  · exact h.tdel q
  · exact h.tput q (by simp [SliceQueue.made])

theorem OnlyQueue.initQueues (Q : Table SliceQueue) (q : Nat) (w : W64) (e : SliceQueue) : OnlyQueue Q (initQueues Q q w e) q := by
  unfold Machine.initQueues
  split
  · exact .tdel Q q
  · exact .tput Q q _

theorem queuesOf_congr {s t : State} (h : t.sliceQueues = s.sliceQueues) (q : Nat) : t.queuesOf q = s.queuesOf q := by
  unfold State.queuesOf
  rw [h]

theorem ne_zero_of_capOk {w : W64} (h : capOk w.toNat = true) : w ≠ 0 := by
  rintro rfl
  cases h

theorem queueOp_init_some {s : State} {c x entry q : Nat} {w : W64} {e : SliceQueue} (hq : tget s.sliceQueues q = some e)
    (hok : w = 0 ∨ capOk w.toNat = true) : s.queueOp c x .init w entry q =
      ((s.withQueues (initQueues s.sliceQueues q w e)).wakeAll e).modCtx c x (fun y => y.fillLqs entry qOK) := by
  unfold initQueues
  by_cases hw : w = 0
  · simp only [State.queueOp, State.withQueues, hq, hw, if_true]
  · simp only [State.queueOp, State.withQueues, SliceQueue.made, hq, hw, hok.resolve_left hw, if_false, Bool.not_true, Bool.false_eq_true]

theorem queueOp_init_new {s : State} {c x entry q : Nat} {w : W64} (hw : w ≠ 0) (hcap : capOk w.toNat = true) (hq : tget s.sliceQueues q = none) :
    s.queueOp c x .init w entry q = if 64 ≤ s.queuesOf q then s.modCtx c x (fun y => y.fillLqs entry qNOSLOT)
      else (s.withQueues (tput s.sliceQueues q (.made w []))).modCtx c x
        (fun y => y.fillLqs entry qOK) := by
  simp only [State.queueOp, State.withQueues, SliceQueue.made, hq, hw, hcap, if_false, Bool.not_true, Bool.false_eq_true]

theorem queueOp_enq_waiter {s : State} {c x entry q : Nat} {w : W64} {e : SliceQueue} {b : Nat × Nat × Nat} {l : List (Nat × Nat × Nat)}
    (hq : tget s.sliceQueues q = some e) (hw : e.waiters = b :: l) : s.queueOp c x .enq w entry q =
      (((s.withQueues (tput s.sliceQueues q { e with waiters := l })).publish c 2).answer b qOK w).modCtx c x
        (fun y => y.fillLqs entry qOK) := by
  simp only [State.queueOp, State.withQueues, hq, hw]

/-- An answered context once the access of its `qdeqw`, the only one of that entry, is performed. -/
theorem answered_dropOp {v : Ctx} {entry id : Nat} {status val : W64}
    (hr : v.ops.filter (fun (p : MemOp) => p.kind != .queue .deqw 0 entry) = (v.dropOp id).ops) :
    (v.answered entry status val).dropOp id =
      { ((v.dropOp id).fillLqs entry status).fillLqs (entry + 1) val with parks := (v.dropOp id).parks.filter (fun p => p.2 != entry) } := by
  have twice : (v.dropOp id).ops.filter (fun (p : MemOp) => p.id != id) = (v.dropOp id).ops := by
    simp [Ctx.dropOp, List.filter_filter]
  have ops : ((v.answered entry status val).dropOp id).ops = (v.dropOp id).ops := (congrArg (List.filter (fun (p : MemOp) => p.id != id)) hr).trans twice
  exact congrArg (fun l : List MemOp =>
    { ((v.dropOp id).fillLqs entry status).fillLqs (entry + 1) val with parks := (v.dropOp id).parks.filter (fun p => p.2 != entry), ops := l }) ops

theorem wakeAll_slices (s : State) (e : SliceQueue) : (s.wakeAll e).sliceQueues = s.sliceQueues := answers_slices e.waiters s qGONE 0

section
variable {s : State} {c x entry q : Nat} {w : W64} {o : MemOp}

/-- A context that is given a status holds it once its access is performed, where the queues `R` hold it as no waiter. -/
theorem served_of {u : State} {y z : Ctx} {R : Table SliceQueue} (hx : x < 4) (hs : u.sliceQueues = R) (hc : u.ctx c x = y) (hR : Unparked R c x entry)
    (hz : y.dropOp o.id = z) (hi : z.innerReady = none) : Served (u.queueEnd c x entry o.id) c x z R where
  slices := (queueEnd_slices ..).trans hs
  ctx := by
    rw [queueEnd_ctx_self hx (by rw [hs]; exact hR) (by rw [hc, hz]; exact hi), hc, hz]

section
variable (hx : x < 4) (hi : ((s.ctx c x).dropOp o.id).innerReady = none)
include hx hi

/-- A status given to the operation's entry, the queues being `R` then. -/
theorem served_give {t u : State} {R : Table SliceQueue} (status : W64) (hs : t.sliceQueues = R) (hc : t.ctx c x = s.ctx c x) (hR : Unparked R c x entry)
    (hk : KeepsQueues (t.modCtx c x (fun y => y.fillLqs entry status)) u) :
    Served (u.queueEnd c x entry o.id) c x (((s.ctx c x).dropOp o.id).fillLqs entry status) R :=
  served_of hx (hk.slices.trans hs) ((hk.ctx c x).trans (State.ctx_modCtx_self _ _ _ _ hx)) hR (by rw [hc]; rfl) (innerReady_none_of_ops hi rfl)

theorem served_give2 {t : State} {R : Table SliceQueue} (status val : W64) (hs : t.sliceQueues = R) (hc : t.ctx c x = s.ctx c x) (hR : Unparked R c x entry) :
    Served ((t.modCtx c x (fun y => (y.fillLqs entry status).fillLqs (entry + 1) val)).queueEnd c x entry o.id) c x
      ((((s.ctx c x).dropOp o.id).fillLqs entry status).fillLqs (entry + 1) val) R :=
  served_of hx hs (State.ctx_modCtx_self _ _ _ _ hx) hR (by rw [hc]; rfl) (innerReady_none_of_ops hi rfl)

/-- A `qdeqw` answered at once. -/
theorem deqw_answered {t : State} {R : Table SliceQueue} (status val : W64)
    (hr : (s.ctx c x).ops.filter (fun (p : MemOp) => p.kind != .queue .deqw 0 entry) = ((s.ctx c x).dropOp o.id).ops)
    (hs : t.sliceQueues = R) (hc : t.ctx c x = s.ctx c x) (hR : Unparked R c x entry) :
    Served ((t.answerEntry c x entry status val).queueEnd c x entry o.id) c x
      { (((s.ctx c x).dropOp o.id).fillLqs entry status).fillLqs (entry + 1) val with
        parks := ((s.ctx c x).dropOp o.id).parks.filter (fun p => p.2 != entry) } R := by
  have inner : ((t.ctx c x).answered entry status val).innerReady = none := by
    rw [hc]; exact innerReady_none_of_ops hi hr
  exact served_of hx ((answerEntry_slices ..).trans hs) (answerEntry_ctx_self t entry status val hx inner) hR (by rw [hc]; exact answered_dropOp hr)
    (innerReady_none_of_ops hi rfl)

variable (hu : Unparked s.sliceQueues c x entry)
include hu

/-! `qinit` (R82, R84) -/

theorem init_missing (hq : tget s.sliceQueues q = none) :
    Served (s.queueServed c x .init 0 entry q o) c x (((s.ctx c x).dropOp o.id).fillLqs entry 4) s.sliceQueues := by
  have rel := keepsQueues_rmwRelease s c o
  have op : (s.rmwRelease c o).queueOp c x .init 0 entry q = (s.rmwRelease c o).modCtx c x (fun y => y.fillLqs entry qNOQ) := by
    simp only [State.queueOp, rel.slices, hq, if_true]
  refine served_give hx hi qNOQ rel.slices (rel.ctx c x) hu ?_
  rw [← op]
  exact keepsQueues_rmwAcquire ..

theorem init_bad (hw : w ≠ 0) (hcap : capOk w.toNat = false) :
    Served (s.queueServed c x .init w entry q o) c x (((s.ctx c x).dropOp o.id).fillLqs entry 6) s.sliceQueues := by
  have rel := keepsQueues_rmwRelease s c o
  have op : (s.rmwRelease c o).queueOp c x .init w entry q = (s.rmwRelease c o).modCtx c x (fun y => y.fillLqs entry qBADCAP) := by
    simp only [State.queueOp, hw, hcap, if_false, Bool.not_false, if_true]
  refine served_give hx hi qBADCAP rel.slices (rel.ctx c x) hu ?_
  rw [← op]
  exact keepsQueues_rmwAcquire ..

theorem init_full (hcap : capOk w.toNat = true) (hq : tget s.sliceQueues q = none) (hfull : 64 ≤ s.queuesOf q) :
    Served (s.queueServed c x .init w entry q o) c x (((s.ctx c x).dropOp o.id).fillLqs entry 5) s.sliceQueues := by
  have rel := keepsQueues_rmwRelease s c o
  have op : (s.rmwRelease c o).queueOp c x .init w entry q = (s.rmwRelease c o).modCtx c x (fun y => y.fillLqs entry qNOSLOT) := by
    rw [queueOp_init_new (ne_zero_of_capOk hcap) hcap (rel.slices ▸ hq), queuesOf_congr rel.slices, if_pos hfull]
  refine served_give hx hi qNOSLOT rel.slices (rel.ctx c x) hu ?_
  rw [← op]
  exact keepsQueues_rmwAcquire ..

theorem init_made (hcap : capOk w.toNat = true) (hq : tget s.sliceQueues q = none) (hroom : ¬64 ≤ s.queuesOf q) :
    Served (s.queueServed c x .init w entry q o) c x (((s.ctx c x).dropOp o.id).fillLqs entry 0)
      (tput s.sliceQueues q (.made w [])) := by
  have rel := keepsQueues_rmwRelease s c o
  have op : (s.rmwRelease c o).queueOp c x .init w entry q = ((s.rmwRelease c o).withQueues (tput s.sliceQueues q (.made w []))).modCtx c x
        (fun y => y.fillLqs entry qOK) := by
    rw [queueOp_init_new (ne_zero_of_capOk hcap) hcap (rel.slices ▸ hq), queuesOf_congr rel.slices, if_neg hroom, rel.slices]
  refine served_give (t := (s.rmwRelease c o).withQueues (tput s.sliceQueues q (.made w []))) hx hi qOK rfl (rel.ctx c x)
    (hu.tput q (by simp [SliceQueue.made])) ?_
  rw [← op]
  exact keepsQueues_rmwAcquire ..

end

section
variable {e : SliceQueue} (hq : tget s.sliceQueues q = some e) (hok : w = 0 ∨ capOk w.toNat = true)
include hq hok

theorem init_slices : (s.queueServed c x .init w entry q o).sliceQueues = initQueues s.sliceQueues q w e := by
  have rel := keepsQueues_rmwRelease s c o
  refine (queueEnd_slices ..).trans ((keepsQueues_rmwAcquire ..).slices.trans ?_)
  rw [queueOp_init_some (rel.slices ▸ hq) hok, rel.slices]
  exact wakeAll_slices ..

theorem init_emptied (hx : x < 4) (hi : ((s.ctx c x).dropOp o.id).innerReady = none) (hu : Unparked s.sliceQueues c x entry)
    (others : ∀ b ∈ e.waiters, (b.1, b.2.1) ≠ (c, x)) :
    (s.queueServed c x .init w entry q o).ctx c x = ((s.ctx c x).dropOp o.id).fillLqs entry 0 := by
  have rel := keepsQueues_rmwRelease s c o
  have op := queueOp_init_some (c := c) (x := x) (entry := entry) (rel.slices ▸ hq) hok
  rw [rel.slices] at op
  refine (served_give (t := ((s.rmwRelease c o).withQueues (initQueues s.sliceQueues q w e)).wakeAll e) hx hi qOK (wakeAll_slices ..)
    ((answers_ctx_ne _ _ _ _ others).trans (rel.ctx c x)) (hu.initQueues q w e) ?_).ctx
  rw [← op]
  exact keepsQueues_rmwAcquire ..

/-- A waiter of the queue wakes with QGONE. -/
theorem init_wakes {a y n : Nat} (hy : y < 4) (nodup : e.waiters.Nodup) (hin : (a, y, n) ∈ e.waiters) (hne : (a, y) ≠ (c, x))
    (alone : ∀ b ∈ e.waiters, b ≠ (a, y, n) → (b.1, b.2.1) ≠ (a, y)) (hi : ((s.ctx a y).answered n 3 0).innerReady = none) :
    (s.queueServed c x .init w entry q o).ctx a y = (s.ctx a y).answered n 3 0 := by
  have rel := keepsQueues_rmwRelease s c o
  have kept := rel.ctx a y
  refine (queueEnd_ctx_ne _ entry o.id hne).trans (((keepsQueues_rmwAcquire ..).ctx a y).trans ?_)
  rw [queueOp_init_some (rel.slices ▸ hq) hok, ctx_modCtx_ne _ _ hne]
  rw [← kept] at hi ⊢
  exact answers_ctx_self e.waiters _ qGONE 0 hy nodup hin alone hi

end

/-! `qenq` (R83, R85) -/

section
variable (hx : x < 4) (hi : ((s.ctx c x).dropOp o.id).innerReady = none) (hu : Unparked s.sliceQueues c x entry)
include hx hi hu

theorem enq_missing (hq : tget s.sliceQueues q = none) :
    Served (s.queueServed c x .enq w entry q o) c x (((s.ctx c x).dropOp o.id).fillLqs entry 4) s.sliceQueues := by
  have rel := keepsQueues_publish s c 2
  have op : s.queueOp c x .enq w entry q = (s.publish c 2).modCtx c x (fun y => y.fillLqs entry qNOQ) := by simp only [State.queueOp, hq]
  refine served_give hx hi qNOQ rel.slices (rel.ctx c x) hu ?_
  rw [← op]
  exact .refl _

theorem enq_full {e : SliceQueue} (hq : tget s.sliceQueues q = some e) (hw : e.waiters = []) (hfull : e.cap ≤ e.items.length) :
    Served (s.queueServed c x .enq w entry q o) c x (((s.ctx c x).dropOp o.id).fillLqs entry 2) s.sliceQueues := by
  have rel := keepsQueues_publish s c 2
  have op : s.queueOp c x .enq w entry q = (s.publish c 2).modCtx c x (fun y => y.fillLqs entry qFULL) := by
    simp only [State.queueOp, hq, hw, hfull, if_true]
  refine served_give hx hi qFULL rel.slices (rel.ctx c x) hu ?_
  rw [← op]
  exact .refl _

theorem enq_appends {e : SliceQueue} (hq : tget s.sliceQueues q = some e) (hw : e.waiters = []) (hroom : e.items.length < e.cap) :
    Served (s.queueServed c x .enq w entry q o) c x (((s.ctx c x).dropOp o.id).fillLqs entry 0) (tput s.sliceQueues q (e.put w)) := by
  have rel := keepsQueues_publish (s.withQueues (tput s.sliceQueues q (e.put w))) c 2
  have unheld : (c, x, entry) ∉ e.waiters := hu.of_tget hq
  have op : s.queueOp c x .enq w entry q =
      ((s.withQueues (tput s.sliceQueues q (e.put w))).publish c 2).modCtx c x (fun y => y.fillLqs entry qOK) := by
    simp only [State.queueOp, State.withQueues, hq, hw, Nat.not_le.mpr hroom, if_false]
  refine served_give hx hi qOK rel.slices (rel.ctx c x) (hu.tput q (e := e.put w) unheld) ?_
  rw [← op]
  exact .refl _

end

section
variable {e : SliceQueue} {b : Nat × Nat × Nat} {l : List (Nat × Nat × Nat)} (hq : tget s.sliceQueues q = some e) (hw : e.waiters = b :: l)
  (hne : (b.1, b.2.1) ≠ (c, x))
include hq hw hne

omit hne in
theorem enq_hands_slices : (s.queueServed c x .enq w entry q o).sliceQueues = tput s.sliceQueues q { e with waiters := l } := by
  rw [queueServed_plain (f := .enq) nofun nofun, queueEnd_slices, queueOp_enq_waiter hq hw]
  exact (answerEntry_slices ..).trans (keepsQueues_publish ..).slices

/-- A value handed to the oldest waiter. -/
theorem enq_hands (hx : x < 4) (hi : ((s.ctx c x).dropOp o.id).innerReady = none) (hu : Unparked s.sliceQueues c x entry) :
    Served (s.queueServed c x .enq w entry q o) c x (((s.ctx c x).dropOp o.id).fillLqs entry 0) (tput s.sliceQueues q { e with waiters := l }) := by
  have rel := keepsQueues_publish (s.withQueues (tput s.sliceQueues q { e with waiters := l })) c 2
  have op := queueOp_enq_waiter (c := c) (x := x) (entry := entry) (w := w) hq hw
  have rest : (c, x, entry) ∉ l := fun g => hu.of_tget hq (hw ▸ List.mem_cons_of_mem b g)
  refine served_give (t := ((s.withQueues (tput s.sliceQueues q { e with waiters := l })).publish c 2).answer b qOK w) hx hi qOK
    ((answerEntry_slices ..).trans rel.slices) ((answerEntry_ctx_ne _ _ _ _ hne.symm).trans (rel.ctx c x))
    (hu.tput q (e := { e with waiters := l }) rest) ?_
  rw [← op]
  exact .refl _

theorem enq_wakes (hy : b.2.1 < 4) (hi : ((s.ctx b.1 b.2.1).answered b.2.2 0 w).innerReady = none) :
    (s.queueServed c x .enq w entry q o).ctx b.1 b.2.1 = (s.ctx b.1 b.2.1).answered b.2.2 0 w := by
  have kept := (keepsQueues_publish (s.withQueues (tput s.sliceQueues q { e with waiters := l })) c 2).ctx b.1 b.2.1
  have op := queueOp_enq_waiter (c := c) (x := x) (entry := entry) (w := w) hq hw
  rw [queueServed_plain (f := .enq) nofun nofun, queueEnd_ctx_ne _ entry o.id hne, op, ctx_modCtx_ne _ _ hne]
  refine (answerEntry_ctx_self _ b.2.2 qOK w hy ?_).trans ?_
  · rw [kept]; exact hi
  · rw [kept]; rfl

end

/-! `qdeq`, `qdeqw` and `qlen` (R83, R85, R235) -/

section
variable (hx : x < 4) (hi : ((s.ctx c x).dropOp o.id).innerReady = none) (hu : Unparked s.sliceQueues c x entry)
include hx hi hu

theorem deq_missing (hq : tget s.sliceQueues q = none) : Served (s.queueServed c x .deq w entry q o) c x
    ((((s.ctx c x).dropOp o.id).fillLqs entry 4).fillLqs (entry + 1) 0) s.sliceQueues := by
  have op : s.queueOp c x .deq w entry q = s.modCtx c x (fun y => (y.fillLqs entry qNOQ).fillLqs (entry + 1) 0) := by simp only [State.queueOp, hq]
  rw [queueServed_plain (f := .deq) nofun nofun, op]
  exact served_give2 hx hi qNOQ 0 rfl rfl hu

theorem deq_empty {e : SliceQueue} (hq : tget s.sliceQueues q = some e) (he : e.items = []) : Served (s.queueServed c x .deq w entry q o) c x
    ((((s.ctx c x).dropOp o.id).fillLqs entry 1).fillLqs (entry + 1) 0) s.sliceQueues := by
  have op : s.queueOp c x .deq w entry q = s.modCtx c x (fun y => (y.fillLqs entry qEMPTY).fillLqs (entry + 1) 0) := by simp only [State.queueOp, hq, he]
  rw [queueServed_plain (f := .deq) nofun nofun, op]
  exact served_give2 hx hi qEMPTY 0 rfl rfl hu

theorem deq_takes {e : SliceQueue} {a : W64} {l : List W64} (hq : tget s.sliceQueues q = some e) (he : e.items = a :: l) :
    Served (s.queueServed c x .deq w entry q o) c x ((((s.ctx c x).dropOp o.id).fillLqs entry 0).fillLqs (entry + 1) a)
      (tput s.sliceQueues q { e with items := l }) := by
  have unheld : (c, x, entry) ∉ e.waiters := hu.of_tget hq
  have acq := keepsQueues_acquire (s.withQueues (tput s.sliceQueues q { e with items := l })) c 2
  have op : s.queueOp c x .deq w entry q = ((s.withQueues (tput s.sliceQueues q { e with items := l })).acquire c 2).modCtx c x
      (fun y => (y.fillLqs entry qOK).fillLqs (entry + 1) a) := by
    simp only [State.queueOp, State.withQueues, hq, he]
  rw [queueServed_plain (f := .deq) nofun nofun, op]
  exact served_give2 hx hi qOK a acq.slices (acq.ctx c x) (hu.tput q (e := { e with items := l }) unheld)

theorem len_counts : Served (s.queueServed c x .len w entry q o) c x (((s.ctx c x).dropOp o.id).fillLqs entry
    (((tget s.sliceQueues q).map (fun (e : SliceQueue) => BitVec.ofNat 64 e.items.length)).getD (BitVec.allOnes 64))) s.sliceQueues := by
  have op : s.queueOp c x .len w entry q = s.modCtx c x (fun y => y.fillLqs entry
      (((tget s.sliceQueues q).map (fun (e : SliceQueue) => BitVec.ofNat 64 e.items.length)).getD (BitVec.allOnes 64))) := by
    cases hq : tget s.sliceQueues q with
    | none => simp only [State.queueOp, hq]; rfl
    | some e => simp only [State.queueOp, hq]; rfl
  refine served_give hx hi _ rfl rfl hu ?_
  rw [← op]
  exact keepsQueues_rmwAcquire ..

variable (hr : (s.ctx c x).ops.filter (fun (p : MemOp) => p.kind != .queue .deqw 0 entry) = ((s.ctx c x).dropOp o.id).ops)
include hr

theorem deqw_missing (hq : tget s.sliceQueues q = none) : Served (s.queueServed c x .deqw w entry q o) c x
    { (((s.ctx c x).dropOp o.id).fillLqs entry 4).fillLqs (entry + 1) 0 with
      parks := ((s.ctx c x).dropOp o.id).parks.filter (fun p => p.2 != entry) } s.sliceQueues := by
  have op : s.queueOp c x .deqw w entry q = s.answerEntry c x entry qNOQ 0 := by simp only [State.queueOp, hq]
  rw [queueServed_plain (f := .deqw) nofun nofun, op]
  exact deqw_answered hx hi qNOQ 0 hr rfl rfl hu

theorem deqw_takes {e : SliceQueue} {a : W64} {l : List W64} (hq : tget s.sliceQueues q = some e) (he : e.items = a :: l) :
    Served (s.queueServed c x .deqw w entry q o) c x
      { (((s.ctx c x).dropOp o.id).fillLqs entry 0).fillLqs (entry + 1) a with
        parks := ((s.ctx c x).dropOp o.id).parks.filter (fun p => p.2 != entry) } (tput s.sliceQueues q { e with items := l }) := by
  have unheld : (c, x, entry) ∉ e.waiters := hu.of_tget hq
  have op : s.queueOp c x .deqw w entry q =
      (s.withQueues (tput s.sliceQueues q { e with items := l })).answerEntry c x entry qOK a := by simp only [State.queueOp, State.withQueues, hq, he]
  rw [queueServed_plain (f := .deqw) nofun nofun, op]
  exact deqw_answered (t := (s.withQueues (tput s.sliceQueues q { e with items := l }))) hx hi qOK a hr rfl rfl
    (hu.tput q (e := { e with items := l }) unheld)

end

/-- A `qdeqw` on an empty queue joins its waiters and stays among its context's accesses. -/
theorem deqw_waits {e : SliceQueue} (hq : tget s.sliceQueues q = some e) (he : e.items = []) :
    Served (s.queueServed c x .deqw w entry q o) c x (s.ctx c x) (tput s.sliceQueues q { e with waiters := e.waiters ++ [(c, x, entry)] }) := by
  have op : s.queueOp c x .deqw w entry q =
      (s.withQueues (tput s.sliceQueues q { e with waiters := e.waiters ++ [(c, x, entry)] })) := by
    simp only [State.queueOp, State.withQueues, hq, he]
  have waits : (s.withQueues (tput s.sliceQueues q { e with waiters := e.waiters ++ [(c, x, entry)] })).parkedAt c x entry = true :=
    List.any_eq_true.mpr ⟨_, mem_of_tget (tget_tput_self ..), by simp⟩
  rw [queueServed_plain (f := .deqw) nofun nofun, op, State.queueEnd, if_pos waits]
  exact ⟨rfl, rfl⟩

end

/-! ### The event (R234) -/

section
variable {s : State} {c x k q j entry : Nat} {o : MemOp} {f : QueueOp} {w : W64} {r : List (Nat × Nat)}
  (h : (s.ctx c x).opReady k = some o) (hk : o.kind = .queue f w entry) (hb : o.bytes = (q, j) :: r)
include h hk hb

theorem sliceQueueOp_parked (hp : s.parkedAt c x entry = true) : s.sliceQueueOp c x k = s := by
  simp only [State.sliceQueueOp, h, hk, hb, hp, if_true]

theorem sliceQueueOp_served (hp : s.parkedAt c x entry = false) (hl : (s.queueBytes f q).find? s.isLost = none) :
    s.sliceQueueOp c x k = s.queueServed c x f w entry q o := by
  simp only [State.sliceQueueOp, h, hk, hb, hp, hl, Bool.false_eq_true, if_false]
  rfl

/-- An operation that finds its queue's state, or its place in the ring, lost is not performed (log entry 14). -/
theorem sliceQueueOp_lost {pa : Nat} (hx : x < 4) (hp : s.parkedAt c x entry = false) (hl : (s.queueBytes f q).find? s.isLost = some pa)
    (hi : ((s.ctx c x).dropOp o.id).innerReady = none) :
    let v := (s.ctx c x).dropOp o.id
    (s.sliceQueueOp c x k).sliceQueues = s.sliceQueues ∧ (s.sliceQueueOp c x k).ctx c x =
      { (if f = .deqw ∨ f = .deq then (v.loseEntry entry 0 (o.va + (pa - q)) pa).loseEntry (entry + 1) 0 (o.va + (pa - q)) pa
        else v.loseEntry entry 0 (o.va + (pa - q)) pa) with
        parks := v.parks.filter (fun p => p.2 != entry) } := by
  intro v
  simp only [State.sliceQueueOp, h, hk, hb, hp, hl, Bool.false_eq_true, if_false]
  refine ⟨opDone_slices .., ?_⟩
  split
  · rw [opDone_eq _ _ _ _ _ hx (innerReady_dropOp hi rfl)]
    exact State.ctx_putCtx_self _ _ _ _ hx
  · rw [opDone_eq _ _ _ _ _ hx (innerReady_dropOp hi rfl)]
    exact State.ctx_putCtx_self _ _ _ _ hx

end

section
variable {s : State} {c x entry q : Nat} {w : W64} {o : MemOp} (hx : x < 4) (hi : ((s.ctx c x).dropOp o.id).innerReady = none)
  (hu : Unparked s.sliceQueues c x entry)
include hx hi hu

theorem init_only : OnlyQueue s.sliceQueues (s.queueServed c x .init w entry q o).sliceQueues q := by
  by_cases hok : w = 0 ∨ capOk w.toNat = true
  · cases hq : tget s.sliceQueues q with
    | some e => rw [init_slices hq hok]; exact .initQueues _ q w e
    | none =>
      obtain rfl | hcap := hok
      · rw [(init_missing hx hi hu hq).slices]; exact .refl _ q
      · by_cases hfull : 64 ≤ s.queuesOf q
        · rw [(init_full hx hi hu hcap hq hfull).slices]; exact .refl _ q
        · rw [(init_made hx hi hu hcap hq hfull).slices]; exact .tput _ q _
  · obtain ⟨hw, hcap⟩ := not_or.mp hok
    rw [(init_bad hx hi hu hw (by simpa using hcap)).slices]; exact .refl _ q

theorem enq_only : OnlyQueue s.sliceQueues (s.queueServed c x .enq w entry q o).sliceQueues q := by
  cases hq : tget s.sliceQueues q with
  | none => rw [(enq_missing hx hi hu hq).slices]; exact .refl _ q
  | some e =>
    cases hw : e.waiters with
    | cons b l => rw [enq_hands_slices hq hw]; exact .tput _ q _
    | nil =>
      by_cases hroom : e.items.length < e.cap
      · rw [(enq_appends hx hi hu hq hw hroom).slices]; exact .tput _ q _
      · rw [(enq_full hx hi hu hq hw (Nat.le_of_not_lt hroom)).slices]; exact .refl _ q

theorem deq_only : OnlyQueue s.sliceQueues (s.queueServed c x .deq w entry q o).sliceQueues q := by
  cases hq : tget s.sliceQueues q with
  | none => rw [(deq_missing hx hi hu hq).slices]; exact .refl _ q
  | some e =>
    cases he : e.items with
    | nil => rw [(deq_empty hx hi hu hq he).slices]; exact .refl _ q
    | cons a l => rw [(deq_takes hx hi hu hq he).slices]; exact .tput _ q _

theorem deqw_only (hr : (s.ctx c x).ops.filter (fun (p : MemOp) => p.kind != .queue .deqw 0 entry) = ((s.ctx c x).dropOp o.id).ops) :
    OnlyQueue s.sliceQueues (s.queueServed c x .deqw w entry q o).sliceQueues q := by
  cases hq : tget s.sliceQueues q with
  | none => rw [(deqw_missing hx hi hu hr hq).slices]; exact .refl _ q
  | some e =>
    cases he : e.items with
    | nil => rw [(deqw_waits hq he).slices]; exact .tput _ q _
    | cons a l => rw [(deqw_takes hx hi hu hr hq he).slices]; exact .tput _ q _

/-- No operation changes another queue. -/
theorem queueServed_only {f : QueueOp}
    (hr : f = .deqw → (s.ctx c x).ops.filter (fun (p : MemOp) => p.kind != .queue .deqw 0 entry) = ((s.ctx c x).dropOp o.id).ops) :
    OnlyQueue s.sliceQueues (s.queueServed c x f w entry q o).sliceQueues q := by
  cases f with
  | init => exact init_only hx hi hu
  | enq => exact enq_only hx hi hu
  | deq => exact deq_only hx hi hu
  | deqw => exact deqw_only hx hi hu (hr rfl)
  | len => rw [(len_counts hx hi hu).slices]; exact .refl _ q

end

/-- Settles O39: each operation is served as its own lemma states, and its queue's waiters are answered in their own contexts. -/
theorem sliceQueueEvents : Obligations.SliceQueueEvents := by
  unfold Obligations.SliceQueueEvents
  intro s c x k q j entry o f w r hp hx h hk hb v old rest others settled full
  have event : exec (.sliceQueueOp c x k) s = .next (s.sliceQueueOp c x k).tick := happen_eq (fun s => s.sliceQueueOp c x k) hp
  refine ⟨⟨_, event⟩, fun hpark => by rw [event, sliceQueueOp_parked h hk hb hpark], fun pa hpark hl hi => ?_, ?_⟩
  · obtain ⟨h1, h2⟩ := sliceQueueOp_lost h hk hb hx hpark hl hi
    exact ⟨_, event, h1, h2⟩
  intro t hpark hall hi hr ht
  rw [event, sliceQueueOp_served h hk hb hpark (find?_isLost_of_all hall)] at ht
  have end_eq := Host.Outcome.next.inj ht
  have slices : t.sliceQueues = (s.queueServed c x f w entry q o).sliceQueues := by rw [← end_eq]; rfl
  have ctx (a y : Nat) : t.ctx a y = (s.queueServed c x f w entry q o).ctx a y := by rw [← end_eq]; rfl
  clear end_eq ht event h hk hb
  have hu := parkedAt_eq_false.mp hpark
  have served {z : Ctx} {R : Table SliceQueue} (g : Served (s.queueServed c x f w entry q o) c x z R) : t.ctx c x = z ∧ t.sliceQueues = R :=
    ⟨(ctx c x).trans g.ctx, slices.trans g.slices⟩
  have servedAt {z : Ctx} {e : SliceQueue} (g : Served (s.queueServed c x f w entry q o) c x z (tput s.sliceQueues q e)) :
      t.ctx c x = z ∧ tget t.sliceQueues q = some e := by
    obtain ⟨h1, h2⟩ := served g
    exact ⟨h1, by rw [h2, tget_tput_self]⟩
  refine ⟨fun n hn => by rw [slices]; exact queueServed_only hx hi hu hr n hn, ?_, ?_, ?_, ?_, ?_, ?_, ?_, ?_, ?_, ?_, ?_, ?_, ?_, ?_, ?_, ?_⟩
  · rintro rfl rfl
    refine ⟨fun e he => ⟨?_, fun hothers => ?_⟩, fun hq => served (init_missing hx hi hu hq)⟩
    · rw [slices, init_slices he (.inl rfl), initQueues, if_pos rfl]
    · rw [ctx, init_emptied he (.inl rfl) hx hi hu hothers]
  · rintro rfl hw hcap
    exact served (init_bad hx hi hu hw hcap)
  · rintro rfl hcap hq hfull
    exact served (init_full hx hi hu hcap hq (by simpa [full] using hfull))
  · rintro rfl hcap hq
    cases he : old with
    | none =>
      have hroom : full = false := by simpa [he] using hq
      obtain ⟨h1, h2⟩ := servedAt (init_made hx hi hu hcap he (by simpa [full] using hroom))
      exact ⟨h2, fun _ => h1⟩
    | some e =>
      refine ⟨?_, fun hothers => ?_⟩
      · rw [slices, init_slices he (.inr hcap), initQueues, if_neg (ne_zero_of_capOk hcap), tget_tput_self]
        rfl
      · rw [ctx, init_emptied he (.inr hcap) hx hi hu (hothers e rfl)]
  · rintro e a y n rfl hok he nodup hin hothers hsettled alone hy
    rw [ctx, init_wakes he hok hy nodup hin (hothers _ hin) alone (hsettled _ hin _ rfl)]
    rfl
  · rintro rfl hq
    exact (served (enq_missing hx hi hu hq)).1
  · rintro e rfl he hw hfull
    exact served (enq_full hx hi hu he hw hfull)
  · rintro e rfl he hw hroom
    exact servedAt (enq_appends hx hi hu he hw hroom)
  · rintro e a y n l rfl he hw hothers hsettled hy
    have hin : (a, y, n) ∈ e.waiters := hw ▸ List.mem_cons_self
    have hne := hothers _ hin
    obtain ⟨h1, h2⟩ := servedAt (enq_hands he hw hne hx hi hu)
    refine ⟨h1, h2, ?_⟩
    rw [ctx, enq_wakes he hw hne hy (hsettled _ hin _ rfl)]
    rfl
  · rintro rfl hq
    exact (served (deq_missing hx hi hu hq)).1
  · rintro e rfl he hitems
    exact served (deq_empty hx hi hu he hitems)
  · rintro e a l rfl he hitems
    exact servedAt (deq_takes hx hi hu he hitems)
  · rintro rfl hq
    exact (served (deqw_missing hx hi hu (hr rfl) hq)).1
  · rintro e rfl he hitems
    exact servedAt (deqw_waits he hitems)
  · rintro e a l rfl he hitems
    exact servedAt (deqw_takes hx hi hu (hr rfl) he hitems)
  · rintro rfl
    exact (served (len_counts hx hi hu)).symm

end Sys2Proof.Machine
